-- ==== Sys2Proof/Word.lean ====
section
/-! DEFINITION. The words of the machine: the widths the spec gives its registers and memory units (R14, R42). -/

namespace Sys2Proof

/-- A byte of memory. -/
abbrev Byte := BitVec 8
/-- A 16-bit value: a compact form (R18), an f16 or bf16 (R43). -/
abbrev Half := BitVec 16
/-- A 32-bit value: one lane of a v register, a mask (R14). -/
abbrev Word := BitVec 32
/-- A 64-bit value: a uniform register, the cycle counter (R2, R14). -/
abbrev DWord := BitVec 64

/-- The bits of `n` from `lo` upward, `len` of them. -/
def bitsOf (n lo len : Nat) : Nat := n / 2 ^ lo % 2 ^ len

/-- Bit `i` of `n`, as a Bool. -/
def bitAt (n i : Nat) : Bool := n / 2 ^ i % 2 == 1

/-- The bits [hi:lo] of a bit vector as a number. -/
def fld {w : Nat} (x : BitVec w) (lo len : Nat) : Nat := bitsOf x.toNat lo len

end Sys2Proof
end

