-- ==== Sys2Proof/Config.lean ====
section
/-! DEFINITION. What the module fixes (R4, R99, R293, R360) and the free values: what the spec leaves open, as constants without a body. -/

namespace Sys2Proof.Config

/-! ## Free values. Nothing constrains them; the model applies them to a counter of State or to operands. -/

/-- A 32-bit value the spec leaves unspecified (R28, R101, R250); log entry 5. -/
opaque freeWord : Nat → Word
/-- A byte the spec leaves unspecified (R101, R180, R322); log entry 5. -/
opaque freeByte : Nat → Byte
/-- Which of the values within the bound of R69 a transcendental delivers: function number and operand; log entry 9. -/
opaque ulpChoice : Nat → Word → Nat
/-- The signature bytes of an attestation report (R365), from its contents; log entry 10. -/
opaque reportSignature : List Nat → BitVec 512

/-- The landing slice of a line by its number; the spec gives no map of addresses to slices (R98, R209); log entry 15. -/
opaque landingSlice : Nat → Fin 128
/-- Which of a full buffer's lines drains (R103); log entry 85. -/
opaque drainChoice : Nat → Fin 4
/-- Which line a full L2 writes home to make room for a dirty one (R98); log entry 87. -/
opaque evictChoice : Nat → Nat
/-- How many of the entries that an engine's access may be swapped before it passes (R196); log entry 14. -/
opaque enginePasses : Nat → Nat
/-- Whether a die's caches hold a copy of a line, by die and line (R349); log entry 87. -/
opaque holdsCopy : Nat → Nat → Bool
/-- Whether a cache with no free delta line gives one up for another region (R215); log entry 86. -/
opaque givesUpLine : Nat → Bool
/-- Which of the remaining parts of a map the amplitude engine writes next, by an index of its own (R249). -/
opaque mapPart : Nat → Fin 3

/-! ## Organisation (R4) -/

/-- base dies, and the landing slices of each -/
def baseDies : Nat := 2
def slicesPerBaseDie : Nat := 64
/-- regions with a bound that one base die holds (R209) -/
def boundedRegions : Nat := 1048576
/-- bytes of an L1, an instruction cache, a die's L2 and its shadow context storage, and walks in progress on a die at once: no
value that a program can read depends on them (log entry 87) -/
def l1Bytes : Nat := 65536
def icacheBytes : Nat := 32768
def l2Bytes : Nat := 100663296
/-- 128-byte lines of an L2 (R98) -/
def l2Lines : Nat := 786432
def shadowBytes : Nat := 27262976
def walksPerDie : Nat := 256
/-- entries of an L1 and of an L2 TLB (R308) -/
def l1TlbEntries : Nat := 128
def l2TlbEntries : Nat := 16384

def dieCount : Nat := 8
def clustersPerDie : Nat := 10
def coresPerCluster : Nat := 4
def coreCount : Nat := 320
def slotsPerCore : Nat := 4
def groupsPerSlot : Nat := 16
/-- bytes of one slot's register bank (R17) -/
def bankBytes : Nat := 65536
/-- bytes of a core pad (R17) -/
def corePadBytes : Nat := 262144
/-- accumulator tiles of a core (R17) -/
def coreTiles : Nat := 16

/-- GiB of L3 (R4, cap.mem). -/
def l3GiB : Nat := 24

/-! ## Local physical addresses (R99) -/

def hbmEnd : Nat := 0x80_0000_0000
def apertureBase : Nat := 0x2000_0000_0000
def apertureEnd : Nat := 0x3000_0000_0000
def apertureSize : Nat := 0x100_0000_0000
def diePadBase : Nat := 0x3E00_0000_0000
def diePadSize : Nat := 0x200_0000
def endpointBase : Nat := 0x3F00_0000_0000
def endpointEnd : Nat := 0x4000_0000_0000
/-- message port and host mailbox windows (R256) -/
def messagePortBase : Nat := 0x3F00_0400_0000
def mailboxBase : Nat := 0x3F00_0800_0000

/-! ## Times in cycles of the module counter -/

/-- the link timeout of R182, R247, R260, R269 and R355 -/
def linkTimeout : Nat := 110000
/-- the limit after which a packet is never applied, or an open packet is discarded (R255, R258) -/
def packetLimit : Nat := 220000
/-- a refused cache may ask again (R212) -/
def refusalCycles : Nat := 4096
/-- the result of a division is written after so many cycles (R62) -/
def divisionCycles : Nat := 32
/-- the governor's period (R328) -/
def governorPeriod : Nat := 4096
/-- a change of operating point takes effect within 20 µs (R360) -/
def pointChangeCycles : Nat := 22000
/-- the wake latency of a sub-array (R187, cap.mx.wake) -/
def wakeCycles : Nat := 96

/-- MHz and mV of an operating point (R360). -/
def operatingPoint : Nat → Nat × Nat
  | 7 => (1100, 650) | 6 => (1000, 625) | 5 => (900, 600) | 4 => (750, 570)
  | 3 => (600, 545) | 2 => (450, 520) | 1 => (300, 500) | _ => (0, 450)

/-- cap.id: part code and revision. The spec gives no value; log entry 10. -/
opaque capId : BitVec 24

/-- The module's fuse word in an attestation report (R365); log entry 10. -/
opaque fuseWord : Nat

/-- Where in the memory of a host mailbox a packet comes to lie (log entry 107). -/
opaque mailPlace : Nat → Nat

end Sys2Proof.Config
end

