-- ==== Sys2Proof/Machine/Float.lean ====
section
/-! DEFINITION. IEEE arithmetic by exact values and one rounding (R43, R44, R51, R55, R65). Values are computed exactly as
signed multiples of powers of two and narrowed once at the end. -/

namespace Sys2Proof.Fp

/-- The five sticky flags in the order of fsr (R51): inexact 4, underflow 3, overflow 2, divide-by-zero 1, invalid 0. -/
abbrev Flags := BitVec 5

def invalid : Flags := 1
def divByZero : Flags := 2
def overflow : Flags := 4
def underflow : Flags := 8
def inexact : Flags := 16

/-- The rounding modes in the order of RM (R190) and of rnd.f32 (R37). -/
inductive Mode where
  | ne | tz | up | dn
  deriving DecidableEq, Repr

def Mode.ofCode : Nat → Mode
  | 0 => .ne | 1 => .tz | 2 => .up | _ => .dn

/-- An IEEE binary format (R43): exponent and mantissa bits. -/
structure Fmt where
  eb : Nat
  mb : Nat
  deriving DecidableEq, Repr

def f64 : Fmt := ⟨11, 52⟩
def f32 : Fmt := ⟨8, 23⟩
def f16 : Fmt := ⟨5, 10⟩
def bf16 : Fmt := ⟨8, 7⟩

def Fmt.bias (f : Fmt) : Nat := 2 ^ (f.eb - 1) - 1
def Fmt.expMax (f : Fmt) : Nat := 2 ^ f.eb - 1
/-- the weight of the last place of subnormals, as a power of two -/
def Fmt.qmin (f : Fmt) : Int := 1 - (f.bias : Int) - f.mb
def Fmt.signBit (f : Fmt) : Nat := 2 ^ (f.eb + f.mb)
/-- the canonical NaN (R43) -/
def Fmt.nan (f : Fmt) : Nat := f.expMax * 2 ^ f.mb + 2 ^ (f.mb - 1)
def Fmt.inf (f : Fmt) (s : Bool) : Nat := (if s then f.signBit else 0) + f.expMax * 2 ^ f.mb
def Fmt.maxFinite (f : Fmt) (s : Bool) : Nat := f.inf s - 1
def Fmt.zero (f : Fmt) (s : Bool) : Nat := if s then f.signBit else 0

/-- A decoded operand: a NaN (signalling or quiet), an infinity, or the finite value (−1)^s × m × 2^e. -/
inductive Val where
  | nan (signalling : Bool)
  | inf (s : Bool)
  | fin (s : Bool) (m : Nat) (e : Int)
  deriving DecidableEq, Repr

/-- The value of an encoding; subnormals at their value (R44 item 2). -/
def decode (f : Fmt) (x : Nat) : Val :=
  let s := x / f.signBit % 2 == 1
  let e := x / 2 ^ f.mb % 2 ^ f.eb
  let m := x % 2 ^ f.mb
  if e == f.expMax then
    if m == 0 then .inf s else .nan (m < 2 ^ (f.mb - 1))
  else if e == 0 then .fin s m f.qmin
  else .fin s (2 ^ f.mb + m) (f.qmin + (e - 1 : Nat))

/-- `m` shifted by `k` places: left for k ≥ 0. Only used where a right shift is exact or its rest is kept elsewhere. -/
def shl (m : Nat) (k : Int) : Nat := if 0 ≤ k then m * 2 ^ k.toNat else m / 2 ^ (-k).toNat

/-- Whether a magnitude n + rest is rounded up, where the rest is `rem / 2^sh` of a unit. -/
def roundUp (mode : Mode) (s : Bool) (n rem sh : Nat) : Bool :=
  match mode with
  | .ne => 2 * rem > 2 ^ sh || (2 * rem == 2 ^ sh && n % 2 == 1)
  | .tz => false
  | .up => rem != 0 && !s
  | .dn => rem != 0 && s

/-- The encoding of an overflow by mode (R44, R51). -/
def overflowed (f : Fmt) (mode : Mode) (s : Bool) : Nat :=
  match mode with
  | .ne => f.inf s
  | .tz => f.maxFinite s
  | .up => if s then f.maxFinite s else f.inf s
  | .dn => if s then f.inf s else f.maxFinite s

/-- Rounds (−1)^s × m × 2^e, m ≠ 0, once into the format, with the flags of R51. -/
def roundNonzero (f : Fmt) (mode : Mode) (s : Bool) (m : Nat) (e : Int) : Nat × Flags :=
  let top : Int := Nat.log2 m + e
  let q := max f.qmin (top - f.mb)
  let sh := (q - e).toNat
  let n0 := if q ≤ e then m * 2 ^ (e - q).toNat else m / 2 ^ sh
  let rem := if q ≤ e then 0 else m % 2 ^ sh
  let n := if roundUp mode s n0 rem sh then n0 + 1 else n0
  let sign := f.zero s
  let ix : Flags := if rem != 0 then inexact else 0
  -- n × 2^q with n ≤ 2^(mb+1); the encodings are contiguous, so a carry moves into the exponent field
  let enc := if n < 2 ^ f.mb then n else (q - f.qmin).toNat * 2 ^ f.mb + n
  if f.expMax * 2 ^ f.mb ≤ enc then (overflowed f mode s, overflow ||| inexact)
  else (sign + enc, ix ||| (if rem != 0 && enc < 2 ^ f.mb then underflow else 0))

/-- Rounds an exact finite value; `zs` is the sign of an exact zero. -/
def roundFin (f : Fmt) (mode : Mode) (s : Bool) (m : Nat) (e : Int) (zs : Bool) : Nat × Flags :=
  if m == 0 then (f.zero zs, 0) else roundNonzero f mode s m e

/-- Rounds a decoded value into a format (R55); a signalling NaN raises invalid. -/
def roundVal (f : Fmt) (mode : Mode) : Val → Nat × Flags
  | .nan sg => (f.nan, if sg then invalid else 0)
  | .inf s => (f.inf s, 0)
  | .fin s m e => roundFin f mode s m e s

def isNan : Val → Bool | .nan _ => true | _ => false
def isSignalling : Val → Bool | .nan s => s | _ => false
def isZero : Val → Bool | .fin _ 0 _ => true | _ => false
def isInf : Val → Bool | .inf _ => true | _ => false
def sign : Val → Bool | .nan _ => false | .inf s => s | .fin s _ _ => s

/-- A signed value as an integer multiple of 2^e. -/
def toInt (s : Bool) (m : Nat) (e e0 : Int) : Int :=
  let k : Int := m * 2 ^ (e - e0).toNat
  if s then -k else k

def negV : Val → Val
  | .nan s => .nan s | .inf s => .inf (!s) | .fin s m e => .fin (!s) m e

/-- The invalid flag of a signalling operand (R44 item 3). -/
def sigFlags (vs : List Val) : Flags := if vs.any isSignalling then invalid else 0

/-- The exact sum of two finite values, as sign, magnitude, exponent; the sign of an exact zero follows R44 item 4. -/
def addExact (mode : Mode) (s1 : Bool) (m1 : Nat) (e1 : Int) (s2 : Bool) (m2 : Nat) (e2 : Int) : Bool × Nat × Int :=
  let e0 := min e1 e2
  let t := toInt s1 m1 e1 e0 + toInt s2 m2 e2 e0
  if t == 0 then ((if s1 == s2 then s1 else mode == .dn), 0, e0)
  else (t < 0, t.natAbs, e0)

/-- a + b (R65). -/
def addV (f : Fmt) (mode : Mode) (a b : Val) : Nat × Flags :=
  match a, b with
  | .inf s, .inf t => if s == t then (f.inf s, 0) else (f.nan, invalid)
  | .nan _, _ | _, .nan _ => (f.nan, sigFlags [a, b])
  | .inf s, .fin .. => (f.inf s, 0)
  | .fin .., .inf s => (f.inf s, 0)
  | .fin s1 m1 e1, .fin s2 m2 e2 =>
    let r := addExact mode s1 m1 e1 s2 m2 e2
    roundFin f mode r.1 r.2.1 r.2.2 r.1

/-- The exact product as a value; 0 × ∞ is the quiet NaN, with invalid told apart by `mulInvalid`. -/
def mulExact (a b : Val) : Val :=
  match a, b with
  | .nan _, _ | _, .nan _ => .nan false
  | .inf s, v | v, .inf s => if isZero v then .nan false else .inf (s != sign v)
  | .fin s1 m1 e1, .fin s2 m2 e2 => .fin (s1 != s2) (m1 * m2) (e1 + e2)

/-- 0 × ∞ (R51). -/
def mulInvalid (a b : Val) : Bool := (isZero a && isInf b) || (isInf a && isZero b)

/-- a × b (R65). -/
def mulV (f : Fmt) (mode : Mode) (a b : Val) : Nat × Flags :=
  let fl : Flags := sigFlags [a, b] ||| (if mulInvalid a b then invalid else 0)
  let r := roundVal f mode (mulExact a b)
  (r.1, r.2 ||| fl)

/-- a × b + c with the product unrounded (R65); 0 × ∞ is invalid even with a quiet NaN addend. -/
def fmaV (f : Fmt) (mode : Mode) (a b c : Val) : Nat × Flags :=
  let fl : Flags := sigFlags [a, b, c] ||| (if mulInvalid a b then invalid else 0)
  match mulExact a b with
  | .nan _ => (f.nan, fl)
  | p =>
    if isNan c then (f.nan, fl)
    else
      let r := addV f mode p c
      (r.1, r.2 ||| fl)

/-- The exact order of two values that are no NaN: a < b. −0 and +0 are equal. -/
def ltV : Val → Val → Bool
  | .inf s, .inf t => s && !t
  | .inf s, .fin .. => s
  | .fin .., .inf t => !t
  | .fin s1 m1 e1, .fin s2 m2 e2 =>
    let e0 := min e1 e2
    toInt s1 m1 e1 e0 < toInt s2 m2 e2 e0
  | _, _ => false

def eqV (a b : Val) : Bool := !isNan a && !isNan b && !ltV a b && !ltV b a

/-- minimumNumber and maximumNumber with −0 below +0 (R44 item 5, R65): the encodings of the operands are delivered. -/
def minMax (f : Fmt) (wantMax : Bool) (x y : Nat) : Nat × Flags :=
  let a := decode f x
  let b := decode f y
  let fl := sigFlags [a, b]
  if isNan a && isNan b then (f.nan, fl)
  else if isNan a then (y, fl)
  else if isNan b then (x, fl)
  else
    let aLess := ltV a b || (eqV a b && sign a && !sign b)
    (if aLess == wantMax then y else x, fl)

/-- The value of larger magnitude, the first on a tie; a NaN gives the other (R191). -/
def absMax (f : Fmt) (x y : Nat) : Nat :=
  let a := decode f x
  let b := decode f y
  if isNan a && isNan b then f.nan
  else if isNan a then y
  else if isNan b then x
  else
    let mag : Val → Val := fun v => if sign v then negV v else v
    if ltV (mag a) (mag b) then y else x

/-! ## Roots and reciprocals -/

/-- The integer square root, by its bits from `k` downward. -/
def isqrtFrom (n : Nat) : Nat → Nat → Nat
  | 0, r => if (r + 1) * (r + 1) ≤ n then r + 1 else r
  | k + 1, r =>
    let r' := r + 2 ^ (k + 1)
    isqrtFrom n k (if r' * r' ≤ n then r' else r)

def isqrt (n : Nat) : Nat := isqrtFrom n (Nat.log2 n / 2 + 1) 0

/-- 1 / a, correctly rounded, with divide-by-zero for ±0 (R69). -/
def rcp (f : Fmt) (x : Nat) : Nat × Flags :=
  match decode f x with
  | .nan sg => (f.nan, if sg then invalid else 0)
  | .inf s => (f.zero s, 0)
  | .fin s m e =>
    if m == 0 then (f.inf s, divByZero)
    else
      let sh := Nat.log2 m + f.mb + 4
      let n := 2 ^ sh / m
      let sticky := if 2 ^ sh % m == 0 then 0 else 1
      roundFin f .ne s (2 * n + sticky) (-(sh : Int) - e - 1) s

/-- √a, correctly rounded (R69). -/
def sqrt (f : Fmt) (x : Nat) : Nat × Flags :=
  match decode f x with
  | .nan sg => (f.nan, if sg then invalid else 0)
  | .inf s => if s then (f.nan, invalid) else (f.inf false, 0)
  | .fin s m e =>
    if m == 0 then (f.zero s, 0)
    else if s then (f.nan, invalid)
    else
      let t0 := 2 * f.mb + 8
      let t := if (e - t0) % 2 == 0 then t0 else t0 + 1
      let m' := m * 2 ^ t
      let r := isqrt m'
      let sticky := if r * r == m' then 0 else 1
      roundFin f .ne false (2 * r + sticky) ((e - t) / 2 - 1) false

/-! ## Integers and integral values -/

/-- The integer part toward zero, and whether a fraction was discarded. -/
def trunc (s : Bool) (m : Nat) (e : Int) : Int × Bool :=
  let k : Nat := if 0 ≤ e then m * 2 ^ e.toNat else m / 2 ^ (-e).toNat
  let rest := if 0 ≤ e then false else m % 2 ^ (-e).toNat != 0
  (if s then -(k : Int) else k, rest)

/-- rnd.f32 (R70): ±0, ±∞ and integral values unchanged, no flag but invalid for a signalling NaN. -/
def roundIntegral (f : Fmt) (mode : Mode) (x : Nat) : Nat × Flags :=
  match decode f x with
  | .nan sg => (f.nan, if sg then invalid else 0)
  | .inf s => (f.inf s, 0)
  | .fin s m e =>
    if 0 ≤ e then (x, 0)
    else
      let sh := (-e).toNat
      let n0 := m / 2 ^ sh
      let rem := m % 2 ^ sh
      if rem == 0 then (x, 0)
      else
        let n := if roundUp mode s n0 rem sh then n0 + 1 else n0
        ((roundFin f .ne s n 0 s).1, 0)

/-- An integer rounded to nearest even (R55). -/
def ofInt (f : Fmt) (i : Int) : Nat × Flags := roundFin f .ne (i < 0) i.natAbs 0 false

/-! ## The 32-bit, 64-bit and packed lane forms -/

/-- A binary operation of one format. -/
abbrev Bin := Nat → Nat → Nat × Flags

def add (f : Fmt) (mode : Mode := .ne) : Bin := fun x y => addV f mode (decode f x) (decode f y)
def sub (f : Fmt) (mode : Mode := .ne) : Bin := fun x y => addV f mode (decode f x) (negV (decode f y))
def mul (f : Fmt) (mode : Mode := .ne) : Bin := fun x y => mulV f mode (decode f x) (decode f y)
def fma (f : Fmt) (x y z : Nat) : Nat × Flags := fmaV f .ne (decode f x) (decode f y) (decode f z)

/-- Both halves of a packed pair, each on its own; the flags are ORed (R43). -/
def packed2 (op : Bin) (x y : Word) : Word × Flags :=
  let lo := op (x.toNat % 65536) (y.toNat % 65536)
  let hi := op (x.toNat / 65536) (y.toNat / 65536)
  (BitVec.ofNat 32 (hi.1 * 65536 + lo.1), lo.2 ||| hi.2)

def packed3 (op : Nat → Nat → Nat → Nat × Flags) (x y z : Word) : Word × Flags :=
  let lo := op (x.toNat % 65536) (y.toNat % 65536) (z.toNat % 65536)
  let hi := op (x.toNat / 65536) (y.toNat / 65536) (z.toNat / 65536)
  (BitVec.ofNat 32 (hi.1 * 65536 + lo.1), lo.2 ||| hi.2)

/-! ## Transcendental functions (R69)

Each result is a fixed function of the operand within the bound of its row. A reference value is computed to more than 40
relative bits; the delivered value is the neighbour that `Config.ulpChoice` picks, where it stays within the bound, and the
nearest value otherwise. -/

/-- Fractional bits of the fixed-point reference. -/
def P : Nat := 128
def one : Nat := 2 ^ P
/-- π × 2^128 and ln 2 × 2^128, truncated. -/
def piP : Nat := 0x3_243F6A88_85A308D3_13198A2E_03707344
def ln2P : Nat := 0xB17217F7_D1CF79AB_C9E3B398_03F2F6AF

/-- Σ t^k / k!, from term `term` of index `k` on, in fixed point. -/
def expSum (t : Nat) : Nat → Nat → Nat → Nat → Nat
  | 0, _, _, acc => acc
  | fuel + 1, k, term, acc =>
    let term' := term * t / one / k
    expSum t fuel (k + 1) term' (acc + term')

/-- e^t for 0 ≤ t < 1 in fixed point. -/
def expFix (t : Nat) : Nat := expSum t 40 1 one one

/-- Alternating odd Taylor terms of sin t. -/
def sinSum (t2 : Nat) : Nat → Nat → Nat → Int → Bool → Int
  | 0, _, _, acc, _ => acc
  | fuel + 1, k, term, acc, neg =>
    let term' := term * t2 / one / ((2 * k) * (2 * k + 1))
    sinSum t2 fuel (k + 1) term' (if neg then acc - term' else acc + term') (!neg)

/-- sin t for 0 ≤ t < 2 in fixed point. -/
def sinFix (t : Nat) : Nat := (sinSum (t * t / one) 24 1 t t true).toNat

/-- Σ z^(2k+1) / (2k+1): atanh z for 0 ≤ z ≤ 1/3 in fixed point. -/
def atanhSum (z2 : Nat) : Nat → Nat → Nat → Nat → Nat
  | 0, _, _, acc => acc
  | fuel + 1, k, pw, acc =>
    let pw' := pw * z2 / one
    atanhSum z2 fuel (k + 1) pw' (acc + pw' / (2 * k + 1))

/-- log2 of y = m / 2^k in [1, 2), in fixed point. -/
def log2Fix (m k : Nat) : Nat :=
  let z := (m - 2 ^ k) * one / (m + 2 ^ k)
  2 * atanhSum (z * z / one) 48 1 z z * one / ln2P

/-- An integer scaled by a power of two: the exact comparison |n × 2^q − r × 2^e| ≤ d × 2^e. -/
def within (n q r e d : Int) : Bool :=
  let e0 := min q e
  let a := n * 2 ^ (q - e0).toNat
  let b := r * 2 ^ (e - e0).toNat
  let c := d * 2 ^ (e - e0).toNat
  (a - b).natAbs ≤ c.natAbs

/-- Delivers an f32 for the inexact reference value r × 2^e (r ≠ 0, at least 45 bits), within `ulps` units of the last place
(or within 2^-22 when `absolute`), as `choice` picks. -/
def deliver (choice : Nat) (ulps : Nat) (absolute : Bool) (r e : Int) : Nat × Flags :=
  let m := r.natAbs
  let q := max f32.qmin (Nat.log2 m + e - 23)
  let sh := (q - e).toNat
  let n0 : Int := if q ≤ e then r * 2 ^ (e - q).toNat else (2 * r + 2 ^ sh) / 2 ^ (sh + 1)
  let k : Nat := if absolute then 2 ^ (-22 - q).toNat else ulps
  let cand : Int := n0 + (choice % (2 * k + 1) : Nat) - k
  let enc := fun (n : Int) => roundFin f32 .ne (n < 0) n.natAbs q (r < 0)
  -- the tolerance in units of 2^e, less a margin for the reference's own error
  let tol : Int := shl k (q - e) - (m / 2 ^ 40 + 1 : Nat)
  let c := enc cand
  let ok := match decode f32 c.1 with
    | .fin s mm ee => within (toInt s mm ee ee) ee r e tol
    | _ => false
  let bits := if ok then c.1 else (enc n0).1
  let tiny := bits % f32.signBit < 2 ^ 23
  (bits, inexact ||| (if tiny then underflow else 0))

/-- The parts common to the transcendental forms: NaN operands (R44). -/
def unaryNan (x : Nat) (f : Bool → Nat → Int → Nat × Flags) (atInf : Bool → Nat × Flags) : Nat × Flags :=
  match decode f32 x with
  | .nan sg => (f32.nan, if sg then invalid else 0)
  | .inf s => atInf s
  | .fin s m e => f s m e

def ch (fn : Nat) (x : Nat) : Nat := Config.ulpChoice fn (BitVec.ofNat 32 x)

/-- rsqrt.f32 (R69): exact for even powers of two, else within 1 ulp. -/
def rsqrt32 (x : Nat) : Nat × Flags :=
  unaryNan x (fun s m e =>
    if m == 0 then (f32.inf s, divByZero)
    else if s then (f32.nan, invalid)
    else
      -- m = odd × 2^k: a power of two with an even exponent has an exact result
      let top := Nat.log2 m
      if m == 2 ^ top && (top + e) % 2 == 0 then roundFin f32 .ne false 1 (-(top + e) / 2) false
      else
        let t : Nat := if e % 2 == 0 then 160 else 161
        let r := isqrt (2 ^ t / m)
        deliver (ch 0x013 x) 1 false r (-((t : Int) + e) / 2))
    (fun s => if s then (f32.nan, invalid) else (f32.zero false, 0))

/-- 2^(m / 2^k) with i + f = a: the reference of exp2 as r × 2^e. -/
def exp2Ref (a : Int) (k : Nat) : Int × Int :=
  let i := a / 2 ^ k
  let fr := (a % 2 ^ k).toNat
  let t := fr * ln2P / 2 ^ k
  ((expFix t : Int), i - P)

/-- exp2.f32 (R69). -/
def exp2f32 (x : Nat) : Nat × Flags :=
  unaryNan x (fun s m e =>
    let v := Val.fin s m e
    if !ltV v (.fin false 128 0) then (f32.inf false, overflow ||| inexact)
    else if ltV v (.fin true 200 0) then deliver (ch 0x015 x) 2 false 1 (-1000)
    else
      let t := trunc s m e
      if !t.2 && -149 ≤ t.1 then roundFin f32 .ne false 1 t.1 false
      else
        let k := (-e).toNat
        let a : Int := if 0 ≤ e then toInt s (m * 2 ^ e.toNat) 0 0 else toInt s m 0 0
        let r := exp2Ref a (if 0 ≤ e then 0 else k)
        deliver (ch 0x015 x) 2 false r.1 r.2)
    (fun s => (if s then f32.zero false else f32.inf false, 0))

/-- log2.f32 (R69). -/
def log2f32 (x : Nat) : Nat × Flags :=
  unaryNan x (fun s m e =>
    if m == 0 then (f32.inf true, divByZero)
    else if s then (f32.nan, invalid)
    else
      let top := Nat.log2 m
      let ex : Int := top + e
      if m == 2 ^ top then ofInt f32 ex
      else
        let r : Int := ex * one + log2Fix m top
        deliver (ch 0x016 x) 2 (ex == 0 || ex == -1) r (-(P : Int)))
    (fun s => if s then (f32.nan, invalid) else (f32.inf false, 0))

/-- sin(π m 2^e) for 0 < m 2^e < 1/2, as r × 2^e'. A small argument is taken as π a, whose relative error is below 2^-58. The
reference is kept below one, as the exact result is, so that a result next to ±1 is judged by the ulp below it. -/
def sinpiRef (m : Nat) (e : Int) : Int × Int :=
  if (Nat.log2 m : Int) + e < -30 then ((m * piP : Nat), e - P)
  else ((min (sinFix (shl (m * piP) e)) (one - 1) : Nat), -(P : Int))

/-- The place of |a| modulo 2, as numerator over 2^k. -/
def mod2 (m : Nat) (e : Int) : Nat × Nat :=
  if 0 ≤ e then (m * 2 ^ e.toNat % 2, 0) else (m % 2 ^ ((-e).toNat + 1), (-e).toNat)

/-- sin(π u / 2^k) for 0 ≤ u < 2^(k+1), where it is neither 0 nor ±1: sign and reference. -/
def sinpiTurn (u k : Nat) : Int × Int :=
  let half := 2 ^ k
  let neg := half ≤ u
  let u1 := if neg then u - half else u
  let u2 := if half < 2 * u1 then half - u1 else u1
  let r := sinpiRef u2 (-(k : Int))
  (if neg then -r.1 else r.1, r.2)

/-- sinpi.f32 (R69): integers give zero with the sign of a, half-integers ±1, exactly. -/
def sinpif32 (x : Nat) : Nat × Flags :=
  unaryNan x (fun s m e =>
    let u := mod2 m e
    if u.1 % 2 ^ u.2 == 0 then (f32.zero s, 0)
    else
      let flip := fun (n : Int) => if s then -n else n
      if 2 * (u.1 % 2 ^ u.2) == 2 ^ u.2 then
        ofInt f32 (flip (if u.1 < 2 ^ u.2 then 1 else -1))
      else
        let r := sinpiTurn u.1 u.2
        deliver (ch 0x017 x) 2 false (flip r.1) r.2)
    (fun _ => (f32.nan, invalid))

/-- cospi.f32 (R69): integers give ±1, half-integers +0, exactly. cos(π a) = sin(π (a + 1/2)). -/
def cospif32 (x : Nat) : Nat × Flags :=
  unaryNan x (fun _ m e =>
    let u0 := mod2 m e
    let u := (2 * u0.1, u0.2 + 1)
    let v := (u.1 + 2 ^ u.2 / 2) % (2 * 2 ^ u.2)
    if v % 2 ^ u.2 == 0 then (f32.zero false, 0)
    else if 2 * (v % 2 ^ u.2) == 2 ^ u.2 then ofInt f32 (if v < 2 ^ u.2 then 1 else -1)
    else
      let r := sinpiTurn v u.2
      deliver (ch 0x018 x) 2 false r.1 r.2)
    (fun _ => (f32.nan, invalid))

/-- `n` squarings in fixed point. -/
def squarings : Nat → Nat → Nat
  | 0, t => t
  | n + 1, t => squarings n (t * t / one)

/-- tanh.f32 (R69): (1 − e^(−2a)) / (1 + e^(−2a)); below 2^-30 the reference lies just below the operand, as the exact result does,
so that a power of two is judged by the ulp below it. -/
def tanhf32 (x : Nat) : Nat × Flags :=
  unaryNan x (fun s m e =>
    if m == 0 then (f32.zero s, 0)
    else
      let flip := fun (n : Int) => if s then -n else n
      if (Nat.log2 m : Int) + e < -30 then deliver (ch 0x019 x) 2 false (flip (m * 2 ^ 64 - 1 : Nat)) (e - 64)
      else if 5 ≤ (Nat.log2 m : Int) + e then deliver (ch 0x019 x) 2 false (flip (one - 1 : Nat)) (-(P : Int))
      else
        -- 2a / 64 < 1, then six squarings
        let t := shl (m * one) (e - 5)
        let ex := squarings 6 (one * one / expFix t)
        deliver (ch 0x019 x) 2 false (flip ((one - ex) * one / (one + ex) : Nat)) (-(P : Int)))
    (fun s => ofInt f32 (if s then -1 else 1))

end Sys2Proof.Fp
end

