-- ==== Sys2Proof/Machine/Flags.lean ====
section
/-! DEFINITION. The flag computations (R42 to R44, R51, R55) of the lane operations: each operation's value with the flags it
raises. Integer operations raise none (R42). -/

namespace Sys2Proof.Machine

open Sys2Proof.Fp

/-- A lane operation's result: the low or only word and the high word as one number, and the flags it raises. -/
abbrev Res := DWord × Flags

/-- A 32-bit result without flags. -/
def plain (x : Word) : Res := (x.setWidth 64, 0)
def plain64 (x : DWord) : Res := (x, 0)
/-- A result of the exact-value operations with its flags. -/
def ofFp (r : Nat × Flags) : Res := (BitVec.ofNat 64 r.1, r.2)
def ofPacked (r : Word × Flags) : Res := (r.1.setWidth 64, r.2)

/-! ## Integers (R60, R62) -/

def boolWord (b : Bool) : Word := if b then 1 else 0

/-- Clamps an integer to the i32 range. -/
def clamp32 (i : Int) : Word := BitVec.ofInt 32 (max (-2147483648) (min 2147483647 i))

def shlW (a b : Word) : Word := if 32 ≤ b.toNat then 0 else a <<< b.toNat
def shrW (a b : Word) : Word := if 32 ≤ b.toNat then 0 else a >>> b.toNat
def sarW (a b : Word) : Word := if 32 ≤ b.toNat then (if a.msb then BitVec.allOnes 32 else 0) else a.sshiftRight b.toNat
def rotW (a b : Word) : Word := a.rotateLeft (b.toNat % 32)
def shlD (a : DWord) (n : Nat) : DWord := if 64 ≤ n then 0 else a <<< n
def shrD (a : DWord) (n : Nat) : DWord := if 64 ≤ n then 0 else a >>> n
def sarD (a : DWord) (n : Nat) : DWord := if 64 ≤ n then (if a.msb then BitVec.allOnes 64 else 0) else a.sshiftRight n

def mulhiS (a b : Word) : Word := BitVec.ofInt 32 (a.toInt * b.toInt / 4294967296)
def mulhiU (a b : Word) : Word := BitVec.ofNat 32 (a.toNat * b.toNat / 4294967296)
def absdiff (a b : Word) : Word := BitVec.ofNat 32 (a.toInt - b.toInt).natAbs

/-- The quotient and remainder of R62; `signed` for i32. -/
def divide (signed : Bool) (a b : Word) : Word × Word :=
  if b = 0 then (BitVec.allOnes 32, a)
  else if signed then (BitVec.ofInt 32 (a.toInt.tdiv b.toInt), BitVec.ofInt 32 (a.toInt.tmod b.toInt))
  else (BitVec.ofNat 32 (a.toNat / b.toNat), BitVec.ofNat 32 (a.toNat % b.toNat))

/-! ## Bits of a word (R67) -/

def popcount (a : Word) : Word := BitVec.ofNat 32 ((List.range 32).countP fun i => a.getLsbD i)
def countLeading (a : Word) : Word := BitVec.ofNat 32 (if a = 0 then 32 else 31 - Nat.log2 a.toNat)
def countTrailing (a : Word) : Word := BitVec.ofNat 32 (((List.range 32).find? fun i => a.getLsbD i).getD 32)
def bitReverse (a : Word) : Word :=
  BitVec.ofNat 32 ((List.range 32).foldl (fun n i => if a.getLsbD i then n + 2 ^ (31 - i) else n) 0)
def byteSwap (a : Word) : Word :=
  BitVec.ofNat 32 (bitsOf a.toNat 0 8 * 2 ^ 24 + bitsOf a.toNat 8 8 * 2 ^ 16 + bitsOf a.toNat 16 8 * 2 ^ 8 + bitsOf a.toNat 24 8)

/-! ## Signs (R68) -/

/-- neg.f32 and abs.f32: a NaN gives the canonical NaN, a signalling one with invalid. -/
def signOp (f : Word → Word) (a : Word) : Res :=
  match Fp.decode f32 a.toNat with
  | .nan sg => (BitVec.ofNat 64 f32.nan, if sg then invalid else 0)
  | _ => plain (f a)

/-! ## Conversion (R54, R55) -/

/-- The integer types of R54 by code: width and signedness. -/
def intType : Nat → Nat × Bool
  | 0 => (8, true) | 1 => (16, true) | 2 => (32, true) | 3 => (64, true)
  | 4 => (8, false) | 5 => (16, false) | 6 => (32, false) | _ => (64, false)

def floatType : Nat → Fmt
  | 8 => f16 | 9 => bf16 | 10 => f32 | _ => f64

/-- An integer held in a register of the type (R42): sign-extended to 32 bits for i8 and i16. -/
def holdInt (t : Nat) (i : Int) : DWord :=
  let (w, sgn) := intType t
  if w == 64 then BitVec.ofInt 64 i
  else if sgn then ((BitVec.ofInt w i).signExtend 32).setWidth 64
  else (BitVec.ofInt w i).setWidth 64

/-- The value of an integer source, which reads only the low bits of its type (R42). -/
def readInt (t : Nat) (x : DWord) : Int :=
  let (w, sgn) := intType t
  if sgn then (x.setWidth w).toInt else ((x.setWidth w).toNat : Int)

def readFloat (t : Nat) (x : DWord) : Val :=
  decode (floatType t) (x.toNat % 2 ^ (1 + (floatType t).eb + (floatType t).mb))

/-- Float to integer (R55): truncation toward zero with saturation. -/
def floatToInt (t : Nat) (v : Val) : DWord × Flags :=
  let (w, sgn) := intType t
  let lo : Int := if sgn then -(2 ^ (w - 1)) else 0
  let hi : Int := if sgn then 2 ^ (w - 1) - 1 else 2 ^ w - 1
  match v with
  | .nan _ => (holdInt t 0, invalid)
  | .inf s => (holdInt t (if s then lo else hi), invalid)
  | .fin s m e =>
    let r := trunc s m e
    if r.1 < lo then (holdInt t lo, invalid)
    else if hi < r.1 then (holdInt t hi, invalid)
    else (holdInt t r.1, if r.2 then inexact else 0)

/-- convert(x, ST, DT) of R55. -/
def convert (st dt : Nat) (x : DWord) : Res :=
  if st ≤ 7 then
    if dt ≤ 7 then plain64 (holdInt dt (readInt st x))
    else ofFp (ofInt (floatType dt) (readInt st x))
  else if dt ≤ 7 then floatToInt dt (readFloat st x)
  else ofFp (roundVal (floatType dt) .ne (readFloat st x))

/-! ## Comparison (R73) -/

def compareInt (c : Nat) (a b : Int) : Bool :=
  match c with
  | 0 => a == b | 1 => a != b | 2 => a < b | 3 => a ≤ b | 4 => b < a | _ => b ≤ a

def compareFloat (c : Nat) (a b : Val) : Bool × Flags :=
  let uno := isNan a || isNan b
  let lt := ltV a b
  let gt := ltV b a
  let eq := eqV a b
  let r := match c with
    | 0 => eq | 1 => !uno && !eq | 2 => lt | 3 => lt || eq | 4 => gt | 5 => gt || eq
    | 6 => !uno | 7 => uno
    | 8 => uno || eq | 9 => uno || !eq | 10 => uno || lt | 11 => uno || lt || eq | 12 => uno || gt | 13 => uno || gt || eq
    | 14 => lt | _ => lt || eq
  (r, if 14 ≤ c then (if uno then invalid else 0) else sigFlags [a, b])

/-- cmp for the type code TY (R73). -/
def compare (ty c : Nat) (a b : DWord) : Bool × Flags :=
  match ty with
  | 0 => (compareInt c (a.setWidth 32).toInt (b.setWidth 32).toInt, 0)
  | 1 => (compareInt c ((a.setWidth 32).toNat : Int) ((b.setWidth 32).toNat : Int), 0)
  | 2 => compareFloat c (Fp.decode f32 (a.toNat % 2 ^ 32)) (Fp.decode f32 (b.toNat % 2 ^ 32))
  | _ => compareFloat c (decode f64 a.toNat) (decode f64 b.toNat)

end Sys2Proof.Machine
end

