-- ==== Sys2Proof/Word/Kinds.lean ====
section
/-! DEFINITION. The data that event rows carry: what the outside world and the engines' choices supply to a step. -/

namespace Sys2Proof

/-- The status with which an engine operation completes (R124, R260). -/
inductive OpStatus where
  | ok | err | tmo
  deriving DecidableEq, Repr

/-- A cache that can keep delta lines (R211): the L1 of a core or the L2 of a die. -/
inductive CacheId where
  | l1 (core : Nat)
  | l2 (die : Nat)
  deriving DecidableEq, Repr

/-- One step of R193 on the entries pending at one word, by the place of the earlier entry among them. -/
inductive LandStep where
  | swap (i : Nat)
  | merge (i : Nat)
  | absorb (i : Nat)
  | cancel (i : Nat)
  deriving DecidableEq, Repr

/-- Where an uncorrectable error strikes: the arrays of R341 in the order of the array codes of R294. -/
inductive ErrSite where
  /-- a register file entry of a group of the block -/
  | registerFile (block : Nat)
  /-- a uniform file entry or the group state of a group of the block -/
  | groupState (block : Nat)
  /-- a granule of the block's core-pad window -/
  | corePad (block granule : Nat)
  /-- a granule of the block's lane slices -/
  | laneSlice (block granule : Nat)
  /-- a granule of a die pad, as local physical address / 64 -/
  | diePad (granule : Nat)
  /-- the L1 data cache, which holds no dirty data (R98) -/
  | l1 (core line : Nat)
  /-- a line of a die's L2, by its local physical address / 128, as of an L1 and an instruction cache -/
  | l2 (die line : Nat)
  | icache (core line : Nat)
  /-- the entries for a virtual address in the L1 TLB of a core and in the L2 TLB and the cached pointers of its die -/
  | tlb (core va : Nat)
  /-- a row of an accumulator tile of the block -/
  | accumulator (block tile row : Nat)
  | deltaLine (cache : CacheId) (region : Nat)
  /-- the saved record of a block of a shadow context -/
  | shadowBank (block : Nat)
  /-- the landing of the word at an address -/
  | landing (addr : Nat)
  | l3 (granule : Nat)
  | hbm (granule : Nat)
  deriving DecidableEq, Repr

/-- What a fabric packet asks of its target (R255, R261 to R266). -/
inductive FabBody where
  /-- read `n` bytes -/
  | read (addr n : Nat)
  /-- write bytes; `release` marks the flag write of rfence.flag (R264) -/
  | write (bytes : List (Nat × Byte)) (release : Bool)
  /-- algebraic entries: the initiator's slot and its descriptor, its RET bit, and an address and operand each (R262, R263) -/
  | alg (slot : Nat) (desc : Word) (ret : Bool) (entries : List (Nat × DWord))
  deriving DecidableEq, Repr

/-- A fabric packet: the initiating device, its group's key there, the key of its operation there, and its body. -/
structure FabPacket where
  dev : BitVec 18
  group : Nat
  op : Nat
  /-- the cycle of its issue on the target's counter, for the apply limit of R255 (log entry 92) -/
  issued : Nat
  context : Nat
  generation : Nat
  body : FabBody
  deriving DecidableEq, Repr

/-- A contribution of coll.acc (R182, R267): the initiating device and the key of its coll.acc there, the target's core,
launch, block and tile, its rank, whether it is flagged poisoned, and its 2,048 addends. -/
structure Contribution where
  dev : BitVec 18
  op : Nat
  core : Nat
  launch : Nat
  block : Nat
  tile : Nat
  rank : Nat
  poisoned : Bool
  data : List Word
  /-- the initiating group's key there -/
  group : Nat := 0
  /-- the cycle of its issue, on this module's counter (log entry 92) -/
  issued : Nat := 0
  deriving DecidableEq, Repr

/-- A transfer of the amplitude engine (R247): the device it comes from, the handle's operation count, the positions that are exchanged, the
amplitudes in the order of their indices, and which of them stand in poisoned granules. -/
structure Transfer where
  dev : BitVec 18
  count : Nat
  p : Nat
  q : Nat
  data : List Byte
  poisoned : List Nat
  deriving DecidableEq, Repr

/-- A packet of an operation of class x: the operation's key, and the device that the packet went to (R260, R266). -/
structure PacketOf where
  op : Nat
  dev : Nat
  deriving DecidableEq, Repr

/-- What the host does to module memory (R357). -/
inductive HostOp where
  | read (addr n : Nat)
  | write (addr : Nat) (bytes : List Byte)
  deriving DecidableEq, Repr

/-- A firmware image as the boot ROM finds it (R364): its version, and the SHA-512 digest of its contents. -/
structure FirmwareImage where
  version : Word
  digest : BitVec 512
  deriving DecidableEq, Repr

/-- What a host read of the control window names (R358, R365). -/
inductive ControlView where
  /-- register SYS12 of a partition (R293) -/
  | sysReg (part sys12 : Nat)
  | aperture (j : Nat)
  | grant (i : Nat)
  | mailbox (h : Nat)
  | portFilter (port : Nat)
  | deviceNumber
  | firmware
  | attestation
  deriving DecidableEq, Repr

/-- What a host write to the control window names (R358). -/
inductive ControlTarget where
  /-- register SYS12 of a partition (R293) -/
  | sysReg (part sys12 : Nat)
  /-- form partition `part` of `n` dies (R346); the value is not used -/
  | formPartition (part n : Nat)
  /-- aperture j: [0] enabled, [1] R, [2] W in `perm` (R354) -/
  | aperture (j hostBase size perm : Nat)
  /-- grant i: [0] present, [1] R, [2] W in `perm` (R357) -/
  | grant (i base size perm : Nat)
  /-- mailbox h (R357) -/
  | mailbox (h hostBase size : Nat) (on : Bool)
  /-- allowed device-number range of a fabric port (R366) -/
  | portFilter (port lo hi : Nat)
  /-- the module's device number (R367) -/
  | deviceNumber
  /-- sys.crit.limit (R293) -/
  | critLimit
  /-- sys.mx.idle (R293) -/
  | mxIdle
  deriving DecidableEq, Repr

end Sys2Proof
end

