-- ==== Sys2Proof/Syntax.lean ====
section
/-! DEFINITION. The rows of spec/opcode_table.json: instructions with the fields their words hold (R19 to R38), destination
first as the assembly writes them, and events (spec/95) with the operands that say which thing the event happens to. The rows
whose words carry fields stand first, then the words without fields, then the other rows of die.ctl, then the events. -/

namespace Sys2Proof

/-- One constructor per row of the opcode table. -/
inductive Instr where
  /-- Adds two 32-bit integers in each active lane, wrapping modulo 2^32 (R60). -/
  | addI32 (d : BitVec 7) (a : BitVec 7) (b : BitVec 7) (w : BitVec 2) (n : Bool)
  /-- Subtracts two 32-bit integers in each active lane, wrapping (R60). -/
  | subI32 (d : BitVec 7) (a : BitVec 7) (b : BitVec 7) (w : BitVec 2) (n : Bool)
  /-- Writes the low 32 bits of the product of two integers (R60). -/
  | mulloI32 (d : BitVec 7) (a : BitVec 7) (b : BitVec 7) (w : BitVec 2) (n : Bool)
  /-- Writes the low 32 bits of d + a × b, or of a × b + c with the addend prefix (R60). -/
  | madI32 (d : BitVec 7) (a : BitVec 7) (b : BitVec 7) (w : BitVec 2) (n : Bool)
  /-- Writes bits 63:32 of the signed 64-bit product (R60). -/
  | mulhiI32 (d : BitVec 7) (a : BitVec 7) (b : BitVec 7) (w : BitVec 2) (n : Bool)
  /-- Writes bits 63:32 of the unsigned 64-bit product (R60). -/
  | mulhiN32 (d : BitVec 7) (a : BitVec 7) (b : BitVec 7) (w : BitVec 2) (n : Bool)
  /-- Adds two i32 values and clamps the sum to the i32 range (R60). -/
  | addsatI32 (d : BitVec 7) (a : BitVec 7) (b : BitVec 7) (w : BitVec 2) (n : Bool)
  /-- Subtracts two i32 values and clamps the difference to the i32 range (R60). -/
  | subsatI32 (d : BitVec 7) (a : BitVec 7) (b : BitVec 7) (w : BitVec 2) (n : Bool)
  /-- Writes the signed minimum of a and b (R60). -/
  | minI32 (d : BitVec 7) (a : BitVec 7) (b : BitVec 7) (w : BitVec 2) (n : Bool)
  /-- Writes the signed maximum of a and b (R60). -/
  | maxI32 (d : BitVec 7) (a : BitVec 7) (b : BitVec 7) (w : BitVec 2) (n : Bool)
  /-- Writes the unsigned minimum of a and b (R60). -/
  | minN32 (d : BitVec 7) (a : BitVec 7) (b : BitVec 7) (w : BitVec 2) (n : Bool)
  /-- Writes the unsigned maximum of a and b (R60). -/
  | maxN32 (d : BitVec 7) (a : BitVec 7) (b : BitVec 7) (w : BitVec 2) (n : Bool)
  /-- Writes the bitwise and of a and b (R60). -/
  | and (d : BitVec 7) (a : BitVec 7) (b : BitVec 7) (w : BitVec 2) (n : Bool)
  /-- Writes the bitwise or of a and b (R60). -/
  | or (d : BitVec 7) (a : BitVec 7) (b : BitVec 7) (w : BitVec 2) (n : Bool)
  /-- Writes the bitwise xor of a and b (R60). -/
  | xor (d : BitVec 7) (a : BitVec 7) (b : BitVec 7) (w : BitVec 2) (n : Bool)
  /-- Writes a and not b (R60). -/
  | andn (d : BitVec 7) (a : BitVec 7) (b : BitVec 7) (w : BitVec 2) (n : Bool)
  /-- Shifts a left by b, giving 0 for counts of 32 or more (R60). -/
  | shl (d : BitVec 7) (a : BitVec 7) (b : BitVec 7) (w : BitVec 2) (n : Bool)
  /-- Shifts a right logically by b, giving 0 for counts of 32 or more (R60). -/
  | shr (d : BitVec 7) (a : BitVec 7) (b : BitVec 7) (w : BitVec 2) (n : Bool)
  /-- Shifts a right arithmetically by b (R60). -/
  | sar (d : BitVec 7) (a : BitVec 7) (b : BitVec 7) (w : BitVec 2) (n : Bool)
  /-- Rotates a left by b mod 32 (R60). -/
  | rot (d : BitVec 7) (a : BitVec 7) (b : BitVec 7) (w : BitVec 2) (n : Bool)
  /-- Writes a or not b (R60). -/
  | orn (d : BitVec 7) (a : BitVec 7) (b : BitVec 7) (w : BitVec 2) (n : Bool)
  /-- Writes the exact magnitude of a − b as an n32 (R60). -/
  | absdiffI32 (d : BitVec 7) (a : BitVec 7) (b : BitVec 7) (w : BitVec 2) (n : Bool)
  /-- Adds two 64-bit integers held in register pairs, wrapping (R61). -/
  | addI64 (d : BitVec 7) (a : BitVec 7) (b : BitVec 7) (w : BitVec 2) (n : Bool)
  /-- Subtracts two 64-bit integers held in register pairs, wrapping (R61). -/
  | subI64 (d : BitVec 7) (a : BitVec 7) (b : BitVec 7) (w : BitVec 2) (n : Bool)
  /-- Writes the low 64 bits of the product of two 64-bit integers (R61). -/
  | mulI64 (d : BitVec 7) (a : BitVec 7) (b : BitVec 7) (w : BitVec 2) (n : Bool)
  /-- Shifts a 64-bit value left by a 32-bit count (R61). -/
  | shlI64 (d : BitVec 7) (a : BitVec 7) (b : BitVec 7) (w : BitVec 2) (n : Bool)
  /-- Shifts a 64-bit value right logically (R61). -/
  | shrI64 (d : BitVec 7) (a : BitVec 7) (b : BitVec 7) (w : BitVec 2) (n : Bool)
  /-- Shifts a 64-bit value right arithmetically (R61). -/
  | sarI64 (d : BitVec 7) (a : BitVec 7) (b : BitVec 7) (w : BitVec 2) (n : Bool)
  /-- Issues a signed division whose quotient is written 32 cycles later (R62). -/
  | divI32 (d : BitVec 7) (a : BitVec 7) (b : BitVec 7) (w : BitVec 2) (n : Bool)
  /-- Issues an unsigned division whose quotient is written 32 cycles later (R62). -/
  | divN32 (d : BitVec 7) (a : BitVec 7) (b : BitVec 7) (w : BitVec 2) (n : Bool)
  /-- Issues a signed remainder whose result is written 32 cycles later (R62). -/
  | remI32 (d : BitVec 7) (a : BitVec 7) (b : BitVec 7) (w : BitVec 2) (n : Bool)
  /-- Issues an unsigned remainder whose result is written 32 cycles later (R62). -/
  | remN32 (d : BitVec 7) (a : BitVec 7) (b : BitVec 7) (w : BitVec 2) (n : Bool)
  /-- Adds two f32 values, rounding once by round_ne (R65). -/
  | addF32 (d : BitVec 7) (a : BitVec 7) (b : BitVec 7) (w : BitVec 2) (n : Bool)
  /-- Subtracts two f32 values, rounding once (R65). -/
  | subF32 (d : BitVec 7) (a : BitVec 7) (b : BitVec 7) (w : BitVec 2) (n : Bool)
  /-- Multiplies two f32 values, rounding once (R65). -/
  | mulF32 (d : BitVec 7) (a : BitVec 7) (b : BitVec 7) (w : BitVec 2) (n : Bool)
  /-- Computes a fused d + a × b, or a × b + c with the prefix, in f32 (R65). -/
  | fmaF32 (d : BitVec 7) (a : BitVec 7) (b : BitVec 7) (w : BitVec 2) (n : Bool)
  /-- Writes the IEEE minimumNumber of two f32 values (R65). -/
  | minF32 (d : BitVec 7) (a : BitVec 7) (b : BitVec 7) (w : BitVec 2) (n : Bool)
  /-- Writes the IEEE maximumNumber of two f32 values (R65). -/
  | maxF32 (d : BitVec 7) (a : BitVec 7) (b : BitVec 7) (w : BitVec 2) (n : Bool)
  /-- Adds two packed f16 pairs element by element (R65). -/
  | addF16x2 (d : BitVec 7) (a : BitVec 7) (b : BitVec 7) (w : BitVec 2) (n : Bool)
  /-- Multiplies two packed f16 pairs element by element (R65). -/
  | mulF16x2 (d : BitVec 7) (a : BitVec 7) (b : BitVec 7) (w : BitVec 2) (n : Bool)
  /-- Adds two f64 values held in register pairs (R65). -/
  | addF64 (d : BitVec 7) (a : BitVec 7) (b : BitVec 7) (w : BitVec 2) (n : Bool)
  /-- Subtracts two f64 values (R65). -/
  | subF64 (d : BitVec 7) (a : BitVec 7) (b : BitVec 7) (w : BitVec 2) (n : Bool)
  /-- Multiplies two f64 values (R65). -/
  | mulF64 (d : BitVec 7) (a : BitVec 7) (b : BitVec 7) (w : BitVec 2) (n : Bool)
  /-- Computes a fused multiply-add in f64 (R65). -/
  | fmaF64 (d : BitVec 7) (a : BitVec 7) (b : BitVec 7) (w : BitVec 2) (n : Bool)
  /-- Computes a fused multiply-add on packed f16 pairs (R65). -/
  | fmaF16x2 (d : BitVec 7) (a : BitVec 7) (b : BitVec 7) (w : BitVec 2) (n : Bool)
  /-- Adds two packed bf16 pairs (R65). -/
  | addBf16x2 (d : BitVec 7) (a : BitVec 7) (b : BitVec 7) (w : BitVec 2) (n : Bool)
  /-- Multiplies two packed bf16 pairs (R65). -/
  | mulBf16x2 (d : BitVec 7) (a : BitVec 7) (b : BitVec 7) (w : BitVec 2) (n : Bool)
  /-- Computes a fused multiply-add on packed bf16 pairs (R65). -/
  | fmaBf16x2 (d : BitVec 7) (a : BitVec 7) (b : BitVec 7) (w : BitVec 2) (n : Bool)
  /-- Writes the immediate into each active lane (R66). -/
  | set (d : BitVec 7) (i : BitVec 8) (n : Bool)
  /-- Adds the immediate to a, wrapping (R66). -/
  | addi (d : BitVec 7) (a : BitVec 7) (i : BitVec 8) (n : Bool)
  /-- Writes the low 32 bits of a times the immediate (R66). -/
  | muli (d : BitVec 7) (a : BitVec 7) (i : BitVec 8) (n : Bool)
  /-- Ands a with the immediate (R66). -/
  | andi (d : BitVec 7) (a : BitVec 7) (i : BitVec 8) (n : Bool)
  /-- Ors a with the immediate (R66). -/
  | ori (d : BitVec 7) (a : BitVec 7) (i : BitVec 8) (n : Bool)
  /-- Xors a with the immediate (R66). -/
  | xori (d : BitVec 7) (a : BitVec 7) (i : BitVec 8) (n : Bool)
  /-- Shifts a left by the immediate count (R66). -/
  | shli (d : BitVec 7) (a : BitVec 7) (i : BitVec 8) (n : Bool)
  /-- Shifts a right logically by the immediate count (R66). -/
  | shri (d : BitVec 7) (a : BitVec 7) (i : BitVec 8) (n : Bool)
  /-- Shifts a right arithmetically by the immediate count (R66). -/
  | sari (d : BitVec 7) (a : BitVec 7) (i : BitVec 8) (n : Bool)
  /-- Writes the immediate minus a, wrapping (R66). -/
  | rsbi (d : BitVec 7) (a : BitVec 7) (i : BitVec 8) (n : Bool)
  /-- Writes the signed minimum of a and the immediate (R66). -/
  | mini (d : BitVec 7) (a : BitVec 7) (i : BitVec 8) (n : Bool)
  /-- Writes the signed maximum of a and the immediate (R66). -/
  | maxi (d : BitVec 7) (a : BitVec 7) (i : BitVec 8) (n : Bool)
  /-- Writes the immediate bits as an f32 without rounding (R66). -/
  | setiF32 (d : BitVec 7) (i : BitVec 8) (n : Bool)
  /-- Adds the f32 immediate to a (R66). -/
  | addiF32 (d : BitVec 7) (a : BitVec 7) (i : BitVec 8) (n : Bool)
  /-- Multiplies a by the f32 immediate (R66). -/
  | muliF32 (d : BitVec 7) (a : BitVec 7) (i : BitVec 8) (n : Bool)
  /-- Copies a into d (R67). -/
  | mov (d : BitVec 7) (a : BitVec 7) (w : BitVec 2) (n : Bool)
  /-- Writes the bitwise not of a (R67). -/
  | not (d : BitVec 7) (a : BitVec 7) (w : BitVec 2) (n : Bool)
  /-- Writes 0 − a, wrapping (R67). -/
  | negI32 (d : BitVec 7) (a : BitVec 7) (w : BitVec 2) (n : Bool)
  /-- Writes the wrapping absolute value of a (R67). -/
  | absI32 (d : BitVec 7) (a : BitVec 7) (w : BitVec 2) (n : Bool)
  /-- Writes the number of set bits of a (R67). -/
  | popc (d : BitVec 7) (a : BitVec 7) (w : BitVec 2) (n : Bool)
  /-- Writes the number of leading zero bits of a (R67). -/
  | clz (d : BitVec 7) (a : BitVec 7) (w : BitVec 2) (n : Bool)
  /-- Writes the number of trailing zero bits of a (R67). -/
  | ctz (d : BitVec 7) (a : BitVec 7) (w : BitVec 2) (n : Bool)
  /-- Reverses the bits of a (R67). -/
  | brev (d : BitVec 7) (a : BitVec 7) (w : BitVec 2) (n : Bool)
  /-- Reverses the bytes of a (R67). -/
  | bswap (d : BitVec 7) (a : BitVec 7) (w : BitVec 2) (n : Bool)
  /-- Inverts the sign bit of a non-NaN f32 (R68). -/
  | negF32 (d : BitVec 7) (a : BitVec 7) (w : BitVec 2) (n : Bool)
  /-- Clears the sign bit of a non-NaN f32 (R68). -/
  | absF32 (d : BitVec 7) (a : BitVec 7) (w : BitVec 2) (n : Bool)
  /-- Writes the correctly rounded reciprocal of a (R69). -/
  | rcpF32 (d : BitVec 7) (a : BitVec 7) (w : BitVec 2) (n : Bool)
  /-- Writes the reciprocal square root of a within 1 ulp (R69). -/
  | rsqrtF32 (d : BitVec 7) (a : BitVec 7) (w : BitVec 2) (n : Bool)
  /-- Writes the correctly rounded square root of a (R69). -/
  | sqrtF32 (d : BitVec 7) (a : BitVec 7) (w : BitVec 2) (n : Bool)
  /-- Writes 2 to the power a within 2 ulp (R69). -/
  | exp2F32 (d : BitVec 7) (a : BitVec 7) (w : BitVec 2) (n : Bool)
  /-- Writes the base-2 logarithm of a (R69). -/
  | log2F32 (d : BitVec 7) (a : BitVec 7) (w : BitVec 2) (n : Bool)
  /-- Writes sin(π a) within 2 ulp (R69). -/
  | sinpiF32 (d : BitVec 7) (a : BitVec 7) (w : BitVec 2) (n : Bool)
  /-- Writes cos(π a) within 2 ulp (R69). -/
  | cospiF32 (d : BitVec 7) (a : BitVec 7) (w : BitVec 2) (n : Bool)
  /-- Writes tanh(a) within 2 ulp (R69). -/
  | tanhF32 (d : BitVec 7) (a : BitVec 7) (w : BitVec 2) (n : Bool)
  /-- Writes the correctly rounded f64 reciprocal (R69). -/
  | rcpF64 (d : BitVec 7) (a : BitVec 7) (w : BitVec 2) (n : Bool)
  /-- Writes the correctly rounded f64 square root (R69). -/
  | sqrtF64 (d : BitVec 7) (a : BitVec 7) (w : BitVec 2) (n : Bool)
  /-- Rounds a to an integral f32 in the mode the selector gives (R70). -/
  | rndF32 (d : BitVec 7) (a : BitVec 7) (w : BitVec 2) (m : BitVec 2) (n : Bool)
  /-- Writes each active lane's sticky flags (R71). -/
  | fsrGet (d : BitVec 7) (n : Bool)
  /-- Writes each lane's flags, then clears the flags named in a (R71). -/
  | fsrClr (d : BitVec 7) (a : BitVec 7) (n : Bool)
  /-- Converts four f32 registers by sat_fmt and packs them into one word (R72). -/
  | packNx (d : BitVec 7) (a : BitVec 7) (n : Bool) (f : BitVec 3)
  /-- Decodes four narrow elements of one word into four f32 registers (R72). -/
  | unpackNx (d : BitVec 7) (a : BitVec 7) (n : Bool) (f : BitVec 3)
  /-- Converts each element from the source type to the destination type (R54). -/
  | cvt (d : BitVec 7) (a : BitVec 7) (w : BitVec 2) (y : BitVec 4) (z : BitVec 4) (n : Bool)
  /-- Compares a with b in each active lane and writes a mask register (R73). -/
  | cmp (k : BitVec 3) (a : BitVec 7) (b : BitVec 7) (c : BitVec 4) (t : BitVec 2)
  /-- Writes the and of two mask-space values (R74). -/
  | kand (d : BitVec 7) (a : BitVec 7) (b : BitVec 7)
  /-- Writes the or of two mask-space values (R74). -/
  | kor (d : BitVec 7) (a : BitVec 7) (b : BitVec 7)
  /-- Writes the xor of two mask-space values (R74). -/
  | kxor (d : BitVec 7) (a : BitVec 7) (b : BitVec 7)
  /-- Writes the not of a mask-space value (R74). -/
  | knot (d : BitVec 7) (a : BitVec 7)
  /-- Copies a mask-space value, for example into em (R74). -/
  | kmov (d : BitVec 7) (a : BitVec 7)
  /-- Writes the number of set bits of a mask into a uniform register (R74). -/
  | kpop (d : BitVec 7) (a : BitVec 7)
  /-- Writes the index of the lowest set bit of a mask, or 32 (R74). -/
  | kfirst (d : BitVec 7) (a : BitVec 7)
  /-- Writes a or b in each active lane according to a mask register (R75). -/
  | sel (d : BitVec 7) (k : BitVec 3) (a : BitVec 7) (b : BitVec 7)
  /-- Fetches register A from the lane named by b (R76). -/
  | shfIdx (d : BitVec 7) (a : BitVec 7) (b : BitVec 7)
  /-- Fetches register A from lane l − b (R76). -/
  | shfUp (d : BitVec 7) (a : BitVec 7) (b : BitVec 7)
  /-- Fetches register A from lane l + b (R76). -/
  | shfDown (d : BitVec 7) (a : BitVec 7) (b : BitVec 7)
  /-- Fetches register A from lane l xor b (R76). -/
  | shfXor (d : BitVec 7) (a : BitVec 7) (b : BitVec 7)
  /-- Fetches register A from one lane for every lane (R76). -/
  | bcast (d : BitVec 7) (a : BitVec 7) (b : BitVec 7)
  /-- Writes a mask of the active lanes whose a is nonzero (R77). -/
  | vote (d : BitVec 3) (a : BitVec 7)
  /-- Sums a over the active lanes by the fixed tree into a uniform register (R78). -/
  | redAddI32 (d : BitVec 6) (a : BitVec 7)
  /-- Sums f32 a over the active lanes by the fixed tree (R78). -/
  | redAddF32 (d : BitVec 6) (a : BitVec 7)
  /-- Takes the signed minimum of a over the active lanes (R78). -/
  | redMinI32 (d : BitVec 6) (a : BitVec 7)
  /-- Takes the f32 minimum of a over the active lanes (R78). -/
  | redMinF32 (d : BitVec 6) (a : BitVec 7)
  /-- Takes the signed maximum of a over the active lanes (R78). -/
  | redMaxI32 (d : BitVec 6) (a : BitVec 7)
  /-- Takes the f32 maximum of a over the active lanes (R78). -/
  | redMaxF32 (d : BitVec 6) (a : BitVec 7)
  /-- Compact form of mov (R33). -/
  | movCompact (d : BitVec 6) (a : BitVec 5)
  /-- Compact two-address add.i32 (R33). -/
  | addI32Compact (d : BitVec 6) (a : BitVec 5)
  /-- Compact two-address sub.i32 (R33). -/
  | subI32Compact (d : BitVec 6) (a : BitVec 5)
  /-- Compact two-address mullo.i32 (R33). -/
  | mulloI32Compact (d : BitVec 6) (a : BitVec 5)
  /-- Compact two-address and (R33). -/
  | andCompact (d : BitVec 6) (a : BitVec 5)
  /-- Compact two-address or (R33). -/
  | orCompact (d : BitVec 6) (a : BitVec 5)
  /-- Compact two-address xor (R33). -/
  | xorCompact (d : BitVec 6) (a : BitVec 5)
  /-- Compact two-address shl (R33). -/
  | shlCompact (d : BitVec 6) (a : BitVec 5)
  /-- Compact two-address logical shr (R33). -/
  | shrCompact (d : BitVec 6) (a : BitVec 5)
  /-- Compact two-address add.f32 (R33). -/
  | addF32Compact (d : BitVec 6) (a : BitVec 5)
  /-- Compact two-address sub.f32 (R33). -/
  | subF32Compact (d : BitVec 6) (a : BitVec 5)
  /-- Compact two-address mul.f32 (R33). -/
  | mulF32Compact (d : BitVec 6) (a : BitVec 5)
  /-- Compact two-address max.f32 (R33). -/
  | maxF32Compact (d : BitVec 6) (a : BitVec 5)
  /-- Compact two-address min.f32 (R33). -/
  | minF32Compact (d : BitVec 6) (a : BitVec 5)
  /-- Compact addi with a signed 5-bit immediate (R33). -/
  | addiCompact (d : BitVec 6) (i : BitVec 5)
  /-- Prefix that widens the successor's immediate to 32 bits (R31). -/
  | imx (p : BitVec 24)
  /-- Prefix that gives the successor fma or mad a third source C (R32). -/
  | addendPrefix (c : BitVec 7)
  /-- Adds two 64-bit uniform values (R81). -/
  | sadd (d : BitVec 6) (a : BitVec 6) (b : BitVec 6) (i : Bool)
  /-- Subtracts two 64-bit uniform values (R81). -/
  | ssub (d : BitVec 6) (a : BitVec 6) (b : BitVec 6) (i : Bool)
  /-- Writes the low 64 bits of a uniform product (R81). -/
  | smul (d : BitVec 6) (a : BitVec 6) (b : BitVec 6) (i : Bool)
  /-- Ands two uniform values (R81). -/
  | sand (d : BitVec 6) (a : BitVec 6) (b : BitVec 6) (i : Bool)
  /-- Ors two uniform values (R81). -/
  | sor (d : BitVec 6) (a : BitVec 6) (b : BitVec 6) (i : Bool)
  /-- Xors two uniform values (R81). -/
  | sxor (d : BitVec 6) (a : BitVec 6) (b : BitVec 6) (i : Bool)
  /-- Shifts a uniform value left (R81). -/
  | sshl (d : BitVec 6) (a : BitVec 6) (b : BitVec 6) (i : Bool)
  /-- Shifts a uniform value right logically (R81). -/
  | sshr (d : BitVec 6) (a : BitVec 6) (b : BitVec 6) (i : Bool)
  /-- Copies a uniform register or immediate into a uniform register (R81). -/
  | smov (d : BitVec 6) (b : BitVec 6) (i : Bool)
  /-- Writes 1 if two uniform values are equal (R81). -/
  | scmpEq (d : BitVec 6) (a : BitVec 6) (b : BitVec 6) (i : Bool)
  /-- Writes 1 if two uniform values differ (R81). -/
  | scmpNe (d : BitVec 6) (a : BitVec 6) (b : BitVec 6) (i : Bool)
  /-- Signed less-than compare of uniform values (R81). -/
  | scmpLtI64 (d : BitVec 6) (a : BitVec 6) (b : BitVec 6) (i : Bool)
  /-- Signed less-or-equal compare of uniform values (R81). -/
  | scmpLeI64 (d : BitVec 6) (a : BitVec 6) (b : BitVec 6) (i : Bool)
  /-- Signed greater-than compare of uniform values (R81). -/
  | scmpGtI64 (d : BitVec 6) (a : BitVec 6) (b : BitVec 6) (i : Bool)
  /-- Signed greater-or-equal compare of uniform values (R81). -/
  | scmpGeI64 (d : BitVec 6) (a : BitVec 6) (b : BitVec 6) (i : Bool)
  /-- Unsigned less-than compare of uniform values (R81). -/
  | scmpLtN64 (d : BitVec 6) (a : BitVec 6) (b : BitVec 6) (i : Bool)
  /-- Unsigned less-or-equal compare of uniform values (R81). -/
  | scmpLeN64 (d : BitVec 6) (a : BitVec 6) (b : BitVec 6) (i : Bool)
  /-- Unsigned greater-than compare of uniform values (R81). -/
  | scmpGtN64 (d : BitVec 6) (a : BitVec 6) (b : BitVec 6) (i : Bool)
  /-- Unsigned greater-or-equal compare of uniform values (R81). -/
  | scmpGeN64 (d : BitVec 6) (a : BitVec 6) (b : BitVec 6) (i : Bool)
  /-- Loads a doubleword from global memory into a uniform register (R83). -/
  | sld (d : BitVec 6) (a : BitVec 6) (b : BitVec 6) (i : Bool)
  /-- Stores a uniform register as a doubleword to global memory (R83). -/
  | sst (d : BitVec 6) (a : BitVec 6) (b : BitVec 6) (i : Bool)
  /-- Writes an identifier such as block, group or cycle into a uniform register (R84). -/
  | sid (d : BitVec 6) (c : BitVec 6)
  /-- Copies one lane's register into a uniform register (R85). -/
  | vget (d : BitVec 6) (a : BitVec 6) (b : BitVec 6) (i : Bool)
  /-- Writes a uniform value into one active lane's register (R85). -/
  | vput (d : BitVec 6) (a : BitVec 6) (b : BitVec 6) (i : Bool)
  /-- Writes a narrow-format descriptor into a format register (R86). -/
  | fmtSet (d : BitVec 3) (a : BitVec 6)
  /-- Reads a format register into a uniform register (R86). -/
  | fmtGet (d : BitVec 6) (a : BitVec 3)
  /-- Branches unconditionally (R88). -/
  | bra (d : BitVec 19)
  /-- Branches and writes the return address into a link register (R88). -/
  | call (d : BitVec 19) (k : BitVec 3)
  /-- Branches if any active lane is set in the mask register (R88). -/
  | bany (d : BitVec 19) (k : BitVec 3)
  /-- Branches if every active lane is set in the mask register (R88). -/
  | ball (d : BitVec 19) (k : BitVec 3)
  /-- Branches if no active lane is set in the mask register (R88). -/
  | bnone (d : BitVec 19) (k : BitVec 3)
  /-- Branches if a uniform register is zero (R88). -/
  | bz (d : BitVec 19) (k : BitVec 3)
  /-- Branches if a uniform register is nonzero (R88). -/
  | bnz (d : BitVec 19) (k : BitVec 3)
  /-- Returns to the address in a link register (R88). -/
  | ret (k : BitVec 3)
  /-- Jumps to a register target plus a displacement (R88). -/
  | jmp (d : BitVec 19) (k : BitVec 3)
  /-- Jumps to a register target and writes the return address into s63 (R88). -/
  | jmpL (d : BitVec 19) (k : BitVec 3)
  /-- Loads lane elements from global memory through a translation register (R108). -/
  | ld (d : BitVec 7) (a : BitVec 7) (x : BitVec 3) (s : BitVec 3) (w : BitVec 2)
  /-- Global load that is an acquire (R119). -/
  | ldAcq (d : BitVec 7) (a : BitVec 7) (x : BitVec 3) (s : BitVec 3) (w : BitVec 2)
  /-- Global load that fills no non-home cache (R111). -/
  | ldnc (d : BitVec 7) (a : BitVec 7) (x : BitVec 3) (s : BitVec 3) (w : BitVec 2)
  /-- Tolerant 32-bit load that reads drift regions within tl (R225). -/
  | ldv (d : BitVec 7) (a : BitVec 7) (x : BitVec 3) (w : BitVec 2)
  /-- Tolerant load that is also an acquire (R225). -/
  | ldvAcq (d : BitVec 7) (a : BitVec 7) (x : BitVec 3) (w : BitVec 2)
  /-- Requests lines towards the core at the named cache level without trapping (R113). -/
  | pref (a : BitVec 7) (x : BitVec 3) (s : BitVec 3)
  /-- Stores lane elements to global memory through the write-combining buffer (R108). -/
  | st (d : BitVec 7) (a : BitVec 7) (x : BitVec 3) (s : BitVec 3) (w : BitVec 2)
  /-- Global store that is a release (R119). -/
  | stRel (d : BitVec 7) (a : BitVec 7) (x : BitVec 3) (s : BitVec 3) (w : BitVec 2)
  /-- Global store that drains its buffered line at once (R111). -/
  | stnc (d : BitVec 7) (a : BitVec 7) (x : BitVec 3) (s : BitVec 3) (w : BitVec 2)
  /-- Loads lane elements from a scratch level (R108). -/
  | ldp (d : BitVec 7) (a : BitVec 7) (s : BitVec 3) (l : BitVec 3) (w : BitVec 2)
  /-- Pad load that is an acquire (R119). -/
  | ldpAcq (d : BitVec 7) (a : BitVec 7) (s : BitVec 3) (l : BitVec 3) (w : BitVec 2)
  /-- Stores lane elements into a scratch level (R108). -/
  | stp (d : BitVec 7) (a : BitVec 7) (s : BitVec 3) (l : BitVec 3) (w : BitVec 2)
  /-- Pad store that is a release (R119). -/
  | stpRel (d : BitVec 7) (a : BitVec 7) (s : BitVec 3) (l : BitVec 3) (w : BitVec 2)
  /-- Sends a non-returning algebraic entry of a slot to the landing of each element's word (R204). -/
  | algOp (d : BitVec 7) (a : BitVec 7) (x : BitVec 3) (w : BitVec 2) (n : BitVec 4) (o : Bool)
  /-- Sends a returning algebraic entry and receives the word's prior value (R204). -/
  | algOpRet (d : BitVec 7) (a : BitVec 7) (x : BitVec 3) (w : BitVec 2) (n : BitVec 4) (o : Bool)
  /-- Checks and installs an algebra image and increments the context generation (R205). -/
  | algLoad (x : BitVec 3)
  /-- Makes a flush point at every word of each element's line (R207). -/
  | algFlush (a : BitVec 7) (x : BitVec 3)
  /-- Writes the context generation once earlier-generation entries are applied (R208). -/
  | algGen (d : BitVec 7)
  /-- Sets the bound and share exponent of each element's drift region (R226). -/
  | dset (d : BitVec 7) (a : BitVec 7) (x : BitVec 3) (g : BitVec 2)
  /-- Flushes the local delta lines of each element's region, keeping the grants (R227). -/
  | dflush (a : BitVec 7) (x : BitVec 3)
  /-- Reads the directory state of each element's drift region (R228). -/
  | dstat (d : BitVec 7) (a : BitVec 7) (x : BitVec 3)
  /-- Writes the group's tolerance register tl (R229). -/
  | tlset (d : BitVec 7)
  /-- Reads tl into each active lane (R229). -/
  | tlget (d : BitVec 7)
  /-- Blocks until a class counter falls to the threshold, then acquires and merges flags (R129). -/
  | waitOc (b : BitVec 6) (i : Bool) (c : BitVec 2)
  /-- Counter wait that also writes and clears the class status bits (R129). -/
  | waitOcSt (d : BitVec 6) (b : BitVec 6) (i : Bool) (c : BitVec 2)
  /-- Closes the open batch of matrix commands and writes its number (R130). -/
  | batch (d : BitVec 6)
  /-- Blocks until the matrix commands of batches up to n complete (R130). -/
  | waitBatch (a : BitVec 6)
  /-- Blocks the group for a number of cycles (R131). -/
  | sleep (b : BitVec 6) (i : Bool)
  /-- Configures a gate's counts and exit counting and increments its generation (R139). -/
  | gateInit (a : BitVec 6) (b : BitVec 6)
  /-- Sets a gate's armed bit (R140). -/
  | gateArm (a : BitVec 6)
  /-- Makes one arrival with participant and byte counts as a release (R141). -/
  | gateArrive (a : BitVec 6) (b : BitVec 6)
  /-- Adds bytes to the pending byte count of the current phase (R142). -/
  | gateExpect (a : BitVec 6) (b : BitVec 6)
  /-- Blocks until the gate's phase differs from the operand, then acquires (R143). -/
  | gateWait (a : BitVec 6) (b : BitVec 6)
  /-- Samples the gate's phase without blocking and writes a flag (R143). -/
  | gateTest (a : BitVec 6) (b : BitVec 5)
  /-- Samples the gate's phase and writes an all-lanes mask or zero (R143). -/
  | gateTestM (a : BitVec 6) (b : BitVec 5)
  /-- Waits for the phase to change with a deadline and reports timeout (R143). -/
  | gateTwait (a : BitVec 6) (b : BitVec 5)
  /-- Fills or empties an enlist-table entry for exit arrivals (R146). -/
  | gateEnlist (a : BitVec 6) (b : BitVec 6)
  /-- Queues a box copy on the ferry, optionally capturing a matrix command or writing a promise (R155). -/
  | fyCopy (a : BitVec 6) (b : BitVec 6) (v : BitVec 7) (f : Bool) (g : Bool)
  /-- Queues a box copy into the windows of the named ranks of the cluster set (R160). -/
  | fyMcast (a : BitVec 6) (b : BitVec 6) (v : BitVec 7)
  /-- Queues a copy of one row per active lane (R158). -/
  | fyGather (a : BitVec 6) (b : BitVec 6) (v : BitVec 7)
  /-- Queues a fill of a box with a pattern (R159). -/
  | fyFill (a : BitVec 6) (b : BitVec 6) (v : BitVec 7)
  /-- Writes the status of the youngest covered ferry operation (R161). -/
  | fyStat (b : BitVec 6)
  /-- Issues a weight-tile load into a sub-array and sets the block's binding (R174). -/
  | mxWload (a : BitVec 6) (b : BitVec 6)
  /-- Issues a stream of A rows through a sub-array into accumulator tile rows (R175). -/
  | mxStream (a : BitVec 6) (b : BitVec 6)
  /-- Issues a zeroing of tile rows (R179). -/
  | mxZero (b : BitVec 6)
  /-- Issues a conversion of tile rows into a pad (R180). -/
  | mxRead (a : BitVec 6) (b : BitVec 6)
  /-- Issues a conversion of tile rows into global memory (R180). -/
  | mxStore (a : BitVec 6) (b : BitVec 6)
  /-- Issues a setting of a sub-array index's tensor scales and block-scale enables (R178). -/
  | mxScale (a : BitVec 6) (b : BitVec 6)
  /-- Arms a tile to accept N fabric contributions (R182). -/
  | mxArm (a : BitVec 6) (b : BitVec 6)
  /-- Binds or unbinds an amplitude handle to a state record (R239). -/
  | ampBind (a : BitVec 6) (b : BitVec 6)
  /-- Issues a controlled 2^k matrix gate, remapping non-local targets first (R241). -/
  | ampGate (a : BitVec 6) (b : BitVec 6)
  /-- Issues a diagonal gate on selected amplitudes (R242). -/
  | ampDiag (a : BitVec 6) (b : BitVec 6)
  /-- Issues an exchange of two physical positions (R243). -/
  | ampSwap (a : BitVec 6)
  /-- Issues a probability sum for a logical bit, written as f64 (R244). -/
  | ampProb (a : BitVec 6) (b : BitVec 6)
  /-- Issues a projection onto a bit value with scaling (R245). -/
  | ampNorm (a : BitVec 6) (b : BitVec 6)
  /-- Writes the physical position of a logical bit from the handle's map (R246). -/
  | ampMap (a : BitVec 6) (b : BitVec 6)
  /-- Issues a remote load of one element per active lane (R261). -/
  | rld (a : BitVec 6) (v : BitVec 7) (g : Bool)
  /-- Issues a remote store of one element per active lane (R261). -/
  | rst (a : BitVec 6) (v : BitVec 7) (g : Bool)
  /-- Issues a non-returning remote algebraic entry per active lane (R262). -/
  | ralg (a : BitVec 6) (b : BitVec 6) (v : BitVec 7)
  /-- Issues a returning remote algebraic entry per active lane (R262). -/
  | ralgRet (a : BitVec 6) (b : BitVec 6) (v : BitVec 7)
  /-- Issues a flag write to a device ordered after the group's earlier remote operations there (R264). -/
  | rfenceFlag (a : BitVec 6) (b : BitVec 6)
  /-- Scatters one word per active lane to per-lane devices and addresses (R266). -/
  | collPut (v : BitVec 5)
  /-- Sends a tile as a contribution to a remote armed tile (R267). -/
  | collAcc (a : BitVec 5) (b : BitVec 6)
  /-- Contributes a 32-word vector to a die-reduction slot (R268). -/
  | dred (a : BitVec 6) (b : BitVec 6) (v : BitVec 7)
  /-- Reads a system register into a uniform register (R292). -/
  | sysrd (d : BitVec 6) (r : BitVec 12)
  /-- Writes a uniform register into a system register that has no row of its own (R292). -/
  | syswr (r : BitVec 12) (a : BitVec 6)
  /-- Shoots down translations of a range or slot and blocks until the shootdown completes (R296). -/
  | tlbInv (a : BitVec 6)
  /-- Sets the limit of matching translation registers to 0 (R296). -/
  | xinval (a : BitVec 6)
  /-- Maps a first-touch page with a zeroed frame from the pool and writes a status (R297). -/
  | pgmap (d : BitVec 6) (a : BitVec 6)
  /-- Blocks until a masked event bit of sys.evt is set (R300). -/
  | wfi (d : BitVec 6) (a : BitVec 6)
  /-- Halts every other group of the running context on the named dies (R301). -/
  | halt (d : BitVec 6) (a : BitVec 6)
  /-- Halts the running context and exchanges the running and shadow slots (R302). -/
  | ctxSwap (d : BitVec 6)
  /-- Ends the context in the shadow slot (R303). -/
  | ctxKill (d : BitVec 6)
  /-- die.ctl op 0 reads a die's state (R304). -/
  | dieCtlRead (d : BitVec 6) (a : BitVec 6)
  /-- Translates a base once and sets a translation register's frame and limit (R106). -/
  | xset (d : BitVec 3) (a : BitVec 6)
  /-- xset with a byte cap on the limit taken from a uniform register (R106). -/
  | xsetCap (d : BitVec 3) (a : BitVec 6) (b : BitVec 6)
  /-- Steps a translation register, retranslating when the step leaves the limit (R106). -/
  | xadd (d : BitVec 3) (a : BitVec 3) (b : BitVec 6) (i : Bool)
  /-- Reads a translation register's base, limit or attributes (R106). -/
  | xget (d : BitVec 6) (a : BitVec 3) (f : BitVec 6)
  /-- Raises trap 13 with a user code (R91). -/
  | trap (n : BitVec 6)
  /-- Blocks the group until the cycle counter reaches a deadline (R93). -/
  | sleepUntil (a : BitVec 6)
  /-- Compact no-operation that changes no state (R34). -/
  | nop
  /-- Blocks until earlier accesses are performed within the reach, then resets the reach (R128). -/
  | fence
  /-- Marks the group critical (R148). -/
  | critOn
  /-- Clears the critical mark and lets a deferred halt proceed (R148). -/
  | critOff
  /-- Returns from a trap, restoring pc, em and mode from the record (R299). -/
  | fret
  /-- Raises trap 12 (R91). -/
  | brk
  /-- Ends the group with its exit actions (R92). -/
  | exit
  /-- die.ctl op 1 stops dispatch to a die (R304). -/
  | dieCtlStop (d : BitVec 6) (a : BitVec 6)
  /-- die.ctl op 2 halts a die's groups and re-queues or fails their blocks (R304). -/
  | dieCtlRequeue (d : BitVec 6) (a : BitVec 6)
  /-- die.ctl op 3 idles a die's links and holds requests for it (R304). -/
  | dieCtlQuiesce (d : BitVec 6) (a : BitVec 6)
  /-- die.ctl op 4 writes back dirty L2 lines and flushes drift holders of a die (R351). -/
  | dieCtlWriteback (d : BitVec 6) (a : BitVec 6)
  /-- die.ctl op 5 turns on error replies to requests for the die (R349). -/
  | dieCtlStray (d : BitVec 6) (a : BitVec 6)
  /-- die.ctl op 6 resets a die and clears its die pad and shadow banks (R350). -/
  | dieCtlReset (d : BitVec 6) (a : BitVec 6)
  /-- die.ctl op 7 waits for link training and re-admits the die (R348). -/
  | dieCtlAdmit (d : BitVec 6) (a : BitVec 6)
  /-- die.ctl op 8 fences a die out of the partition (R304). -/
  | dieCtlFence (d : BitVec 6) (a : BitVec 6)
  /-- die.ctl op 9 resumes halted groups and dispatch on a die (R304). -/
  | dieCtlResume (d : BitVec 6) (a : BitVec 6)
  /-- A syswr to sys.evt clears the event bits written as 1 (R300). -/
  | sysEvtClear (part : Nat) (value : DWord)
  /-- A write to sys.pool.left that leaves it nonzero sets event bit 2 (R315). -/
  | poolLeftWrite (part : Nat) (value : DWord)
  /-- An in-flight result (load, division, returned value) arrives and a Waiting group may become Ready (R10). -/
  | resultArrival (group slot : Nat) (late : Word)
  /-- A Blocked group's recorded condition comes to hold and its instruction completes (R10). -/
  | waitCompletes (group : Nat)
  /-- The counter reaches a blocked instruction's deadline and the instruction completes (R11). -/
  | deadlineReached (group : Nat)
  /-- The critical-deferral limit expires and the critical group is halted with trap 14 (R13). -/
  | critDeferralExpired (group : Nat)
  /-- A pre-emption halt reaches a group at an interrupt point; buffers drain and engine work is quiesced (R336). -/
  | groupHalted (group : Nat)
  /-- A pending asynchronous trap is taken at an interrupt point and the group vectors to its handler (R330). -/
  | trapEntry (group : Nat)
  /-- A block whose groups have exited and whose engine operations completed returns its resources (R12). -/
  | blockRetire (block : Nat)
  /-- A write-combining line drains towards its home within 1,024 cycles of its last write (R103). -/
  | wcbDrain (core line : Nat)
  /-- A walker reads the page table for a translation once a walker is free (R309). -/
  | pageWalk (core va : Nat)
  /-- The old frames of a committed rename return to the pool once their readers retire (R298). -/
  | frameReturn (part launch : Nat)
  /-- An engine delivery is applied to a gate as an arrival of bytes once its bytes are performed (R137). -/
  | gateDelivery (op i : Nat)
  /-- The core's ferry takes a queued operation and begins moving its elements (R166). -/
  | ferryStart (op : Nat)
  /-- An engine access meets an unmapped page, holds its operation and raises trap 4 in a group (R316). -/
  | enginePageFault (op : Nat)
  /-- A held ferry operation resumes once its page is mapped (R166). -/
  | ferryPageMapped (op : Nat)
  /-- At a receiver's acceptance point the armed bit decides acceptance or refusal (R160). -/
  | mcastAcceptance (op rank : Nat)
  /-- A span of destination bytes is performed and delivered to the gate (R156). -/
  | ferryDelivery (op first count : Nat)
  /-- The last byte is performed and a captured matrix command is handed to the engine (R156). -/
  | ferryLand (op : Nat)
  /-- A landed ferry operation with all deliveries applied completes in issue order and decrements oc.f (R166). -/
  | ferryComplete (op : Nat)
  /-- An ordered matrix command begins executing once earlier commands on its tile or sub-array are performed (R188). -/
  | mxExecute (op : Nat)
  /-- A gated sub-array finishes its wake latency and its command proceeds (R187). -/
  | subarrayWake (core sub : Nat)
  /-- Every access of a matrix command is performed and its flags and status recorded (R188). -/
  | mxPerformed (op rows : Nat)
  /-- A performed matrix command completes in issue order and decrements oc.m (R188). -/
  | mxComplete (op : Nat)
  /-- A sub-array idle for sys.mx.idle cycles is gated and loses its weights (R187). -/
  | subarrayIdleGating (core sub : Nat)
  /-- A coll.acc contribution reaches a tile and is added, deferred or refused (R182). -/
  | contributionArrival (c : Contribution)
  /-- An armed tile completes with tmo after 110,000 cycles without N contributions (R182). -/
  | armTimeout (op : Nat)
  /-- A queued amplitude operation starts its participating engines once earlier handle operations are performed (R252). -/
  | ampStart (op : Nat)
  /-- Every half and shard of an exchange has moved and the map is written (R252). -/
  | ampExchangeDone (op : Nat) (incoming : Option Transfer)
  /-- A device exchange not completed within 110,000 cycles completes with tmo (R247). -/
  | deviceExchangeTimeout (op : Nat)
  /-- Every amplitude and result of the operation is written (R252). -/
  | ampApplyDone (op : Nat)
  /-- A performed amplitude operation completes in issue order and decrements oc.a (R252). -/
  | ampComplete (op : Nat)
  /-- An algebraic, load or store entry arrives at the landing of its word (R195). -/
  | landingEntryArrival (i : Nat)
  /-- The landing applies the front entry of a word, possibly after a permitted swap, merge or drop (R197). -/
  | landingApply (addr size : Nat) (steps : List LandStep)
  /-- The home answers a cache's grant request with a share, a cut, or a refusal (R212). -/
  | grantRequest (region : Nat)
  /-- A holder receives a grant or a refusal for its waiting element (R222). -/
  | grantReply (cache : CacheId) (region : Nat)
  /-- 4,096 cycles after a refusal the cache may ask again (R212). -/
  | refusalExpiry (cache : CacheId) (region : Nat)
  /-- A holder receives a cut call, flushes if over the new share, and answers (R214). -/
  | shareCutCall (cache : CacheId) (region : Nat)
  /-- A holder receives a drain call, flushes, releases and answers (R215). -/
  | drainCall (cache : CacheId) (region : Nat)
  /-- The home receives a holder's flush or answer and may leave Cutting or Draining (R221). -/
  | holderMessage (cache : CacheId) (region : Nat)
  /-- The home serves a tolerant load, draining holders until the rest fit the tolerance (R219). -/
  | ldvRequest (region : Nat)
  /-- An open packet with no byte for 220,000 cycles is discarded (R258). -/
  | packetIdleTimeout (i : Nat)
  /-- A fabric packet arrives, is checked against the ingress tables and applied whole or rejected (R255). -/
  | inboundPacket (p : FabPacket)
  /-- A packet not applied within 220,000 cycles of issue is never applied (R255). -/
  | packetApplyExpiry (i : Nat)
  /-- A remote operation's completion returns with status ok or err (R260). -/
  | remoteCompletion (packet : PacketOf) (status : OpStatus) (data : List Byte)
  /-- A remote operation not completed within 110,000 cycles completes with tmo (R260). -/
  | remoteTimeout (op : Nat)
  /-- The flag is written at the target once the covered operations have completed, or the fence fails (R264). -/
  | rfenceFlagWrite (op : Nat)
  /-- A contribution reaches a die-reduction slot and is kept or refused (R269). -/
  | dredContribution (op : Nat)
  /-- A collecting slot reaches its deadline and proceeds to write with TIMED set (R269). -/
  | dredDeadline (slot : Nat)
  /-- The slot writes the combined result to every kept contributor and completes their commands (R270). -/
  | dredResultWrite (slot : Nat)
  /-- The dispatcher checks and admits or rejects the head packet of a queue (R320). -/
  | launchAdmission (part queue : Nat)
  /-- The dispatcher places the next block of a chosen launch on a core where it fits (R321). -/
  | blockPlacement (part launch : Nat) (cores : List Nat)
  /-- A launch whose blocks retired and children completed flushes, writes its signal and decrements counters (R323). -/
  | launchCompletion (part launch : Nat)
  /-- A renamed range's leaf entries are rewritten to the fresh frames after earlier writers commit (R322). -/
  | renameCommit (part launch : Nat)
  /-- A cancel packet retires unplaced blocks of the named work unrun (R326). -/
  | cancelPacket (part queue : Nat)
  /-- An open packet opens a graph, phase or job counter (R324). -/
  | openPacket (part queue : Nat)
  /-- A close packet decrements a level's counter (R324). -/
  | closePacket (part queue : Nat)
  /-- Every 4,096 cycles the governor moves core quota between graph stages by ring occupancy (R328). -/
  | governorTick (die : Nat)
  /-- An uncorrectable storage error poisons, discards or loses data and is logged (R341). -/
  | uncorrectableError (site : ErrSite)
  /-- A correctable error is corrected and counted (R341). -/
  | correctableError (site : ErrSite)
  /-- The device fences a failed die, discarding its work and raising trap 15 (R352). -/
  | dieLost (die : Nat)
  /-- The host commands a die's operating point (R360). -/
  | operatingPointCommand (die point : Nat)
  /-- An operating-point change takes effect within 20 µs (R360). -/
  | operatingPointSettled (die : Nat)
  /-- The host sets the module power cap, clamped to 2,800 W (R362). -/
  | powerCapWrite (watts : Nat)
  /-- The 1 ms average power exceeds the cap and the limiter skips issue cycles, `skips` of four (R362). -/
  | powerLimitThrottle (watts skips : Nat)
  /-- A die reaching 110 °C has its clock stopped and the host is interrupted (R363). -/
  | thermalTrip (die : Nat)
  /-- A die exceeding 420 A stops as in a thermal trip (R366). -/
  | currentBoundTrip (die : Nat)
  /-- A host-scope load unanswered after 110,000 cycles returns poison (R355). -/
  | hostLoadTimeout (group slot : Nat)
  /-- A host-scope store unperformed after 110,000 cycles is discarded and logged (R355). -/
  | hostStoreTimeout (i : Nat)
  /-- The host reads or writes module memory through a grant, or gets an error response (R357). -/
  | hostAccess (op : HostOp)
  /-- A host write to the control window for a register without a row of its own (R358). -/
  | controlWindowWrite (target : ControlTarget) (value : DWord)
  /-- A host write to sys.evt sets the bits written as 1 (R358). -/
  | hostEvtWrite (part : Nat) (value : DWord)
  /-- A nonce written by the host produces a signed attestation report (R365). -/
  | attestationNonce (nonce : BitVec 256)
  /-- A reset of the Adeton Link resets the whole module (R359). -/
  | linkReset
  /-- Power-on brings the module up through supply settling, firmware verification and training (R367): the dies that train, the fused key with
  which the signature of the image verifies, where it does with one, and the image (R364). -/
  | powerOn (trained : BitVec 8) (key : Option (BitVec 2)) (image : FirmwareImage)
  /-- A drained store takes effect at its home up to 4,096 cycles after draining, and its invalidations are delivered (R125). -/
  | storeTakesEffectAtHome (i : Nat)
  /-- A fabric link fails and the fabric reroutes traffic around it (R271). -/
  | fabricLinkFailure (port : Nat)
  /-- A partner module refuses an amplitude exchange transfer whose positions differ, and both sides record err (R247). -/
  | deviceExchangeRefused (op : Nat)
  /-- The 1 ms average power falls back under the cap, so the limiter stops skipping issue cycles and sys.pwr.thr clears (R362). -/
  | powerLimitRelease (watts : Nat)
  deriving DecidableEq, Repr

end Sys2Proof
end

