-- ==== Sys2Proof/WellFormed.lean ====
section
/-! DEFINITION. Which fields make an encoding legal (R20 to R41), as far as the word alone decides. The checks that need the
group (declared register count, R22) stand with the machine. -/

namespace Sys2Proof
namespace Legal

/-! ## Lane operand codes (R21, R22, R24, R26) -/

/-- `c` names a v register whose number is a multiple of `run`. -/
def isRun (run : Nat) (c : BitVec 7) : Bool := c.toNat ≤ 111 && c.toNat % run == 0
def isLatch (c : BitVec 7) : Bool := 112 ≤ c.toNat && c.toNat ≤ 115
/-- a broadcast source: s0 to s7, zero, lane, em -/
def isBroadcast (c : BitVec 7) : Bool := 116 ≤ c.toNat && c.toNat ≤ 126

/-- registers of a run of 2^W units of `unit` registers -/
def runLen (unit : Nat) (w : BitVec 2) : Nat := unit * 2 ^ w.toNat

/-- a destination run (R22, R24) -/
def dst (unit : Nat) (w : BitVec 2) (d : BitVec 7) : Bool := isRun (runLen unit w) d
/-- a 32-bit source (R21): a run, a broadcast, or a latch when W = 0 -/
def src (w : BitVec 2) (a : BitVec 7) : Bool :=
  isRun (runLen 1 w) a || isBroadcast a || (isLatch a && w == 0)
/-- a 64-bit source (R21): a run of pairs, or a broadcast -/
def src64 (w : BitVec 2) (a : BitVec 7) : Bool := isRun (runLen 2 w) a || isBroadcast a

def alu32 (d a b : BitVec 7) (w : BitVec 2) : Bool := dst 1 w d && src w a && src w b
/-- the divisions name no latch (R26) -/
def div32 (d a b : BitVec 7) (w : BitVec 2) : Bool := alu32 d a b w && !isLatch a && !isLatch b
def alu64 (d a b : BitVec 7) (w : BitVec 2) : Bool := dst 2 w d && src64 w a && src64 w b
/-- the 64-bit shifts read B as a 32-bit operand (R61) -/
def shift64 (d a b : BitVec 7) (w : BitVec 2) : Bool := dst 2 w d && src64 w a && src w b
def imm32 (d a : BitVec 7) : Bool := dst 1 0 d && src 0 a
def un32 (d a : BitVec 7) (w : BitVec 2) : Bool := dst 1 w d && src w a
def un64 (d a : BitVec 7) (w : BitVec 2) : Bool := dst 2 w d && src64 w a

/-- type codes 3, 7 and 11 of R54 are 64-bit -/
def cvtUnit (t : BitVec 4) : Nat := if t.toNat % 4 == 3 then 2 else 1
def cvtOk (d a : BitVec 7) (w : BitVec 2) (y z : BitVec 4) : Bool :=
  y.toNat ≤ 11 && z.toNat ≤ 11 && y != z && dst (cvtUnit y) w d &&
  (if cvtUnit z == 2 then src64 w a else src w a)
def cmpOk (a b : BitVec 7) (t : BitVec 2) (c : BitVec 4) : Bool :=
  (2 ≤ t.toNat || c.toNat ≤ 5) && (if t.toNat == 3 then src64 0 a && src64 0 b else src 0 a && src 0 b)
/-- pack.nx reads A to A + 3 (R72) -/
def packOk (d a : BitVec 7) : Bool := dst 1 0 d && (isRun 4 a || a.toNat == 124)
def unpackOk (d a : BitVec 7) : Bool := isRun 4 d && src 0 a

/-! ## The mask space (R38, R74) -/

def maskAny (c : BitVec 7) : Bool := c.toNat ≤ 8 || 64 ≤ c.toNat
def maskUniform (c : BitVec 7) : Bool := 64 ≤ c.toNat

/-! ## Memory formats (R22, R107) -/

/-- bytes of an element by SZ (R107); 0 for the reserved code -/
def elemSize (s : BitVec 3) : Nat := match s.toNat with
  | 0 => 1 | 1 => 1 | 2 => 2 | 3 => 2 | 4 => 4 | 5 => 8 | 6 => 16 | _ => 0
/-- registers of one unit by SZ (R107) -/
def elemUnit (s : BitVec 3) : Nat := if s.toNat == 5 then 2 else if s.toNat == 6 then 4 else 1
def offsetOk (a : BitVec 7) : Bool := a.toNat ≤ 111 || a.toNat == 124
def memRun (s : BitVec 3) (d a : BitVec 7) (w : BitVec 2) : Bool :=
  offsetOk a && isRun (runLen (elemUnit s) w) d && elemSize s * 2 ^ w.toNat ≤ 64
def loadOk (s : BitVec 3) (d a : BitVec 7) (w : BitVec 2) : Bool := s.toNat ≤ 6 && memRun s d a w
def storeOk (s : BitVec 3) (d a : BitVec 7) (w : BitVec 2) : Bool :=
  (s.toNat == 0 || s.toNat == 2 || (4 ≤ s.toNat && s.toNat ≤ 6)) && memRun s d a w
def levelOk (l : BitVec 3) : Bool := l.toNat ≤ 3
def vReg (v : BitVec 7) : Bool := v.toNat ≤ 111

/-! ## System registers (R293, R368) -/

def sysListed (r : BitVec 12) : Bool :=
  let n := r.toNat
  n ≤ 0x006 || (0x008 ≤ n && n ≤ 0x00F) || (0x040 ≤ n && n ≤ 0x045) || (0x048 ≤ n && n ≤ 0x04A) ||
  (0x080 ≤ n && n ≤ 0x085) || (0x088 ≤ n && n ≤ 0x08A) || (0x0C0 ≤ n && n ≤ 0x0C7) || (0x0E0 ≤ n && n ≤ 0x0E7) ||
  (0x0F0 ≤ n && n ≤ 0x0F7) || (0x100 ≤ n && n ≤ 0x13F) || (0x200 ≤ n && n ≤ 0x21F) || (0x300 ≤ n && n ≤ 0x306) ||
  (0x308 ≤ n && n ≤ 0x30F) || (0x3C0 ≤ n && n ≤ 0x3C5) || (0x3C8 ≤ n && n ≤ 0x3CF)
/-- the registers whose Access is RO -/
def sysReadOnly (r : BitVec 12) : Bool :=
  let n := r.toNat
  n == 0 || (0x040 ≤ n && n ≤ 0x042) || n == 0x0C0 || (0x0F0 ≤ n && n ≤ 0x0F7) || 0x300 ≤ n

end Legal

open Legal in
/-- The encoding is legal as far as its own fields decide (R40). Events carry no encoding. -/
def Instr.wellFormed : Instr → Bool
  | .addI32 d a b w _ => alu32 d a b w
  | .subI32 d a b w _ => alu32 d a b w
  | .mulloI32 d a b w _ => alu32 d a b w
  | .madI32 d a b w _ => alu32 d a b w
  | .mulhiI32 d a b w _ => alu32 d a b w
  | .mulhiN32 d a b w _ => alu32 d a b w
  | .addsatI32 d a b w _ => alu32 d a b w
  | .subsatI32 d a b w _ => alu32 d a b w
  | .minI32 d a b w _ => alu32 d a b w
  | .maxI32 d a b w _ => alu32 d a b w
  | .minN32 d a b w _ => alu32 d a b w
  | .maxN32 d a b w _ => alu32 d a b w
  | .and d a b w _ => alu32 d a b w
  | .or d a b w _ => alu32 d a b w
  | .xor d a b w _ => alu32 d a b w
  | .andn d a b w _ => alu32 d a b w
  | .shl d a b w _ => alu32 d a b w
  | .shr d a b w _ => alu32 d a b w
  | .sar d a b w _ => alu32 d a b w
  | .rot d a b w _ => alu32 d a b w
  | .orn d a b w _ => alu32 d a b w
  | .absdiffI32 d a b w _ => alu32 d a b w
  | .addI64 d a b w _ => alu64 d a b w
  | .subI64 d a b w _ => alu64 d a b w
  | .mulI64 d a b w _ => alu64 d a b w
  | .shlI64 d a b w _ => shift64 d a b w
  | .shrI64 d a b w _ => shift64 d a b w
  | .sarI64 d a b w _ => shift64 d a b w
  | .divI32 d a b w _ => div32 d a b w
  | .divN32 d a b w _ => div32 d a b w
  | .remI32 d a b w _ => div32 d a b w
  | .remN32 d a b w _ => div32 d a b w
  | .addF32 d a b w _ => alu32 d a b w
  | .subF32 d a b w _ => alu32 d a b w
  | .mulF32 d a b w _ => alu32 d a b w
  | .fmaF32 d a b w _ => alu32 d a b w
  | .minF32 d a b w _ => alu32 d a b w
  | .maxF32 d a b w _ => alu32 d a b w
  | .addF16x2 d a b w _ => alu32 d a b w
  | .mulF16x2 d a b w _ => alu32 d a b w
  | .addF64 d a b w _ => alu64 d a b w
  | .subF64 d a b w _ => alu64 d a b w
  | .mulF64 d a b w _ => alu64 d a b w
  | .fmaF64 d a b w _ => alu64 d a b w
  | .fmaF16x2 d a b w _ => alu32 d a b w
  | .addBf16x2 d a b w _ => alu32 d a b w
  | .mulBf16x2 d a b w _ => alu32 d a b w
  | .fmaBf16x2 d a b w _ => alu32 d a b w
  | .set d _ _ => dst 1 0 d
  | .addi d a _ _ => imm32 d a
  | .muli d a _ _ => imm32 d a
  | .andi d a _ _ => imm32 d a
  | .ori d a _ _ => imm32 d a
  | .xori d a _ _ => imm32 d a
  | .shli d a _ _ => imm32 d a
  | .shri d a _ _ => imm32 d a
  | .sari d a _ _ => imm32 d a
  | .rsbi d a _ _ => imm32 d a
  | .mini d a _ _ => imm32 d a
  | .maxi d a _ _ => imm32 d a
  | .setiF32 d _ _ => dst 1 0 d
  | .addiF32 d a _ _ => imm32 d a
  | .muliF32 d a _ _ => imm32 d a
  | .mov d a w _ => un32 d a w
  | .not d a w _ => un32 d a w
  | .negI32 d a w _ => un32 d a w
  | .absI32 d a w _ => un32 d a w
  | .popc d a w _ => un32 d a w
  | .clz d a w _ => un32 d a w
  | .ctz d a w _ => un32 d a w
  | .brev d a w _ => un32 d a w
  | .bswap d a w _ => un32 d a w
  | .negF32 d a w _ => un32 d a w
  | .absF32 d a w _ => un32 d a w
  | .rcpF32 d a w _ => un32 d a w
  | .rsqrtF32 d a w _ => un32 d a w
  | .sqrtF32 d a w _ => un32 d a w
  | .exp2F32 d a w _ => un32 d a w
  | .log2F32 d a w _ => un32 d a w
  | .sinpiF32 d a w _ => un32 d a w
  | .cospiF32 d a w _ => un32 d a w
  | .tanhF32 d a w _ => un32 d a w
  | .rcpF64 d a w _ => un64 d a w
  | .sqrtF64 d a w _ => un64 d a w
  | .rndF32 d a w _ _ => un32 d a w
  | .fsrGet d _ => dst 1 0 d
  | .fsrClr d a _ => un32 d a 0
  | .packNx d a _ _ => packOk d a
  | .unpackNx d a _ _ => unpackOk d a
  | .cvt d a w y z _ => cvtOk d a w y z
  | .cmp _ a b c t => cmpOk a b t c
  | .kand d a b => maskAny d && maskAny a && maskAny b
  | .kor d a b => maskAny d && maskAny a && maskAny b
  | .kxor d a b => maskAny d && maskAny a && maskAny b
  | .knot d a => maskAny d && maskAny a
  | .kmov d a => maskAny d && maskAny a
  | .kpop d a => maskUniform d && maskAny a
  | .kfirst d a => maskUniform d && maskAny a
  | .sel d _ a b => alu32 d a b 0
  | .shfIdx d a b => alu32 d a b 0
  | .shfUp d a b => alu32 d a b 0
  | .shfDown d a b => alu32 d a b 0
  | .shfXor d a b => alu32 d a b 0
  | .bcast d a b => dst 1 0 d && src 0 a && 116 ≤ b.toNat && b.toNat ≤ 124
  | .vote _ a => src 0 a
  | .redAddI32 _ a => src 0 a
  | .redAddF32 _ a => src 0 a
  | .redMinI32 _ a => src 0 a
  | .redMinF32 _ a => src 0 a
  | .redMaxI32 _ a => src 0 a
  | .redMaxF32 _ a => src 0 a
  | .movCompact _ _ => true
  | .addI32Compact _ _ => true
  | .subI32Compact _ _ => true
  | .mulloI32Compact _ _ => true
  | .andCompact _ _ => true
  | .orCompact _ _ => true
  | .xorCompact _ _ => true
  | .shlCompact _ _ => true
  | .shrCompact _ _ => true
  | .addF32Compact _ _ => true
  | .subF32Compact _ _ => true
  | .mulF32Compact _ _ => true
  | .maxF32Compact _ _ => true
  | .minF32Compact _ _ => true
  | .addiCompact _ _ => true
  | .nop => true
  | .imx _ => true
  | .addendPrefix c => c.toNat != 127
  | .sadd _ _ _ _ => true
  | .ssub _ _ _ _ => true
  | .smul _ _ _ _ => true
  | .sand _ _ _ _ => true
  | .sor _ _ _ _ => true
  | .sxor _ _ _ _ => true
  | .sshl _ _ _ _ => true
  | .sshr _ _ _ _ => true
  | .smov _ _ _ => true
  | .scmpEq _ _ _ _ => true
  | .scmpNe _ _ _ _ => true
  | .scmpLtI64 _ _ _ _ => true
  | .scmpLeI64 _ _ _ _ => true
  | .scmpGtI64 _ _ _ _ => true
  | .scmpGeI64 _ _ _ _ => true
  | .scmpLtN64 _ _ _ _ => true
  | .scmpLeN64 _ _ _ _ => true
  | .scmpGtN64 _ _ _ _ => true
  | .scmpGeN64 _ _ _ _ => true
  | .sld _ _ _ _ => true
  | .sst _ _ _ _ => true
  | .sid _ c => c.toNat ≤ 5
  | .vget _ _ b i => !i || b.toNat < 32
  | .vput _ _ b i => !i || b.toNat < 32
  | .fmtSet _ _ => true
  | .fmtGet _ _ => true
  | .bra _ => true
  | .call _ _ => true
  | .bany _ _ => true
  | .ball _ _ => true
  | .bnone _ _ => true
  | .bz _ _ => true
  | .bnz _ _ => true
  | .ret _ => true
  | .jmp _ _ => true
  | .jmpL _ _ => true
  | .ld d a _ s w => loadOk s d a w
  | .ldAcq d a _ s w => loadOk s d a w
  | .ldnc d a _ s w => loadOk s d a w
  | .ldv d a _ w => loadOk 4 d a w
  | .ldvAcq d a _ w => loadOk 4 d a w
  | .pref a _ s => s.toNat ≤ 2 && offsetOk a
  | .st d a _ s w => storeOk s d a w
  | .stRel d a _ s w => storeOk s d a w
  | .stnc d a _ s w => storeOk s d a w
  | .ldp d a s l w => loadOk s d a w && levelOk l
  | .ldpAcq d a s l w => loadOk s d a w && levelOk l
  | .stp d a s l w => storeOk s d a w && levelOk l
  | .stpRel d a s l w => storeOk s d a w && levelOk l
  | .algOp d a _ _ _ _ => vReg d && offsetOk a
  | .algOpRet d a _ _ _ _ => vReg d && offsetOk a
  | .algLoad _ => true
  | .algFlush a _ => offsetOk a
  | .algGen d => vReg d
  | .dset d a _ _ => vReg d && offsetOk a
  | .dflush a _ => offsetOk a
  | .dstat d a _ => isRun 4 d && offsetOk a
  | .tlset d => vReg d || (116 ≤ d.toNat && d.toNat ≤ 124)
  | .tlget d => vReg d
  | .fence => true
  | .waitOc _ _ _ => true
  | .waitOcSt _ _ _ _ => true
  | .batch _ => true
  | .waitBatch _ => true
  | .sleep _ _ => true
  | .gateInit _ _ => true
  | .gateArm _ => true
  | .gateArrive _ _ => true
  | .gateExpect _ _ => true
  | .gateWait _ _ => true
  | .gateTest _ _ => true
  | .gateTestM _ _ => true
  | .gateTwait _ _ => true
  | .gateEnlist _ _ => true
  | .critOn => true
  | .critOff => true
  | .fyCopy _ b v _ g => vReg v && (!g || b.toNat % 2 == 0)
  | .fyMcast _ _ v => vReg v
  | .fyGather _ _ v => vReg v
  | .fyFill _ _ v => vReg v
  | .fyStat _ => true
  | .mxWload _ _ => true
  | .mxStream _ _ => true
  | .mxZero _ => true
  | .mxRead _ _ => true
  | .mxStore _ _ => true
  | .mxScale _ _ => true
  | .mxArm _ _ => true
  | .ampBind _ _ => true
  | .ampGate _ _ => true
  | .ampDiag _ _ => true
  | .ampSwap _ => true
  | .ampProb _ _ => true
  | .ampNorm _ _ => true
  | .ampMap _ _ => true
  | .rld _ v g => vReg v && (!g || v.toNat % 2 == 0)
  | .rst _ v g => vReg v && (!g || v.toNat % 2 == 0)
  | .ralg _ _ v => vReg v
  | .ralgRet _ _ v => vReg v
  | .rfenceFlag _ _ => true
  | .collPut v => v.toNat < 28
  | .collAcc _ _ => true
  | .dred _ _ v => vReg v
  | .sysrd _ r => sysListed r
  | .syswr r _ => sysListed r && !sysReadOnly r
  | .sysEvtClear _ _ => true
  | .poolLeftWrite _ _ => true
  | .tlbInv _ => true
  | .xinval _ => true
  | .pgmap _ _ => true
  | .fret => true
  | .wfi _ _ => true
  | .halt _ _ => true
  | .ctxSwap _ => true
  | .ctxKill _ => true
  | .dieCtlRead _ _ => true
  | .dieCtlStop _ _ => true
  | .dieCtlRequeue _ _ => true
  | .dieCtlQuiesce _ _ => true
  | .dieCtlWriteback _ _ => true
  | .dieCtlStray _ _ => true
  | .dieCtlReset _ _ => true
  | .dieCtlAdmit _ _ => true
  | .dieCtlFence _ _ => true
  | .dieCtlResume _ _ => true
  | .xset _ _ => true
  | .xsetCap _ _ _ => true
  | .xadd _ _ _ _ => true
  | .xget _ _ f => f.toNat ≤ 2
  | .trap _ => true
  | .brk => true
  | .exit => true
  | .sleepUntil _ => true
  | .resultArrival _ _ _ => true
  | .waitCompletes _ => true
  | .deadlineReached _ => true
  | .critDeferralExpired _ => true
  | .groupHalted _ => true
  | .trapEntry _ => true
  | .blockRetire _ => true
  | .wcbDrain _ _ => true
  | .pageWalk _ _ => true
  | .frameReturn _ _ => true
  | .gateDelivery _ _ => true
  | .ferryStart _ => true
  | .enginePageFault _ => true
  | .ferryPageMapped _ => true
  | .mcastAcceptance _ _ => true
  | .ferryDelivery _ _ _ => true
  | .ferryLand _ => true
  | .ferryComplete _ => true
  | .mxExecute _ => true
  | .subarrayWake _ _ => true
  | .mxPerformed _ _ => true
  | .mxComplete _ => true
  | .subarrayIdleGating _ _ => true
  | .contributionArrival _ => true
  | .armTimeout _ => true
  | .ampStart _ => true
  | .ampExchangeDone _ _ => true
  | .deviceExchangeTimeout _ => true
  | .ampApplyDone _ => true
  | .ampComplete _ => true
  | .landingEntryArrival _ => true
  | .landingApply _ _ _ => true
  | .grantRequest _ => true
  | .grantReply _ _ => true
  | .refusalExpiry _ _ => true
  | .shareCutCall _ _ => true
  | .drainCall _ _ => true
  | .holderMessage _ _ => true
  | .ldvRequest _ => true
  | .packetIdleTimeout _ => true
  | .inboundPacket _ => true
  | .packetApplyExpiry _ => true
  | .remoteCompletion _ _ _ => true
  | .remoteTimeout _ => true
  | .rfenceFlagWrite _ => true
  | .dredContribution _ => true
  | .dredDeadline _ => true
  | .dredResultWrite _ => true
  | .launchAdmission _ _ => true
  | .blockPlacement _ _ _ => true
  | .launchCompletion _ _ => true
  | .renameCommit _ _ => true
  | .cancelPacket _ _ => true
  | .openPacket _ _ => true
  | .closePacket _ _ => true
  | .governorTick _ => true
  | .uncorrectableError _ => true
  | .correctableError _ => true
  | .dieLost _ => true
  | .operatingPointCommand _ _ => true
  | .operatingPointSettled _ => true
  | .powerCapWrite _ => true
  | .powerLimitThrottle _ _ => true
  | .thermalTrip _ => true
  | .currentBoundTrip _ => true
  | .hostLoadTimeout _ _ => true
  | .hostStoreTimeout _ => true
  | .hostAccess _ => true
  | .controlWindowWrite _ _ => true
  | .hostEvtWrite _ _ => true
  | .attestationNonce _ => true
  | .linkReset => true
  | .powerOn _ _ _ => true
  | .storeTakesEffectAtHome _ => true
  | .fabricLinkFailure _ => true
  | .deviceExchangeRefused _ => true
  | .powerLimitRelease _ => true

end Sys2Proof
end

