-- ==== Sys2Proof/Decode.lean ====
section
/-! DEFINITION. The decoder and the encoder, both from the encoding tables of spec/03_encoding.md and the chapters' own tables.
A decoded instruction is well formed; every other word is refused, which the machine turns into trap 0 (R40). -/

namespace Sys2Proof
namespace Decode

/-- A field of a word. -/
def fld (w lo n : Nat) : BitVec n := BitVec.ofNat n (w / 2 ^ lo)
/-- A one-bit field of a word. -/
def bit (w lo : Nat) : Bool := bitAt w lo
/-- FN9 of format U (R19). -/
def fld9 (w : Nat) : Nat := bitsOf w 23 9

/-- One row of the encoding tables: the fixed bits `mat` under `mask`, and the instruction the other fields give. -/
def row (w mask mat : Nat) (i : Instr) : Option Instr := if w &&& mask = mat then some i else none

/-- Major 0x00: integer and logic (R59). -/
def major00 (w : Nat) : Option Instr :=
  match bitsOf w 30 2 with
  | 0 => row w 0xC000003F 0x00000001 (.addI32 (fld w 9 7) (fld w 16 7) (fld w 23 7) (fld w 7 2) (bit w 6))
  | 1 => row w 0xC000003F 0x40000001 (.subI32 (fld w 9 7) (fld w 16 7) (fld w 23 7) (fld w 7 2) (bit w 6))
  | 2 => row w 0xC000003F 0x80000001 (.mulloI32 (fld w 9 7) (fld w 16 7) (fld w 23 7) (fld w 7 2) (bit w 6))
  | 3 => row w 0xC000003F 0xC0000001 (.madI32 (fld w 9 7) (fld w 16 7) (fld w 23 7) (fld w 7 2) (bit w 6))
  | _ => none

/-- Major 0x01: integer and logic (R59). -/
def major01 (w : Nat) : Option Instr :=
  match bitsOf w 30 2 with
  | 0 => row w 0xC000003F 0x00000003 (.mulhiI32 (fld w 9 7) (fld w 16 7) (fld w 23 7) (fld w 7 2) (bit w 6))
  | 1 => row w 0xC000003F 0x40000003 (.mulhiN32 (fld w 9 7) (fld w 16 7) (fld w 23 7) (fld w 7 2) (bit w 6))
  | 2 => row w 0xC000003F 0x80000003 (.addsatI32 (fld w 9 7) (fld w 16 7) (fld w 23 7) (fld w 7 2) (bit w 6))
  | 3 => row w 0xC000003F 0xC0000003 (.subsatI32 (fld w 9 7) (fld w 16 7) (fld w 23 7) (fld w 7 2) (bit w 6))
  | _ => none

/-- Major 0x02: integer and logic (R59). -/
def major02 (w : Nat) : Option Instr :=
  match bitsOf w 30 2 with
  | 0 => row w 0xC000003F 0x00000005 (.minI32 (fld w 9 7) (fld w 16 7) (fld w 23 7) (fld w 7 2) (bit w 6))
  | 1 => row w 0xC000003F 0x40000005 (.maxI32 (fld w 9 7) (fld w 16 7) (fld w 23 7) (fld w 7 2) (bit w 6))
  | 2 => row w 0xC000003F 0x80000005 (.minN32 (fld w 9 7) (fld w 16 7) (fld w 23 7) (fld w 7 2) (bit w 6))
  | 3 => row w 0xC000003F 0xC0000005 (.maxN32 (fld w 9 7) (fld w 16 7) (fld w 23 7) (fld w 7 2) (bit w 6))
  | _ => none

/-- Major 0x03: integer and logic (R59). -/
def major03 (w : Nat) : Option Instr :=
  match bitsOf w 30 2 with
  | 0 => row w 0xC000003F 0x00000007 (.and (fld w 9 7) (fld w 16 7) (fld w 23 7) (fld w 7 2) (bit w 6))
  | 1 => row w 0xC000003F 0x40000007 (.or (fld w 9 7) (fld w 16 7) (fld w 23 7) (fld w 7 2) (bit w 6))
  | 2 => row w 0xC000003F 0x80000007 (.xor (fld w 9 7) (fld w 16 7) (fld w 23 7) (fld w 7 2) (bit w 6))
  | 3 => row w 0xC000003F 0xC0000007 (.andn (fld w 9 7) (fld w 16 7) (fld w 23 7) (fld w 7 2) (bit w 6))
  | _ => none

/-- Major 0x04: integer and logic (R59). -/
def major04 (w : Nat) : Option Instr :=
  match bitsOf w 30 2 with
  | 0 => row w 0xC000003F 0x00000009 (.shl (fld w 9 7) (fld w 16 7) (fld w 23 7) (fld w 7 2) (bit w 6))
  | 1 => row w 0xC000003F 0x40000009 (.shr (fld w 9 7) (fld w 16 7) (fld w 23 7) (fld w 7 2) (bit w 6))
  | 2 => row w 0xC000003F 0x80000009 (.sar (fld w 9 7) (fld w 16 7) (fld w 23 7) (fld w 7 2) (bit w 6))
  | 3 => row w 0xC000003F 0xC0000009 (.rot (fld w 9 7) (fld w 16 7) (fld w 23 7) (fld w 7 2) (bit w 6))
  | _ => none

/-- Major 0x05: integer and logic (R59). -/
def major05 (w : Nat) : Option Instr :=
  match bitsOf w 30 2 with
  | 0 => row w 0xC000003F 0x0000000B (.orn (fld w 9 7) (fld w 16 7) (fld w 23 7) (fld w 7 2) (bit w 6))
  | 1 => row w 0xC000003F 0x4000000B (.absdiffI32 (fld w 9 7) (fld w 16 7) (fld w 23 7) (fld w 7 2) (bit w 6))
  | 2 => row w 0xC000003F 0x8000000B (.addI64 (fld w 9 7) (fld w 16 7) (fld w 23 7) (fld w 7 2) (bit w 6))
  | 3 => row w 0xC000003F 0xC000000B (.subI64 (fld w 9 7) (fld w 16 7) (fld w 23 7) (fld w 7 2) (bit w 6))
  | _ => none

/-- Major 0x06: integer and logic (R59). -/
def major06 (w : Nat) : Option Instr :=
  match bitsOf w 30 2 with
  | 0 => row w 0xC000003F 0x0000000D (.mulI64 (fld w 9 7) (fld w 16 7) (fld w 23 7) (fld w 7 2) (bit w 6))
  | 1 => row w 0xC000003F 0x4000000D (.shlI64 (fld w 9 7) (fld w 16 7) (fld w 23 7) (fld w 7 2) (bit w 6))
  | 2 => row w 0xC000003F 0x8000000D (.shrI64 (fld w 9 7) (fld w 16 7) (fld w 23 7) (fld w 7 2) (bit w 6))
  | 3 => row w 0xC000003F 0xC000000D (.sarI64 (fld w 9 7) (fld w 16 7) (fld w 23 7) (fld w 7 2) (bit w 6))
  | _ => none

/-- Major 0x07: integer and logic (R59). -/
def major07 (w : Nat) : Option Instr :=
  match bitsOf w 30 2 with
  | 0 => row w 0xC000003F 0x0000000F (.divI32 (fld w 9 7) (fld w 16 7) (fld w 23 7) (fld w 7 2) (bit w 6))
  | 1 => row w 0xC000003F 0x4000000F (.divN32 (fld w 9 7) (fld w 16 7) (fld w 23 7) (fld w 7 2) (bit w 6))
  | 2 => row w 0xC000003F 0x8000000F (.remI32 (fld w 9 7) (fld w 16 7) (fld w 23 7) (fld w 7 2) (bit w 6))
  | 3 => row w 0xC000003F 0xC000000F (.remN32 (fld w 9 7) (fld w 16 7) (fld w 23 7) (fld w 7 2) (bit w 6))
  | _ => none

/-- Major 0x08: floating point (R64). -/
def major08 (w : Nat) : Option Instr :=
  match bitsOf w 30 2 with
  | 0 => row w 0xC000003F 0x00000011 (.addF32 (fld w 9 7) (fld w 16 7) (fld w 23 7) (fld w 7 2) (bit w 6))
  | 1 => row w 0xC000003F 0x40000011 (.subF32 (fld w 9 7) (fld w 16 7) (fld w 23 7) (fld w 7 2) (bit w 6))
  | 2 => row w 0xC000003F 0x80000011 (.mulF32 (fld w 9 7) (fld w 16 7) (fld w 23 7) (fld w 7 2) (bit w 6))
  | 3 => row w 0xC000003F 0xC0000011 (.fmaF32 (fld w 9 7) (fld w 16 7) (fld w 23 7) (fld w 7 2) (bit w 6))
  | _ => none

/-- Major 0x09: floating point (R64). -/
def major09 (w : Nat) : Option Instr :=
  match bitsOf w 30 2 with
  | 0 => row w 0xC000003F 0x00000013 (.minF32 (fld w 9 7) (fld w 16 7) (fld w 23 7) (fld w 7 2) (bit w 6))
  | 1 => row w 0xC000003F 0x40000013 (.maxF32 (fld w 9 7) (fld w 16 7) (fld w 23 7) (fld w 7 2) (bit w 6))
  | 2 => row w 0xC000003F 0x80000013 (.addF16x2 (fld w 9 7) (fld w 16 7) (fld w 23 7) (fld w 7 2) (bit w 6))
  | 3 => row w 0xC000003F 0xC0000013 (.mulF16x2 (fld w 9 7) (fld w 16 7) (fld w 23 7) (fld w 7 2) (bit w 6))
  | _ => none

/-- Major 0x0A: floating point (R64). -/
def major0A (w : Nat) : Option Instr :=
  match bitsOf w 30 2 with
  | 0 => row w 0xC000003F 0x00000015 (.addF64 (fld w 9 7) (fld w 16 7) (fld w 23 7) (fld w 7 2) (bit w 6))
  | 1 => row w 0xC000003F 0x40000015 (.subF64 (fld w 9 7) (fld w 16 7) (fld w 23 7) (fld w 7 2) (bit w 6))
  | 2 => row w 0xC000003F 0x80000015 (.mulF64 (fld w 9 7) (fld w 16 7) (fld w 23 7) (fld w 7 2) (bit w 6))
  | 3 => row w 0xC000003F 0xC0000015 (.fmaF64 (fld w 9 7) (fld w 16 7) (fld w 23 7) (fld w 7 2) (bit w 6))
  | _ => none

/-- Major 0x0B: floating point (R64). -/
def major0B (w : Nat) : Option Instr :=
  match bitsOf w 30 2 with
  | 0 => row w 0xC000003F 0x00000017 (.fmaF16x2 (fld w 9 7) (fld w 16 7) (fld w 23 7) (fld w 7 2) (bit w 6))
  | 1 => row w 0xC000003F 0x40000017 (.addBf16x2 (fld w 9 7) (fld w 16 7) (fld w 23 7) (fld w 7 2) (bit w 6))
  | 2 => row w 0xC000003F 0x80000017 (.mulBf16x2 (fld w 9 7) (fld w 16 7) (fld w 23 7) (fld w 7 2) (bit w 6))
  | 3 => row w 0xC000003F 0xC0000017 (.fmaBf16x2 (fld w 9 7) (fld w 16 7) (fld w 23 7) (fld w 7 2) (bit w 6))
  | _ => none

/-- Major 0x0C: immediate forms (R36). -/
def major0C (w : Nat) : Option Instr :=
  match bitsOf w 21 3 with
  | 0 => row w 0x00FFC03F 0x001F0019 (.set (fld w 7 7) (fld w 24 8) (bit w 6))
  | 1 => row w 0x00E0003F 0x00200019 (.addi (fld w 7 7) (fld w 14 7) (fld w 24 8) (bit w 6))
  | 2 => row w 0x00E0003F 0x00400019 (.muli (fld w 7 7) (fld w 14 7) (fld w 24 8) (bit w 6))
  | 3 => row w 0x00E0003F 0x00600019 (.andi (fld w 7 7) (fld w 14 7) (fld w 24 8) (bit w 6))
  | 4 => row w 0x00E0003F 0x00800019 (.ori (fld w 7 7) (fld w 14 7) (fld w 24 8) (bit w 6))
  | 5 => row w 0x00E0003F 0x00A00019 (.xori (fld w 7 7) (fld w 14 7) (fld w 24 8) (bit w 6))
  | 6 => row w 0x00E0003F 0x00C00019 (.shli (fld w 7 7) (fld w 14 7) (fld w 24 8) (bit w 6))
  | 7 => row w 0x00E0003F 0x00E00019 (.shri (fld w 7 7) (fld w 14 7) (fld w 24 8) (bit w 6))
  | _ => none

/-- Major 0x0D: immediate forms (R36). -/
def major0D (w : Nat) : Option Instr :=
  match bitsOf w 21 3 with
  | 0 => row w 0x00E0003F 0x0000001B (.sari (fld w 7 7) (fld w 14 7) (fld w 24 8) (bit w 6))
  | 1 => row w 0x00E0003F 0x0020001B (.rsbi (fld w 7 7) (fld w 14 7) (fld w 24 8) (bit w 6))
  | 2 => row w 0x00E0003F 0x0040001B (.mini (fld w 7 7) (fld w 14 7) (fld w 24 8) (bit w 6))
  | 3 => row w 0x00E0003F 0x0060001B (.maxi (fld w 7 7) (fld w 14 7) (fld w 24 8) (bit w 6))
  | 4 => row w 0x00FFC03F 0x009F001B (.setiF32 (fld w 7 7) (fld w 24 8) (bit w 6))
  | 5 => row w 0x00E0003F 0x00A0001B (.addiF32 (fld w 7 7) (fld w 14 7) (fld w 24 8) (bit w 6))
  | 6 => row w 0x00E0003F 0x00C0001B (.muliF32 (fld w 7 7) (fld w 14 7) (fld w 24 8) (bit w 6))
  | _ => none

/-- Major 0x0E: unary and convert (R37, R54). -/
def major0E (w : Nat) : Option Instr :=
  match fld9 w with
  | 0x000 => row w 0xFF80003F 0x0000001D (.mov (fld w 9 7) (fld w 16 7) (fld w 7 2) (bit w 6))
  | 0x001 => row w 0xFF80003F 0x0080001D (.not (fld w 9 7) (fld w 16 7) (fld w 7 2) (bit w 6))
  | 0x002 => row w 0xFF80003F 0x0100001D (.negI32 (fld w 9 7) (fld w 16 7) (fld w 7 2) (bit w 6))
  | 0x003 => row w 0xFF80003F 0x0180001D (.absI32 (fld w 9 7) (fld w 16 7) (fld w 7 2) (bit w 6))
  | 0x004 => row w 0xFF80003F 0x0200001D (.popc (fld w 9 7) (fld w 16 7) (fld w 7 2) (bit w 6))
  | 0x005 => row w 0xFF80003F 0x0280001D (.clz (fld w 9 7) (fld w 16 7) (fld w 7 2) (bit w 6))
  | 0x006 => row w 0xFF80003F 0x0300001D (.ctz (fld w 9 7) (fld w 16 7) (fld w 7 2) (bit w 6))
  | 0x007 => row w 0xFF80003F 0x0380001D (.brev (fld w 9 7) (fld w 16 7) (fld w 7 2) (bit w 6))
  | 0x008 => row w 0xFF80003F 0x0400001D (.bswap (fld w 9 7) (fld w 16 7) (fld w 7 2) (bit w 6))
  | 0x010 => row w 0xFF80003F 0x0800001D (.negF32 (fld w 9 7) (fld w 16 7) (fld w 7 2) (bit w 6))
  | 0x011 => row w 0xFF80003F 0x0880001D (.absF32 (fld w 9 7) (fld w 16 7) (fld w 7 2) (bit w 6))
  | 0x012 => row w 0xFF80003F 0x0900001D (.rcpF32 (fld w 9 7) (fld w 16 7) (fld w 7 2) (bit w 6))
  | 0x013 => row w 0xFF80003F 0x0980001D (.rsqrtF32 (fld w 9 7) (fld w 16 7) (fld w 7 2) (bit w 6))
  | 0x014 => row w 0xFF80003F 0x0A00001D (.sqrtF32 (fld w 9 7) (fld w 16 7) (fld w 7 2) (bit w 6))
  | 0x015 => row w 0xFF80003F 0x0A80001D (.exp2F32 (fld w 9 7) (fld w 16 7) (fld w 7 2) (bit w 6))
  | 0x016 => row w 0xFF80003F 0x0B00001D (.log2F32 (fld w 9 7) (fld w 16 7) (fld w 7 2) (bit w 6))
  | 0x017 => row w 0xFF80003F 0x0B80001D (.sinpiF32 (fld w 9 7) (fld w 16 7) (fld w 7 2) (bit w 6))
  | 0x018 => row w 0xFF80003F 0x0C00001D (.cospiF32 (fld w 9 7) (fld w 16 7) (fld w 7 2) (bit w 6))
  | 0x019 => row w 0xFF80003F 0x0C80001D (.tanhF32 (fld w 9 7) (fld w 16 7) (fld w 7 2) (bit w 6))
  | 0x01C => row w 0xFF80003F 0x0E00001D (.rcpF64 (fld w 9 7) (fld w 16 7) (fld w 7 2) (bit w 6))
  | 0x01D => row w 0xFF80003F 0x0E80001D (.sqrtF64 (fld w 9 7) (fld w 16 7) (fld w 7 2) (bit w 6))
  | 0x020 | 0x021 | 0x022 | 0x023 => row w 0xFE00003F 0x1000001D (.rndF32 (fld w 9 7) (fld w 16 7) (fld w 7 2) (fld w 23 2) (bit w 6))
  | 0x030 => row w 0xFFFF01BF 0x187C001D (.fsrGet (fld w 9 7) (bit w 6))
  | 0x031 => row w 0xFF8001BF 0x1880001D (.fsrClr (fld w 9 7) (fld w 16 7) (bit w 6))
  | 0x040 | 0x041 | 0x042 | 0x043 | 0x044 | 0x045 | 0x046 | 0x047 => row w 0xFC0001BF 0x2000001D (.packNx (fld w 9 7) (fld w 16 7) (bit w 6) (fld w 23 3))
  | 0x048 | 0x049 | 0x04A | 0x04B | 0x04C | 0x04D | 0x04E | 0x04F => row w 0xFC0001BF 0x2400001D (.unpackNx (fld w 9 7) (fld w 16 7) (bit w 6) (fld w 23 3))
  | _ => row w 0x8000003F 0x8000001D (.cvt (fld w 9 7) (fld w 16 7) (fld w 7 2) (fld w 27 4) (fld w 23 4) (bit w 6))

/-- Major 0x0F: compare (R73). -/
def major0F (w : Nat) : Option Instr :=
  row w 0x000001FF 0x0000001F (.cmp (fld w 9 3) (fld w 16 7) (fld w 23 7) (fld w 12 4) (fld w 30 2))

/-- Major 0x10: mask, select, exchange, reduction (R38). -/
def major10 (w : Nat) : Option Instr :=
  match bitsOf w 30 2 with
  | 0 => row w 0xC00001FF 0x00000021 (.kand (fld w 9 7) (fld w 16 7) (fld w 23 7)) <|> row w 0xC00001FF 0x00000061 (.kor (fld w 9 7) (fld w 16 7) (fld w 23 7)) <|> row w 0xC00001FF 0x000000A1 (.kxor (fld w 9 7) (fld w 16 7) (fld w 23 7)) <|> row w 0xFF8001FF 0x000000E1 (.knot (fld w 9 7) (fld w 16 7)) <|> row w 0xFF8001FF 0x00000121 (.kmov (fld w 9 7) (fld w 16 7)) <|> row w 0xFF8001FF 0x00000161 (.kpop (fld w 9 7) (fld w 16 7)) <|> row w 0xFF8001FF 0x000001A1 (.kfirst (fld w 9 7) (fld w 16 7))
  | 1 => row w 0xC000003F 0x40000021 (.sel (fld w 9 7) (fld w 6 3) (fld w 16 7) (fld w 23 7))
  | 2 => row w 0xC00001FF 0x80000021 (.shfIdx (fld w 9 7) (fld w 16 7) (fld w 23 7)) <|> row w 0xC00001FF 0x80000061 (.shfUp (fld w 9 7) (fld w 16 7) (fld w 23 7)) <|> row w 0xC00001FF 0x800000A1 (.shfDown (fld w 9 7) (fld w 16 7) (fld w 23 7)) <|> row w 0xC00001FF 0x800000E1 (.shfXor (fld w 9 7) (fld w 16 7) (fld w 23 7)) <|> row w 0xC00001FF 0x80000121 (.bcast (fld w 9 7) (fld w 16 7) (fld w 23 7)) <|> row w 0xFF80F1FF 0xBE000161 (.vote (fld w 9 3) (fld w 16 7))
  | 3 => row w 0xFF8081FF 0xFE008021 (.redAddI32 (fld w 9 6) (fld w 16 7)) <|> row w 0xFF8081FF 0xFE008061 (.redAddF32 (fld w 9 6) (fld w 16 7)) <|> row w 0xFF8081FF 0xFE0080A1 (.redMinI32 (fld w 9 6) (fld w 16 7)) <|> row w 0xFF8081FF 0xFE0080E1 (.redMinF32 (fld w 9 6) (fld w 16 7)) <|> row w 0xFF8081FF 0xFE008121 (.redMaxI32 (fld w 9 6) (fld w 16 7)) <|> row w 0xFF8081FF 0xFE008161 (.redMaxF32 (fld w 9 6) (fld w 16 7))
  | _ => none

/-- Major 0x11: uniform (R80). -/
def major11 (w : Nat) : Option Instr :=
  match bitsOf w 24 7 with
  | 0 => row w 0x7F00003F 0x00000023 (.sadd (fld w 6 6) (fld w 12 6) (fld w 18 6) (bit w 31))
  | 1 => row w 0x7F00003F 0x01000023 (.ssub (fld w 6 6) (fld w 12 6) (fld w 18 6) (bit w 31))
  | 2 => row w 0x7F00003F 0x02000023 (.smul (fld w 6 6) (fld w 12 6) (fld w 18 6) (bit w 31))
  | 3 => row w 0x7F00003F 0x03000023 (.sand (fld w 6 6) (fld w 12 6) (fld w 18 6) (bit w 31))
  | 4 => row w 0x7F00003F 0x04000023 (.sor (fld w 6 6) (fld w 12 6) (fld w 18 6) (bit w 31))
  | 5 => row w 0x7F00003F 0x05000023 (.sxor (fld w 6 6) (fld w 12 6) (fld w 18 6) (bit w 31))
  | 6 => row w 0x7F00003F 0x06000023 (.sshl (fld w 6 6) (fld w 12 6) (fld w 18 6) (bit w 31))
  | 7 => row w 0x7F00003F 0x07000023 (.sshr (fld w 6 6) (fld w 12 6) (fld w 18 6) (bit w 31))
  | 8 => row w 0x7F03F03F 0x08000023 (.smov (fld w 6 6) (fld w 18 6) (bit w 31))
  | 16 => row w 0x7F00003F 0x10000023 (.scmpEq (fld w 6 6) (fld w 12 6) (fld w 18 6) (bit w 31))
  | 17 => row w 0x7F00003F 0x11000023 (.scmpNe (fld w 6 6) (fld w 12 6) (fld w 18 6) (bit w 31))
  | 18 => row w 0x7F00003F 0x12000023 (.scmpLtI64 (fld w 6 6) (fld w 12 6) (fld w 18 6) (bit w 31))
  | 19 => row w 0x7F00003F 0x13000023 (.scmpLeI64 (fld w 6 6) (fld w 12 6) (fld w 18 6) (bit w 31))
  | 20 => row w 0x7F00003F 0x14000023 (.scmpGtI64 (fld w 6 6) (fld w 12 6) (fld w 18 6) (bit w 31))
  | 21 => row w 0x7F00003F 0x15000023 (.scmpGeI64 (fld w 6 6) (fld w 12 6) (fld w 18 6) (bit w 31))
  | 22 => row w 0x7F00003F 0x16000023 (.scmpLtN64 (fld w 6 6) (fld w 12 6) (fld w 18 6) (bit w 31))
  | 23 => row w 0x7F00003F 0x17000023 (.scmpLeN64 (fld w 6 6) (fld w 12 6) (fld w 18 6) (bit w 31))
  | 24 => row w 0x7F00003F 0x18000023 (.scmpGtN64 (fld w 6 6) (fld w 12 6) (fld w 18 6) (bit w 31))
  | 25 => row w 0x7F00003F 0x19000023 (.scmpGeN64 (fld w 6 6) (fld w 12 6) (fld w 18 6) (bit w 31))
  | 32 => row w 0x7F00003F 0x20000023 (.sld (fld w 6 6) (fld w 12 6) (fld w 18 6) (bit w 31))
  | 33 => row w 0x7F00003F 0x21000023 (.sst (fld w 6 6) (fld w 12 6) (fld w 18 6) (bit w 31))
  | 40 => row w 0xFF03F03F 0xA8000023 (.sid (fld w 6 6) (fld w 18 6))
  | 41 => row w 0x7F00003F 0x29000023 (.vget (fld w 6 6) (fld w 12 6) (fld w 18 6) (bit w 31))
  | 42 => row w 0x7F00003F 0x2A000023 (.vput (fld w 6 6) (fld w 12 6) (fld w 18 6) (bit w 31))
  | 43 => row w 0xFFFC0E3F 0x2B000023 (.fmtSet (fld w 6 3) (fld w 12 6))
  | 44 => row w 0xFFFF803F 0x2C000023 (.fmtGet (fld w 6 6) (fld w 12 3))
  | _ => none

/-- Major 0x12: control (R87). -/
def major12 (w : Nat) : Option Instr :=
  match bitsOf w 10 3 with
  | 0 => row w 0x00001FFF 0x00000025 (.bra (fld w 13 19)) <|> row w 0x00001C7F 0x00000065 (.call (fld w 13 19) (fld w 7 3))
  | 1 => row w 0x00001C7F 0x00000425 (.bany (fld w 13 19) (fld w 7 3))
  | 2 => row w 0x00001C7F 0x00000825 (.ball (fld w 13 19) (fld w 7 3))
  | 3 => row w 0x00001C7F 0x00000C25 (.bnone (fld w 13 19) (fld w 7 3))
  | 4 => row w 0x00001C7F 0x00001025 (.bz (fld w 13 19) (fld w 7 3))
  | 5 => row w 0x00001C7F 0x00001425 (.bnz (fld w 13 19) (fld w 7 3))
  | 6 => row w 0xFFFFFC7F 0x00001825 (.ret (fld w 7 3))
  | 7 => row w 0x00001C7F 0x00001C25 (.jmp (fld w 13 19) (fld w 7 3)) <|> row w 0x00001C7F 0x00001C65 (.jmpL (fld w 13 19) (fld w 7 3))
  | _ => none

/-- Major 0x13: global loads (R107, R224). -/
def major13 (w : Nat) : Option Instr :=
  match bitsOf w 29 3 with
  | 0 => row w 0xE000007F 0x00000027 (.ld (fld w 9 7) (fld w 16 7) (fld w 23 3) (fld w 26 3) (fld w 7 2)) <|> row w 0xE000007F 0x00000067 (.ldAcq (fld w 9 7) (fld w 16 7) (fld w 23 3) (fld w 26 3) (fld w 7 2))
  | 1 => row w 0xE000007F 0x20000027 (.ldnc (fld w 9 7) (fld w 16 7) (fld w 23 3) (fld w 26 3) (fld w 7 2))
  | 2 => row w 0xFC00007F 0x50000027 (.ldv (fld w 9 7) (fld w 16 7) (fld w 23 3) (fld w 7 2)) <|> row w 0xFC00007F 0x50000067 (.ldvAcq (fld w 9 7) (fld w 16 7) (fld w 23 3) (fld w 7 2))
  | 3 => row w 0xE000FFFF 0x60000027 (.pref (fld w 16 7) (fld w 23 3) (fld w 26 3))
  | _ => none

/-- Major 0x14: global stores (R107). -/
def major14 (w : Nat) : Option Instr :=
  match bitsOf w 29 3 with
  | 0 => row w 0xE000007F 0x00000029 (.st (fld w 9 7) (fld w 16 7) (fld w 23 3) (fld w 26 3) (fld w 7 2)) <|> row w 0xE000007F 0x00000069 (.stRel (fld w 9 7) (fld w 16 7) (fld w 23 3) (fld w 26 3) (fld w 7 2))
  | 1 => row w 0xE000007F 0x20000029 (.stnc (fld w 9 7) (fld w 16 7) (fld w 23 3) (fld w 26 3) (fld w 7 2))
  | _ => none

/-- Major 0x15: pad loads and stores (R107). -/
def major15 (w : Nat) : Option Instr :=
  match bitsOf w 29 3 with
  | 0 => row w 0xE000007F 0x0000002B (.ldp (fld w 9 7) (fld w 16 7) (fld w 26 3) (fld w 23 3) (fld w 7 2)) <|> row w 0xE000007F 0x0000006B (.ldpAcq (fld w 9 7) (fld w 16 7) (fld w 26 3) (fld w 23 3) (fld w 7 2))
  | 1 => row w 0xE000007F 0x2000002B (.stp (fld w 9 7) (fld w 16 7) (fld w 26 3) (fld w 23 3) (fld w 7 2)) <|> row w 0xE000007F 0x2000006B (.stpRel (fld w 9 7) (fld w 16 7) (fld w 26 3) (fld w 23 3) (fld w 7 2))
  | _ => none

/-- Major 0x16: algebra and drift control (R203, R224). -/
def major16 (w : Nat) : Option Instr :=
  match bitsOf w 29 3 with
  | 0 | 1 => row w 0xC000003F 0x0000002D (.algOp (fld w 9 7) (fld w 16 7) (fld w 23 3) (fld w 7 2) (fld w 26 4) (bit w 6))
  | 2 | 3 => row w 0xC000003F 0x4000002D (.algOpRet (fld w 9 7) (fld w 16 7) (fld w 23 3) (fld w 7 2) (fld w 26 4) (bit w 6))
  | 4 => row w 0xFC7FFFFF 0x807C002D (.algLoad (fld w 23 3))
  | 5 => row w 0xFC00FFFF 0xA000002D (.algFlush (fld w 16 7) (fld w 23 3))
  | 6 => row w 0xFFFF01FF 0xC07C002D (.algGen (fld w 9 7))
  | 7 => row w 0xFC00007F 0xE000002D (.dset (fld w 9 7) (fld w 16 7) (fld w 23 3) (fld w 7 2)) <|> row w 0xFC00FFFF 0xE400002D (.dflush (fld w 16 7) (fld w 23 3)) <|> row w 0xFC0001FF 0xE800012D (.dstat (fld w 9 7) (fld w 16 7) (fld w 23 3)) <|> row w 0xFFFF01FF 0xEC7C002D (.tlset (fld w 9 7)) <|> row w 0xFFFF01FF 0xF07C002D (.tlget (fld w 9 7))
  | _ => none

/-- Major 0x17: fences, waits, sleep (R127). -/
def major17 (w : Nat) : Option Instr :=
  match bitsOf w 24 7 with
  | 0 => row w 0xFFFFFFFF 0x0000002F (.fence)
  | 4 | 5 | 6 | 7 => row w 0x7C03FFFF 0x0400002F (.waitOc (fld w 18 6) (bit w 31) (fld w 24 2))
  | 8 | 9 | 10 | 11 => row w 0x7C03F03F 0x0800002F (.waitOcSt (fld w 6 6) (fld w 18 6) (bit w 31) (fld w 24 2))
  | 16 => row w 0xFFFFF03F 0x1000002F (.batch (fld w 6 6))
  | 17 => row w 0xFFFC0FFF 0x1100002F (.waitBatch (fld w 12 6))
  | 24 => row w 0x7F03FFFF 0x1800002F (.sleep (fld w 18 6) (bit w 31))
  | _ => none

/-- Major 0x18: gates and critical hints (R138). -/
def major18 (w : Nat) : Option Instr :=
  match bitsOf w 7 5 with
  | 0 => row w 0xFF000FFF 0x00000031 (.gateInit (fld w 12 6) (fld w 18 6))
  | 1 => row w 0xFFFC0FFF 0x000000B1 (.gateArm (fld w 12 6))
  | 2 => row w 0xFF000FFF 0x00000131 (.gateArrive (fld w 12 6) (fld w 18 6))
  | 3 => row w 0xFF000FFF 0x000001B1 (.gateExpect (fld w 12 6) (fld w 18 6))
  | 4 => row w 0xFF000FFF 0x00000231 (.gateWait (fld w 12 6) (fld w 18 6))
  | 5 => row w 0xFF040FFF 0x000002B1 (.gateTest (fld w 12 6) (fld w 19 5)) <|> row w 0xFF040FFF 0x800002B1 (.gateTestM (fld w 12 6) (fld w 19 5))
  | 6 => row w 0xFF040FFF 0x00000331 (.gateTwait (fld w 12 6) (fld w 19 5))
  | 7 => row w 0xFF000FFF 0x000003B1 (.gateEnlist (fld w 12 6) (fld w 18 6))
  | 8 => row w 0xFFFFFFFF 0x00000431 (.critOn)
  | 9 => row w 0xFFFFFFFF 0x000004B1 (.critOff)
  | _ => none

/-- Major 0x19: ferry (R150). -/
def major19 (w : Nat) : Option Instr :=
  match bitsOf w 7 5 with
  | 0 => row w 0x00000FBF 0x00000033 (.fyCopy (fld w 12 6) (fld w 18 6) (fld w 24 7) (bit w 6) (bit w 31))
  | 1 => row w 0x80000FFF 0x000000B3 (.fyMcast (fld w 12 6) (fld w 18 6) (fld w 24 7))
  | 2 => row w 0x80000FFF 0x00000133 (.fyGather (fld w 12 6) (fld w 18 6) (fld w 24 7))
  | 3 => row w 0x80000FFF 0x000001B3 (.fyFill (fld w 12 6) (fld w 18 6) (fld w 24 7))
  | 4 => row w 0xFF03FFFF 0x00000233 (.fyStat (fld w 18 6))
  | _ => none

/-- Major 0x1A: matrix engine (R170). -/
def major1A (w : Nat) : Option Instr :=
  match bitsOf w 7 5 with
  | 0 => row w 0xFF000FFF 0x00000035 (.mxWload (fld w 12 6) (fld w 18 6))
  | 1 => row w 0xFF000FFF 0x000000B5 (.mxStream (fld w 12 6) (fld w 18 6))
  | 2 => row w 0xFF03FFFF 0x00000135 (.mxZero (fld w 18 6))
  | 3 => row w 0xFF000FFF 0x000001B5 (.mxRead (fld w 12 6) (fld w 18 6))
  | 4 => row w 0xFF000FFF 0x00000235 (.mxStore (fld w 12 6) (fld w 18 6))
  | 5 => row w 0xFF000FFF 0x000002B5 (.mxScale (fld w 12 6) (fld w 18 6))
  | 6 => row w 0xFF000FFF 0x00000335 (.mxArm (fld w 12 6) (fld w 18 6))
  | _ => none

/-- Major 0x1B: amplitude engine (R235). -/
def major1B (w : Nat) : Option Instr :=
  match bitsOf w 7 5 with
  | 0 => row w 0xFF000FFF 0x00000037 (.ampBind (fld w 12 6) (fld w 18 6))
  | 1 => row w 0xFF000FFF 0x000000B7 (.ampGate (fld w 12 6) (fld w 18 6))
  | 2 => row w 0xFF000FFF 0x00000137 (.ampDiag (fld w 12 6) (fld w 18 6))
  | 3 => row w 0xFFFC0FFF 0x000001B7 (.ampSwap (fld w 12 6))
  | 4 => row w 0xFF000FFF 0x00000237 (.ampProb (fld w 12 6) (fld w 18 6))
  | 5 => row w 0xFF000FFF 0x000002B7 (.ampNorm (fld w 12 6) (fld w 18 6))
  | 6 => row w 0xFF000FFF 0x00000337 (.ampMap (fld w 12 6) (fld w 18 6))
  | _ => none

/-- Major 0x1C: fabric and collectives (R259). -/
def major1C (w : Nat) : Option Instr :=
  match bitsOf w 7 5 with
  | 0 => row w 0x00FC0FFF 0x00000039 (.rld (fld w 12 6) (fld w 24 7) (bit w 31))
  | 1 => row w 0x00FC0FFF 0x000000B9 (.rst (fld w 12 6) (fld w 24 7) (bit w 31))
  | 2 => row w 0x80000FFF 0x00000139 (.ralg (fld w 12 6) (fld w 18 6) (fld w 24 7)) <|> row w 0x80000FFF 0x00000179 (.ralgRet (fld w 12 6) (fld w 18 6) (fld w 24 7))
  | 3 => row w 0xFF000FFF 0x000001B9 (.rfenceFlag (fld w 12 6) (fld w 18 6))
  | 4 => row w 0x83FFFFFF 0x00000239 (.collPut (fld w 26 5))
  | 5 => row w 0xFF001FFF 0x000002B9 (.collAcc (fld w 13 5) (fld w 18 6))
  | 6 => row w 0x80000FFF 0x00000339 (.dred (fld w 12 6) (fld w 18 6) (fld w 24 7))
  | _ => none

/-- Major 0x1D: privileged (R291); die.ctl is one word for its ten rows, told apart by s[A6] when it runs. -/
def major1D (w : Nat) : Option Instr :=
  match bitsOf w 30 2 with
  | 0 => row w 0xC003F03F 0x0000003B (.sysrd (fld w 6 6) (fld w 18 12))
  | 1 => row w 0xC0000FFF 0x4000003B (.syswr (fld w 18 12) (fld w 12 6))
  | 2 => row w 0xFFFC0FFF 0x8000003B (.tlbInv (fld w 12 6)) <|> row w 0xFFFC0FFF 0x8004003B (.xinval (fld w 12 6)) <|> row w 0xFFFC003F 0x8008003B (.pgmap (fld w 6 6) (fld w 12 6)) <|> row w 0xFFFFFFFF 0x800C003B (.fret) <|> row w 0xFFFC003F 0x8010003B (.wfi (fld w 6 6) (fld w 12 6)) <|> row w 0xFFFC003F 0x8014003B (.halt (fld w 6 6) (fld w 12 6)) <|> row w 0xFFFFF03F 0x8018003B (.ctxSwap (fld w 6 6)) <|> row w 0xFFFFF03F 0x801C003B (.ctxKill (fld w 6 6)) <|> row w 0xFFFC003F 0x8020003B (.dieCtlRead (fld w 6 6) (fld w 12 6))
  | _ => none

/-- Major 0x1E: translation registers, traps, exit (R90, R106). -/
def major1E (w : Nat) : Option Instr :=
  match bitsOf w 24 7 with
  | 0 => row w 0xFFFC0E3F 0x8000003D (.xset (fld w 6 3) (fld w 12 6)) <|> row w 0xFF000E3F 0x0000003D (.xsetCap (fld w 6 3) (fld w 12 6) (fld w 18 6))
  | 1 => row w 0x7F038E3F 0x0100003D (.xadd (fld w 6 3) (fld w 12 3) (fld w 18 6) (bit w 31))
  | 2 => row w 0xFF03803F 0x8200003D (.xget (fld w 6 6) (fld w 12 3) (fld w 18 6))
  | 32 => row w 0xFF03FFFF 0xA000003D (.trap (fld w 18 6))
  | 33 => row w 0xFFFFFFFF 0x2100003D (.brk)
  | 34 => row w 0xFFFFFFFF 0x2200003D (.exit)
  | 35 => row w 0xFFFC0FFF 0x2300003D (.sleepUntil (fld w 12 6))
  | _ => none

/-- Major 0x1F: R30 to R32. -/
def major1F (w : Nat) : Option Instr :=
  match bitsOf w 6 2 with
  | 0 => row w 0x000000FF 0x0000003F (.imx (fld w 8 24))
  | 1 => row w 0xFFFF80FF 0x0000007F (.addendPrefix (fld w 8 7))
  | _ => none

/-- The compact forms (R33, R34). -/
def compact (w : Nat) : Option Instr :=
  match bitsOf w 1 4 with
  | 0 => row w 0x001F 0x0000 (.movCompact (fld w 5 6) (fld w 11 5))
  | 1 => row w 0x001F 0x0002 (.addI32Compact (fld w 5 6) (fld w 11 5))
  | 2 => row w 0x001F 0x0004 (.subI32Compact (fld w 5 6) (fld w 11 5))
  | 3 => row w 0x001F 0x0006 (.mulloI32Compact (fld w 5 6) (fld w 11 5))
  | 4 => row w 0x001F 0x0008 (.andCompact (fld w 5 6) (fld w 11 5))
  | 5 => row w 0x001F 0x000A (.orCompact (fld w 5 6) (fld w 11 5))
  | 6 => row w 0x001F 0x000C (.xorCompact (fld w 5 6) (fld w 11 5))
  | 7 => row w 0x001F 0x000E (.shlCompact (fld w 5 6) (fld w 11 5))
  | 8 => row w 0x001F 0x0010 (.shrCompact (fld w 5 6) (fld w 11 5))
  | 9 => row w 0x001F 0x0012 (.addF32Compact (fld w 5 6) (fld w 11 5))
  | 10 => row w 0x001F 0x0014 (.subF32Compact (fld w 5 6) (fld w 11 5))
  | 11 => row w 0x001F 0x0016 (.mulF32Compact (fld w 5 6) (fld w 11 5))
  | 12 => row w 0x001F 0x0018 (.maxF32Compact (fld w 5 6) (fld w 11 5))
  | 13 => row w 0x001F 0x001A (.minF32Compact (fld w 5 6) (fld w 11 5))
  | 14 => row w 0x001F 0x001C (.addiCompact (fld w 5 6) (fld w 11 5))
  | 15 => row w 0xFFFF 0x001E (.nop)
  | _ => none

/-- A 32-bit word by its major (R19, R35). -/
def word (w : Nat) : Option Instr :=
  match bitsOf w 1 5 with
  | 0 => major00 w
  | 1 => major01 w
  | 2 => major02 w
  | 3 => major03 w
  | 4 => major04 w
  | 5 => major05 w
  | 6 => major06 w
  | 7 => major07 w
  | 8 => major08 w
  | 9 => major09 w
  | 10 => major0A w
  | 11 => major0B w
  | 12 => major0C w
  | 13 => major0D w
  | 14 => major0E w
  | 15 => major0F w
  | 16 => major10 w
  | 17 => major11 w
  | 18 => major12 w
  | 19 => major13 w
  | 20 => major14 w
  | 21 => major15 w
  | 22 => major16 w
  | 23 => major17 w
  | 24 => major18 w
  | 25 => major19 w
  | 26 => major1A w
  | 27 => major1B w
  | 28 => major1C w
  | 29 => major1D w
  | 30 => major1E w
  | 31 => major1F w
  | _ => none

end Decode

/-- The instruction of a 32-bit word (R18 bit 0 set), or none where it is no legal encoding. -/
def decodeWord (w : Nat) : Option Instr := (Decode.word w).filter (·.wellFormed)

/-- The instruction of a 16-bit compact form (R18 bit 0 clear), or none. -/
def decodeHalf (h : Nat) : Option Instr := (Decode.compact h).filter (·.wellFormed)

/-- Bytes as a little-endian number (R18). -/
def leNat : List Byte → Nat
  | [] => 0
  | b :: bs => b.toNat + 256 * leNat bs

/-- The `n` little-endian bytes of a number (R18). -/
def leBytes : Nat → Nat → List Byte
  | 0, _ => []
  | n + 1, w => BitVec.ofNat 8 w :: leBytes n (w / 256)

/-- The first instruction of a run of bytes, and the bytes after it; none where they hold no legal encoding (R18, R40). -/
def decode : List Byte → Option (Instr × List Byte)
  | b0 :: b1 :: rest =>
    if bitAt b0.toNat 0 then
      match rest with
      | b2 :: b3 :: rest' => (decodeWord (leNat [b0, b1, b2, b3])).map (·, rest')
      | _ => none
    else (decodeHalf (leNat [b0, b1])).map (·, rest)
  | _ => none

/-- The instruction the decoder reads from the bits `w` of an opcode-table row of `nbits` bits, laid out little-endian
from the first halfword, with zero bits above (R18). -/
def decodeTableWord (nbits w : Nat) : Option Instr :=
  if nbits = 0 then none else (decode (leBytes 4 (w % 2 ^ nbits))).map (·.1)

/-- The bytes an instruction occupies: 2 for a compact form, 4 for a word, 0 for an event. -/
def Instr.bytes : Instr → Nat
  | .addI32 _ _ _ _ _ => 4
  | .subI32 _ _ _ _ _ => 4
  | .mulloI32 _ _ _ _ _ => 4
  | .madI32 _ _ _ _ _ => 4
  | .mulhiI32 _ _ _ _ _ => 4
  | .mulhiN32 _ _ _ _ _ => 4
  | .addsatI32 _ _ _ _ _ => 4
  | .subsatI32 _ _ _ _ _ => 4
  | .minI32 _ _ _ _ _ => 4
  | .maxI32 _ _ _ _ _ => 4
  | .minN32 _ _ _ _ _ => 4
  | .maxN32 _ _ _ _ _ => 4
  | .and _ _ _ _ _ => 4
  | .or _ _ _ _ _ => 4
  | .xor _ _ _ _ _ => 4
  | .andn _ _ _ _ _ => 4
  | .shl _ _ _ _ _ => 4
  | .shr _ _ _ _ _ => 4
  | .sar _ _ _ _ _ => 4
  | .rot _ _ _ _ _ => 4
  | .orn _ _ _ _ _ => 4
  | .absdiffI32 _ _ _ _ _ => 4
  | .addI64 _ _ _ _ _ => 4
  | .subI64 _ _ _ _ _ => 4
  | .mulI64 _ _ _ _ _ => 4
  | .shlI64 _ _ _ _ _ => 4
  | .shrI64 _ _ _ _ _ => 4
  | .sarI64 _ _ _ _ _ => 4
  | .divI32 _ _ _ _ _ => 4
  | .divN32 _ _ _ _ _ => 4
  | .remI32 _ _ _ _ _ => 4
  | .remN32 _ _ _ _ _ => 4
  | .addF32 _ _ _ _ _ => 4
  | .subF32 _ _ _ _ _ => 4
  | .mulF32 _ _ _ _ _ => 4
  | .fmaF32 _ _ _ _ _ => 4
  | .minF32 _ _ _ _ _ => 4
  | .maxF32 _ _ _ _ _ => 4
  | .addF16x2 _ _ _ _ _ => 4
  | .mulF16x2 _ _ _ _ _ => 4
  | .addF64 _ _ _ _ _ => 4
  | .subF64 _ _ _ _ _ => 4
  | .mulF64 _ _ _ _ _ => 4
  | .fmaF64 _ _ _ _ _ => 4
  | .fmaF16x2 _ _ _ _ _ => 4
  | .addBf16x2 _ _ _ _ _ => 4
  | .mulBf16x2 _ _ _ _ _ => 4
  | .fmaBf16x2 _ _ _ _ _ => 4
  | .set _ _ _ => 4
  | .addi _ _ _ _ => 4
  | .muli _ _ _ _ => 4
  | .andi _ _ _ _ => 4
  | .ori _ _ _ _ => 4
  | .xori _ _ _ _ => 4
  | .shli _ _ _ _ => 4
  | .shri _ _ _ _ => 4
  | .sari _ _ _ _ => 4
  | .rsbi _ _ _ _ => 4
  | .mini _ _ _ _ => 4
  | .maxi _ _ _ _ => 4
  | .setiF32 _ _ _ => 4
  | .addiF32 _ _ _ _ => 4
  | .muliF32 _ _ _ _ => 4
  | .mov _ _ _ _ => 4
  | .not _ _ _ _ => 4
  | .negI32 _ _ _ _ => 4
  | .absI32 _ _ _ _ => 4
  | .popc _ _ _ _ => 4
  | .clz _ _ _ _ => 4
  | .ctz _ _ _ _ => 4
  | .brev _ _ _ _ => 4
  | .bswap _ _ _ _ => 4
  | .negF32 _ _ _ _ => 4
  | .absF32 _ _ _ _ => 4
  | .rcpF32 _ _ _ _ => 4
  | .rsqrtF32 _ _ _ _ => 4
  | .sqrtF32 _ _ _ _ => 4
  | .exp2F32 _ _ _ _ => 4
  | .log2F32 _ _ _ _ => 4
  | .sinpiF32 _ _ _ _ => 4
  | .cospiF32 _ _ _ _ => 4
  | .tanhF32 _ _ _ _ => 4
  | .rcpF64 _ _ _ _ => 4
  | .sqrtF64 _ _ _ _ => 4
  | .rndF32 _ _ _ _ _ => 4
  | .fsrGet _ _ => 4
  | .fsrClr _ _ _ => 4
  | .packNx _ _ _ _ => 4
  | .unpackNx _ _ _ _ => 4
  | .cvt _ _ _ _ _ _ => 4
  | .cmp _ _ _ _ _ => 4
  | .kand _ _ _ => 4
  | .kor _ _ _ => 4
  | .kxor _ _ _ => 4
  | .knot _ _ => 4
  | .kmov _ _ => 4
  | .kpop _ _ => 4
  | .kfirst _ _ => 4
  | .sel _ _ _ _ => 4
  | .shfIdx _ _ _ => 4
  | .shfUp _ _ _ => 4
  | .shfDown _ _ _ => 4
  | .shfXor _ _ _ => 4
  | .bcast _ _ _ => 4
  | .vote _ _ => 4
  | .redAddI32 _ _ => 4
  | .redAddF32 _ _ => 4
  | .redMinI32 _ _ => 4
  | .redMinF32 _ _ => 4
  | .redMaxI32 _ _ => 4
  | .redMaxF32 _ _ => 4
  | .movCompact _ _ => 2
  | .addI32Compact _ _ => 2
  | .subI32Compact _ _ => 2
  | .mulloI32Compact _ _ => 2
  | .andCompact _ _ => 2
  | .orCompact _ _ => 2
  | .xorCompact _ _ => 2
  | .shlCompact _ _ => 2
  | .shrCompact _ _ => 2
  | .addF32Compact _ _ => 2
  | .subF32Compact _ _ => 2
  | .mulF32Compact _ _ => 2
  | .maxF32Compact _ _ => 2
  | .minF32Compact _ _ => 2
  | .addiCompact _ _ => 2
  | .nop => 2
  | .imx _ => 4
  | .addendPrefix _ => 4
  | .sadd _ _ _ _ => 4
  | .ssub _ _ _ _ => 4
  | .smul _ _ _ _ => 4
  | .sand _ _ _ _ => 4
  | .sor _ _ _ _ => 4
  | .sxor _ _ _ _ => 4
  | .sshl _ _ _ _ => 4
  | .sshr _ _ _ _ => 4
  | .smov _ _ _ => 4
  | .scmpEq _ _ _ _ => 4
  | .scmpNe _ _ _ _ => 4
  | .scmpLtI64 _ _ _ _ => 4
  | .scmpLeI64 _ _ _ _ => 4
  | .scmpGtI64 _ _ _ _ => 4
  | .scmpGeI64 _ _ _ _ => 4
  | .scmpLtN64 _ _ _ _ => 4
  | .scmpLeN64 _ _ _ _ => 4
  | .scmpGtN64 _ _ _ _ => 4
  | .scmpGeN64 _ _ _ _ => 4
  | .sld _ _ _ _ => 4
  | .sst _ _ _ _ => 4
  | .sid _ _ => 4
  | .vget _ _ _ _ => 4
  | .vput _ _ _ _ => 4
  | .fmtSet _ _ => 4
  | .fmtGet _ _ => 4
  | .bra _ => 4
  | .call _ _ => 4
  | .bany _ _ => 4
  | .ball _ _ => 4
  | .bnone _ _ => 4
  | .bz _ _ => 4
  | .bnz _ _ => 4
  | .ret _ => 4
  | .jmp _ _ => 4
  | .jmpL _ _ => 4
  | .ld _ _ _ _ _ => 4
  | .ldAcq _ _ _ _ _ => 4
  | .ldnc _ _ _ _ _ => 4
  | .ldv _ _ _ _ => 4
  | .ldvAcq _ _ _ _ => 4
  | .pref _ _ _ => 4
  | .st _ _ _ _ _ => 4
  | .stRel _ _ _ _ _ => 4
  | .stnc _ _ _ _ _ => 4
  | .ldp _ _ _ _ _ => 4
  | .ldpAcq _ _ _ _ _ => 4
  | .stp _ _ _ _ _ => 4
  | .stpRel _ _ _ _ _ => 4
  | .algOp _ _ _ _ _ _ => 4
  | .algOpRet _ _ _ _ _ _ => 4
  | .algLoad _ => 4
  | .algFlush _ _ => 4
  | .algGen _ => 4
  | .dset _ _ _ _ => 4
  | .dflush _ _ => 4
  | .dstat _ _ _ => 4
  | .tlset _ => 4
  | .tlget _ => 4
  | .fence => 4
  | .waitOc _ _ _ => 4
  | .waitOcSt _ _ _ _ => 4
  | .batch _ => 4
  | .waitBatch _ => 4
  | .sleep _ _ => 4
  | .gateInit _ _ => 4
  | .gateArm _ => 4
  | .gateArrive _ _ => 4
  | .gateExpect _ _ => 4
  | .gateWait _ _ => 4
  | .gateTest _ _ => 4
  | .gateTestM _ _ => 4
  | .gateTwait _ _ => 4
  | .gateEnlist _ _ => 4
  | .critOn => 4
  | .critOff => 4
  | .fyCopy _ _ _ _ _ => 4
  | .fyMcast _ _ _ => 4
  | .fyGather _ _ _ => 4
  | .fyFill _ _ _ => 4
  | .fyStat _ => 4
  | .mxWload _ _ => 4
  | .mxStream _ _ => 4
  | .mxZero _ => 4
  | .mxRead _ _ => 4
  | .mxStore _ _ => 4
  | .mxScale _ _ => 4
  | .mxArm _ _ => 4
  | .ampBind _ _ => 4
  | .ampGate _ _ => 4
  | .ampDiag _ _ => 4
  | .ampSwap _ => 4
  | .ampProb _ _ => 4
  | .ampNorm _ _ => 4
  | .ampMap _ _ => 4
  | .rld _ _ _ => 4
  | .rst _ _ _ => 4
  | .ralg _ _ _ => 4
  | .ralgRet _ _ _ => 4
  | .rfenceFlag _ _ => 4
  | .collPut _ => 4
  | .collAcc _ _ => 4
  | .dred _ _ _ => 4
  | .sysrd _ _ => 4
  | .syswr _ _ => 4
  | .sysEvtClear _ _ => 0
  | .poolLeftWrite _ _ => 0
  | .tlbInv _ => 4
  | .xinval _ => 4
  | .pgmap _ _ => 4
  | .fret => 4
  | .wfi _ _ => 4
  | .halt _ _ => 4
  | .ctxSwap _ => 4
  | .ctxKill _ => 4
  | .dieCtlRead _ _ => 4
  | .dieCtlStop _ _ => 4
  | .dieCtlRequeue _ _ => 4
  | .dieCtlQuiesce _ _ => 4
  | .dieCtlWriteback _ _ => 4
  | .dieCtlStray _ _ => 4
  | .dieCtlReset _ _ => 4
  | .dieCtlAdmit _ _ => 4
  | .dieCtlFence _ _ => 4
  | .dieCtlResume _ _ => 4
  | .xset _ _ => 4
  | .xsetCap _ _ _ => 4
  | .xadd _ _ _ _ => 4
  | .xget _ _ _ => 4
  | .trap _ => 4
  | .brk => 4
  | .exit => 4
  | .sleepUntil _ => 4
  | .resultArrival _ _ _ => 0
  | .waitCompletes _ => 0
  | .deadlineReached _ => 0
  | .critDeferralExpired _ => 0
  | .groupHalted _ => 0
  | .trapEntry _ => 0
  | .blockRetire _ => 0
  | .wcbDrain _ _ => 0
  | .pageWalk _ _ => 0
  | .frameReturn _ _ => 0
  | .gateDelivery _ _ => 0
  | .ferryStart _ => 0
  | .enginePageFault _ => 0
  | .ferryPageMapped _ => 0
  | .mcastAcceptance _ _ => 0
  | .ferryDelivery _ _ _ => 0
  | .ferryLand _ => 0
  | .ferryComplete _ => 0
  | .mxExecute _ => 0
  | .subarrayWake _ _ => 0
  | .mxPerformed _ _ => 0
  | .mxComplete _ => 0
  | .subarrayIdleGating _ _ => 0
  | .contributionArrival _ => 0
  | .armTimeout _ => 0
  | .ampStart _ => 0
  | .ampExchangeDone _ _ => 0
  | .deviceExchangeTimeout _ => 0
  | .ampApplyDone _ => 0
  | .ampComplete _ => 0
  | .landingEntryArrival _ => 0
  | .landingApply _ _ _ => 0
  | .grantRequest _ => 0
  | .grantReply _ _ => 0
  | .refusalExpiry _ _ => 0
  | .shareCutCall _ _ => 0
  | .drainCall _ _ => 0
  | .holderMessage _ _ => 0
  | .ldvRequest _ => 0
  | .packetIdleTimeout _ => 0
  | .inboundPacket _ => 0
  | .packetApplyExpiry _ => 0
  | .remoteCompletion _ _ _ => 0
  | .remoteTimeout _ => 0
  | .rfenceFlagWrite _ => 0
  | .dredContribution _ => 0
  | .dredDeadline _ => 0
  | .dredResultWrite _ => 0
  | .launchAdmission _ _ => 0
  | .blockPlacement _ _ _ => 0
  | .launchCompletion _ _ => 0
  | .renameCommit _ _ => 0
  | .cancelPacket _ _ => 0
  | .openPacket _ _ => 0
  | .closePacket _ _ => 0
  | .governorTick _ => 0
  | .uncorrectableError _ => 0
  | .correctableError _ => 0
  | .dieLost _ => 0
  | .operatingPointCommand _ _ => 0
  | .operatingPointSettled _ => 0
  | .powerCapWrite _ => 0
  | .powerLimitThrottle _ _ => 0
  | .thermalTrip _ => 0
  | .currentBoundTrip _ => 0
  | .hostLoadTimeout _ _ => 0
  | .hostStoreTimeout _ => 0
  | .hostAccess _ => 0
  | .controlWindowWrite _ _ => 0
  | .hostEvtWrite _ _ => 0
  | .attestationNonce _ => 0
  | .linkReset => 0
  | .powerOn _ _ _ => 0
  | .storeTakesEffectAtHome _ => 0
  | .fabricLinkFailure _ => 0
  | .deviceExchangeRefused _ => 0
  | .powerLimitRelease _ => 0

/-- The word of an instruction: its fixed bits and its fields in their places (R19). Events have none. -/
def encode : Instr → Nat
  | .addI32 d a b w n => 0x00000001 + d.toNat * 0x200 + a.toNat * 0x10000 + b.toNat * 0x800000 + w.toNat * 0x80 + n.toNat * 0x40
  | .subI32 d a b w n => 0x40000001 + d.toNat * 0x200 + a.toNat * 0x10000 + b.toNat * 0x800000 + w.toNat * 0x80 + n.toNat * 0x40
  | .mulloI32 d a b w n => 0x80000001 + d.toNat * 0x200 + a.toNat * 0x10000 + b.toNat * 0x800000 + w.toNat * 0x80 + n.toNat * 0x40
  | .madI32 d a b w n => 0xC0000001 + d.toNat * 0x200 + a.toNat * 0x10000 + b.toNat * 0x800000 + w.toNat * 0x80 + n.toNat * 0x40
  | .mulhiI32 d a b w n => 0x00000003 + d.toNat * 0x200 + a.toNat * 0x10000 + b.toNat * 0x800000 + w.toNat * 0x80 + n.toNat * 0x40
  | .mulhiN32 d a b w n => 0x40000003 + d.toNat * 0x200 + a.toNat * 0x10000 + b.toNat * 0x800000 + w.toNat * 0x80 + n.toNat * 0x40
  | .addsatI32 d a b w n => 0x80000003 + d.toNat * 0x200 + a.toNat * 0x10000 + b.toNat * 0x800000 + w.toNat * 0x80 + n.toNat * 0x40
  | .subsatI32 d a b w n => 0xC0000003 + d.toNat * 0x200 + a.toNat * 0x10000 + b.toNat * 0x800000 + w.toNat * 0x80 + n.toNat * 0x40
  | .minI32 d a b w n => 0x00000005 + d.toNat * 0x200 + a.toNat * 0x10000 + b.toNat * 0x800000 + w.toNat * 0x80 + n.toNat * 0x40
  | .maxI32 d a b w n => 0x40000005 + d.toNat * 0x200 + a.toNat * 0x10000 + b.toNat * 0x800000 + w.toNat * 0x80 + n.toNat * 0x40
  | .minN32 d a b w n => 0x80000005 + d.toNat * 0x200 + a.toNat * 0x10000 + b.toNat * 0x800000 + w.toNat * 0x80 + n.toNat * 0x40
  | .maxN32 d a b w n => 0xC0000005 + d.toNat * 0x200 + a.toNat * 0x10000 + b.toNat * 0x800000 + w.toNat * 0x80 + n.toNat * 0x40
  | .and d a b w n => 0x00000007 + d.toNat * 0x200 + a.toNat * 0x10000 + b.toNat * 0x800000 + w.toNat * 0x80 + n.toNat * 0x40
  | .or d a b w n => 0x40000007 + d.toNat * 0x200 + a.toNat * 0x10000 + b.toNat * 0x800000 + w.toNat * 0x80 + n.toNat * 0x40
  | .xor d a b w n => 0x80000007 + d.toNat * 0x200 + a.toNat * 0x10000 + b.toNat * 0x800000 + w.toNat * 0x80 + n.toNat * 0x40
  | .andn d a b w n => 0xC0000007 + d.toNat * 0x200 + a.toNat * 0x10000 + b.toNat * 0x800000 + w.toNat * 0x80 + n.toNat * 0x40
  | .shl d a b w n => 0x00000009 + d.toNat * 0x200 + a.toNat * 0x10000 + b.toNat * 0x800000 + w.toNat * 0x80 + n.toNat * 0x40
  | .shr d a b w n => 0x40000009 + d.toNat * 0x200 + a.toNat * 0x10000 + b.toNat * 0x800000 + w.toNat * 0x80 + n.toNat * 0x40
  | .sar d a b w n => 0x80000009 + d.toNat * 0x200 + a.toNat * 0x10000 + b.toNat * 0x800000 + w.toNat * 0x80 + n.toNat * 0x40
  | .rot d a b w n => 0xC0000009 + d.toNat * 0x200 + a.toNat * 0x10000 + b.toNat * 0x800000 + w.toNat * 0x80 + n.toNat * 0x40
  | .orn d a b w n => 0x0000000B + d.toNat * 0x200 + a.toNat * 0x10000 + b.toNat * 0x800000 + w.toNat * 0x80 + n.toNat * 0x40
  | .absdiffI32 d a b w n => 0x4000000B + d.toNat * 0x200 + a.toNat * 0x10000 + b.toNat * 0x800000 + w.toNat * 0x80 + n.toNat * 0x40
  | .addI64 d a b w n => 0x8000000B + d.toNat * 0x200 + a.toNat * 0x10000 + b.toNat * 0x800000 + w.toNat * 0x80 + n.toNat * 0x40
  | .subI64 d a b w n => 0xC000000B + d.toNat * 0x200 + a.toNat * 0x10000 + b.toNat * 0x800000 + w.toNat * 0x80 + n.toNat * 0x40
  | .mulI64 d a b w n => 0x0000000D + d.toNat * 0x200 + a.toNat * 0x10000 + b.toNat * 0x800000 + w.toNat * 0x80 + n.toNat * 0x40
  | .shlI64 d a b w n => 0x4000000D + d.toNat * 0x200 + a.toNat * 0x10000 + b.toNat * 0x800000 + w.toNat * 0x80 + n.toNat * 0x40
  | .shrI64 d a b w n => 0x8000000D + d.toNat * 0x200 + a.toNat * 0x10000 + b.toNat * 0x800000 + w.toNat * 0x80 + n.toNat * 0x40
  | .sarI64 d a b w n => 0xC000000D + d.toNat * 0x200 + a.toNat * 0x10000 + b.toNat * 0x800000 + w.toNat * 0x80 + n.toNat * 0x40
  | .divI32 d a b w n => 0x0000000F + d.toNat * 0x200 + a.toNat * 0x10000 + b.toNat * 0x800000 + w.toNat * 0x80 + n.toNat * 0x40
  | .divN32 d a b w n => 0x4000000F + d.toNat * 0x200 + a.toNat * 0x10000 + b.toNat * 0x800000 + w.toNat * 0x80 + n.toNat * 0x40
  | .remI32 d a b w n => 0x8000000F + d.toNat * 0x200 + a.toNat * 0x10000 + b.toNat * 0x800000 + w.toNat * 0x80 + n.toNat * 0x40
  | .remN32 d a b w n => 0xC000000F + d.toNat * 0x200 + a.toNat * 0x10000 + b.toNat * 0x800000 + w.toNat * 0x80 + n.toNat * 0x40
  | .addF32 d a b w n => 0x00000011 + d.toNat * 0x200 + a.toNat * 0x10000 + b.toNat * 0x800000 + w.toNat * 0x80 + n.toNat * 0x40
  | .subF32 d a b w n => 0x40000011 + d.toNat * 0x200 + a.toNat * 0x10000 + b.toNat * 0x800000 + w.toNat * 0x80 + n.toNat * 0x40
  | .mulF32 d a b w n => 0x80000011 + d.toNat * 0x200 + a.toNat * 0x10000 + b.toNat * 0x800000 + w.toNat * 0x80 + n.toNat * 0x40
  | .fmaF32 d a b w n => 0xC0000011 + d.toNat * 0x200 + a.toNat * 0x10000 + b.toNat * 0x800000 + w.toNat * 0x80 + n.toNat * 0x40
  | .minF32 d a b w n => 0x00000013 + d.toNat * 0x200 + a.toNat * 0x10000 + b.toNat * 0x800000 + w.toNat * 0x80 + n.toNat * 0x40
  | .maxF32 d a b w n => 0x40000013 + d.toNat * 0x200 + a.toNat * 0x10000 + b.toNat * 0x800000 + w.toNat * 0x80 + n.toNat * 0x40
  | .addF16x2 d a b w n => 0x80000013 + d.toNat * 0x200 + a.toNat * 0x10000 + b.toNat * 0x800000 + w.toNat * 0x80 + n.toNat * 0x40
  | .mulF16x2 d a b w n => 0xC0000013 + d.toNat * 0x200 + a.toNat * 0x10000 + b.toNat * 0x800000 + w.toNat * 0x80 + n.toNat * 0x40
  | .addF64 d a b w n => 0x00000015 + d.toNat * 0x200 + a.toNat * 0x10000 + b.toNat * 0x800000 + w.toNat * 0x80 + n.toNat * 0x40
  | .subF64 d a b w n => 0x40000015 + d.toNat * 0x200 + a.toNat * 0x10000 + b.toNat * 0x800000 + w.toNat * 0x80 + n.toNat * 0x40
  | .mulF64 d a b w n => 0x80000015 + d.toNat * 0x200 + a.toNat * 0x10000 + b.toNat * 0x800000 + w.toNat * 0x80 + n.toNat * 0x40
  | .fmaF64 d a b w n => 0xC0000015 + d.toNat * 0x200 + a.toNat * 0x10000 + b.toNat * 0x800000 + w.toNat * 0x80 + n.toNat * 0x40
  | .fmaF16x2 d a b w n => 0x00000017 + d.toNat * 0x200 + a.toNat * 0x10000 + b.toNat * 0x800000 + w.toNat * 0x80 + n.toNat * 0x40
  | .addBf16x2 d a b w n => 0x40000017 + d.toNat * 0x200 + a.toNat * 0x10000 + b.toNat * 0x800000 + w.toNat * 0x80 + n.toNat * 0x40
  | .mulBf16x2 d a b w n => 0x80000017 + d.toNat * 0x200 + a.toNat * 0x10000 + b.toNat * 0x800000 + w.toNat * 0x80 + n.toNat * 0x40
  | .fmaBf16x2 d a b w n => 0xC0000017 + d.toNat * 0x200 + a.toNat * 0x10000 + b.toNat * 0x800000 + w.toNat * 0x80 + n.toNat * 0x40
  | .set d i n => 0x001F0019 + d.toNat * 0x80 + i.toNat * 0x1000000 + n.toNat * 0x40
  | .addi d a i n => 0x00200019 + d.toNat * 0x80 + a.toNat * 0x4000 + i.toNat * 0x1000000 + n.toNat * 0x40
  | .muli d a i n => 0x00400019 + d.toNat * 0x80 + a.toNat * 0x4000 + i.toNat * 0x1000000 + n.toNat * 0x40
  | .andi d a i n => 0x00600019 + d.toNat * 0x80 + a.toNat * 0x4000 + i.toNat * 0x1000000 + n.toNat * 0x40
  | .ori d a i n => 0x00800019 + d.toNat * 0x80 + a.toNat * 0x4000 + i.toNat * 0x1000000 + n.toNat * 0x40
  | .xori d a i n => 0x00A00019 + d.toNat * 0x80 + a.toNat * 0x4000 + i.toNat * 0x1000000 + n.toNat * 0x40
  | .shli d a i n => 0x00C00019 + d.toNat * 0x80 + a.toNat * 0x4000 + i.toNat * 0x1000000 + n.toNat * 0x40
  | .shri d a i n => 0x00E00019 + d.toNat * 0x80 + a.toNat * 0x4000 + i.toNat * 0x1000000 + n.toNat * 0x40
  | .sari d a i n => 0x0000001B + d.toNat * 0x80 + a.toNat * 0x4000 + i.toNat * 0x1000000 + n.toNat * 0x40
  | .rsbi d a i n => 0x0020001B + d.toNat * 0x80 + a.toNat * 0x4000 + i.toNat * 0x1000000 + n.toNat * 0x40
  | .mini d a i n => 0x0040001B + d.toNat * 0x80 + a.toNat * 0x4000 + i.toNat * 0x1000000 + n.toNat * 0x40
  | .maxi d a i n => 0x0060001B + d.toNat * 0x80 + a.toNat * 0x4000 + i.toNat * 0x1000000 + n.toNat * 0x40
  | .setiF32 d i n => 0x009F001B + d.toNat * 0x80 + i.toNat * 0x1000000 + n.toNat * 0x40
  | .addiF32 d a i n => 0x00A0001B + d.toNat * 0x80 + a.toNat * 0x4000 + i.toNat * 0x1000000 + n.toNat * 0x40
  | .muliF32 d a i n => 0x00C0001B + d.toNat * 0x80 + a.toNat * 0x4000 + i.toNat * 0x1000000 + n.toNat * 0x40
  | .mov d a w n => 0x0000001D + d.toNat * 0x200 + a.toNat * 0x10000 + w.toNat * 0x80 + n.toNat * 0x40
  | .not d a w n => 0x0080001D + d.toNat * 0x200 + a.toNat * 0x10000 + w.toNat * 0x80 + n.toNat * 0x40
  | .negI32 d a w n => 0x0100001D + d.toNat * 0x200 + a.toNat * 0x10000 + w.toNat * 0x80 + n.toNat * 0x40
  | .absI32 d a w n => 0x0180001D + d.toNat * 0x200 + a.toNat * 0x10000 + w.toNat * 0x80 + n.toNat * 0x40
  | .popc d a w n => 0x0200001D + d.toNat * 0x200 + a.toNat * 0x10000 + w.toNat * 0x80 + n.toNat * 0x40
  | .clz d a w n => 0x0280001D + d.toNat * 0x200 + a.toNat * 0x10000 + w.toNat * 0x80 + n.toNat * 0x40
  | .ctz d a w n => 0x0300001D + d.toNat * 0x200 + a.toNat * 0x10000 + w.toNat * 0x80 + n.toNat * 0x40
  | .brev d a w n => 0x0380001D + d.toNat * 0x200 + a.toNat * 0x10000 + w.toNat * 0x80 + n.toNat * 0x40
  | .bswap d a w n => 0x0400001D + d.toNat * 0x200 + a.toNat * 0x10000 + w.toNat * 0x80 + n.toNat * 0x40
  | .negF32 d a w n => 0x0800001D + d.toNat * 0x200 + a.toNat * 0x10000 + w.toNat * 0x80 + n.toNat * 0x40
  | .absF32 d a w n => 0x0880001D + d.toNat * 0x200 + a.toNat * 0x10000 + w.toNat * 0x80 + n.toNat * 0x40
  | .rcpF32 d a w n => 0x0900001D + d.toNat * 0x200 + a.toNat * 0x10000 + w.toNat * 0x80 + n.toNat * 0x40
  | .rsqrtF32 d a w n => 0x0980001D + d.toNat * 0x200 + a.toNat * 0x10000 + w.toNat * 0x80 + n.toNat * 0x40
  | .sqrtF32 d a w n => 0x0A00001D + d.toNat * 0x200 + a.toNat * 0x10000 + w.toNat * 0x80 + n.toNat * 0x40
  | .exp2F32 d a w n => 0x0A80001D + d.toNat * 0x200 + a.toNat * 0x10000 + w.toNat * 0x80 + n.toNat * 0x40
  | .log2F32 d a w n => 0x0B00001D + d.toNat * 0x200 + a.toNat * 0x10000 + w.toNat * 0x80 + n.toNat * 0x40
  | .sinpiF32 d a w n => 0x0B80001D + d.toNat * 0x200 + a.toNat * 0x10000 + w.toNat * 0x80 + n.toNat * 0x40
  | .cospiF32 d a w n => 0x0C00001D + d.toNat * 0x200 + a.toNat * 0x10000 + w.toNat * 0x80 + n.toNat * 0x40
  | .tanhF32 d a w n => 0x0C80001D + d.toNat * 0x200 + a.toNat * 0x10000 + w.toNat * 0x80 + n.toNat * 0x40
  | .rcpF64 d a w n => 0x0E00001D + d.toNat * 0x200 + a.toNat * 0x10000 + w.toNat * 0x80 + n.toNat * 0x40
  | .sqrtF64 d a w n => 0x0E80001D + d.toNat * 0x200 + a.toNat * 0x10000 + w.toNat * 0x80 + n.toNat * 0x40
  | .rndF32 d a w m n => 0x1000001D + d.toNat * 0x200 + a.toNat * 0x10000 + w.toNat * 0x80 + m.toNat * 0x800000 + n.toNat * 0x40
  | .fsrGet d n => 0x187C001D + d.toNat * 0x200 + n.toNat * 0x40
  | .fsrClr d a n => 0x1880001D + d.toNat * 0x200 + a.toNat * 0x10000 + n.toNat * 0x40
  | .packNx d a n f => 0x2000001D + d.toNat * 0x200 + a.toNat * 0x10000 + n.toNat * 0x40 + f.toNat * 0x800000
  | .unpackNx d a n f => 0x2400001D + d.toNat * 0x200 + a.toNat * 0x10000 + n.toNat * 0x40 + f.toNat * 0x800000
  | .cvt d a w y z n => 0x8000001D + d.toNat * 0x200 + a.toNat * 0x10000 + w.toNat * 0x80 + y.toNat * 0x8000000 + z.toNat * 0x800000 + n.toNat * 0x40
  | .cmp k a b c t => 0x0000001F + k.toNat * 0x200 + a.toNat * 0x10000 + b.toNat * 0x800000 + c.toNat * 0x1000 + t.toNat * 0x40000000
  | .kand d a b => 0x00000021 + d.toNat * 0x200 + a.toNat * 0x10000 + b.toNat * 0x800000
  | .kor d a b => 0x00000061 + d.toNat * 0x200 + a.toNat * 0x10000 + b.toNat * 0x800000
  | .kxor d a b => 0x000000A1 + d.toNat * 0x200 + a.toNat * 0x10000 + b.toNat * 0x800000
  | .knot d a => 0x000000E1 + d.toNat * 0x200 + a.toNat * 0x10000
  | .kmov d a => 0x00000121 + d.toNat * 0x200 + a.toNat * 0x10000
  | .kpop d a => 0x00000161 + d.toNat * 0x200 + a.toNat * 0x10000
  | .kfirst d a => 0x000001A1 + d.toNat * 0x200 + a.toNat * 0x10000
  | .sel d k a b => 0x40000021 + d.toNat * 0x200 + k.toNat * 0x40 + a.toNat * 0x10000 + b.toNat * 0x800000
  | .shfIdx d a b => 0x80000021 + d.toNat * 0x200 + a.toNat * 0x10000 + b.toNat * 0x800000
  | .shfUp d a b => 0x80000061 + d.toNat * 0x200 + a.toNat * 0x10000 + b.toNat * 0x800000
  | .shfDown d a b => 0x800000A1 + d.toNat * 0x200 + a.toNat * 0x10000 + b.toNat * 0x800000
  | .shfXor d a b => 0x800000E1 + d.toNat * 0x200 + a.toNat * 0x10000 + b.toNat * 0x800000
  | .bcast d a b => 0x80000121 + d.toNat * 0x200 + a.toNat * 0x10000 + b.toNat * 0x800000
  | .vote d a => 0xBE000161 + d.toNat * 0x200 + a.toNat * 0x10000
  | .redAddI32 d a => 0xFE008021 + d.toNat * 0x200 + a.toNat * 0x10000
  | .redAddF32 d a => 0xFE008061 + d.toNat * 0x200 + a.toNat * 0x10000
  | .redMinI32 d a => 0xFE0080A1 + d.toNat * 0x200 + a.toNat * 0x10000
  | .redMinF32 d a => 0xFE0080E1 + d.toNat * 0x200 + a.toNat * 0x10000
  | .redMaxI32 d a => 0xFE008121 + d.toNat * 0x200 + a.toNat * 0x10000
  | .redMaxF32 d a => 0xFE008161 + d.toNat * 0x200 + a.toNat * 0x10000
  | .movCompact d a => 0x0000 + d.toNat * 0x20 + a.toNat * 0x800
  | .addI32Compact d a => 0x0002 + d.toNat * 0x20 + a.toNat * 0x800
  | .subI32Compact d a => 0x0004 + d.toNat * 0x20 + a.toNat * 0x800
  | .mulloI32Compact d a => 0x0006 + d.toNat * 0x20 + a.toNat * 0x800
  | .andCompact d a => 0x0008 + d.toNat * 0x20 + a.toNat * 0x800
  | .orCompact d a => 0x000A + d.toNat * 0x20 + a.toNat * 0x800
  | .xorCompact d a => 0x000C + d.toNat * 0x20 + a.toNat * 0x800
  | .shlCompact d a => 0x000E + d.toNat * 0x20 + a.toNat * 0x800
  | .shrCompact d a => 0x0010 + d.toNat * 0x20 + a.toNat * 0x800
  | .addF32Compact d a => 0x0012 + d.toNat * 0x20 + a.toNat * 0x800
  | .subF32Compact d a => 0x0014 + d.toNat * 0x20 + a.toNat * 0x800
  | .mulF32Compact d a => 0x0016 + d.toNat * 0x20 + a.toNat * 0x800
  | .maxF32Compact d a => 0x0018 + d.toNat * 0x20 + a.toNat * 0x800
  | .minF32Compact d a => 0x001A + d.toNat * 0x20 + a.toNat * 0x800
  | .addiCompact d i => 0x001C + d.toNat * 0x20 + i.toNat * 0x800
  | .nop => 0x001E
  | .imx p => 0x0000003F + p.toNat * 0x100
  | .addendPrefix c => 0x0000007F + c.toNat * 0x100
  | .sadd d a b i => 0x00000023 + d.toNat * 0x40 + a.toNat * 0x1000 + b.toNat * 0x40000 + i.toNat * 0x80000000
  | .ssub d a b i => 0x01000023 + d.toNat * 0x40 + a.toNat * 0x1000 + b.toNat * 0x40000 + i.toNat * 0x80000000
  | .smul d a b i => 0x02000023 + d.toNat * 0x40 + a.toNat * 0x1000 + b.toNat * 0x40000 + i.toNat * 0x80000000
  | .sand d a b i => 0x03000023 + d.toNat * 0x40 + a.toNat * 0x1000 + b.toNat * 0x40000 + i.toNat * 0x80000000
  | .sor d a b i => 0x04000023 + d.toNat * 0x40 + a.toNat * 0x1000 + b.toNat * 0x40000 + i.toNat * 0x80000000
  | .sxor d a b i => 0x05000023 + d.toNat * 0x40 + a.toNat * 0x1000 + b.toNat * 0x40000 + i.toNat * 0x80000000
  | .sshl d a b i => 0x06000023 + d.toNat * 0x40 + a.toNat * 0x1000 + b.toNat * 0x40000 + i.toNat * 0x80000000
  | .sshr d a b i => 0x07000023 + d.toNat * 0x40 + a.toNat * 0x1000 + b.toNat * 0x40000 + i.toNat * 0x80000000
  | .smov d b i => 0x08000023 + d.toNat * 0x40 + b.toNat * 0x40000 + i.toNat * 0x80000000
  | .scmpEq d a b i => 0x10000023 + d.toNat * 0x40 + a.toNat * 0x1000 + b.toNat * 0x40000 + i.toNat * 0x80000000
  | .scmpNe d a b i => 0x11000023 + d.toNat * 0x40 + a.toNat * 0x1000 + b.toNat * 0x40000 + i.toNat * 0x80000000
  | .scmpLtI64 d a b i => 0x12000023 + d.toNat * 0x40 + a.toNat * 0x1000 + b.toNat * 0x40000 + i.toNat * 0x80000000
  | .scmpLeI64 d a b i => 0x13000023 + d.toNat * 0x40 + a.toNat * 0x1000 + b.toNat * 0x40000 + i.toNat * 0x80000000
  | .scmpGtI64 d a b i => 0x14000023 + d.toNat * 0x40 + a.toNat * 0x1000 + b.toNat * 0x40000 + i.toNat * 0x80000000
  | .scmpGeI64 d a b i => 0x15000023 + d.toNat * 0x40 + a.toNat * 0x1000 + b.toNat * 0x40000 + i.toNat * 0x80000000
  | .scmpLtN64 d a b i => 0x16000023 + d.toNat * 0x40 + a.toNat * 0x1000 + b.toNat * 0x40000 + i.toNat * 0x80000000
  | .scmpLeN64 d a b i => 0x17000023 + d.toNat * 0x40 + a.toNat * 0x1000 + b.toNat * 0x40000 + i.toNat * 0x80000000
  | .scmpGtN64 d a b i => 0x18000023 + d.toNat * 0x40 + a.toNat * 0x1000 + b.toNat * 0x40000 + i.toNat * 0x80000000
  | .scmpGeN64 d a b i => 0x19000023 + d.toNat * 0x40 + a.toNat * 0x1000 + b.toNat * 0x40000 + i.toNat * 0x80000000
  | .sld d a b i => 0x20000023 + d.toNat * 0x40 + a.toNat * 0x1000 + b.toNat * 0x40000 + i.toNat * 0x80000000
  | .sst d a b i => 0x21000023 + d.toNat * 0x40 + a.toNat * 0x1000 + b.toNat * 0x40000 + i.toNat * 0x80000000
  | .sid d c => 0xA8000023 + d.toNat * 0x40 + c.toNat * 0x40000
  | .vget d a b i => 0x29000023 + d.toNat * 0x40 + a.toNat * 0x1000 + b.toNat * 0x40000 + i.toNat * 0x80000000
  | .vput d a b i => 0x2A000023 + d.toNat * 0x40 + a.toNat * 0x1000 + b.toNat * 0x40000 + i.toNat * 0x80000000
  | .fmtSet d a => 0x2B000023 + d.toNat * 0x40 + a.toNat * 0x1000
  | .fmtGet d a => 0x2C000023 + d.toNat * 0x40 + a.toNat * 0x1000
  | .bra d => 0x00000025 + d.toNat * 0x2000
  | .call d k => 0x00000065 + d.toNat * 0x2000 + k.toNat * 0x80
  | .bany d k => 0x00000425 + d.toNat * 0x2000 + k.toNat * 0x80
  | .ball d k => 0x00000825 + d.toNat * 0x2000 + k.toNat * 0x80
  | .bnone d k => 0x00000C25 + d.toNat * 0x2000 + k.toNat * 0x80
  | .bz d k => 0x00001025 + d.toNat * 0x2000 + k.toNat * 0x80
  | .bnz d k => 0x00001425 + d.toNat * 0x2000 + k.toNat * 0x80
  | .ret k => 0x00001825 + k.toNat * 0x80
  | .jmp d k => 0x00001C25 + d.toNat * 0x2000 + k.toNat * 0x80
  | .jmpL d k => 0x00001C65 + d.toNat * 0x2000 + k.toNat * 0x80
  | .ld d a x s w => 0x00000027 + d.toNat * 0x200 + a.toNat * 0x10000 + x.toNat * 0x800000 + s.toNat * 0x4000000 + w.toNat * 0x80
  | .ldAcq d a x s w => 0x00000067 + d.toNat * 0x200 + a.toNat * 0x10000 + x.toNat * 0x800000 + s.toNat * 0x4000000 + w.toNat * 0x80
  | .ldnc d a x s w => 0x20000027 + d.toNat * 0x200 + a.toNat * 0x10000 + x.toNat * 0x800000 + s.toNat * 0x4000000 + w.toNat * 0x80
  | .ldv d a x w => 0x50000027 + d.toNat * 0x200 + a.toNat * 0x10000 + x.toNat * 0x800000 + w.toNat * 0x80
  | .ldvAcq d a x w => 0x50000067 + d.toNat * 0x200 + a.toNat * 0x10000 + x.toNat * 0x800000 + w.toNat * 0x80
  | .pref a x s => 0x60000027 + a.toNat * 0x10000 + x.toNat * 0x800000 + s.toNat * 0x4000000
  | .st d a x s w => 0x00000029 + d.toNat * 0x200 + a.toNat * 0x10000 + x.toNat * 0x800000 + s.toNat * 0x4000000 + w.toNat * 0x80
  | .stRel d a x s w => 0x00000069 + d.toNat * 0x200 + a.toNat * 0x10000 + x.toNat * 0x800000 + s.toNat * 0x4000000 + w.toNat * 0x80
  | .stnc d a x s w => 0x20000029 + d.toNat * 0x200 + a.toNat * 0x10000 + x.toNat * 0x800000 + s.toNat * 0x4000000 + w.toNat * 0x80
  | .ldp d a s l w => 0x0000002B + d.toNat * 0x200 + a.toNat * 0x10000 + s.toNat * 0x4000000 + l.toNat * 0x800000 + w.toNat * 0x80
  | .ldpAcq d a s l w => 0x0000006B + d.toNat * 0x200 + a.toNat * 0x10000 + s.toNat * 0x4000000 + l.toNat * 0x800000 + w.toNat * 0x80
  | .stp d a s l w => 0x2000002B + d.toNat * 0x200 + a.toNat * 0x10000 + s.toNat * 0x4000000 + l.toNat * 0x800000 + w.toNat * 0x80
  | .stpRel d a s l w => 0x2000006B + d.toNat * 0x200 + a.toNat * 0x10000 + s.toNat * 0x4000000 + l.toNat * 0x800000 + w.toNat * 0x80
  | .algOp d a x w n o => 0x0000002D + d.toNat * 0x200 + a.toNat * 0x10000 + x.toNat * 0x800000 + w.toNat * 0x80 + n.toNat * 0x4000000 + o.toNat * 0x40
  | .algOpRet d a x w n o => 0x4000002D + d.toNat * 0x200 + a.toNat * 0x10000 + x.toNat * 0x800000 + w.toNat * 0x80 + n.toNat * 0x4000000 + o.toNat * 0x40
  | .algLoad x => 0x807C002D + x.toNat * 0x800000
  | .algFlush a x => 0xA000002D + a.toNat * 0x10000 + x.toNat * 0x800000
  | .algGen d => 0xC07C002D + d.toNat * 0x200
  | .dset d a x g => 0xE000002D + d.toNat * 0x200 + a.toNat * 0x10000 + x.toNat * 0x800000 + g.toNat * 0x80
  | .dflush a x => 0xE400002D + a.toNat * 0x10000 + x.toNat * 0x800000
  | .dstat d a x => 0xE800012D + d.toNat * 0x200 + a.toNat * 0x10000 + x.toNat * 0x800000
  | .tlset d => 0xEC7C002D + d.toNat * 0x200
  | .tlget d => 0xF07C002D + d.toNat * 0x200
  | .fence => 0x0000002F
  | .waitOc b i c => 0x0400002F + b.toNat * 0x40000 + i.toNat * 0x80000000 + c.toNat * 0x1000000
  | .waitOcSt d b i c => 0x0800002F + d.toNat * 0x40 + b.toNat * 0x40000 + i.toNat * 0x80000000 + c.toNat * 0x1000000
  | .batch d => 0x1000002F + d.toNat * 0x40
  | .waitBatch a => 0x1100002F + a.toNat * 0x1000
  | .sleep b i => 0x1800002F + b.toNat * 0x40000 + i.toNat * 0x80000000
  | .gateInit a b => 0x00000031 + a.toNat * 0x1000 + b.toNat * 0x40000
  | .gateArm a => 0x000000B1 + a.toNat * 0x1000
  | .gateArrive a b => 0x00000131 + a.toNat * 0x1000 + b.toNat * 0x40000
  | .gateExpect a b => 0x000001B1 + a.toNat * 0x1000 + b.toNat * 0x40000
  | .gateWait a b => 0x00000231 + a.toNat * 0x1000 + b.toNat * 0x40000
  | .gateTest a b => 0x000002B1 + a.toNat * 0x1000 + b.toNat * 0x80000
  | .gateTestM a b => 0x800002B1 + a.toNat * 0x1000 + b.toNat * 0x80000
  | .gateTwait a b => 0x00000331 + a.toNat * 0x1000 + b.toNat * 0x80000
  | .gateEnlist a b => 0x000003B1 + a.toNat * 0x1000 + b.toNat * 0x40000
  | .critOn => 0x00000431
  | .critOff => 0x000004B1
  | .fyCopy a b v f g => 0x00000033 + a.toNat * 0x1000 + b.toNat * 0x40000 + v.toNat * 0x1000000 + f.toNat * 0x40 + g.toNat * 0x80000000
  | .fyMcast a b v => 0x000000B3 + a.toNat * 0x1000 + b.toNat * 0x40000 + v.toNat * 0x1000000
  | .fyGather a b v => 0x00000133 + a.toNat * 0x1000 + b.toNat * 0x40000 + v.toNat * 0x1000000
  | .fyFill a b v => 0x000001B3 + a.toNat * 0x1000 + b.toNat * 0x40000 + v.toNat * 0x1000000
  | .fyStat b => 0x00000233 + b.toNat * 0x40000
  | .mxWload a b => 0x00000035 + a.toNat * 0x1000 + b.toNat * 0x40000
  | .mxStream a b => 0x000000B5 + a.toNat * 0x1000 + b.toNat * 0x40000
  | .mxZero b => 0x00000135 + b.toNat * 0x40000
  | .mxRead a b => 0x000001B5 + a.toNat * 0x1000 + b.toNat * 0x40000
  | .mxStore a b => 0x00000235 + a.toNat * 0x1000 + b.toNat * 0x40000
  | .mxScale a b => 0x000002B5 + a.toNat * 0x1000 + b.toNat * 0x40000
  | .mxArm a b => 0x00000335 + a.toNat * 0x1000 + b.toNat * 0x40000
  | .ampBind a b => 0x00000037 + a.toNat * 0x1000 + b.toNat * 0x40000
  | .ampGate a b => 0x000000B7 + a.toNat * 0x1000 + b.toNat * 0x40000
  | .ampDiag a b => 0x00000137 + a.toNat * 0x1000 + b.toNat * 0x40000
  | .ampSwap a => 0x000001B7 + a.toNat * 0x1000
  | .ampProb a b => 0x00000237 + a.toNat * 0x1000 + b.toNat * 0x40000
  | .ampNorm a b => 0x000002B7 + a.toNat * 0x1000 + b.toNat * 0x40000
  | .ampMap a b => 0x00000337 + a.toNat * 0x1000 + b.toNat * 0x40000
  | .rld a v g => 0x00000039 + a.toNat * 0x1000 + v.toNat * 0x1000000 + g.toNat * 0x80000000
  | .rst a v g => 0x000000B9 + a.toNat * 0x1000 + v.toNat * 0x1000000 + g.toNat * 0x80000000
  | .ralg a b v => 0x00000139 + a.toNat * 0x1000 + b.toNat * 0x40000 + v.toNat * 0x1000000
  | .ralgRet a b v => 0x00000179 + a.toNat * 0x1000 + b.toNat * 0x40000 + v.toNat * 0x1000000
  | .rfenceFlag a b => 0x000001B9 + a.toNat * 0x1000 + b.toNat * 0x40000
  | .collPut v => 0x00000239 + v.toNat * 0x4000000
  | .collAcc a b => 0x000002B9 + a.toNat * 0x2000 + b.toNat * 0x40000
  | .dred a b v => 0x00000339 + a.toNat * 0x1000 + b.toNat * 0x40000 + v.toNat * 0x1000000
  | .sysrd d r => 0x0000003B + d.toNat * 0x40 + r.toNat * 0x40000
  | .syswr r a => 0x4000003B + r.toNat * 0x40000 + a.toNat * 0x1000
  | .tlbInv a => 0x8000003B + a.toNat * 0x1000
  | .xinval a => 0x8004003B + a.toNat * 0x1000
  | .pgmap d a => 0x8008003B + d.toNat * 0x40 + a.toNat * 0x1000
  | .fret => 0x800C003B
  | .wfi d a => 0x8010003B + d.toNat * 0x40 + a.toNat * 0x1000
  | .halt d a => 0x8014003B + d.toNat * 0x40 + a.toNat * 0x1000
  | .ctxSwap d => 0x8018003B + d.toNat * 0x40
  | .ctxKill d => 0x801C003B + d.toNat * 0x40
  | .dieCtlRead d a => 0x8020003B + d.toNat * 0x40 + a.toNat * 0x1000
  | .dieCtlStop d a => 0x8020003B + d.toNat * 0x40 + a.toNat * 0x1000
  | .dieCtlRequeue d a => 0x8020003B + d.toNat * 0x40 + a.toNat * 0x1000
  | .dieCtlQuiesce d a => 0x8020003B + d.toNat * 0x40 + a.toNat * 0x1000
  | .dieCtlWriteback d a => 0x8020003B + d.toNat * 0x40 + a.toNat * 0x1000
  | .dieCtlStray d a => 0x8020003B + d.toNat * 0x40 + a.toNat * 0x1000
  | .dieCtlReset d a => 0x8020003B + d.toNat * 0x40 + a.toNat * 0x1000
  | .dieCtlAdmit d a => 0x8020003B + d.toNat * 0x40 + a.toNat * 0x1000
  | .dieCtlFence d a => 0x8020003B + d.toNat * 0x40 + a.toNat * 0x1000
  | .dieCtlResume d a => 0x8020003B + d.toNat * 0x40 + a.toNat * 0x1000
  | .xset d a => 0x8000003D + d.toNat * 0x40 + a.toNat * 0x1000
  | .xsetCap d a b => 0x0000003D + d.toNat * 0x40 + a.toNat * 0x1000 + b.toNat * 0x40000
  | .xadd d a b i => 0x0100003D + d.toNat * 0x40 + a.toNat * 0x1000 + b.toNat * 0x40000 + i.toNat * 0x80000000
  | .xget d a f => 0x8200003D + d.toNat * 0x40 + a.toNat * 0x1000 + f.toNat * 0x40000
  | .trap n => 0xA000003D + n.toNat * 0x40000
  | .brk => 0x2100003D
  | .exit => 0x2200003D
  | .sleepUntil a => 0x2300003D + a.toNat * 0x1000
  | .sysEvtClear _ _ => 0
  | .poolLeftWrite _ _ => 0
  | .resultArrival _ _ _ => 0
  | .waitCompletes _ => 0
  | .deadlineReached _ => 0
  | .critDeferralExpired _ => 0
  | .groupHalted _ => 0
  | .trapEntry _ => 0
  | .blockRetire _ => 0
  | .wcbDrain _ _ => 0
  | .pageWalk _ _ => 0
  | .frameReturn _ _ => 0
  | .gateDelivery _ _ => 0
  | .ferryStart _ => 0
  | .enginePageFault _ => 0
  | .ferryPageMapped _ => 0
  | .mcastAcceptance _ _ => 0
  | .ferryDelivery _ _ _ => 0
  | .ferryLand _ => 0
  | .ferryComplete _ => 0
  | .mxExecute _ => 0
  | .subarrayWake _ _ => 0
  | .mxPerformed _ _ => 0
  | .mxComplete _ => 0
  | .subarrayIdleGating _ _ => 0
  | .contributionArrival _ => 0
  | .armTimeout _ => 0
  | .ampStart _ => 0
  | .ampExchangeDone _ _ => 0
  | .deviceExchangeTimeout _ => 0
  | .ampApplyDone _ => 0
  | .ampComplete _ => 0
  | .landingEntryArrival _ => 0
  | .landingApply _ _ _ => 0
  | .grantRequest _ => 0
  | .grantReply _ _ => 0
  | .refusalExpiry _ _ => 0
  | .shareCutCall _ _ => 0
  | .drainCall _ _ => 0
  | .holderMessage _ _ => 0
  | .ldvRequest _ => 0
  | .packetIdleTimeout _ => 0
  | .inboundPacket _ => 0
  | .packetApplyExpiry _ => 0
  | .remoteCompletion _ _ _ => 0
  | .remoteTimeout _ => 0
  | .rfenceFlagWrite _ => 0
  | .dredContribution _ => 0
  | .dredDeadline _ => 0
  | .dredResultWrite _ => 0
  | .launchAdmission _ _ => 0
  | .blockPlacement _ _ _ => 0
  | .launchCompletion _ _ => 0
  | .renameCommit _ _ => 0
  | .cancelPacket _ _ => 0
  | .openPacket _ _ => 0
  | .closePacket _ _ => 0
  | .governorTick _ => 0
  | .uncorrectableError _ => 0
  | .correctableError _ => 0
  | .dieLost _ => 0
  | .operatingPointCommand _ _ => 0
  | .operatingPointSettled _ => 0
  | .powerCapWrite _ => 0
  | .powerLimitThrottle _ _ => 0
  | .thermalTrip _ => 0
  | .currentBoundTrip _ => 0
  | .hostLoadTimeout _ _ => 0
  | .hostStoreTimeout _ => 0
  | .hostAccess _ => 0
  | .controlWindowWrite _ _ => 0
  | .hostEvtWrite _ _ => 0
  | .attestationNonce _ => 0
  | .linkReset => 0
  | .powerOn _ _ _ => 0
  | .storeTakesEffectAtHome _ => 0
  | .fabricLinkFailure _ => 0
  | .deviceExchangeRefused _ => 0
  | .powerLimitRelease _ => 0

/-- The bytes of an instruction in memory (R18). -/
def encodeBytes (i : Instr) : List Byte := leBytes i.bytes (encode i)

end Sys2Proof
end

