-- ==== Sys2Proof/Machine/KMap.lean ====
section
/-! DEFINITION. Sparse data by key: lists of (key, value) with strictly rising keys, and the operations that keep that form. -/

namespace Sys2Proof.Machine

/-- A sparse map: pairs with strictly rising keys. -/
abbrev KMap (α : Type) := List (Nat × α)

variable {α : Type}

/-- The value at a key. -/
def kfind : KMap α → Nat → Option α
  | [], _ => none
  | e :: r, k => if e.1 = k then some e.2 else kfind r k

def kgetD (m : KMap α) (k : Nat) (d : α) : α := (kfind m k).getD d

/-- Writes a value at a key, in its place of the rising order. -/
def kput : KMap α → Nat → α → KMap α
  | [], k, v => [(k, v)]
  | e :: r, k, v => if k < e.1 then (k, v) :: e :: r else if e.1 = k then (k, v) :: r else e :: kput r k v

def kerase (m : KMap α) (k : Nat) : KMap α := m.filter fun e => e.1 != k

/-- Writes a value where `d` is what an unlisted key reads as: `d` itself is never listed. -/
def kstore [DecidableEq α] (m : KMap α) (k : Nat) (v d : α) : KMap α := if v = d then kerase m k else kput m k v

/-- Changes the value at a key, if there is one. -/
def kmodify (m : KMap α) (k : Nat) (f : α → α) : KMap α :=
  match kfind m k with
  | some v => kput m k (f v)
  | none => m

/-- Keys strictly rising. -/
def ksorted : KMap α → Bool
  | [] => true
  | e :: r => r.all (fun e' => e.1 < e'.1) && ksorted r

def kkeys (m : KMap α) : List Nat := m.map (·.1)
def kvals (m : KMap α) : List α := m.map (·.2)

/-- A sorted set of numbers: insertion and removal. -/
def insertNat : List Nat → Nat → List Nat
  | [], k => [k]
  | e :: r, k => if k < e then k :: e :: r else if e = k then e :: r else e :: insertNat r k

def eraseNat (l : List Nat) (k : Nat) : List Nat := l.filter (· != k)

/-- Puts an item into a sorted list, behind those that may stand before it. -/
def insertBy (le : α → α → Bool) (x : α) : List α → List α
  | [] => [x]
  | y :: r => if le y x then y :: insertBy le x r else x :: y :: r

/-- Sorts a list, keeping the order of equals. -/
def sortBy (le : α → α → Bool) (l : List α) : List α := l.foldl (fun m x => insertBy le x m) []

/-- The members of a list that satisfy a test, with those that must go before one of them, in the order of the list. -/
def closedUnder (before : α → α → Bool) (p : α → Bool) : List α → List α
  | [] => []
  | t :: ts => let rest := closedUnder before p ts; if p t || rest.any (before t) then t :: rest else rest

end Sys2Proof.Machine
end

