-- ==== Sys2Proof/Word/Event.lean ====
section
/-! DEFINITION. The events of spec/95 that the outside world, the engines or time bring about: the rows of the opcode table
without words, once more as plain data, so that State can hold which of them comes next. Each stands for the constructor of
Instr of the same name. -/

namespace Sys2Proof

/-- One constructor per row of the opcode table that has no word. -/
inductive Event where
  /-- R300 -/
  | sysEvtClear (part : Nat) (value : DWord)
  /-- R315 -/
  | poolLeftWrite (part : Nat) (value : DWord)
  /-- R10 -/
  | resultArrival (group slot : Nat) (late : Word)
  /-- R10 -/
  | waitCompletes (group : Nat)
  /-- R11 -/
  | deadlineReached (group : Nat)
  /-- R13 -/
  | critDeferralExpired (group : Nat)
  /-- R336 -/
  | groupHalted (group : Nat)
  /-- R330 -/
  | trapEntry (group : Nat)
  /-- R12 -/
  | blockRetire (block : Nat)
  /-- R103 -/
  | wcbDrain (core line : Nat)
  /-- R309 -/
  | pageWalk (core va : Nat)
  /-- R298 -/
  | frameReturn (part launch : Nat)
  /-- R137 -/
  | gateDelivery (op i : Nat)
  /-- R166 -/
  | ferryStart (op : Nat)
  /-- R316 -/
  | enginePageFault (op : Nat)
  /-- R166 -/
  | ferryPageMapped (op : Nat)
  /-- R160 -/
  | mcastAcceptance (op rank : Nat)
  /-- R156 -/
  | ferryDelivery (op first count : Nat)
  /-- R156 -/
  | ferryLand (op : Nat)
  /-- R166 -/
  | ferryComplete (op : Nat)
  /-- R188 -/
  | mxExecute (op : Nat)
  /-- R187 -/
  | subarrayWake (core sub : Nat)
  /-- R188 -/
  | mxPerformed (op rows : Nat)
  /-- R188 -/
  | mxComplete (op : Nat)
  /-- R187 -/
  | subarrayIdleGating (core sub : Nat)
  /-- R182 -/
  | contributionArrival (c : Contribution)
  /-- R182 -/
  | armTimeout (op : Nat)
  /-- R252 -/
  | ampStart (op : Nat)
  /-- R252 -/
  | ampExchangeDone (op : Nat) (incoming : Option Transfer)
  /-- R247 -/
  | deviceExchangeTimeout (op : Nat)
  /-- R252 -/
  | ampApplyDone (op : Nat)
  /-- R252 -/
  | ampComplete (op : Nat)
  /-- R195 -/
  | landingEntryArrival (i : Nat)
  /-- R197 -/
  | landingApply (addr size : Nat) (steps : List LandStep)
  /-- R212 -/
  | grantRequest (region : Nat)
  /-- R222 -/
  | grantReply (cache : CacheId) (region : Nat)
  /-- R212 -/
  | refusalExpiry (cache : CacheId) (region : Nat)
  /-- R214 -/
  | shareCutCall (cache : CacheId) (region : Nat)
  /-- R215 -/
  | drainCall (cache : CacheId) (region : Nat)
  /-- R221 -/
  | holderMessage (cache : CacheId) (region : Nat)
  /-- R219 -/
  | ldvRequest (region : Nat)
  /-- R258 -/
  | packetIdleTimeout (i : Nat)
  /-- R255 -/
  | inboundPacket (p : FabPacket)
  /-- R255 -/
  | packetApplyExpiry (i : Nat)
  /-- R260 -/
  | remoteCompletion (packet : PacketOf) (status : OpStatus) (data : List Byte)
  /-- R260 -/
  | remoteTimeout (op : Nat)
  /-- R264 -/
  | rfenceFlagWrite (op : Nat)
  /-- R269 -/
  | dredContribution (op : Nat)
  /-- R269 -/
  | dredDeadline (slot : Nat)
  /-- R270 -/
  | dredResultWrite (slot : Nat)
  /-- R320 -/
  | launchAdmission (part queue : Nat)
  /-- R321 -/
  | blockPlacement (part launch : Nat) (cores : List Nat)
  /-- R323 -/
  | launchCompletion (part launch : Nat)
  /-- R322 -/
  | renameCommit (part launch : Nat)
  /-- R326 -/
  | cancelPacket (part queue : Nat)
  /-- R324 -/
  | openPacket (part queue : Nat)
  /-- R324 -/
  | closePacket (part queue : Nat)
  /-- R328 -/
  | governorTick (die : Nat)
  /-- R341 -/
  | uncorrectableError (site : ErrSite)
  /-- R341 -/
  | correctableError (site : ErrSite)
  /-- R352 -/
  | dieLost (die : Nat)
  /-- R360 -/
  | operatingPointCommand (die point : Nat)
  /-- R360 -/
  | operatingPointSettled (die : Nat)
  /-- R362 -/
  | powerCapWrite (watts : Nat)
  /-- R362 -/
  | powerLimitThrottle (watts skips : Nat)
  /-- R363 -/
  | thermalTrip (die : Nat)
  /-- R366 -/
  | currentBoundTrip (die : Nat)
  /-- R355 -/
  | hostLoadTimeout (group slot : Nat)
  /-- R355 -/
  | hostStoreTimeout (i : Nat)
  /-- R357 -/
  | hostAccess (op : HostOp)
  /-- R358 -/
  | controlWindowWrite (target : ControlTarget) (value : DWord)
  /-- R358 -/
  | hostEvtWrite (part : Nat) (value : DWord)
  /-- R365 -/
  | attestationNonce (nonce : BitVec 256)
  /-- R359 -/
  | linkReset
  /-- R367 -/
  | powerOn (trained : BitVec 8) (key : Option (BitVec 2)) (image : FirmwareImage)
  /-- R125 -/
  | storeTakesEffectAtHome (i : Nat)
  /-- R271 -/
  | fabricLinkFailure (port : Nat)
  /-- R247 -/
  | deviceExchangeRefused (op : Nat)
  /-- R362 -/
  | powerLimitRelease (watts : Nat)
  deriving DecidableEq, Repr

end Sys2Proof
end

