-- ==== Sys2Proof/Machine/State.lean ====
section
/-! DEFINITION. The state of one module: everything the spec gives the machine, as plain data. Sparse maps list what differs
from an entry's reset value; field defaults are the reset values (INVENTORY.md names the rule of each). -/

namespace Sys2Proof.Machine

/-! ## Places of a byte -/

/-- Where a byte stands: local physical memory, a block's core-pad window, or a block's lane slices (R94 to R99). -/
inductive Loc where
  | mem (pa : Nat)
  | pad (block off : Nat)
  | slice (block off : Nat)
  deriving DecidableEq, Repr

/-! ## Groups -/

/-- A translation register (R104): base, frame, limit and the attributes in the layout of xget field 2 (R106). -/
structure XReg where
  base : DWord := 0
  frame : Nat := 0
  limit : Nat := 0
  attr : Nat := 0
  /-- log2 of the size of its page (R101, R104) -/
  shift : Nat := 16
  deriving DecidableEq, Repr

/-- The latches (R25 to R29): what the current chain has pushed, newest first, each as lane and value for the lanes that were
active, and how many readers the chain has had. `atEntry`: the group has executed nothing since its entry point, where the
latches hold 0 (R14). -/
structure Latches where
  pushes : List (KMap Word) := []
  readers : Nat := 0
  atEntry : Bool := false
  deriving DecidableEq, Repr

/-- The trap record of a group (R293, R330). -/
structure TrapRec where
  pc : DWord := 0
  cause : DWord := 0
  addr : DWord := 0
  vaddr : DWord := 0
  lanes : DWord := 0
  em : DWord := 0
  deriving DecidableEq, Repr

/-- An asynchronous trap that is pending (R331). -/
structure Pending where
  num : Nat
  code : Nat := 0
  addr : DWord := 0
  vaddr : DWord := 0
  lanes : Word := 0
  /-- the engine operation whose page fault this is (R316) -/
  op : Option Nat := none
  /-- another trap was taken before it at its interrupt point: it waits until no more handlers than this run (R331) -/
  behind : Option Nat := none
  /-- the address of the operation that it waited for (R330, R332) -/
  after : Option DWord := none
  deriving DecidableEq, Repr

/-- An element of a load whose value may still be read anew (R117): of global memory or of a scratch level. -/
structure LoadElem where
  lane : Nat
  reg : Nat
  places : List Loc
  sgn : Bool
  deriving DecidableEq, Repr

/-- A result in flight (R10): the values fixed at issue, and the elements that may be read anew at arrival. -/
structure InFlight where
  /-- lane registers, keyed 32 × register + lane -/
  v : KMap Word := []
  /-- the uniform register of an sld -/
  s : Option (Nat × DWord) := none
  /-- the destination: first lane register and count, and the uniform register of an sld -/
  dst : Nat × Nat := (0, 0)
  sdst : Option Nat := none
  elems : List LoadElem := []
  /-- the result does not arrive before this cycle (R62) -/
  due : Nat := 0
  /-- returning entries, remote answers or delayed reads that have not come back yet -/
  awaiting : Nat := 0
  /-- lanes whose returning entries met poison or a die that answers with errors, with the virtual address, and the instruction's
  address (R204, R349) -/
  poisoned : KMap Nat := []
  addr : DWord := 0
  /-- alg.gen: held until no entry of the group under a table before this one is pending (R208) -/
  gen : Option Nat := none
  /-- the lanes it is for, and what a later instruction has written meanwhile: keys 32 × register + lane, and the uniform
  register; the result leaves those alone (log entry 83) -/
  lanes : Word := 0xFFFFFFFF
  passed : List Nat := []
  spassed : Bool := false
  deriving DecidableEq, Repr

/-- What a Blocked group waits for (R10, R332). -/
inductive Wait where
  /-- alg.load through a translation register, tlb.inv of a range: operations of R332 that wait for their answers -/
  | algLoad (x : Nat)
  /-- with the frames that translations of the range named when it began (R312 item 4) -/
  | tlbInv (range : DWord) (frames : List (Nat × Nat))
  /-- gate.wait: gate reference and phase operand (R143) -/
  | gate (ref : DWord) (phase : Bool)
  /-- gate.twait: also the deadline and the register of the status -/
  | gateT (ref : DWord) (phase : Bool) (deadline : Nat) (dst : Nat)
  /-- wait.oc, wait.oc.st (R129) -/
  | oc (cls t : Nat) (dst : Option Nat)
  /-- wait.batch (R130) -/
  | batch (n : Nat)
  /-- sleep (R131) -/
  | sleep (deadline : Nat)
  /-- sleep.until (R93) -/
  | sleepUntil (deadline : Nat)
  /-- fence (R128) -/
  | fence
  /-- wfi (R300) -/
  | wfi (mask : Nat) (dst : Nat)
  /-- amp.bind waiting for the earlier operations of its handle (R239) -/
  | bind (handle : Nat)
  /-- halt (R301) -/
  | halt (dies : Nat) (dst : Nat)
  /-- ctx.swap (R302) -/
  | swap (dst : Nat)
  /-- die.ctl op 2 waiting for the halt of a die (R304) -/
  | dieHalt (die dst : Nat)
  deriving DecidableEq, Repr

/-- The states of R10. -/
inductive GStatus where
  | ready
  | waiting
  | blocked (w : Wait)
  /-- Halted, with the state it was saved in -/
  | halted (was : Option Wait)
  | exited
  deriving DecidableEq, Repr

/-- A handle of amp.bind (R231): the address of its record, the record's header and device table in 8-byte words, the map that
the commands issued so far leave, the operations since bind. -/
structure Handle where
  record : DWord
  raw : List DWord
  map : List Nat
  count : Nat := 0
  deriving DecidableEq, Repr

/-- The promise of a ferry command (R163): the operation and the promised cycle. -/
structure Promise where
  op : Nat
  cycle : Nat
  deriving DecidableEq, Repr

/-- A group (R7, R14). -/
structure Group where
  block : Nat := 0
  index : Nat := 0
  /-- the issue slot (R17), and the group place in it -/
  place : Nat := 0
  seat : Nat := 0
  status : GStatus := .ready
  pc : DWord := 0
  em : Word := 0xFFFFFFFF
  sup : Bool := false
  /-- v registers, keyed 32 × register + lane; unlisted 0 -/
  v : KMap Word := []
  s : KMap DWord := []
  k : KMap Word := []
  latch : Latches := {}
  x : KMap XReg := []
  fmt : KMap Half := []
  /-- the five flags of each lane (R51) -/
  fsr : KMap (BitVec 5) := []
  /-- err and tmo of classes f, m, a, x (R124) -/
  err : BitVec 4 := 0
  tmo : BitVec 4 := 0
  tl : Word := 0
  /-- enlist table: entry to (reference, generation) (R146) -/
  enlist : KMap (DWord × Byte) := []
  critical : Bool := false
  /-- tracked reach, a scope code 0 to 5 (R121) -/
  reach : Nat := 0
  lastBatch : Nat := 0
  promise : Option Promise := none
  /-- fy.stat: commands issued, and the status of the last (R161) -/
  ferryCount : Nat := 0
  ferryStatus : DWord := 0
  /-- the bound handles -/
  handles : KMap Handle := []
  /-- alg.op instructions issued, the order of DET keys (R199) -/
  algCount : Nat := 0
  inFlight : KMap InFlight := []
  /-- results in flight of acquires: nothing issues before they have come back (R118, R122) -/
  acquires : List Nat := []
  pending : List Pending := []
  /-- a halt request that has not reached the group, and its cycle (R336) -/
  haltAsked : Option Nat := none
  /-- its critical deferral has expired: the next halt takes it (R301) -/
  forced : Bool := false
  trap : TrapRec := {}
  scratch : KMap DWord := []
  lastIssue : Nat := 0
  readySince : Nat := 0
  /-- it is Waiting for a place or an answer, not for a source -/
  stalled : Bool := false
  /-- traps entered and not returned from, the innermost first: the operation whose page fault each serves (R316) -/
  serving : List (Option Nat) := []
  /-- class x operations since the last rfence.flag to their device, and those of them that failed there (R264) -/
  sinceFence : List (Nat × Nat) := []
  xFailed : List (Nat × Nat) := []
  /-- a load of a host page waits for the untrained link (R355): since when, its lanes and lowest address -/
  hostWait : Option (Nat × Word × Nat) := none
  deriving DecidableEq, Repr

/-! ## Blocks -/

/-- How a block that is being ended or returned leaves (R325, R345). -/
inductive BlockEnd where
  | failed | requeued | killed
  deriving DecidableEq, Repr

/-- A binding of a sub-array (R169). -/
structure Binding where
  ref : DWord
  /-- 1 bf16, 2 f16, 3 narrow with the descriptor -/
  kind : Nat
  desc : Half
  bbs : Bool
  sb : Word
  deriving DecidableEq, Repr

/-- The scale state of a sub-array index (R178). -/
structure Scale where
  sa : Word := 0x3F800000
  sb : Word := 0x3F800000
  abs : Bool := false
  bbs : Bool := false
  deriving DecidableEq, Repr

/-- A block that is resident, or whose window is kept (R12). -/
structure Block where
  part : Nat := 0
  /-- its context is in the shadow slot -/
  shadow : Bool := false
  launch : Nat := 0
  number : Nat := 0
  core : Nat := 0
  span : Nat := 1
  regs : Nat := 8
  groups : Nat := 1
  padSize : Nat := 0
  /-- bytes per lane -/
  sliceSize : Nat := 0
  tiles : Nat := 0
  pad : KMap Byte := []
  padPoison : List Nat := []
  /-- lane slices in the interleaved layout of R95 -/
  slices : KMap Byte := []
  slicePoison : List Nat := []
  /-- keyed 2048 × tile + 64 × row + column -/
  acc : KMap Word := []
  /-- keyed 32 × tile + row (R167) -/
  rowPoison : List Nat := []
  bindings : KMap Binding := []
  scales : KMap Scale := []
  /-- the ABS and BBS that the youngest issued mx.scale of each index set (R172) -/
  issuedScales : KMap (Bool × Bool) := []
  retired : Bool := false
  ending : Option BlockEnd := none
  /-- its saved record in a shadow bank holds an error: it is lost at restore (R341) -/
  damaged : Bool := false
  deriving DecidableEq, Repr

/-! ## Engine operations -/

/-- The states of R166, R188, R252 and R260. -/
inductive OpState where
  | captured | queued | ordered | active | faulting | executing | exchanging | applying | performed | pending
  deriving DecidableEq, Repr

/-- A layout record (R152); lists by dimension, 5 long. -/
structure Layout where
  gb : Nat
  fd : Half
  cv : Nat
  esz : Nat
  dims : Nat
  dir : Nat
  pl : Nat
  po : Nat
  box : List Nat
  pp : Nat
  ext : List Nat
  str : List Nat
  deriving DecidableEq, Repr

/-- What a ferry command does. -/
inductive FerryKind where
  | copy | mcast | gather | fill
  deriving DecidableEq, Repr

/-- A ferry operation (R155 to R161). -/
structure FerryOp where
  kind : FerryKind
  lay : Layout
  /-- the leader lane, for a lane slice -/
  lane : Nat
  coords : List Int
  /-- fy.gather: c1 of each active lane -/
  rows : List Int := []
  pattern : Word := 0
  /-- fy.mcast: the named ranks -/
  ranks : List Nat := []
  gate : Option DWord
  /-- the gate's generation at issue, by rank; rank 0 where the command is no fy.mcast -/
  tags : KMap Nat
  captured : Option Nat := none
  /-- the group's ferry issue count at its issue -/
  seq : Nat
  accepted : List Nat := []
  refused : List Nat := []
  /-- spans of elements performed, as first and count -/
  done : List (Nat × Nat) := []
  /-- deliveries not yet applied: rank and bytes -/
  deliveries : List (Nat × Nat) := []
  /-- granules that received poison -/
  carry : List Loc := []
  poison : Bool := false
  wrote : Bool := false
  deriving DecidableEq, Repr

/-- A matrix operation (R170 to R188). -/
structure MatrixOp where
  /-- its SUB5 -/
  cmd : Nat
  ref : DWord
  ctl : DWord
  /-- 0 f32, 1 bf16, 2 f16, 3 narrow with the descriptor -/
  kind : Nat := 0
  desc : Half := 0
  /-- ABS and BBS of the issued scale state (R172 item 5) -/
  issued : Bool × Bool := (false, false)
  gate : Option DWord := none
  tag : Nat := 0
  /-- mx.arm: the ranks added, contributions kept for their turn (R182), when it began to execute -/
  added : List Nat := []
  kept : List Contribution := []
  began : Nat := 0
  /-- deliveries not yet applied, in bytes -/
  deliveries : List Nat := []
  /-- rows performed so far, and the granules that received poison -/
  rows : Nat := 0
  carry : List Loc := []
  /-- captured behind a copy that was Active at a halt: it executes before the halt is complete (R337) -/
  fires : Bool := false
  deriving DecidableEq, Repr

/-- A physical run of bytes of an amplitude record; `loose`: of its shards or map, whose values a misuse leaves unspecified (R239, R250). -/
structure PhysRun where
  pa : Nat
  bytes : Nat
  loose : Bool
  deriving DecidableEq, Repr

/-- An amplitude operation (R238 to R252). -/
structure AmpOp where
  /-- its SUB5 -/
  cmd : Nat
  handle : Nat
  record : DWord
  /-- the handle's operation count at its issue, 1 for the first -/
  count : Nat
  /-- the record as bound -/
  raw : List DWord
  /-- the map before the command and after it (R238, R240) -/
  before : List Nat
  after : List Nat
  /-- pairs of physical positions exchanged first, in order -/
  swaps : List (Nat × Nat) := []
  /-- logical targets, and the logical bit of amp.prob and amp.norm as the only one -/
  targets : List Nat := []
  controls : DWord := 0
  /-- the matrix or diagonal: real and imaginary parts by turns -/
  matrix : List Nat := []
  /-- the result address of amp.prob, the factor of amp.norm -/
  arg : DWord := 0
  keep : Bool := false
  /-- when its present exchange began -/
  began : Nat := 0
  /-- how many of its exchanges have been made, for how many its own halves have left, and what came from partners, by exchange -/
  moved : Nat := 0
  sentOut : Nat := 0
  halves : KMap (List Byte × List Nat) := []
  /-- the 16-byte parts of the map that it has written (R249) -/
  mapParts : List Nat := []
  /-- where its shards and its record were mapped at its issue -/
  runs : List PhysRun := []
  /-- a store to them, or a second handle on the record, makes their values unspecified (R239, R250) -/
  spoilt : Bool := false
  deriving DecidableEq, Repr

/-- An operation of class x (R260 to R270). -/
structure FabricOp where
  /-- its SUB5 -/
  cmd : Nat
  /-- the devices of its packets that have not completed -/
  waiting : List Nat := []
  failed : Bool := false
  /-- element size, and the lanes of the elements by rank -/
  size : Nat := 4
  lanes : List Nat := []
  /-- the first register of the elements, the result in flight -/
  reg : Nat := 0
  slot : Option Nat := none
  /-- rfence.flag: address and value, the operations it waits for, and those it covers for the first time -/
  addr : DWord := 0
  value : DWord := 0
  after : List Nat := []
  first : List Nat := []
  /-- coll.acc: the tile, and its target device, core, launch, block, tile and its rank -/
  tile : Nat := 0
  target : List Nat := []
  /-- dred: its control word and its vector -/
  control : DWord := 0
  data : List Word := []
  deriving DecidableEq, Repr

/-- What an operation does, by class. -/
inductive OpBody where
  | ferry (f : FerryOp)
  | matrix (m : MatrixOp)
  | amp (a : AmpOp)
  | fabric (x : FabricOp)
  deriving DecidableEq, Repr

/-- A page fault that holds an operation (R316): the virtual page, and whether the handler has returned. -/
structure EngineFault where
  page : Nat
  served : Bool := false
  deriving DecidableEq, Repr

/-- An engine operation from its issue until a wait has covered it (R124). -/
structure Op where
  /-- class: 0 f, 1 m, 2 a, 3 x -/
  cls : Nat
  group : Nat
  block : Nat
  part : Nat
  issued : Nat
  /-- since when it is in its present state -/
  since : Nat := 0
  /-- its context with generation and table at its issue (R195) -/
  ctx : Nat := 0
  gen : BitVec 16 := 0
  table : Nat := 0
  /-- the batch that closes it (R130) -/
  batch : Nat := 0
  state : OpState := .queued
  /-- completion status, once complete -/
  done : Option OpStatus := .none
  flags : BitVec 5 := 0
  /-- recorded status, reported at completion -/
  err : Bool := false
  tmo : Bool := false
  fault : Option EngineFault := none
  /-- virtual pages that the handler could not map -/
  unmappable : List Nat := []
  /-- checkpointed before it began: it resumes before a later command of its class (R338) -/
  saved : Bool := false
  body : OpBody
  deriving DecidableEq, Repr

/-! ## Stores on their way -/

/-- A store between its buffer and its home (R125), or on its way to a scratch level (R117). -/
structure Store where
  core : Nat
  part : Nat
  /-- the groups whose stores it holds, and those that have seen them (R118) -/
  groups : List Nat
  scope : Nat
  bytes : KMap Byte
  since : Nat
  /-- poisoned granules that one store instruction writes whole, each with a number of that instruction (R109) -/
  whole : List (Loc × Nat) := []
  /-- a store to a scratch level, in the order of its bytes -/
  pads : List (Loc × Byte) := []
  deriving DecidableEq, Repr

/-- An arrival of gate.arrive or exit that waits until the accesses of its group from before it are performed (R141): its number, by which
those accesses are tagged, the gate's block, reference and counts, and the groups whose releases wait for it. -/
structure Arrival where
  tag : Nat := 0
  group : Nat := 0
  block : Nat := 0
  ref : DWord
  c : Nat
  n : Nat
  /-- the address of its gate.arrive -/
  addr : DWord := 0
  /-- an arrival of exit: the generation that its entry recorded (R92, R146) -/
  exits : Option Nat := none
  groups : List Nat := []
  deriving DecidableEq, Repr

/-- A translation held by a TLB (R308): the leaf, where it stands, and the page it maps. -/
structure TlbEntry where
  base : Nat
  /-- log2 of the page size -/
  shift : Nat
  leaf : Nat
  pte : Nat
  deriving DecidableEq, Repr

/-- A sub-array of a core (R187). -/
structure SubArray where
  awake : Bool := false
  wakeAt : Option Nat := none
  lastUse : Nat := 0
  /-- the block whose weights it holds (R169) -/
  owner : Option Nat := none
  /-- the weight tile and its block scales as loaded, and whether poison came with them (R168, R185) -/
  weights : List Byte := []
  poisoned : Bool := false
  deriving DecidableEq, Repr

structure Die where
  /-- state code of R304 -/
  state : Nat := 0
  /-- stray requests get error replies (R348 op 5) -/
  stray : Bool := false
  /-- operating point (R360) -/
  point : Nat := 7
  /-- a commanded point and the cycle by which it takes effect -/
  change : Option (Nat × Nat) := none
  throttled : Bool := false
  /-- stopped by a thermal trip or the current bound (R363, R366), and the cycle of that -/
  tripped : Bool := false
  trippedAt : Nat := 0
  /-- since then its temperature has not been known to be below 100 °C -/
  hot : Bool := false
  /-- dispatch of the running context to it is stopped by a halt (R336) -/
  stopped : Bool := false
  /-- since that halt was requested, a block has left it of which a critical group had to be forced (R301) -/
  forced : Bool := false
  /-- the last period of the governor that it has served (R328) -/
  govTick : Nat := 0
  /-- 128-byte lines dirty in this die's L2 (R98) -/
  dirty : List Nat := []
  tlb : List TlbEntry := []
  deriving DecidableEq, Repr

/-! ## Landings (R190 to R202) -/

/-- A crossing table with its slots (R190, R192): descriptors by slot, nonzero nibbles by 18 × row + column. -/
structure AlgTable where
  slots : KMap Word := []
  cross : KMap Nat := []
  deriving DecidableEq, Repr

/-- A page of core, cluster or die scope that has been touched (R101): its context, its virtual address, frame and bytes, the place that
touched it, and whether its frame has been touched from another place. -/
structure ScopeMark where
  part : Nat
  ctx : Nat
  page : Nat
  frame : Nat
  bytes : Nat
  place : Nat
  mixed : Bool := false
  deriving DecidableEq, Repr

/-- Where a returned value goes: registers of a lane from `reg` on, or an sld's register. -/
inductive Return where
  | lane (group slot lane reg va : Nat) (sgn : Bool)
  | uniform (group slot dst : Nat)
  deriving DecidableEq, Repr

/-- An entry at a landing, or on its way to one (R195). Operators: slots 0 to 15, L is 16, S is 17; 18 is a dset and 19 a
dstat on their way to the home of their region; 20 is an alg.flush of a line (R207); 21 is an ldv request (R219). -/
structure Entry where
  addr : Nat
  size : Nat
  op : Nat
  /-- descriptor of its slot (R190) -/
  desc : Word := 0
  /-- operand bits, at f64 when `wide` (R191 merge precision) -/
  operand : Nat := 0
  wide : Bool := false
  /-- bytes of a store, and a number of its instruction where that writes the whole of a poisoned granule (R109) -/
  bytes : List Byte := []
  whole : Option Nat := none
  /-- a load of a poisoned granule behind a store of its core that writes it whole: the number of that store's instruction -/
  behind : Option Nat := none
  /-- where its value goes: the lanes of one load that read the same word share it (R110) -/
  ret : List Return := []
  part : Nat := 0
  ctx : Nat := 0
  /-- its context's generation and the table of that (R195, R206) -/
  gen : BitVec 16 := 0
  table : Nat := 0
  remote : Bool := false
  /-- the key of R199 -/
  key : List Nat := []
  /-- the groups whose accesses it performs -/
  groups : List Nat := []
  core : Nat := 0
  scope : Nat := 3
  /-- its page is drift-enabled -/
  drift : Bool := false
  /-- it came out of a delta line (R217), whose storage held an error (R230) -/
  flushed : Bool := false
  poisons : Bool := false
  /-- an ldv request: the tolerance, and each word that it asks for with where its value goes (R219) -/
  tol : Word := 0
  /-- the 64 KiB virtual page that it was issued through -/
  page : Nat := 0
  asks : List (Nat × List Return) := []
  /-- a dset: bound and share exponent; a dstat carries none (R226, R228) -/
  bound : Option (Word × Nat) := none
  /-- it stands in the pending set of its DET slot (R202) -/
  inSet : Bool := false
  since : Nat := 0
  deriving DecidableEq, Repr

/-- A line of a write-combining buffer (R103): the buffered bytes by local physical address, the groups whose stores they
are or that have seen them, the scope of the page, and the cycle of the last write. On an algebra-enabled page it holds the S
entries of the stores instead of bytes (R98, R195). -/
structure WcbLine where
  line : Nat
  bytes : KMap Byte
  groups : List Nat
  scope : Nat
  last : Nat
  /-- the 64 KiB virtual page of the latest store -/
  page : Nat
  /-- poisoned granules that one store instruction writes whole, each with a number of that instruction (R109) -/
  whole : List (Loc × Nat) := []
  ae : Bool := false
  entries : List Entry := []
  deriving DecidableEq, Repr

structure CoreSt where
  wcb : List WcbLine := []
  tlb : List TlbEntry := []
  subs : KMap SubArray := []
  deriving DecidableEq, Repr

/-! ## Drift regions (R209 to R223) -/

/-- A delta line (R213): its slot, context and generation, the scope of the page, and of each touched word the element at held
precision and the allowance as f32. -/
structure DeltaLine where
  op : Nat := 0
  desc : Word := 0
  part : Nat := 0
  ctx : Nat := 0
  gen : BitVec 16 := 0
  table : Nat := 0
  scope : Nat := 3
  elems : KMap (Nat × Word) := []
  /-- the 64 KiB virtual pages through which it accepted elements (R312) -/
  pages : List Nat := []
  /-- the cores whose adds it holds (R215) -/
  cores : List Nat := []
  /-- its storage holds an uncorrectable error (R230) -/
  bad : Bool := false
  deriving DecidableEq, Repr

/-- A cache's state towards one region (R222). -/
inductive HolderState where
  /-- it has asked for a grant; the elements wait -/
  | asking (waiting : List Entry)
  /-- it holds a share of B × 2^−k -/
  | holding (k : Nat) (line : DeltaLine)
  /-- it may not ask before this cycle -/
  | refused (till : Nat)
  deriving DecidableEq, Repr

structure Holder where
  cache : CacheId
  region : Nat
  state : HolderState
  deriving DecidableEq, Repr

/-- A request that reaches the directory entry of a region (R221). -/
inductive DirRequest where
  | grant (cache : CacheId)
  /-- an ldv: L entries that share one reply, and the tolerance (R219) -/
  | ldv (entries : List Entry) (tol : Word)
  /-- an arrival that drains every holder, or one that is queued behind others (R216) -/
  | entry (e : Entry)
  deriving DecidableEq, Repr

/-- The state of a directory entry (R221). -/
inductive DirState where
  | open_
  /-- a cut of the holder in a slot, for a requester -/
  | cutting (slot : Nat) (requester : CacheId)
  /-- holders that have not answered, and the request that waits -/
  | draining (called : List CacheId) (request : DirRequest)
  deriving DecidableEq, Repr

/-- The directory entry of a drift region (R209, R212). -/
structure Region where
  bound : Word := 0
  g : Nat := 0
  /-- holder slots: cache and share exponent -/
  slots : KMap (CacheId × Nat) := []
  lost : Bool := false
  state : DirState := .open_
  queue : List DirRequest := []
  deriving DecidableEq, Repr

/-- What a holder's message says besides the entries it carries (R214, R223). -/
inductive Answer where
  | none | cut | drained | released
  deriving DecidableEq, Repr

/-- A message from a holder to the home. -/
structure Message where
  cache : CacheId
  region : Nat
  entries : List Entry
  answer : Answer
  deriving DecidableEq, Repr

/-- A call or reply from the home to a cache (R212, R214, R219). -/
inductive Call where
  | cut (k : Nat)
  | drain
  /-- the answer to a grant request: the share's exponent, or a refusal -/
  | reply (k : Option Nat)
  deriving DecidableEq, Repr

structure CallTo where
  cache : CacheId
  region : Nat
  call : Call
  deriving DecidableEq, Repr

/-! ## Endpoint packets (R257, R258) -/

/-- Who gathers a packet. -/
inductive Gatherer where
  | group (g : Nat)
  | remote (dev group : Nat)
  | host
  deriving DecidableEq, Repr

/-- An open packet: its window (local address / 64 KiB), bytes by position, whether a byte had bits [11:8], the core whose place
it holds, and the cycle of its last byte. -/
structure OpenPacket where
  owner : Gatherer
  window : Nat
  bytes : KMap Byte := []
  bad : Bool := false
  core : Option Nat := none
  last : Nat := 0
  deriving DecidableEq, Repr

/-! ## The fabric (R253 to R271) -/

/-- A fabric packet on its way to a device. -/
structure Outbound where
  dest : Nat
  packet : FabPacket
  deriving DecidableEq, Repr

/-- A completion on its way back to an initiator (R255, R260). -/
structure Completion where
  dev : Nat
  op : Nat
  status : OpStatus
  data : List Byte
  deriving DecidableEq, Repr

/-- A contribution kept by a die-reduction slot: its operation and its vector (R269). -/
structure Kept where
  op : Nat
  data : List Word
  deriving DecidableEq, Repr

/-- A round of a die-reduction slot (R269). -/
structure Round where
  part : Nat
  ctx : Nat
  /-- RND, OP, TY and CNT, as the control word masked to them -/
  tag : DWord
  kept : KMap Kept
  deadline : Nat
  writing : Bool := false
  timed : Bool := false
  deriving DecidableEq, Repr

/-- A die-reduction slot: the round that it collects, and the last completed one as partition, context and RND. -/
structure DieSlot where
  round : Option Round := none
  last : Option (Nat × Nat × Nat) := none
  deriving DecidableEq, Repr

/-- A fabric port (R271, R366): its allowed device numbers, whether its link has failed. -/
structure Port where
  lo : Nat := 0
  hi : Nat := 262143
  failed : Bool := false
  deriving DecidableEq, Repr

/-! ## Partitions, contexts, launches -/

/-- An open graph, phase or job (R324, R328). -/
structure Level where
  counter : Nat := 1
  signal : Nat := 0
  job : Nat := 0
  phase : Nat := 0
  /-- the worst status of the items counted in it -/
  status : Nat := 0
  cancelled : Bool := false
  /-- stages, 0 where the graph has none; by stage ring the offset of its occupancy word, LOW and HIGH -/
  stages : Nat := 0
  rings : List (Nat × Nat × Nat) := []
  /-- quotas by 4 × die + stage -/
  quota : KMap Nat := []
  deriving DecidableEq, Repr

/-- A gate that a kernel declares (R134, R287): its window offset, its count, its exit option. -/
structure GateDecl where
  off : Nat
  n : Nat
  exit : Bool
  deriving DecidableEq, Repr

/-- The context registers of one slot (R293), and what the dispatcher holds for the context. -/
structure Ctx where
  id : Nat := 0
  ptroot : Nat := 0
  dpad : Nat := 0
  trapVec : Nat := 0
  trapEn : Nat := 0
  evt : Nat := 0
  gateStale : DWord := 0
  algSpill : DWord := 0
  driftFull : DWord := 0
  /-- table generation, and the key of its table in algTables (R190, R205) -/
  gen : BitVec 16 := 0
  table : Nat := 0
  /-- graphs at 65536 + id, phases at 131072 + id, jobs at 196608 + id (R324) -/
  levels : KMap Level := []
  /-- the gate entries that the loader passed, by the kernel's ENTRY (R134, R288) -/
  gates : KMap (List GateDecl) := []
  deriving DecidableEq, Repr

/-- A declared range of a launch (R322). -/
structure Range where
  base : Nat
  len : Nat
  w : Bool
  rn : Bool
  /-- fresh frames by page, when it was renamed -/
  fresh : KMap Nat := []
  committed : Bool := false
  deriving DecidableEq, Repr

/-- An admitted launch (R317 to R326). -/
structure Launch where
  packet : List DWord
  queue : Nat
  /-- the context number it belongs to -/
  ctx : Nat
  shadow : Bool := false
  /-- the first block number never placed -/
  next : Nat := 0
  requeued : List Nat := []
  retired : Nat := 0
  unrun : Nat := 0
  failed : Bool := false
  cancelled : Bool := false
  /-- a predecessor has failed; a predecessor has failed or been cancelled (R325, R326) -/
  predFailed : Bool := false
  predGone : Bool := false
  killed : Bool := false
  children : Nat := 0
  preds : List Nat := []
  ranges : List Range := []
  /-- the signal has been written; the entry stays while frames are out on rename -/
  complete : Bool := false
  /-- frames replaced at commit, and the launches that may still use them -/
  oldFrames : List Nat := []
  users : List Nat := []
  /-- pages that it goes on reading in the frames of before a later launch's commit -/
  keep : KMap Nat := []
  deriving DecidableEq, Repr

/-- A packet in the ring of a launch queue, with the block of the group that closed it (R323). -/
structure Queued where
  words : List DWord
  block : Option Nat := none
  deriving DecidableEq, Repr

structure Partition where
  formed : Bool := false
  dies : List Nat := []
  ctx : Ctx := {}
  sh : Ctx := {}
  ingress : Nat := 0
  /-- cached translations of the ingress table, by page: level and leaf (R295) -/
  ingressTlb : KMap (Nat × Nat) := []
  logBase : Nat := 0
  logLost : DWord := 0
  poolHead : Nat := 0
  poolLeft : Nat := 0
  badPkt : DWord := 0
  drop : DWord := 0
  /-- way masks; unlisted 0xFFFF -/
  l3ways : KMap Nat := []
  lq : KMap Nat := []
  mp : KMap Nat := []
  /-- packets in the rings of the launch queues (R319) -/
  rings : KMap (List Queued) := []
  passes : KMap Nat := []
  nextLaunch : Nat := 1
  launches : KMap Launch := []
  poolSignalled : Bool := false
  deriving DecidableEq, Repr

/-! ## The host's side -/

structure Aperture where
  on : Bool := false
  hostBase : Nat := 0
  size : Nat := 0
  r : Bool := false
  w : Bool := false
  deriving DecidableEq, Repr

structure Grant where
  base : Nat
  size : Nat
  r : Bool
  w : Bool
  deriving DecidableEq, Repr

structure Mailbox where
  on : Bool := false
  hostBase : Nat := 0
  size : Nat := 0
  deriving DecidableEq, Repr

/-- The answer to a host access (R357). -/
inductive HostReply where
  | data (bytes : List Byte)
  | done
  /-- what a read of the control window shows (R358) -/
  | view (words : List Nat)
  | poisoned
  | error
  deriving DecidableEq, Repr

structure Firmware where
  running : Bool := true
  version : Nat := 0
  rollback : Nat := 0
  /-- the slot of the fused key that verified it, and its digest -/
  keySlot : Nat := 0
  digest : Nat := 0
  /-- the revocation fuses of the four keys that are blown -/
  revoked : BitVec 4 := 0
  deriving DecidableEq, Repr

structure Attestation where
  nonce : BitVec 256
  contents : List Nat
  sig : BitVec 512
  deriving DecidableEq, Repr

/-- What moves next, chosen by the outside world (log entry 2). -/
inductive Turn where
  /-- a group issues its next instruction, after `dt` cycles -/
  | issue (group dt : Nat)
  | event (e : Event)
  /-- only time passes -/
  | tick (n : Nat)
  /-- the Adeton Link loses its training, or regains it (R355) -/
  | link (up : Bool)
  /-- the loader passes a kernel's gate entries to the dispatcher of a running context (R288) -/
  | load (part entry : Nat) (gates : List GateDecl)
  /-- the host reads the control window (R358) -/
  | view (v : ControlView)
  /-- the temperature of a die falls below 100 °C (R363) -/
  | cool (die : Nat)
  /-- the running firmware advances the rollback counter (R364) -/
  | rollback (n : Nat)
  deriving DecidableEq, Repr

/-! ## The module -/

structure State where
  cycle : Nat := 0
  dev : Nat := 0
  /-- local physical memory; unlisted bytes read 0 -/
  mem : List Host.Cell := []
  poison : List Nat := []
  /-- the pages of core, cluster or die scope that have been touched (R101) -/
  scopes : List ScopeMark := []
  dies : KMap Die := []
  cores : KMap CoreSt := []
  parts : KMap Partition := []
  blocks : KMap Block := []
  groups : KMap Group := []
  ops : KMap Op := []
  stores : List Store := []
  arrivals : List Arrival := []
  sent : List Entry := []
  landing : List Entry := []
  algTables : KMap AlgTable := []
  regions : KMap Region := []
  holders : List Holder := []
  messages : List Message := []
  calls : List CallTo := []
  openPackets : List OpenPacket := []
  outbound : List Outbound := []
  /-- packets of other modules that have been applied or refused: device, operation, issue (R255) -/
  handled : List (Nat × Nat × Nat) := []
  /-- completions for operations that this module sent to itself -/
  completions : List Completion := []
  /-- completions sent to other modules -/
  replies : List Completion := []
  /-- contributions on their way, with the device they go to -/
  contributions : List (Nat × Contribution) := []
  /-- transfers of the amplitude engines on their way, with the device they go to (R247) -/
  transfers : List (Nat × Transfer) := []
  dieSlots : KMap DieSlot := []
  ports : KMap Port := []
  /-- packets delivered to host mailboxes: mailbox and bytes (R272) -/
  mailed : List (Nat × List Byte) := []
  /-- the Adeton Links are trained: one flag for the two interfaces, since the spec speaks of the link alone (R4, R355, log entry 94) -/
  linkUp : Bool := true
  /-- the cycle at which they last lost their training -/
  linkLost : Nat := 0
  /-- bytes of host memory that no aperture shows now, by host address (R354, log entry 95) -/
  hostMem : List Host.Cell := []
  /-- answers to host accesses; the records of refused ones in the management controller; interrupt messages by die (R357, R363) -/
  hostReplies : List HostReply := []
  hostLog : List (Nat × Nat) := []
  hostInterrupts : List Nat := []
  apertures : KMap Aperture := []
  grants : KMap Grant := []
  mailboxes : KMap Mailbox := []
  firmware : Firmware := {}
  attestation : Option Attestation := none
  /-- the capability registers 0x3C0, 0x3C2 and 0x3C3 that the host has written (R293, R358) -/
  caps : KMap DWord := []
  powerCap : Nat := 2800
  powerNow : Nat := 0
  ceCount : Nat := 0
  critLimit : Nat := 55000
  mxIdle : Nat := 8192
  supplied : Bool := true
  schedule : List Turn := []
  current : Option Nat := none
  fresh : Nat := 0
  nextId : Nat := 0
  deriving DecidableEq, Repr

/-- Why the machine stops with a fault. -/
inductive Fault where
  /-- Raised by the meaning of an instruction executed while no group is selected to execute it. No step does so. Safe. -/
  | noGroup
  deriving DecidableEq, Repr

/-- Why the model refuses. -/
inductive Refusal where
  /-- Raised by an arm of exec whose instruction has no meaning yet. Safe. -/
  | notModelled (mnemonic : String)
  deriving DecidableEq, Repr

/-- The answer of a step. -/
abbrev Outcome := Host.Outcome State Fault Refusal

/-- The module right after reset (R2, R14, R293, R368). -/
def State.reset : State := {}

end Sys2Proof.Machine
end

