-- ==== Sys2Proof/Machine/Memory.lean ====
section
/-! DEFINITION. Bytes: memory in its canonical form, the places a byte can stand in, poison (R94 to R99, R109, R342). -/

namespace Sys2Proof.Machine

/-! ## Memory -/

/-- What a byte of memory that nothing has written reads as (log entry 4). -/
def unlisted : Byte := 0

/-- The canonical form: addresses strictly rising, no entry equal to what an unlisted address reads as. -/
def Memory.wf (m : List Host.Cell) : Bool := ksorted m && m.all fun c => c.2 != unlisted

def memRead (m : List Host.Cell) (a : Nat) : Byte := kgetD m a unlisted
def memWrite (m : List Host.Cell) (a : Nat) (b : Byte) : List Host.Cell := kstore m a b unlisted

/-! ## Places of a byte -/

/-- The 64-byte granule of a place (R342). -/
def Loc.granule : Loc → Loc
  | .mem a => .mem (a / 64)
  | .pad b o => .pad b (o / 64)
  | .slice b o => .slice b (o / 64)

/-- `n` places from one on. -/
def Loc.add : Loc → Nat → Loc
  | .mem a, n => .mem (a + n)
  | .pad b o, n => .pad b (o + n)
  | .slice b o, n => .slice b (o + n)

def Loc.run (l : Loc) (n : Nat) : List Loc := (List.range n).map l.add

/-- Reading one byte of the machine. -/
def readByte (s : State) : Loc → Byte
  | .mem a => memRead s.mem a
  | .pad b o => match kfind s.blocks b with
    | some blk => kgetD blk.pad o unlisted
    | none => unlisted
  | .slice b o => match kfind s.blocks b with
    | some blk => kgetD blk.slices o unlisted
    | none => unlisted

/-- Writing one byte of the machine. -/
def writeByte (s : State) (l : Loc) (v : Byte) : State :=
  match l with
  | .mem a => { s with mem := memWrite s.mem a v }
  | .pad b o => { s with blocks := kmodify s.blocks b fun blk => { blk with pad := kstore blk.pad o v unlisted } }
  | .slice b o => { s with blocks := kmodify s.blocks b fun blk => { blk with slices := kstore blk.slices o v unlisted } }

/-- Whether the granule of a place carries poison (R342). -/
def isPoisoned (s : State) (l : Loc) : Bool :=
  match l.granule with
  | .mem g => s.poison.contains g
  | .pad b g => match kfind s.blocks b with
    | some blk => blk.padPoison.contains g
    | none => false
  | .slice b g => match kfind s.blocks b with
    | some blk => blk.slicePoison.contains g
    | none => false

/-- Sets or clears the poison of a granule, named by its granule place. -/
def markPoison (s : State) (g : Loc) (on : Bool) : State :=
  let put := fun (l : List Nat) (k : Nat) => if on then insertNat l k else eraseNat l k
  match g with
  | .mem k => { s with poison := put s.poison k }
  | .pad b k => { s with blocks := kmodify s.blocks b fun blk => { blk with padPoison := put blk.padPoison k } }
  | .slice b k => { s with blocks := kmodify s.blocks b fun blk => { blk with slicePoison := put blk.slicePoison k } }

/-- Poisons the granule that holds a place. -/
def poisonAt (s : State) (l : Loc) : State := markPoison s l.granule true

/-- The places of a granule. -/
def Loc.granuleBytes (g : Loc) : List Loc :=
  match g with
  | .mem k => Loc.run (.mem (64 * k)) 64
  | .pad b k => Loc.run (.pad b (64 * k)) 64
  | .slice b k => Loc.run (.slice b (64 * k)) 64

/-- Writes bytes in their order, a later one over an earlier one. -/
def writeRaw (s : State) (ws : List (Loc × Byte)) : State := ws.foldl (fun s w => writeByte s w.1 w.2) s

/-- Writes bytes as one store: a poisoned granule all of whose bytes are written loses its poison (R109, R342). -/
def writeBytes (s : State) (ws : List (Loc × Byte)) : State :=
  let places := ws.map (·.1)
  let cleared := (places.map Loc.granule).eraseDups.filter fun g =>
    isPoisoned s (g.granuleBytes.headD (.mem 0)) && g.granuleBytes.all fun l => places.contains l
  cleared.foldl (fun s g => markPoison s g false) (writeRaw s ws)

def readLE (s : State) (l : Loc) (n : Nat) : Nat := leNat ((l.run n).map (readByte s))
def writeLE (s : State) (l : Loc) (v n : Nat) : State := writeBytes s ((l.run n).zip (leBytes n v))

/-- The 8-byte word at a physical address (R309). -/
def readWord64 (s : State) (pa : Nat) : Nat := readLE s (.mem pa) 8
def writeWord64 (s : State) (pa v : Nat) : State := writeLE s (.mem pa) v 8

/-! ## The address map (R99, R354) -/

def inHbm (pa : Nat) : Bool := pa < Config.hbmEnd
def inApertures (pa : Nat) : Bool := Config.apertureBase ≤ pa && pa < Config.apertureEnd
def inDiePads (pa : Nat) : Bool := Config.diePadBase ≤ pa && pa < Config.diePadBase + 8 * Config.diePadSize
def inEndpoints (pa : Nat) : Bool := Config.endpointBase ≤ pa && pa < Config.endpointEnd
/-- The windows of R256: launch queues, message ports, host mailboxes; every other window is reserved. -/
def inWindows (pa : Nat) : Bool :=
  (Config.endpointBase ≤ pa && pa < Config.endpointBase + 512 * 65536) ||
    (Config.messagePortBase ≤ pa && pa < Config.messagePortBase + 256 * 65536) ||
    (Config.mailboxBase ≤ pa && pa < Config.mailboxBase + 64 * 65536)
def diePadOf (pa : Nat) : Nat := (pa - Config.diePadBase) / Config.diePadSize

/-- The aperture of an address and whether the byte lies in its enabled part (R354). -/
def apertureAt (s : State) (pa : Nat) : Option Aperture :=
  let j := (pa - Config.apertureBase) / Config.apertureSize
  match kfind s.apertures j with
  | some a => if a.on && (pa - Config.apertureBase) % Config.apertureSize < a.size then some a else none
  | none => none

/-- Whether an address lies outside the reserved ranges, with the aperture's permission for the access (R99, R354). -/
def addressOk (s : State) (pa : Nat) (store : Bool) : Bool :=
  inHbm pa || inDiePads pa || inWindows pa ||
    (inApertures pa && match apertureAt s pa with
      | some a => if store then a.w else a.r
      | none => false)

end Sys2Proof.Machine
end

