-- ==== Sys2Proof/Machine/Access.lean ====
section
/-! DEFINITION. The one home of every register: accessors of groups, blocks, cores, dies, partitions and contexts. -/

namespace Sys2Proof.Machine

def getGroup (s : State) (g : Nat) : Group := kgetD s.groups g {}
def modGroup (s : State) (g : Nat) (f : Group → Group) : State := { s with groups := kmodify s.groups g f }
def getBlock (s : State) (b : Nat) : Block := kgetD s.blocks b {}
def modBlock (s : State) (b : Nat) (f : Block → Block) : State := { s with blocks := kmodify s.blocks b f }
def getCore (s : State) (c : Nat) : CoreSt := kgetD s.cores c {}
def modCore (s : State) (c : Nat) (f : CoreSt → CoreSt) : State := { s with cores := kput s.cores c (f (getCore s c)) }
def getDie (s : State) (d : Nat) : Die := kgetD s.dies d {}
def modDie (s : State) (d : Nat) (f : Die → Die) : State := { s with dies := kput s.dies d (f (getDie s d)) }
def getPart (s : State) (p : Nat) : Partition := kgetD s.parts p {}
def modPart (s : State) (p : Nat) (f : Partition → Partition) : State := { s with parts := kput s.parts p (f (getPart s p)) }
def getOp (s : State) (o : Nat) : Option Op := kfind s.ops o
def modOp (s : State) (o : Nat) (f : Op → Op) : State := { s with ops := kmodify s.ops o f }

/-! ## Organisation (R4, R16) -/

def dieOfCore (c : Nat) : Nat := c / 40
/-- the cluster of a core, module-wide -/
def clusterOfCore (c : Nat) : Nat := c / 4

def blockOf (s : State) (g : Nat) : Block := getBlock s (getGroup s g).block
def coreOf (s : State) (g : Nat) : Nat := (blockOf s g).core
def dieOf (s : State) (g : Nat) : Nat := dieOfCore (coreOf s g)
def partOf (s : State) (g : Nat) : Nat := (blockOf s g).part

/-- The context registers that a block's context stands in (R290). -/
def ctxOfBlock (s : State) (b : Block) : Ctx := if b.shadow then (getPart s b.part).sh else (getPart s b.part).ctx
def ctxOf (s : State) (g : Nat) : Ctx := ctxOfBlock s (blockOf s g)
def modCtx (s : State) (p : Nat) (shadow : Bool) (f : Ctx → Ctx) : State :=
  modPart s p fun pt => if shadow then { pt with sh := f pt.sh } else { pt with ctx := f pt.ctx }
def modCtxOf (s : State) (g : Nat) (f : Ctx → Ctx) : State := modCtx s (partOf s g) (blockOf s g).shadow f

/-- A slot is empty when no context number stands in it (R290, R303; log entry 12). -/
def Ctx.empty (c : Ctx) : Bool := c.id == 0

/-- The keys of the groups of a block, in group order. -/
def groupsOf (s : State) (b : Nat) : List Nat := (s.groups.filter fun e => e.2.block == b).map (·.1)

/-! ## Registers of a group -/

def Group.vreg (g : Group) (r l : Nat) : Word := kgetD g.v (32 * r + l) 0
def Group.setV (g : Group) (r l : Nat) (x : Word) : Group := { g with v := kstore g.v (32 * r + l) x 0 }
def Group.sreg (g : Group) (r : Nat) : DWord := kgetD g.s r 0
def Group.setS (g : Group) (r : Nat) (x : DWord) : Group := { g with s := kstore g.s r x 0 }
def Group.kreg (g : Group) (r : Nat) : Word := kgetD g.k r 0
def Group.setK (g : Group) (r : Nat) (x : Word) : Group := { g with k := kstore g.k r x 0 }
def Group.xreg (g : Group) (r : Nat) : XReg := kgetD g.x r {}
def Group.setX (g : Group) (r : Nat) (x : XReg) : Group := { g with x := kstore g.x r x {} }
/-- A translation register whose leaf has been discarded: its base stays (R105, R310). -/
def XReg.dropped (x : XReg) : XReg := { x with frame := 0, limit := 0, attr := 0 }
def Group.fmtReg (g : Group) (r : Nat) : Half := kgetD g.fmt r 0
def Group.setFmt (g : Group) (r : Nat) (x : Half) : Group := { g with fmt := kstore g.fmt r x 0 }
def Group.flags (g : Group) (l : Nat) : BitVec 5 := kgetD g.fsr l 0
def Group.setFlags (g : Group) (l : Nat) (x : BitVec 5) : Group := { g with fsr := kstore g.fsr l x 0 }
def Group.active (g : Group) (l : Nat) : Bool := g.em.getLsbD l
/-- the active lanes, lowest first -/
def Group.lanes (g : Group) : List Nat := (List.range 32).filter g.active

/-- A mask of the lanes that satisfy a test. -/
def maskOf (p : Nat → Bool) : Word := BitVec.ofNat 32 ((List.range 32).foldl (fun n l => if p l then n + 2 ^ l else n) 0)

/-- Merges flags into the fsr of all 32 lanes (R53). -/
def Group.mergeFlags (g : Group) (f : BitVec 5) : Group :=
  if f = 0 then g else (List.range 32).foldl (fun g l => g.setFlags l (g.flags l ||| f)) g

/-- Widens the reach to a scope (R121). -/
def Group.widen (g : Group) (scope : Nat) : Group := { g with reach := max g.reach scope }

/-! ## Pads (R94 to R97) -/

/-- The block of a rank of a block's cluster set, if it is present (R96). -/
def rankBlock (s : State) (b : Nat) (rank : Nat) : Option Nat :=
  let blk := getBlock s b
  if blk.span ≤ rank then none
  else
    let num := blk.number / blk.span * blk.span + rank
    (s.blocks.find? fun e =>
      e.2.part == blk.part && e.2.shadow == blk.shadow && e.2.launch == blk.launch && e.2.number == num).map (·.1)

/-- Base and size of the context's die-pad share in bytes (R97, R293). -/
def share (c : Ctx) : Nat × Nat := (bitsOf c.dpad 16 9 * 65536, min (bitsOf c.dpad 0 10) (512 - bitsOf c.dpad 16 9) * 65536)

/-- The places of `size` bytes at a pad offset (R94, R95), or none outside the level's bound. `gi` and `lane` matter for the
lane slice only. -/
def padPlaces (s : State) (b gi lane lvl off size : Nat) : Option (List Loc) :=
  let blk := getBlock s b
  match lvl with
  | 0 =>
    if off + size ≤ blk.sliceSize then
      some ((List.range size).map fun i =>
        .slice b (gi * 32 * blk.sliceSize + 128 * ((off + i) / 4) + 4 * lane + (off + i) % 4))
    else none
  | 1 => if off + size ≤ blk.padSize then some (Loc.run (.pad b off) size) else none
  | 2 =>
    let o := off % 2 ^ 18
    if off / 2 ^ 20 != 0 then none
    else match rankBlock s b (off / 2 ^ 18) with
      | none => none
      | some b' => if o + size ≤ (getBlock s b').padSize then some (Loc.run (.pad b' o) size) else none
  | 3 =>
    let sh := share (ctxOfBlock s blk)
    if off + size ≤ sh.2 then
      some (Loc.run (.mem (Config.diePadBase + dieOfCore blk.core * Config.diePadSize + sh.1 + off)) size)
    else none
  | _ => none

/-- The pad offset of a gate reference, the address that sys.trap.vaddr names (R133, log entry 30). -/
def refOff (r : DWord) : Nat := fld r 0 32
/-- The pad level of a reference, as the LVL of R20. -/
def refLvl (r : DWord) : Nat := fld r 32 2 + 1
/-- The places of the gate of a reference of a block, whatever they hold. -/
def refPlaces (s : State) (b : Nat) (r : DWord) : Option (List Loc) := padPlaces s b 0 0 (refLvl r) (refOff r) 16

/-- The scope to which an access of a pad level widens the reach (R121). -/
def padScope : Nat → Nat
  | 2 => 1
  | 3 => 2
  | _ => 0

/-! ## The clock and free values -/

/-- A fresh index for free values (log entry 5). -/
def freshen (s : State) : Nat × State := (s.fresh, { s with fresh := s.fresh + 1 })
/-- A key that nothing has used. -/
def newId (s : State) : Nat × State := (s.nextId, { s with nextId := s.nextId + 1 })

/-- Whether a die executes: it is not stopped by a trip, a pending change of point or point 0, and not under reset or fenced
(R360, R363, R304). -/
def dieRuns (s : State) (d : Nat) : Bool :=
  let x := getDie s d
  !x.tripped && x.change.isNone && x.point != 0 && (x.state ≤ 2)

end Sys2Proof.Machine
end

