-- ==== Sys2Proof/Machine/Walk.lean ====
section
/-! DEFINITION. The page table (R293, R305 to R307): entries, the walk, and the frames by which a launch sees renamed pages (R322). -/

namespace Sys2Proof.Machine

/-! ## Entries (R306, R307) -/

def leafR (e : Nat) : Bool := bitAt e 2
def leafW (e : Nat) : Bool := bitAt e 3
def leafX (e : Nat) : Bool := bitAt e 4
def leafScope (e : Nat) : Nat := bitsOf e 5 3
def leafFrame (e shift : Nat) : Nat := bitsOf e shift (46 - shift) * 2 ^ shift

/-- log2 of the page size of a leaf at a level (R305). -/
def levelShift : Nat → Nat
  | 2 => 36 | 3 => 26 | _ => 16

/-- The index of a virtual address at a level (R305). -/
def tableIndex (va level : Nat) : Nat := bitsOf va (56 - 10 * level) 10

/-- A valid entry that breaks R307. -/
def malformed (e level : Nat) : Bool :=
  if bitAt e 1 then
    let sh := levelShift level
    level == 1 || bitsOf e 48 16 != 0 || bitsOf e 16 (sh - 16) != 0 || bitAt e 15 || 6 ≤ leafScope e ||
      ((leafScope e == 5) != inApertures (leafFrame e sh))
  else
    level == 4 || bitsOf e 2 11 != 0 || bitsOf e 46 18 != 0 || !inHbm (bitsOf e 13 33 * 8192)

/-- What a walk finds: a leaf with its level and place, or where and why it stopped: the fault kind of R313, the level, the
place of the entry and the entry (0 where there is none). -/
inductive Walk where
  | leaf (level pte e : Nat)
  | stop (kind level pte e : Nat)
  deriving DecidableEq, Repr

/-- The walk of R307 from a table at `t`, `level` by `level`. -/
def walkFrom (s : State) (va : Nat) : Nat → Nat → Nat → Walk
  | 0, level, _ => .stop 0 level 0 0
  | fuel + 1, level, t =>
    let pte := t + 8 * tableIndex va level
    let e := readWord64 s pte
    if !bitAt e 0 then .stop (if level == 4 && bitAt e 15 then 1 else 0) level pte e
    else if malformed e level then .stop 2 level pte e
    else if bitAt e 1 then .leaf level pte e
    else walkFrom s va fuel (level + 1) (bitsOf e 13 33 * 8192)

/-- A walk from a root laid out as sys.ctx.ptroot (R293, R307). -/
def walkRoot (s : State) (root va : Nat) : Walk :=
  if !bitAt root 0 then .stop 0 0 0 0
  else if !inHbm (bitsOf root 13 33 * 8192) then .stop 2 0 0 0
  else walkFrom s va 4 1 (bitsOf root 13 33 * 8192)

/-- The frame of a page that a launch sees apart from the page table: fresh while its rename is not committed, old where a later
launch's rename has been (R322). -/
def renamedPage (s : State) (p launch page : Nat) : Option Nat :=
  match kfind (getPart s p).launches launch with
  | none => none
  | some l => match l.ranges.findSome? fun r => if r.committed then none else kfind r.fresh page with
    | some f => some f
    | none => kfind l.keep page

end Sys2Proof.Machine
end

