-- ==== Sys2Proof/Machine/Ops.lean ====
section
/-! DEFINITION. The named operations shared by the meanings: the supervisor log (R294), ending a block (R325, R345), taking an
exception and returning from one (R299, R330 to R334), advancing and blocking a group (R10), translated accesses. -/

namespace Sys2Proof.Machine

/-! ## The supervisor log (R293, R294) -/

/-- A change of state in the running slot's events (R293). -/
def raiseEvt (s : State) (p bits : Nat) : State := modCtx s p false fun c => { c with evt := c.evt ||| bits }

/-- Appends a record to a partition's log, or counts it as lost. -/
def logAppendFrom (s : State) (p dev addr kind cause : Nat) : State :=
  let pt := getPart s p
  let base := bitsOf pt.logBase 12 34 * 4096
  let cap := 2 ^ (bitsOf pt.logBase 0 4 + 7)
  let lost := modPart s p fun pt => { pt with logLost := pt.logLost + 1 }
  if base == 0 then lost
  else
    let tail := readWord64 s base
    let head := readWord64 s (base + 8)
    if (tail + 2 ^ 64 - head) % 2 ^ 64 == cap then lost
    else
      let at_ := base + 64 + 32 * (tail % cap)
      let rec_ := leBytes 8 dev ++ leBytes 8 addr ++ leBytes 4 kind ++ leBytes 4 cause ++ leBytes 8 s.cycle
      let s := writeBytes s ((Loc.run (.mem at_) 32).zip rec_)
      raiseEvt (writeWord64 s base (tail + 1)) p 2

/-- A record whose device is this module. -/
def logAppend (s : State) (p addr kind cause : Nat) : State := logAppendFrom s p s.dev addr kind cause

/-- Changes a die's state code and raises event bit 3 (R293). -/
def setDieState (s : State) (p d code : Nat) : State :=
  if (getDie s d).state == code then s else raiseEvt (modDie s d fun x => { x with state := code }) p 8

/-! ## Ending a block (R325, R345) -/

/-- The groups of a partition's running context that have not exited and satisfy a test. -/
def runningGroups (s : State) (p : Nat) (f : Nat → Bool) : List Nat :=
  (s.groups.filter fun e =>
    let b := getBlock s e.2.block
    e.2.status != .exited && b.part == p && !b.shadow && f e.1).map (·.1)

/-- Whether an operation is held on a page fault (R316). -/
def Op.onFault (o : Op) : Bool := o.done.isNone && o.fault.isSome

/-- Whether a halt checkpoints an operation, so that a block that ends discards it (R337). -/
def checkpoints (s : State) (k : Nat) (o : Op) : Bool :=
  o.done.isNone && match o.body, o.state with
    | .ferry _, .queued | .ferry _, .faulting => true
    | .matrix _, .captured => !s.ops.any fun e => match e.2.body with
        | .ferry f => f.captured == some k && e.2.state == .active
        | _ => false
    | .matrix m, .ordered => !m.fires
    | .matrix m, .executing => m.cmd == 6 || o.fault.isSome
    | .amp _, .queued => true
    | _, _ => false

/-- Captured commands behind an Active copy will execute although their groups are halted (R337). -/
def markFiring (s : State) (p : Op → Bool) : State :=
  let firing := s.ops.filterMap fun e => match e.2.body with
    | .ferry f => if p e.2 && e.2.done.isNone && e.2.state == .active then f.captured else none
    | _ => none
  { s with ops := s.ops.map fun e => match e.2.body with
    | .matrix m => if firing.contains e.1 then (e.1, { e.2 with body := .matrix { m with fires := true } }) else e
    | _ => e }

/-- A halt request for a group (R336): counted from its first request. -/
def askHalt (s : State) (g : Nat) : State :=
  modGroup s g fun x => match x.status with
    | .halted _ | .exited => x
    | _ => { x with haltAsked := some (x.haltAsked.getD s.cycle) }

/-- Whether a group issues nothing more: it has exited, or stands halted. -/
def Group.still (x : Group) : Bool := match x.status with
  | .exited | .halted _ => true
  | _ => false

/-- The checkpointed operations of some groups of a block that is being ended are discarded (R325, R345); an operation of the block that
is held on a page fault completes with err (R316). -/
def dropOps (s : State) (b : Nat) (f : Nat → Bool) : State :=
  let s := markFiring s fun o => o.block == b && f o.group
  { s with ops := (s.ops.filter fun e => !(e.2.block == b && f e.2.group && checkpoints s e.1 e.2 && !e.2.onFault)).map fun e =>
    if e.2.block == b && e.2.onFault then (e.1, { e.2 with done := some .err }) else e }

/-- Begins to end a block (R325, R345): a halt is requested of each of its groups that has not exited, and the group is discarded once it
has been halted. BLOCK_RETIRE follows when every group stands still and the operations that go on are complete. A block that is
already being ended leaves as it began to (log entry 93). -/
def endBlock (s : State) (b : Nat) (how : BlockEnd) : State :=
  if (getBlock s b).ending.isSome then s
  else
    let s := dropOps s b fun g => (getGroup s g).still
    modBlock ((groupsOf s b).foldl askHalt s) b fun x => { x with ending := some how }

/-- The blocks that leave together with one (R345): its cluster set, or all of a cooperative launch. -/
def together (s : State) (b : Nat) : List Nat :=
  let blk := getBlock s b
  let coop := match kfind (getPart s blk.part).launches blk.launch with
    | some l => bitAt (l.packet.headD 0).toNat 10
    | none => false
  (s.blocks.filter fun e =>
    e.2.part == blk.part && e.2.launch == blk.launch && !e.2.retired && e.2.ending.isNone &&
      (coop || e.2.number / e.2.span == blk.number / blk.span)).map (·.1)

/-- Re-queues a block whose launch is replayable with the blocks that go with it, else ends it as failed (R343, R345). -/
def requeueOrFail (s : State) (b : Nat) : State :=
  let blk := getBlock s b
  let repl := match kfind (getPart s blk.part).launches blk.launch with
    | some l => bitAt (l.packet.headD 0).toNat 11
    | none => false
  if blk.retired || blk.ending.isSome then s
  else if repl then (together s b).foldl (fun s b => endBlock s b .requeued) s
  else endBlock s b .failed

/-! ## Taking an exception (R330 to R334) -/

/-- An exception about to be taken. -/
structure Trap where
  num : Nat
  code : Nat := 0
  /-- the saved program counter -/
  pc : DWord
  addr : DWord
  vaddr : DWord := 0
  lanes : Word := 0
  /-- a fault on fetching an instruction (R18, R369) -/
  fetch : Bool := false
  /-- the engine operation whose page fault this is (R316) -/
  serves : Option Nat := none
  deriving DecidableEq, Repr

/-- A group that cannot be vectored issues nothing more: the halt of its block takes it at once (R334). -/
def stopGroup (s : State) (g : Nat) : State :=
  modGroup s g fun x => { x with status := .waiting, stalled := true, critical := false, pending := [], latch := {} }

/-- Trap entry. Without a vector the block is ended as failed and logged (R334). -/
def enterTrap (s : State) (g : Nat) (t : Trap) : State :=
  let x := getGroup s g
  let vec := bitsOf (ctxOf s g).trapVec 6 50
  if vec == 0 then
    logAppend (stopGroup (endBlock s x.block .failed) g) (partOf s g) t.pc.toNat 4 t.num
  else
    modGroup s g fun x => { x with
      trap := {
        pc := t.pc, addr := t.addr, vaddr := t.vaddr
        cause := BitVec.ofNat 64 (t.num + 256 * t.code + (if x.sup then 65536 else 0))
        lanes := t.lanes.setWidth 64, em := x.em.setWidth 64 }
      em := if 2 ≤ t.num && t.num ≤ 6 && !t.fetch then t.lanes else x.em
      sup := true
      serving := t.serves :: x.serving
      latch := {}
      status := .ready
      readySince := if x.status = .ready then x.readySince else s.cycle
      hostWait := none
      pc := BitVec.ofNat 64 (vec * 64 + 64 * t.num) }

/-- An exception raised by the instruction at the program counter, before any effect (R329, saved program counter a). -/
def raise (s : State) (g num : Nat) (vaddr : Nat := 0) (lanes : Word := 0) (code : Nat := 0) : State :=
  let x := getGroup s g
  enterTrap s g { num := num, code := code, pc := x.pc, addr := x.pc, vaddr := BitVec.ofNat 64 vaddr, lanes := lanes }

/-- An exception raised after the instruction's effect, at a + 4 (R329). The program counter still stands at a. -/
def raiseAfter (s : State) (g num : Nat) (code : Nat := 0) : State :=
  let x := getGroup s g
  enterTrap s g { num := num, code := code, pc := x.pc + 4, addr := x.pc }

/-- Return from an exception (R299): trap 2 where the saved program counter is misaligned or beyond 2^56. An engine operation
whose page fault the handler served translates its page again (R316). -/
def returnFromTrap (s : State) (g : Nat) : State :=
  let x := getGroup s g
  if bitAt x.trap.pc.toNat 0 || 2 ^ 56 ≤ x.trap.pc.toNat then raise s g 2 x.trap.pc.toNat
  else
    let s := match x.serving with
      | some k :: _ => modOp s k fun o => { o with fault := o.fault.map fun f => { f with served := true } }
      | _ => s
    modGroup s g fun x => { x with
      pc := x.trap.pc, em := x.trap.em.setWidth 32, sup := bitAt x.trap.cause.toNat 16, latch := {}, serving := x.serving.drop 1 }

/-! ## Advancing and blocking -/

/-- The group has executed an instruction of `len` bytes. -/
def advance (s : State) (g len : Nat) : State :=
  modGroup s g fun x => { x with
    pc := x.pc + BitVec.ofNat 64 len, status := .ready, hostWait := none
    readySince := if x.status = .ready then x.readySince else s.cycle }

/-- An instruction that is no latch reader and pushes nothing ends the chain before it (R27). -/
def endChain (s : State) (g : Nat) : State := modGroup s g fun x => { x with latch := {} }

/-- The group is Blocked at its instruction (R10). -/
def block (s : State) (g : Nat) (w : Wait) : State := modGroup s g fun x => { x with status := .blocked w }

/-- The group waits at its instruction for a place or an answer, and tries it again (R10, R124). -/
def waitHere (s : State) (g : Nat) : State := modGroup s g fun x => { x with status := .waiting, stalled := true }

/-- Runs a meaning for the group that issues. -/
def withGroup (s : State) (f : Nat → State) : Outcome :=
  match s.current with
  | some g => if (kfind s.groups g).isSome then .next (f g) else .fault .noGroup
  | none => .fault .noGroup

/-- A uniform, control, engine or system instruction of 32 bits: its effect on registers, then the next instruction. -/
def scalarOp (s : State) (f : Nat → State → State) : Outcome :=
  withGroup s fun g => advance (f g (endChain s g)) g 4

/-! ## Outstanding accesses of a group (R114, R118) -/

/-- Fixes the values of a group's loads in flight: they are not read anew (R116, R118). -/
def fixLoads (s : State) (g : Nat) : State :=
  modGroup s g fun x => { x with inFlight := x.inFlight.map fun e => (e.1, { e.2 with elems := [] }) }

/-- Fixes the values of those loads in flight of a group that read one of some bytes (R115, R116). -/
def fixOverlap (s : State) (g : Nat) (ls : List Loc) : State :=
  modGroup s g fun x => { x with inFlight := x.inFlight.map fun e =>
    (e.1, { e.2 with elems := e.2.elems.filter fun l => !l.places.any ls.contains }) }

/-! ## Dies that answer nothing (R349, R363) -/

/-- How a die answers a request for its die pad or its homes: served, held, or by error (R349, R363); at point 0 its clock stands still
as in a trip (R360, log entry 66). -/
inductive DieAnswer where
  | served | held | error
  deriving DecidableEq, Repr

def dieAnswer (s : State) (d : Nat) : DieAnswer :=
  let x := getDie s d
  if x.stray || x.state == 7 then .error
  else if x.state == 3 || x.state == 4 || x.state == 6 || x.tripped || x.point == 0 then .held
  else .served

/-- The die that serves an address: the die of a die pad, or the accessing die for a page of core, cluster or die scope. -/
def servingDie (pa scope die : Nat) : Option Nat :=
  if inDiePads pa then some (diePadOf pa) else if scope ≤ 2 then some die else none

def answerFor (s : State) (pa scope die : Nat) : DieAnswer :=
  match servingDie pa scope die with
  | some d => dieAnswer s d
  | none => .served

/-- The local physical address of a place, for a die pad. -/
def Loc.pa : Loc → Option Nat
  | .mem a => some a
  | _ => none

/-- How the die of a place answers (R349, R363); core pads and lane slices are the block's own. -/
def locAnswer (s : State) (l : Loc) : DieAnswer :=
  match l with
  | .mem a => answerFor s a 3 0
  | _ => .served

/-! ## Pages of narrow scope (R101) -/

/-- The place within which a page of a scope is coherent, as a number; module scope and wider have one place. -/
def scopePlace (scope core : Nat) : Option Nat :=
  match scope with
  | 0 => some core
  | 1 => some (1000 + clusterOfCore core)
  | 2 => some (2000 + dieOfCore core)
  | _ => none

/-- Whether two runs of bytes meet. -/
def runsMeet (a b : Nat × Nat) : Bool := a.1 < b.1 + b.2 && b.1 < a.1 + a.2

/-- A translated byte: its physical address, the attributes of its page, log2 of the page's size and the page's virtual address. -/
structure Phys where
  pa : Nat
  attr : Nat
  shift : Nat := 16
  page : Nat := 0
  deriving DecidableEq, Repr

def ScopeMark.run (m : ScopeMark) : Nat × Nat := (m.frame, m.bytes)
/-- Whether a mark is of a page of a context. -/
def ScopeMark.of (m : ScopeMark) (part ctx page : Nat) : Bool := m.part == part && m.ctx == ctx && m.page == page

/-- Whether the page of a mark still lies in its frame for its context, by the page table or by a launch's renames; else it has been
unmapped (log entry 100). -/
def ScopeMark.live (s : State) (m : ScopeMark) : Bool :=
  let pt := getPart s m.part
  let byTable := fun (c : Ctx) => c.id == m.ctx && match walkRoot s c.ptroot m.page with
    | .leaf level _ e => leafFrame e (levelShift level) == m.frame
    | .stop .. => false
  byTable pt.ctx || byTable pt.sh || pt.launches.any fun l => l.2.ctx == m.ctx && renamedPage s m.part l.1 (m.page / 65536) == some m.frame

/-- Records that a core touched a page of narrow scope for a context; a second place makes the values of the frame's pages unspecified. A
page that has been unmapped, or now has another frame, has been mapped anew: what was known of it is forgotten. -/
def touchScope (s : State) (part ctx scope core : Nat) (p : Phys) : State :=
  match scopePlace scope core with
  | none => s
  | some place =>
    let size := 2 ^ p.shift
    let m : ScopeMark := { part := part, ctx := ctx, page := p.page, frame := p.pa / size * size, bytes := size, place := place }
    let marks := s.scopes.filter fun n => !(n.of part ctx p.page && n.run != m.run) && (!runsMeet n.run m.run || n.live s)
    let bad := marks.any fun n => runsMeet n.run m.run && (n.place != place || n.mixed)
    let marks := marks.map fun n => if bad && runsMeet n.run m.run then { n with mixed := true } else n
    { s with scopes := if marks.any fun n => n.of part ctx p.page then marks else marks ++ [{ m with mixed := bad }] }

/-- What is known of the scopes of some touched pages is forgotten: they have been unmapped. -/
def forgetScopes (s : State) (gone : ScopeMark → Bool) : State := { s with scopes := s.scopes.filter fun m => !gone m }

end Sys2Proof.Machine
end

