-- ==== Sys2Proof/Machine/Operands.lean ====
section
/-! DEFINITION. Operand forms: lane operand codes (R21, R22, R24, R26, R28), uniform operands (R20), and the common effect of
lane instructions (R57). -/

namespace Sys2Proof.Machine

/-! ## Latches (R25 to R29) -/

def isLatchCode (c : Nat) : Bool := 112 ≤ c && c ≤ 115

/-- What latch `j` holds for a lane: where no push of the chain supplies it, the entry value 0 at the kernel's entry point (R14),
else a free value (R28). -/
def latchValue (g : Group) (fr j l : Nat) : Word :=
  match (g.latch.pushes[j]?).bind fun m => kfind m l with
  | some x => x
  | none => if g.latch.atEntry then 0 else Config.freeWord (256 * fr + 32 * j + l)

/-! ## Lane operands (R21) -/

/-- Element `i` of a 32-bit source, in lane `l`; `fr` is the index of the free values of this instruction. -/
def src (g : Group) (fr c i l : Nat) : Word :=
  if c ≤ 111 then g.vreg (c + i) l
  else if c ≤ 115 then latchValue g fr (c - 112) l
  else if c ≤ 123 then (g.sreg (c - 116)).setWidth 32
  else if c == 125 then BitVec.ofNat 32 l
  else if c == 126 then g.em
  else 0

/-- Element `i` of a 64-bit source, in lane `l`. -/
def src64 (g : Group) (c i l : Nat) : DWord :=
  if c ≤ 111 then (g.vreg (c + 2 * i + 1) l ++ g.vreg (c + 2 * i) l : BitVec 64)
  else if 116 ≤ c && c ≤ 123 then g.sreg (c - 116)
  else if c == 125 then BitVec.ofNat 64 l
  else if c == 126 then g.em.setWidth 64
  else 0

/-- A run of `n` registers lies below the declared count (R22). -/
def declared (regs : Nat) (r : Nat × Nat) : Bool := 111 < r.1 || r.1 + r.2 ≤ regs

/-! ## The common effect (R57) -/

/-- The latches after an instruction: the chain goes on at a reader, a value may be pushed (R25, R27). -/
def pushLatch (g : Group) (reader : Bool) (push : Option (KMap Word)) : Latches :=
  let old := if reader then g.latch.pushes else []
  { pushes := match push with
      | some m => (m :: old).take 4
      | none => old
    readers := if reader then g.latch.readers + 1 else 0
    atEntry := reader && g.latch.atEntry }

/-- What a lane instruction names: its length in memory, and each lane operand as code and registers of its run. -/
structure LaneForm where
  len : Nat
  /-- destination register and the registers of its run -/
  dst : Nat × Nat
  srcs : List (Nat × Nat)
  deriving DecidableEq, Repr

/-- Checks the registers against the declared count (R22) and the chain's length (R29), then runs the effect with the index
of free values; a reader of latches uses one such index. -/
def laneInstr (s : State) (fm : LaneForm) (f : Nat → Nat → State → Bool → State) : Outcome :=
  withGroup s fun gid =>
    let g := getGroup s gid
    let regs := (blockOf s gid).regs
    if !(declared regs fm.dst && fm.srcs.all (declared regs)) then raise s gid 0
    else
      let reader := fm.srcs.any fun c => isLatchCode c.1
      if reader && g.latch.readers == 32 then raise s gid 1
      else
        let s' := if reader then { s with fresh := s.fresh + 1 } else s
        advance (f gid s.fresh s' reader) gid fm.len

/-- Writes element results into a run of units of `unit` registers, in the active lanes. -/
def writeRun (g : Group) (d unit cnt : Nat) (f : Nat → Nat → Res) : Group :=
  g.lanes.foldl (fun x l =>
    (List.range cnt).foldl (fun x i =>
      let r := (f i l).1
      let x := x.setV (d + unit * i) l (r.setWidth 32)
      if unit == 2 then x.setV (d + 2 * i + 1) l ((r >>> 32).setWidth 32) else x) x) g

/-- ORs the flags of every element into the fsr of the active lanes (R52). -/
def raiseFlags (g : Group) (cnt : Nat) (f : Nat → Nat → Res) : Group :=
  g.lanes.foldl (fun x l => x.setFlags l ((List.range cnt).foldl (fun fl i => fl ||| (f i l).2) (x.flags l))) g

/-- The value an instruction pushes, in the active lanes: the low word of element 0 (R25). -/
def pushOf (g : Group) (f : Nat → Nat → Res) : KMap Word := g.lanes.map fun l => (l, ((f 0 l).1).setWidth 32)

/-- The effect of R57 on the group: every source is read from `g` before any destination is written. -/
def laneEffect (g : Group) (reader : Bool) (d unit cnt : Nat) (n : Bool) (f : Nat → Nat → Res) : Group :=
  let x := if n then g else writeRun g d unit cnt f
  let x := raiseFlags x cnt f
  { x with latch := pushLatch g reader (some (pushOf g f)) }

/-- A lane instruction of formats A, I, U or Q (R57): `f` gives the result of element `i` in lane `l` from the group. -/
def laneOp (s : State) (len d unit cnt : Nat) (n : Bool) (srcs : List (Nat × Nat)) (f : Group → Nat → Nat → Nat → Res) : Outcome :=
  laneInstr s { len := len, dst := (d, unit * cnt), srcs := srcs } fun gid fr s reader =>
    modGroup s gid fun g => laneEffect g reader d unit cnt n (f g fr)

/-! ## Lane forms -/

/-- Two 32-bit sources (format A and its compact forms). -/
def alu2 (s : State) (len d a b w : Nat) (n : Bool) (op : Word → Word → Res) : Outcome :=
  laneOp s len d 1 (2 ^ w) n [(a, 2 ^ w), (b, 2 ^ w)] fun g fr i l => op (src g fr a i l) (src g fr b i l)

/-- Two 32-bit sources and an addend: D, or C of the addend prefix (R32). -/
def alu3 (s : State) (len d a b : Nat) (c : Option Nat) (w : Nat) (n : Bool) (op : Word → Word → Word → Res) : Outcome :=
  let addend := c.getD d
  laneOp s len d 1 (2 ^ w) n [(a, 2 ^ w), (b, 2 ^ w), (addend, 2 ^ w)] fun g fr i l =>
    op (src g fr a i l) (src g fr b i l) (src g fr addend i l)

/-- Two 64-bit sources (R61, R65). -/
def alu64 (s : State) (len d a b w : Nat) (n : Bool) (op : DWord → DWord → Res) : Outcome :=
  laneOp s len d 2 (2 ^ w) n [(a, 2 * 2 ^ w), (b, 2 * 2 ^ w)] fun g _ i l => op (src64 g a i l) (src64 g b i l)

/-- A 64-bit source and a 32-bit shift count (R61). -/
def shift64 (s : State) (len d a b w : Nat) (n : Bool) (op : DWord → Nat → DWord) : Outcome :=
  laneOp s len d 2 (2 ^ w) n [(a, 2 * 2 ^ w), (b, 2 ^ w)] fun g fr i l => plain64 (op (src64 g a i l) (src g fr b i l).toNat)

/-- Three 64-bit sources: fma.f64. -/
def alu64x3 (s : State) (len d a b : Nat) (c : Option Nat) (w : Nat) (n : Bool) (op : DWord → DWord → DWord → Res) : Outcome :=
  let addend := c.getD d
  laneOp s len d 2 (2 ^ w) n [(a, 2 * 2 ^ w), (b, 2 * 2 ^ w), (addend, 2 * 2 ^ w)] fun g _ i l =>
    op (src64 g a i l) (src64 g b i l) (src64 g addend i l)

/-- A source and an immediate (format I, R57, R66). -/
def immOp (s : State) (len d a : Nat) (imm : Word) (n : Bool) (op : Word → Word → Res) : Outcome :=
  laneOp s len d 1 1 n [(a, 1)] fun g fr _ l => op (src g fr a 0 l) imm

/-- One 32-bit source (format U). -/
def unary (s : State) (len d a w : Nat) (n : Bool) (op : Word → Res) : Outcome :=
  laneOp s len d 1 (2 ^ w) n [(a, 2 ^ w)] fun g fr i l => op (src g fr a i l)

def unary64 (s : State) (len d a w : Nat) (n : Bool) (op : DWord → Res) : Outcome :=
  laneOp s len d 2 (2 ^ w) n [(a, 2 * 2 ^ w)] fun g _ i l => op (src64 g a i l)

/-- A register code of the compact form: v0 to v27, h0 to h3 (R33). -/
def compactCode (a : BitVec 5) : Nat := if a.toNat ≤ 27 then a.toNat else 84 + a.toNat

/-! ## Results in flight (R10, R62) -/

/-- m: ceil (1,100 / f) at the operating point of a die (R163, R361). -/
def clockFactor (s : State) (d : Nat) : Nat :=
  let f := (Config.operatingPoint (getDie s d).point).1
  if f == 0 then 1 else (1100 + f - 1) / f

/-- How many times its stated value a latency lasts on a die: its operating point, and a throttle, stretch it (R361, R362). -/
def slowdown (s : State) (d : Nat) : Nat := clockFactor s d * (if (getDie s d).throttled then 4 else 1)

/-- Adds a result in flight. -/
def addInFlight (s : State) (gid : Nat) (e : InFlight) : State :=
  let (k, s) := newId s
  modGroup s gid fun g => { g with inFlight := kput g.inFlight k e }

/-- A division (R62, R63): its result arrives 32 cycles after issue; it pushes nothing and ends the chain before it. -/
def division (s : State) (d a b w : Nat) (n : Bool) (op : Word → Word → Word) : Outcome :=
  laneInstr s { len := 4, dst := (d, 2 ^ w), srcs := [(a, 2 ^ w), (b, 2 ^ w)] } fun gid _ s _ =>
    let g := getGroup s gid
    let vals : KMap Word := (List.range (2 ^ w)).flatMap fun i =>
      g.lanes.map fun l => (32 * (d + i) + l, op (src g 0 a i l) (src g 0 b i l))
    let s := endChain s gid
    if n then s
    else addInFlight s gid { v := vals, dst := (d, 2 ^ w), lanes := g.em, due := s.cycle + Config.divisionCycles * slowdown s (dieOf s gid) }

/-! ## Uniform operands (R20, R81) -/

/-- IMM6 sign-extended, or s[B6]. -/
def uniformB (g : Group) (b : BitVec 6) (i : Bool) : DWord := if i then b.signExtend 64 else g.sreg b.toNat

end Sys2Proof.Machine
end

