-- ==== Sys2Proof/Machine/Endpoint.lean ====
section
/-! DEFINITION. Endpoint windows (R256 to R258, R272, R319): gathering bytes into packets, closing and delivering them. -/

namespace Sys2Proof.Machine

/-! ## Host mailboxes (R272, R357) -/

/-- Writes a byte at an address of host memory; where apertures show it, it stands at their local addresses (R354, log entry 95). -/
def hostPut (s : State) (h : Nat) (b : Byte) : State :=
  match s.apertures.filter fun e => e.2.hostBase ≤ h && h < e.2.hostBase + e.2.size with
  | [] => { s with hostMem := memWrite s.hostMem h b }
  | shown => { s with mem := shown.foldl (fun m e => memWrite m (Config.apertureBase + e.1 * Config.apertureSize + (h - e.2.hostBase)) b) s.mem }

/-- Delivers bytes to a host mailbox: into the memory that the host has assigned to it, from its base on and within its size; at what place
there is left open, and bytes that the size has no room for are not stored (log entry 107). -/
def mailHost (s : State) (h : Nat) (data : List Byte) : State :=
  let m := kgetD s.mailboxes h {}
  let n := min data.length m.size
  let at_ := m.hostBase + Config.mailPlace s.fresh % (m.size - n + 1)
  let s := (data.take n).zipIdx.foldl (fun s b => hostPut s (at_ + b.2) b.1) { s with fresh := s.fresh + 1 }
  { s with mailed := s.mailed ++ [(h, data)] }

/-- What a window is (R256). -/
inductive Window where
  | launchQueue (p q : Nat)
  | messagePort (m : Nat)
  | mailbox (h : Nat)
  deriving DecidableEq, Repr

/-- The window with a local address / 64 KiB. -/
def windowOf (w : Nat) : Window :=
  let pa := w * 65536
  if pa < Config.messagePortBase then
    let i := (pa - Config.endpointBase) / 65536
    .launchQueue (i / 64) (i % 64)
  else if pa < Config.mailboxBase then .messagePort ((pa - Config.messagePortBase) / 65536)
  else .mailbox ((pa - Config.mailboxBase) / 65536)

/-- The partition that owns a window; a mailbox counts for the partition of its sender. -/
def windowPart (sender : Nat) : Window → Nat
  | .launchQueue p _ => p
  | .messagePort m => m / 32
  | .mailbox _ => sender

/-- Places in the ring of a launch queue (R293 lq.base). -/
def ringCap (base : Nat) : Nat := 2 ^ (bitsOf base 56 4 + 6)

/-- Whether closing a packet in a window must wait for a place in an enabled launch queue's ring (R319). -/
def ringFull (s : State) (w : Window) : Bool :=
  match w with
  | .launchQueue p q =>
    let pt := getPart s p
    let base := kgetD pt.lq q 0
    bitAt base 63 && ringCap base ≤ (kgetD pt.rings q []).length
  | _ => false

def countDrop (s : State) (p : Nat) : State := modPart s p fun pt => { pt with drop := pt.drop + 1 }
def countBad (s : State) (p : Nat) : State := modPart s p fun pt => { pt with badPkt := pt.badPkt + 1 }

/-- The doublewords of a launch packet from its bytes; bytes never written are zero. -/
def packetWords (bytes : KMap Byte) : List DWord :=
  (List.range 8).map fun i => BitVec.ofNat 64 (leNat ((List.range 8).map fun j => kgetD bytes (8 * i + j) 0))

/-- Delivers a closed packet (R257); false where it was dropped and the sender may learn of it. -/
def deliverPacket (s : State) (o : Gatherer) (sender src : Nat) (w : Window) (bytes : KMap Byte) : State × Bool :=
  let len := (bytes.map (·.1)).foldl (fun m p => max m (p + 1)) 0
  let data := (List.range len).map fun i => kgetD bytes i 0
  match w with
  | .launchQueue p q =>
    if bitAt (kgetD (getPart s p).lq q 0) 63 then
      let block := match o with
        | .group g => (kfind s.groups g).map (·.block)
        -- a group of this module may close it by an operation of class x (R253, R323)
        | .remote d g => if d == s.dev then (kfind s.groups g).map (·.block) else none
        | .host => none
      let x : Queued := { words := packetWords bytes, block := block }
      (modPart s p fun pt => { pt with rings := kput pt.rings q (kgetD pt.rings q [] ++ [x]) }, true)
    else (countDrop s p, true)
  | .messagePort m =>
    let p := m / 32
    let ring := kgetD (getPart s p).mp (m % 32) 0
    let base := bitsOf ring 12 34 * 4096
    let cap := 2 ^ (bitsOf ring 56 4 + 4)
    let tail := readWord64 s base
    let head := readWord64 s (base + 8)
    if !bitAt ring 63 || (tail + 2 ^ 64 - head) % 2 ^ 64 == cap then (s, false)
    else
      let at_ := base + 4096 + 512 * (tail % cap)
      let entry := data ++ List.replicate (256 - len) 0 ++ leBytes 8 (len + src * 2 ^ 18)
      let s := writeBytes s ((Loc.run (.mem at_) 264).zip entry)
      (writeWord64 s base (tail + 1), true)
  | .mailbox h =>
    if (kgetD s.mailboxes h {}).on then (mailHost s h data, true) else (countDrop s sender, true)

/-- An element stored into a window: its local address and bytes. -/
abbrev WindowElem := Nat × List Byte

def elemWindow (e : WindowElem) : Nat := e.1 / 65536
/-- Bit 12 of the window offset marks a closing element (R257). -/
def elemCloses (e : WindowElem) : Bool := bitAt e.1 12

/-- Adds an element's bytes to the owner's packet for its window. -/
def gather (s : State) (o : Gatherer) (core : Option Nat) (e : WindowElem) : State :=
  let w := elemWindow e
  let old := (s.openPackets.find? fun p => p.owner == o && p.window == w).getD { owner := o, window := w, core := core }
  let put := fun (p : OpenPacket) (x : Byte × Nat) =>
    let off := (e.1 + x.2) % 65536
    { p with bytes := kput p.bytes (off % 256) x.1, bad := p.bad || bitsOf off 8 4 != 0 }
  let new := { (e.2.zipIdx.foldl put old) with last := s.cycle }
  let rest := s.openPackets.filter fun p => !(p.owner == o && p.window == w)
  { s with openPackets := rest ++ [new] }

/-- Closes the owner's packet in a window: discarded where a byte had nonzero bits [11:8] (R257). -/
def closePacketAt (s : State) (o : Gatherer) (sender src w : Nat) : State × Bool :=
  match s.openPackets.find? fun p => p.owner == o && p.window == w with
  | none => (s, true)
  | some p =>
    let s := { s with openPackets := s.openPackets.filter fun q => !(q.owner == o && q.window == w) }
    if p.bad then (countBad s (windowPart sender (windowOf w)), true)
    else deliverPacket s o sender src (windowOf w) p.bytes

/-- Enqueues the elements of one store into windows: all are placed, then the closing ones close their packets (R257). The
partition `sender` counts drops at mailboxes; `src` is the source device number. The windows whose packets were dropped and whose sender
may learn of it come with the state. -/
def enqueue (s : State) (o : Gatherer) (core : Option Nat) (sender src : Nat) (es : List WindowElem) : State × List Nat :=
  let s := es.foldl (fun s e => gather s o core e) s
  ((es.filter elemCloses).map elemWindow).eraseDups.foldl
    (fun (s, ds) w => let r := closePacketAt s o sender src w; (r.1, if r.2 then ds else ds ++ [w])) (s, [])

/-- A core's open packets (R257). -/
def openOnCore (s : State) (core : Nat) : Nat :=
  (s.openPackets.filter fun p => p.core == some core && match p.owner with
    | .group g => !(blockOf s g).shadow
    | _ => true).length

/-- Whether a store into windows must wait: a ninth open packet of its core, or a full ring (R257, R319). -/
def enqueueWaits (s : State) (o : Gatherer) (core : Nat) (es : List WindowElem) : Bool :=
  let ws := (es.map elemWindow).eraseDups
  let new := ws.filter fun w => !(s.openPackets.any fun p => p.owner == o && p.window == w)
  (new.length != 0 && 8 < openOnCore s core + new.length) ||
    (es.filter elemCloses).any fun e => ringFull s (windowOf (elemWindow e))

/-- Discards the open packets that satisfy a test, each counted at the partition that owns its window (R258). -/
def discardPackets (s : State) (sender : Nat) (p : OpenPacket → Bool) : State :=
  let gone := s.openPackets.filter p
  gone.foldl (fun s q => countBad s (windowPart sender (windowOf q.window)))
    { s with openPackets := s.openPackets.filter fun q => !p q }

/-- Discards what a group was gathering (R258). -/
def discardPacketsOf (s : State) (g : Nat) : State := discardPackets s (partOf s g) fun q => q.owner == .group g

/-- A packet that has received no byte for 220,000 cycles is discarded (R258); the limit runs on while a context swap has the packet saved (log
entry 103). -/
def evPacketIdleTimeout (i : Nat) (s : State) : Option State :=
  match s.openPackets[i]? with
  | none => none
  | some p =>
    if p.last + Config.packetLimit ≤ s.cycle then
      let sender := match p.owner with
        | .group g => partOf s g
        | _ => 0
      some (countBad { s with openPackets := s.openPackets.eraseIdx i } (windowPart sender (windowOf p.window)))
    else none

end Sys2Proof.Machine
end

