-- ==== Sys2Proof/Machine/Claims.lean ====
section
/-! DEFINITION. The state record (R232, R233), and the stores into its shards or itself that leave the values of an amplitude operation
unspecified (R239, R250). -/

namespace Sys2Proof.Machine

/-! ## The state record (R232, R233) -/

def rawWord (raw : List DWord) (i : Nat) : Nat := ((raw[i]?).getD 0).toNat
def rawByte (raw : List DWord) (i : Nat) : Nat := bitsOf (rawWord raw (i / 8)) (8 * (i % 8)) 8
def recN (raw : List DWord) : Nat := bitsOf (rawWord raw 0) 0 6
def recL (raw : List DWord) : Nat := bitsOf (rawWord raw 0) 8 6
def recD (raw : List DWord) : Nat := bitsOf (rawWord raw 0) 16 2
def recV (raw : List DWord) : Nat := bitsOf (rawWord raw 0) 20 4
/-- elements are c128 -/
def recWide (raw : List DWord) : Bool := bitAt (rawWord raw 0) 24
def recSelf (raw : List DWord) : Nat := bitsOf (rawWord raw 0) 32 12
def recEng (raw : List DWord) (d : Nat) : Nat := rawByte raw (8 + d)
def recShard (raw : List DWord) (d : Nat) : Nat := rawWord raw (2 + d)
def recMap (raw : List DWord) : List Nat := (List.range (recN raw)).map fun q => rawByte raw (80 + q)
def recDev (raw : List DWord) (i : Nat) : Nat := bitsOf (rawWord raw (16 + i / 2)) (32 * (i % 2)) 32
/-- bytes of an amplitude -/
def recSize (raw : List DWord) : Nat := if recWide raw then 16 else 8

/-! ## Shards and record in memory (R250) -/

/-- Some virtual bytes of an amplitude record, and whether it is their values that a misuse leaves unspecified: those of the shards and of
the map; its header, die table and device table keep theirs (R239, R250). -/
structure ClaimSpan where
  va : Nat
  bytes : Nat
  loose : Bool
  deriving DecidableEq, Repr

/-- The shards and the record of an operation. -/
def AmpOp.spans (a : AmpOp) : List ClaimSpan :=
  let r := a.record.toNat
  ((List.range (2 ^ recD a.raw)).map fun d => { va := recShard a.raw d, bytes := 2 ^ recL a.raw * recSize a.raw, loose := true }) ++
    [{ va := r, bytes := 80, loose := false }, { va := r + 80, bytes := 48, loose := true },
      { va := r + 128, bytes := 8 * a.raw.length - 128, loose := false }]

/-- A virtual span cut at its page boundaries: first address and length of each piece. -/
def pagePieces (va n : Nat) : List (Nat × Nat) :=
  (List.range ((va % 65536 + n + 65535) / 65536)).map fun i =>
    let lo := max va (65536 * (va / 65536 + i))
    (lo, min (va + n) (65536 * (va / 65536 + i + 1)) - lo)

/-- Where a virtual address of a block's context lies by its page table and renames, if it is mapped. -/
def tablePlace (s : State) (b : Block) (va : Nat) : Option Nat :=
  match renamedPage s b.part b.launch (va / 65536) with
  | some f => some (f + va % 65536)
  | none => match walkRoot s (ctxOfBlock s b).ptroot va with
    | .leaf level _ e => some (leafFrame e (levelShift level) + va % 2 ^ levelShift level)
    | .stop .. => none

/-- The physical runs of the shards and the record of an operation, where they were mapped at its issue and where they are mapped now. -/
def Op.claimed (s : State) (o : Op) (a : AmpOp) : List PhysRun :=
  (a.runs ++ a.spans.flatMap fun (v : ClaimSpan) => (pagePieces v.va v.bytes).filterMap fun (q : Nat × Nat) =>
    (tablePlace s (getBlock s o.block) q.1).map fun pa => ({ pa := pa, bytes := q.2, loose := v.loose } : PhysRun)).eraseDups

/-- Whether some bytes lie in the shards or the record of an amplitude operation that may still be performed. -/
def Op.claims (s : State) (o : Op) (addrs : List Nat) : Bool := match o.body with
  | .amp a => o.done.isNone && o.state != .performed && (o.claimed s a).any fun r => addrs.any fun p => r.pa ≤ p && p < r.pa + r.bytes
  | _ => false

/-- The values of the shards and the map among some runs are unspecified from now on; no other memory is affected (R239, R250). -/
def spoilRuns (s : State) (runs : List PhysRun) : State :=
  let w := (runs.filter (·.loose)).flatMap fun r =>
    (List.range r.bytes).map fun i => (Loc.mem (r.pa + i), Config.freeByte (2 ^ 48 * s.fresh + r.pa + i))
  writeRaw { s with fresh := s.fresh + 1 } w

/-- A store into the shards or the record of such an operation, as they lie before it: their values are unspecified, and stay so when it is
performed (R250). -/
def spoilAmp (before s : State) (addrs : List Nat) : State :=
  before.ops.foldl (fun s e => match e.2.body with
    | .amp a =>
      if e.2.claims before addrs then
        modOp (spoilRuns s (e.2.claimed before a)) e.1 fun o => { o with body := .amp { a with spoilt := true } }
      else s
    | _ => s) s

end Sys2Proof.Machine
end

