-- ==== Sys2Proof/Machine/Landing.lean ====
section
/-! DEFINITION. Operator algebra and the landings (R190 to R202): slots, the crossing table, entries, their steps, deterministic
sets, and stores taking effect at their homes. -/

namespace Sys2Proof.Machine

open Sys2Proof.Fp

/-! ## Stores at their homes (R98, R110, R349) -/

/-- A store to places whose homes take it, of a pad access or of an engine that writes for a program (R250). -/
def storeRaw (s : State) (ws : List (Loc × Byte)) : State := spoilAmp s (writeRaw s ws) (ws.filterMap fun w => w.1.pa)

/-- A line becomes dirty in a die's L2 (R98). A full L2 writes a line of its own choice home for it (R4, log entry 87). -/
def dirtyLine (d : Nat) (s : State) (line : Nat) : State :=
  let dirty := (getDie s d).dirty
  if dirty.length < Config.l2Lines || dirty.contains line then modDie s d fun x => { x with dirty := insertNat x.dirty line }
  else modDie { s with fresh := s.fresh + 1 } d fun x => { x with
    dirty := insertNat (dirty.eraseIdx (Config.evictChoice s.fresh % Config.l2Lines)) line }

/-- What has been written at some addresses through a die's L2 stays dirty there, where that is the home of their page. -/
def keepDirty (s : State) (core scope : Nat) (addrs : List Nat) : State :=
  if scope ≤ 2 && !inDiePads (addrs.headD 0) then ((addrs.map (· / 128)).eraseDups).foldl (dirtyLine (dieOfCore core)) s else s

/-- Bytes take effect at their home. An error-answering die discards them; a lane store or sst so discarded leaves a record of kind
"stray write" (R349). -/
def homeWrite (s : State) (core part scope : Nat) (bytes : KMap Byte) (stray : Bool := true) : State :=
  match bytes with
  | [] => s
  | (a, _) :: _ =>
    match answerFor s a scope (dieOfCore core) with
    | .error => if stray then logAppend s part a 7 ((servingDie a scope (dieOfCore core)).getD 0) else s
    | _ =>
      keepDirty (storeRaw s (bytes.map fun e => (Loc.mem e.1, e.2))) core scope (bytes.map (·.1))

/-- The entries of a request at a directory entry. -/
def DirRequest.entries : DirRequest → List Entry
  | .entry e => [e]
  | .ldv es _ => es
  | .grant _ => []

/-- The entries at the directory entry of a region: of the request that a drain serves, and queued. -/
def Region.entries (x : Region) : List Entry :=
  (match x.state with
    | .draining _ q => q.entries
    | _ => []) ++ x.queue.flatMap DirRequest.entries

/-- Elements that wait at a cache for a grant. -/
def HolderState.waiting : HolderState → List Entry
  | .asking ws => ws
  | _ => []

/-- The entries of accesses that have not been applied: in a buffer, on their way, waiting at a cache or at a directory entry, at a
landing. -/
def entriesUnderWay (s : State) : List Entry :=
  s.cores.flatMap (fun c => c.2.wcb.flatMap (·.entries)) ++ s.sent ++ s.holders.flatMap (fun h => h.state.waiting) ++
    s.regions.flatMap (fun r => r.2.entries) ++ s.landing

/-- The granule that an entry's instruction writes whole, with the number of that instruction (R109). -/
def Entry.wholeKey (e : Entry) : Option (Loc × Nat) := e.whole.map fun n => (.mem (e.addr / 64), n)

/-- Whether a piece of a store instruction that writes a granule whole is still on its way, `later` among the pieces. -/
def wholePending (s : State) (later : List Entry) (k : Loc × Nat) : Bool :=
  ((later ++ entriesUnderWay s).any fun e => e.wholeKey == some k) || (s.stores.any fun t => t.whole.contains k) ||
    s.cores.any fun c => c.2.wcb.any fun l => l.whole.contains k

/-- With the last piece of such a store the granule's poison leaves (R109, R342). -/
def healWhole (s : State) (later : List Entry) (k : Loc × Nat) : State :=
  if wholePending s later k then s else markPoison s k.1 false

/-! ## Slots (R190, R191) -/

def slotFn (d : Word) : Nat := fld d 0 4
def slotTy (d : Word) : Nat := fld d 4 3
def slotRm (d : Word) : Mode := Mode.ofCode (fld d 7 2)
def slotMp (d : Word) : Bool := bitAt d.toNat 9
def slotInv (d : Word) : Nat := fld d 10 2
def slotDet (d : Word) : Bool := bitAt d.toNat 12
def slotDr (d : Word) : Bool := bitAt d.toNat 13
def slotV (d : Word) : Bool := bitAt d.toNat 14
def tyInt (t : Nat) : Bool := t ≤ 3
/-- bytes of a slot's word -/
def slotSize (d : Word) : Nat := match slotTy d with
  | 2 | 3 | 5 => 8
  | _ => 4
/-- the format of one element of a float type -/
def tyFmt (t : Nat) : Fmt := match t with
  | 4 => f32 | 5 => f64 | 6 => f16 | _ => bf16

/-- Whether a function has a merge rule (R191). -/
def hasMerge (fn : Nat) : Bool := fn != 1 && fn != 9

/-- A descriptor that breaks neither R190 nor R191; an undefined slot may hold any fields but reserved ones (R194 item 1). -/
def slotLegal (d : Word) : Bool :=
  let fn := slotFn d
  let ty := slotTy d
  let inv := slotInv d
  fld d 15 17 == 0 && fn ≤ 10 && inv != 3 &&
    (!slotDr d || (fn == 0 && ty == 4)) && (!slotMp d || ty == 4) && (!tyInt ty || fld d 7 2 == 0) &&
    (match fn with
      | 5 | 6 | 7 | 9 => tyInt ty
      | 10 => !tyInt ty
      | _ => true) &&
    (match fn with
      | 0 | 9 => inv ≤ 1
      | 1 | 7 => inv == 0 || inv == 2
      | _ => inv == 0)

/-- w fn a on one integer word (R191). -/
def intFn (fn ty : Nat) (w a : Nat) : Nat :=
  let bits := if ty == 2 || ty == 3 then 64 else 32
  let sgn := ty % 2 == 0
  let rd := fun (x : Nat) => if sgn then (BitVec.ofNat bits x).toInt else (x % 2 ^ bits : Nat)
  let wi : Int := rd w
  let ai : Int := rd a
  let lo : Int := if sgn then -(2 ^ (bits - 1)) else 0
  let hi : Int := if sgn then 2 ^ (bits - 1) - 1 else 2 ^ bits - 1
  let back := fun (i : Int) => (BitVec.ofInt bits i).toNat
  match fn with
  | 0 => back (wi + ai)
  | 1 => back (ai - wi)
  | 2 => back (wi * ai)
  | 3 => if ai < wi then back ai else back wi
  | 4 => if wi < ai then back ai else back wi
  | 5 => w &&& a
  | 6 => w ||| a
  | 7 => w ^^^ a
  | 9 => back (max lo (min hi (wi + ai)))
  | _ => a

/-- w fn a on one float element; the operand is held in format `fa`, the result is rounded once into `f` (R191, R197). -/
def floatFn (fn : Nat) (rm : Mode) (f fa : Fmt) (w a : Nat) : Nat :=
  let wv := Fp.decode f w
  let av := Fp.decode fa a
  match fn with
  | 0 => (addV f rm wv av).1
  | 1 => (addV f rm av (negV wv)).1
  | 2 => (mulV f rm wv av).1
  | 3 => (minMax f false w (roundVal f rm av).1).1
  | 4 => (minMax f true w (roundVal f rm av).1).1
  | 10 => absMax f w (roundVal f rm av).1
  | _ => if fa = f then a else (roundVal f rm av).1

/-- The function of a slot on its word (R191). -/
def slotApply (d : Word) (w a : Nat) (wide : Bool) : Nat :=
  let fn := slotFn d
  let ty := slotTy d
  if tyInt ty then intFn fn ty w a
  else
    let f := tyFmt ty
    if ty == 6 || ty == 7 then
      floatFn fn (slotRm d) f f (w % 65536) (a % 65536) + 65536 * floatFn fn (slotRm d) f f (w / 65536) (a / 65536)
    else floatFn fn (slotRm d) f (if wide then f64 else f) w a

/-- One operand for a1 then a2, and whether it is held at f64 (R191). -/
def slotMerge (d : Word) (a1 : Nat) (w1 : Bool) (a2 : Nat) (w2 : Bool) : Nat × Bool :=
  if slotMp d then
    let up := fun (a : Nat) (w : Bool) => if w then a else (roundVal f64 .ne (Fp.decode f32 a)).1
    (floatFn (slotFn d) (slotRm d) f64 f64 (up a1 w1) (up a2 w2), true)
  else (slotApply d a1 a2 false, false)

/-- inv(a) at the held precision (R191). -/
def slotInverse (d : Word) (a : Nat) (wide : Bool) : Nat :=
  let ty := slotTy d
  if slotInv d == 2 then a
  else if tyInt ty then intFn 1 ty a 0
  else if wide || ty == 5 then a ^^^ 2 ^ 63
  else if ty == 4 then a ^^^ 2 ^ 31
  else a ^^^ 0x80008000

/-! ## The crossing table (R192 to R194) -/

/-- The nibble of an earlier operator i and a later operator j. -/
def AlgTable.rel (t : AlgTable) (i j : Nat) : Nat := kgetD t.cross (18 * i + j) 0
def AlgTable.commutes (t : AlgTable) (i j : Nat) : Bool := bitAt (t.rel i j) 0
def AlgTable.composes (t : AlgTable) (i j : Nat) : Bool := bitAt (t.rel i j) 1
def AlgTable.absorbs (t : AlgTable) (i j : Nat) : Bool := bitAt (t.rel i j) 2
def AlgTable.cancels (t : AlgTable) (i j : Nat) : Bool := bitAt (t.rel i j) 3
def AlgTable.slot (t : AlgTable) (n : Nat) : Word := kgetD t.slots n 0

/-- The table of an image's 256 bytes (R192). -/
def parseImage (bs : List Byte) : AlgTable :=
  let at_ := fun (i : Nat) => ((bs[i]?).getD 0).toNat
  { slots := (List.range 16).foldl (fun m n =>
      kstore m n (BitVec.ofNat 32 (leNat ((List.range 4).map fun k => (bs[4 * n + k]?).getD 0))) 0) []
    cross := (List.range 18).foldl (fun m i => (List.range 18).foldl (fun m j =>
      kstore m (18 * i + j) (bitsOf (at_ (64 + 9 * i + j / 2)) (4 * (j % 2)) 4) 0) m) [] }

/-- The structure checks of R194 on an image. -/
def imageLegal (bs : List Byte) : Bool :=
  let t := parseImage bs
  let idx := List.range 18
  (List.range 16).all (fun n => slotLegal (t.slot n)) && ((bs.drop 226).all fun b => b == 0) &&
    idx.all fun i => idx.all fun j =>
      let r := t.rel i j
      let dead := fun (k : Nat) => k < 16 && !slotV (t.slot k)
      !(r != 0 && (dead i || dead j)) && (t.commutes i j == t.commutes j i) &&
        (!t.composes i j || (i == j && i < 16 && hasMerge (slotFn (t.slot i)))) &&
        (!t.cancels i j || (i == j && i < 16 && slotInv (t.slot i) != 0)) &&
        (!t.absorbs i j || (i != 16 && j != 16)) &&
        (!(i == j && i < 16 && slotDet (t.slot i)) || t.commutes i i)

def getTable (s : State) (k : Nat) : AlgTable := kgetD s.algTables k {}

/-! ## Returned values (R10, R204) -/

/-- The registers of a returned or loaded value (R107): sign- or zero-extended below 32 bits, else word by word. -/
def valueRegs (lane reg size : Nat) (sgn : Bool) (v : Nat) : List (Nat × Word) :=
  if size ≤ 4 then
    [(32 * reg + lane, if sgn then ((BitVec.ofNat (8 * size) v).signExtend 32) else BitVec.ofNat 32 v)]
  else (List.range (size / 4)).map fun j => (32 * (reg + j) + lane, BitVec.ofNat 32 (v / 2 ^ (32 * j)))

/-- A value comes back to its result in flight; poison, or a die that answers with errors, is recorded against the lane (R204, R349). -/
def returnValue (s : State) (r : Return) (size v : Nat) (poisoned : Bool) : State :=
  match r with
  | .lane g slot lane reg va sgn =>
    modGroup s g fun x => { x with inFlight := kmodify x.inFlight slot fun e =>
      { e with
        v := (valueRegs lane reg size sgn v).foldl (fun m r => kput m r.1 r.2) e.v
        awaiting := e.awaiting - 1
        -- the lowest failing address of each lane
        poisoned := if poisoned then kput e.poisoned lane (min va (kgetD e.poisoned lane va)) else e.poisoned } }
  | .uniform g slot dst =>
    modGroup s g fun x => { x with inFlight := kmodify x.inFlight slot fun e =>
      { e with s := some (dst, BitVec.ofNat 64 v), awaiting := e.awaiting - 1
               poisoned := if poisoned then [(0, 0)] else e.poisoned } }

/-! ## Applying entries (R197) -/

/-- Bytes that the spec leaves unspecified, as one value. -/
def freeValue (s : State) (pa n : Nat) : Nat := leNat ((List.range n).map fun i => Config.freeByte (2 ^ 48 * s.fresh + pa + i))

/-- Whether the values of a byte's page are unspecified: the page was touched outside its scope (R101). -/
def mixed (s : State) (pa : Nat) : Bool := s.scopes.any fun m => m.mixed && m.frame ≤ pa && pa < m.frame + m.bytes && m.live s

/-- Applies one entry to its word, `later` being applied after it at once: a function entry on a poisoned word is discarded (R204), an
entry out of a damaged delta line poisons its granule (R230), an entry that its die refuses does nothing (R349). Poison that a store still
on its way will clear does not count for a load behind it (R109, R116). Other poison does not overtake a load (log entry 25). -/
def applyEntry (s : State) (e : Entry) (later : List Entry := []) : State :=
  let place := Loc.mem e.addr
  let poisoned := (isPoisoned s place || isPoisoned s (place.add (e.size - 1))) &&
    !(e.behind.any fun n => wholePending s later (place.granule, n))
  let bytes := fun (v : Nat) => (List.range e.size).zip (leBytes e.size v) |>.map fun x => (e.addr + x.1, x.2)
  let back := fun (s : State) (w : Nat) (bad : Bool) => e.ret.foldl (fun s r => returnValue s r e.size w bad) s
  let refused := answerFor s e.addr e.scope (dieOfCore e.core) = .error
  if e.op == 17 then
    let s := homeWrite s e.core e.part e.scope ((List.range e.size).zip e.bytes |>.map fun x => (e.addr + x.1, x.2))
    match e.wholeKey with
    | some k => if refused then s else healWhole s later k
    | none => s
  else if refused then back s 0 true
  else if e.poisons then poisonAt s place
  else
    let s := { s with fresh := s.fresh + 1 }
    let w := if mixed s e.addr || (e.op == 16 && poisoned) then freeValue s e.addr e.size else readLE s place e.size
    if e.op == 16 then back s w false
    else if poisoned then back s w true
    else back (homeWrite s e.core e.part e.scope (bytes (slotApply e.desc w e.operand e.wide)) false) w false

def Entry.sameWord (e f : Entry) : Bool := e.addr == f.addr && e.size == f.size
def Entry.overlaps (e f : Entry) : Bool := e.addr < f.addr + f.size && f.addr < e.addr + e.size

/-- Applies entries one after another. -/
def applyInTurn : List Entry → State → State
  | [], s => s
  | e :: es, s => applyInTurn es (applyEntry s e es)

/-- Two entries of one context and one generation tag (R195, R206), and the table that holds between them. -/
def Entry.sameGen (e f : Entry) : Bool := e.part == f.part && e.ctx == f.ctx && e.gen == f.gen
def tableOf (s : State) (e f : Entry) : AlgTable := getTable s (max e.table f.table)

/-- Applies and removes the entries at the given indices of the landing, in the order given. -/
def applyAt (s : State) (is : List Nat) : State :=
  let rest := (s.landing.zipIdx.filter fun x => !is.contains x.2).map (·.1)
  applyInTurn (is.filterMap fun i => s.landing[i]?) { s with landing := rest }

/-- Indices of the entries that satisfy a test, in arrival order. -/
def landingIdx (s : State) (p : Entry → Bool) : List Nat := (s.landing.zipIdx.filter fun x => p x.1).map (·.2)

/-- The pending entries outside the sets that satisfy a test, with those that arrived before one of them and overlap it: entries that
overlap keep their arrival order (R196). -/
def inOrder (s : State) (p : Entry → Bool) : List Nat :=
  (closedUnder (fun (x y : Entry × Nat) => x.1.overlaps y.1) (fun x => p x.1) (s.landing.zipIdx.filter fun x => !x.1.inSet)).map (·.2)

/-! ## Deterministic sets (R199 to R202) -/

/-- Keys compared component by component (R199). -/
def keyLe : List Nat → List Nat → Bool
  | [], _ => true
  | _, [] => false
  | a :: as, b :: bs => a < b || (a == b && keyLe as bs)

/-- The flush of the sets of a word, those of the slots given: first every earlier entry outside the sets, then the sets in
slot order, each in key order (R202). -/
def flushSets (s : State) (addr size : Nat) (slots : List Nat) : State :=
  let here : Entry := { addr := addr, size := size, op := 0 }
  let s := applyAt s (inOrder s fun e => e.overlaps here)
  slots.foldl (fun s k =>
    let is := landingIdx s fun e => e.inSet && e.sameWord here && e.op == k
    let key := fun (i : Nat) => ((s.landing[i]?).map (·.key)).getD []
    applyAt s (sortBy (fun i j => keyLe (key i) (key j)) is)) s

/-- The slots that have a pending set at a word, in increasing order. -/
def setSlots (s : State) (addr size : Nat) : List Nat :=
  (List.range 16).filter fun k => s.landing.any fun e => e.inSet && e.addr == addr && e.size == size && e.op == k

/-- Flushes every set of every word that overlaps a range. -/
def flushRange (s : State) (addr n : Nat) : State :=
  let here : Entry := { addr := addr, size := n, op := 0 }
  let words := ((s.landing.filter fun e => e.inSet && e.overlaps here).map fun e => (e.addr, e.size)).eraseDups
  words.foldl (fun s w => flushSets s w.1 w.2 (setSlots s w.1 w.2)) s

/-- Whether an arriving entry is a flush point for the set of slot `i` of its word (R202). -/
def flushes (s : State) (e : Entry) (i : Nat) : Bool :=
  match s.landing.find? fun x => x.inSet && x.sameWord e && x.op == i with
  | none => false
  | some x =>
    if e.remote || !e.sameGen x || e.op == 16 then true
    else if e.op == i then false
    else !(e.op < 16 && (tableOf s e x).commutes e.op i)

/-- An entry takes its place at the landing of its word (R195, R201, R202). One that finds 1,024 in the sets and would open or join one
is a spill and flushes every set, also where R202 makes it a flush point by itself (log entry 101). -/
def placeEntry (s : State) (e : Entry) : State :=
  let e := { e with since := s.cycle }
  -- sets of overlapped words
  let others := ((s.landing.filter fun x => x.inSet && x.overlaps e && !x.sameWord e).map fun x => (x.addr, x.size)).eraseDups
  let s := others.foldl (fun s w => flushSets s w.1 w.2 (setSlots s w.1 w.2)) s
  let slots := setSlots s e.addr e.size
  let joins := e.op < 16 && slotDet e.desc && !e.remote
  let count := (s.landing.filter fun x => x.inSet && x.sameWord e).length
  let spill := joins && 1024 ≤ count
  let toFlush := if spill then slots else slots.filter fun i => flushes s e i
  let s := if toFlush.isEmpty then s else flushSets s e.addr e.size toFlush
  let s := if spill then
      match (getPart s e.part).ctx.id == e.ctx with
      | true => modCtx s e.part false fun c => { c with algSpill := c.algSpill + 1 }
      | false => modCtx s e.part true fun c => { c with algSpill := c.algSpill + 1 }
    else s
  { s with landing := s.landing ++ [{ e with inSet := joins }] }

/-! ## Steps of R193 -/

/-- Whether an entry may take part in a step (R196); one that poisons its granule is applied as it came (R230). -/
def Entry.mayStep (e : Entry) : Bool := !e.remote && !e.inSet && !e.poisons && !(e.op < 16 && slotDet e.desc)
def Entry.returning (e : Entry) : Bool := e.op == 16 || !e.ret.isEmpty

/-- One step on the pending entries of a word, by the indices of its pair in the landing (R193, R196). -/
def landStep (s : State) (i j : Nat) (kind : LandStep) : Option State :=
  match s.landing[i]?, s.landing[j]? with
  | some e, some f =>
    let t := tableOf s e f
    if !(e.mayStep && f.mayStep && e.sameGen f) then none
    else match kind with
      | .swap _ =>
        if t.commutes e.op f.op then some { s with landing := (s.landing.set i f).set j e } else none
      | .merge _ =>
        if e.op == f.op && t.composes e.op f.op && !e.returning && !f.returning then
          let m := slotMerge e.desc e.operand e.wide f.operand f.wide
          some { s with landing := (s.landing.set i { e with operand := m.1, wide := m.2, groups := e.groups ++ f.groups }).eraseIdx j }
        else none
      | .absorb _ =>
        if t.absorbs e.op f.op && !e.returning then some { s with landing := s.landing.eraseIdx i } else none
      | .cancel _ =>
        if e.op == f.op && t.cancels e.op f.op && !e.returning && !f.returning && e.wide == f.wide &&
            f.operand == slotInverse e.desc e.operand e.wide then
          some { s with landing := (s.landing.eraseIdx j).eraseIdx i }
        else none
  | _, _ => none

def landPos : LandStep → Nat
  | .swap i | .merge i | .absorb i | .cancel i => i

/-- The pending entries of a word outside the sets, in their present order. -/
def wordIdx (s : State) (addr size : Nat) : List Nat :=
  landingIdx s fun e => !e.inSet && e.addr == addr && e.size == size

/-- Whether entries of another word overlap a word: then arrival order holds between them (R196). -/
def crowded (s : State) (addr size : Nat) : Bool :=
  let here : Entry := { addr := addr, size := size, op := 0 }
  s.landing.any fun e => !e.inSet && e.overlaps here && !e.sameWord here

/-- Permitted steps on the entries of a word, then the application of its front entry (R196, R197). -/
def evLandingApply (addr size : Nat) (steps : List LandStep) (s : State) : Option State :=
  let run := steps.foldl (fun (s? : Option State) k => s?.bind fun s =>
    let is := wordIdx s addr size
    match is[landPos k]?, is[landPos k + 1]? with
    | some i, some j => if crowded s addr size then none else landStep s i j k
    | _, _ => none) (some s)
  run.bind fun s =>
    match wordIdx s addr size with
    | [] => if steps.isEmpty then none else some s
    | i :: _ =>
      match s.landing[i]? with
      | none => none
      | some e =>
        if (s.landing.take i).any fun x => !x.inSet && x.overlaps e then none
        else if answerFor s e.addr e.scope (dieOfCore e.core) = .held then none
        else some (applyAt s [i])

/-- Applies every pending entry that overlaps a range, sets included, in arrival order (log entry 14). -/
def settleRange (s : State) (addr n : Nat) : State :=
  let here : Entry := { addr := addr, size := n, op := 0 }
  let s := flushRange s addr n
  applyAt s (inOrder s fun e => e.overlaps here)

end Sys2Proof.Machine
end

