-- ==== Sys2Proof/Machine/Drift.lean ====
section
/-! DEFINITION. Drift regions (R209 to R223): delta lines and their holders, the directory entries, grants, cuts, drains,
tolerant loads, and the arrival of entries at the home. -/

namespace Sys2Proof.Machine

open Sys2Proof.Fp

def regionOf (pa : Nat) : Nat := pa / 512
def getRegion (s : State) (r : Nat) : Region := kgetD s.regions r {}
def modRegion (s : State) (r : Nat) (f : Region → Region) : State := { s with regions := kstore s.regions r (f (getRegion s r)) {} }

/-! ## Magnitudes -/

/-- The share B × 2^−k (R211). -/
def shareVal (b : Word) (k : Nat) : Val :=
  match Fp.decode f32 b.toNat with
  | .fin _ m e => .fin false m (e - k)
  | v => v

/-- The exact sum of two magnitudes. -/
def magAdd (a b : Val) : Val :=
  match a, b with
  | .fin _ m e, .fin _ n f =>
    let e0 := min e f
    .fin false (m * 2 ^ (e - e0).toNat + n * 2 ^ (f - e0).toNat) e0
  | .fin .., v => v
  | v, _ => v

def magLt (a b : Val) : Bool := ltV a b
def magSum (l : List Val) : Val := l.foldl magAdd (.fin false 0 0)

/-- |x| of an element held in f64 or f32. -/
def magOf (wide : Bool) (x : Nat) : Val :=
  let v := Fp.decode (if wide then f64 else f32) x
  if Fp.sign v then negV v else v

/-- The spacing of values at an element, as a magnitude. -/
def ulpOf (wide : Bool) (x : Nat) : Val :=
  let f := if wide then f64 else f32
  let e := x / 2 ^ f.mb % 2 ^ f.eb
  .fin false 1 (f.qmin + (e - 1 : Nat))

/-- The larger of two magnitudes. -/
def magMax (a b : Val) : Val := if ltV a b then b else a

/-! ## Holders (R211, R213, R214) -/

def findHolder (s : State) (c : CacheId) (r : Nat) : Option Holder := s.holders.find? fun h => h.cache == c && h.region == r
def setHolder (s : State) (h : Holder) : State :=
  { s with holders := (s.holders.filter fun x => !(x.cache == h.cache && x.region == h.region)) ++ [h] }
def dropHolder (s : State) (c : CacheId) (r : Nat) : State :=
  { s with holders := s.holders.filter fun x => !(x.cache == c && x.region == r) }

/-- Delta lines of a cache in use or asked for. -/
def linesOf (s : State) (c : CacheId) : Nat := (s.holders.filter fun h => h.cache == c && match h.state with
  | .refused _ => false
  | _ => true).length

def DeltaLine.wide (l : DeltaLine) : Bool := slotMp l.desc
/-- |element| + allowance of a word of a line (R213). -/
def DeltaLine.weight (l : DeltaLine) (e : Nat × Word) : Val := magAdd (magOf l.wide e.1) (magOf false e.2.toNat)
/-- The tracker over all elements but those of one word (R213). -/
def DeltaLine.tracker (l : DeltaLine) (but : Option Nat) : Val :=
  (l.elems.filter fun e => some e.1 != but).foldl (fun m e => magMax m (l.weight e.2)) (.fin false 0 0)

/-- The entries a flush sends (R214, R217), tagged with the groups whose element caused it; those of a damaged line poison (R230). -/
def DeltaLine.entries (l : DeltaLine) (region core : Nat) (groups : List Nat) : List Entry :=
  l.elems.map fun e =>
    { addr := 512 * region + 4 * e.1, size := 4, op := l.op, desc := l.desc, operand := e.2.1, wide := l.wide, part := l.part
      ctx := l.ctx, gen := l.gen, table := l.table, groups := groups, core := core, scope := l.scope, drift := true, flushed := true
      poisons := l.bad }

/-- Whether a line holds elements of an entry's slot, context and generation (R213). -/
def DeltaLine.takes (l : DeltaLine) (e : Entry) : Bool := l.op == e.op && l.part == e.part && l.ctx == e.ctx && l.gen == e.gen

def coreOfCache : CacheId → Nat
  | .l1 c => c
  | .l2 d => 40 * d

/-- A holder sends its line's entries, with or without an answer, and resets the line (R214). -/
def flushHolder (s : State) (c : CacheId) (r : Nat) (groups : List Nat) (a : Answer) : State :=
  match findHolder s c r with
  | some { state := .holding k line, .. } =>
    let es := line.entries r (coreOfCache c) groups
    let s := setHolder s { cache := c, region := r, state := .holding k {} }
    if es.isEmpty && a = .none then s else { s with messages := s.messages ++ [{ cache := c, region := r, entries := es, answer := a }] }
  | _ => if a = .none then s else { s with messages := s.messages ++ [{ cache := c, region := r, entries := [], answer := a }] }

/-- A holder flushes and releases its grant, answering as told (R215). -/
def releaseHolder (s : State) (c : CacheId) (r : Nat) (a : Answer) : State :=
  match findHolder s c r with
  | some { state := .holding _ _, .. } => dropHolder (flushHolder s c r [] a) c r
  | _ => if a = .drained then flushHolder s c r [] a else s

/-- A holder accumulates an element (R214). -/
def acceptHeld (s : State) (c : CacheId) (e : Entry) : State :=
  let r := regionOf e.addr
  let w := e.addr % 512 / 4
  match findHolder s c r with
  | some { state := .holding _ line, .. } =>
    let same := line.elems.isEmpty || line.takes e
    let s := if same then s else flushHolder s c r e.groups .none
    match findHolder s c r with
    | some { state := .holding k line, .. } =>
      let wide := slotMp e.desc
      let f := if wide then f64 else f32
      let a := if wide then (roundVal f64 .ne (Fp.decode f32 e.operand)).1 else e.operand
      let old := (kfind line.elems w).getD (f.zero true, 0)
      let sum := addV f (slotRm e.desc) (Fp.decode f old.1) (Fp.decode f a)
      let al : Word := if sum.2 &&& inexact != 0 then
          BitVec.ofNat 32 (addV f32 .up (Fp.decode f32 old.2.toNat) (roundVal f32 .up (ulpOf wide sum.1) |>.1 |> Fp.decode f32)).1
        else old.2
      let share := shareVal (getRegion s r).bound k
      let fresh : DeltaLine := {
        op := e.op, desc := e.desc, part := e.part, ctx := e.ctx, gen := e.gen, table := e.table, scope := e.scope, pages := [e.page]
        cores := [e.core] }
      let line := if line.elems.isEmpty then { fresh with bad := line.bad } else { line with
        pages := insertNat line.pages e.page, cores := insertNat line.cores e.core }
      let weight := magAdd (magOf wide sum.1) (magOf false al.toNat)
      if magLt share (magMax (line.tracker (some w)) weight) then
        let s := flushHolder s c r e.groups .none
        if magLt share (magOf wide a) then { s with sent := s.sent ++ [e] }
        else setHolder s { cache := c, region := r, state := .holding k { fresh with elems := [(w, (a, 0))] } }
      else setHolder s { cache := c, region := r, state := .holding k { line with elems := kput line.elems w (sum.1, al) } }
    | _ => { s with sent := s.sent ++ [e] }
  | _ => { s with sent := s.sent ++ [e] }

/-- A cache asks for a grant, the element waiting (R212). -/
def askGrant (s : State) (c : CacheId) (e : Entry) : State :=
  let s := setHolder s { cache := c, region := regionOf e.addr, state := .asking [e] }
  modRegion s (regionOf e.addr) fun x => { x with queue := x.queue ++ [.grant c] }

/-- The region of the delta line that a cache has had longest. -/
def oldestLine (s : State) (c : CacheId) : Option Nat := (s.holders.find? fun h => h.cache == c && match h.state with
  | .holding _ _ => true
  | _ => false).map (·.region)

/-- A cache without a delta line for the region asks for a grant if it has a free line; with none it may flush and release the line of
another region (R215, log entry 86). False where it does not take the element. -/
def askLine (s : State) (c : CacheId) (cap : Nat) (e : Entry) : State × Bool :=
  if linesOf s c < cap then (askGrant s c e, true)
  else
    let s' := { s with fresh := s.fresh + 1 }
    match Config.givesUpLine s.fresh, oldestLine s c with
    | true, some r => (askGrant (releaseHolder s' c r .released) c e, true)
    | _, _ => (s', false)

/-- Offers an element to a cache (R211, R222). False where the cache has no delta line for it. -/
def offerTo (s : State) (c : CacheId) (cap : Nat) (e : Entry) : State × Bool :=
  let r := regionOf e.addr
  match findHolder s c r with
  | some { state := .holding _ _, .. } => (acceptHeld s c e, true)
  | some { state := .asking ws, .. } => (setHolder s { cache := c, region := r, state := .asking (ws ++ [e]) }, true)
  | some { state := .refused till, .. } =>
    if s.cycle < till then ({ s with sent := s.sent ++ [e] }, true) else askLine s c cap e
  | none => askLine s c cap e

/-- Offers a holdable element to its core's L1, then to its die's L2 where the L2 is not the home, else to the landing (R211). -/
def offer (s : State) (e : Entry) : State :=
  match offerTo s (.l1 e.core) 16 e with
  | (s, true) => s
  | (s, false) =>
    match (if 3 ≤ e.scope then offerTo s (.l2 (dieOfCore e.core)) 1024 e else (s, false)) with
    | (s, true) => s
    | (s, false) => { s with sent := s.sent ++ [e] }

/-- Whether an element is holdable (R210). -/
def holdable (s : State) (e : Entry) : Bool :=
  let t := getTable s e.table
  e.drift && e.op < 16 && slotDr e.desc && !slotDet e.desc && t.commutes e.op e.op && t.composes e.op e.op && e.ret.isEmpty &&
    !e.remote && (getRegion s (regionOf e.addr)).bound != 0 &&
    (match Fp.decode f32 e.operand with
      | .fin .. => true
      | _ => false)

/-! ## The home (R212, R216, R219, R221) -/

def lowestFree (x : Region) : Option Nat := (List.range 8).find? fun i => (kfind x.slots i).isNone

/-- What the home answers to a grant request in an Open entry (R212): a share's exponent, a cut of a slot, or a refusal. -/
inductive GrantAnswer where
  | grant (k : Nat)
  | cut (slot k : Nat)
  | refuse
  deriving DecidableEq, Repr

def grantAnswer (x : Region) : GrantAnswer :=
  if x.bound == 0 || 8 ≤ x.slots.length then .refuse
  else
    let held := magSum (x.slots.map fun e => shareVal x.bound e.2.2)
    let fits := fun (k : Nat) => !magLt (shareVal x.bound 0) (magAdd held (shareVal x.bound k))
    match (List.range 8).find? fun k => x.g ≤ k && fits k with
    | some k => .grant k
    | none =>
      -- the largest share has the smallest exponent; the lowest slot on a tie
      match x.slots.foldl (fun (m : Option (Nat × Nat)) e => match m with
          | some (_, k) => if e.2.2 < k then some (e.1, e.2.2) else m
          | none => some (e.1, e.2.2)) none with
      | some (slot, k) => if k == 7 then .refuse else .cut slot (k + 1)
      | none => .refuse

def reply (s : State) (c : CacheId) (r : Nat) (k : Option Nat) : State :=
  { s with calls := s.calls ++ [{ cache := c, region := r, call := .reply k }] }

/-- Grants a share in the lowest free slot. -/
def grantShare (s : State) (r : Nat) (c : CacheId) (k : Nat) : State :=
  let x := getRegion s r
  match lowestFree x with
  | some i => reply (modRegion s r fun x => { x with slots := kput x.slots i (c, k) }) c r (some k)
  | none => reply s c r none

/-- The base die that holds the landing slice of a region's address (R98, R209; log entry 15). -/
def baseDieOf (r : Nat) : Nat := (Config.landingSlice (4 * r)).val / Config.slicesPerBaseDie

/-- Whether the base die of a region holds as many regions with a bound as it can (R209). -/
def boundsFull (s : State) (r : Nat) : Bool :=
  let bounded := s.regions.filter fun e => e.2.bound != 0
  Config.boundedRegions ≤ bounded.length &&
    Config.boundedRegions ≤ (bounded.filter fun e => baseDieOf e.1 == baseDieOf r).length

/-- The bits of dstat's words (R228). -/
def dstatWords (x : Region) : List Word :=
  let slots := x.slots.foldl (fun n e => n + 2 ^ e.1 + e.2.2 * 2 ^ (8 + 3 * e.1)) 0
  let busy := if x.state = .open_ then 0 else 8
  [x.bound, BitVec.ofNat 32 slots, BitVec.ofNat 32 (busy + (if x.lost then 4 else 0) + x.g), 0]

/-- An arrival takes its place at the home: a dset writes its bound (R226), a dstat is answered (R228), any other entry joins
its landing. A dset that finds no place on the base die leaves LOST and g as they are too (log entry 101). -/
def serveEntry (s : State) (e : Entry) : State :=
  let r := regionOf e.addr
  match e.op, e.bound with
  | 18, some (b, g) =>
    let x := getRegion s r
    if b != 0 && x.bound == 0 && boundsFull s r then
      let shadow := (getPart s e.part).ctx.id != e.ctx
      modCtx s e.part shadow fun c => { c with driftFull := c.driftFull + 1 }
    else modRegion s r fun x => { x with bound := b, g := g, lost := false }
  | 19, _ =>
    e.ret.foldl (fun s ret => returnValue s ret 16 ((dstatWords (getRegion s r)).foldr (fun w n => w.toNat + 2 ^ 32 * n) 0) false) s
  | 20, _ => flushRange s e.addr e.size
  | _, _ => placeEntry s e

/-- Serves a request whose turn has come in an Open entry with nothing left to drain. -/
def serveRequest (s : State) (q : DirRequest) : State :=
  match q with
  | .grant _ => s
  | .ldv es _ => es.foldl placeEntry s
  | .entry e => serveEntry s e

/-- Whether an arrival makes the home drain every holder (R216); dstat and alg.flush do not. -/
def drains (s : State) (e : Entry) : Bool :=
  let lines := s.holders.filterMap fun h => match h.state with
    | .holding _ l => if h.region == regionOf e.addr && !l.elems.isEmpty then some l else none
    | _ => none
  e.op != 19 && e.op != 20 && (16 ≤ e.op || !e.ret.isEmpty || !lines.all fun l => l.takes e)

/-- Calls holders to drain for a request, and waits for them (R219, R221). -/
def startDrain (s : State) (r : Nat) (cs : List CacheId) (q : DirRequest) : State :=
  let s := modRegion s r fun x => { x with state := .draining cs q }
  { s with calls := s.calls ++ cs.map fun c => { cache := c, region := r, call := .drain } }

def isGrant : DirRequest → Bool
  | .grant _ => true
  | _ => false

/-- The L entries that an ldv request asks for (R219). -/
def Entry.asked (e : Entry) : List Entry := e.asks.map fun a => { e with addr := a.1, size := 4, op := 16, ret := a.2, asks := [] }

/-- An entry reaches the home of its region: it drains the holders, waits its turn, or takes its place (R216, R221). -/
def arriveAtHome (s : State) (e : Entry) : State :=
  if e.op == 21 then modRegion s (regionOf e.addr) fun x => { x with queue := x.queue ++ [.ldv e.asked e.tol] }
  else if !e.drift || e.flushed then serveEntry s e
  else
    let r := regionOf e.addr
    let x := getRegion s r
    if x.state != .open_ || x.queue.any fun q => !isGrant q then modRegion s r fun x => { x with queue := x.queue ++ [.entry e] }
    else if !x.slots.isEmpty && drains s e then startDrain s r (x.slots.map fun h => h.2.1) (.entry e)
    else serveEntry s e

/-- After an entry has become Open: queued arrivals take their turns up to the next ldv or drain (R221, R223). -/
def serveQueue (r : Nat) : Nat → State → State
  | 0, s => s
  | fuel + 1, s =>
    let x := getRegion s r
    match x.state, x.queue.find? (fun q => !isGrant q) with
    | .open_, some (.entry e) =>
      let s := modRegion s r fun x => { x with queue := x.queue.erase (.entry e) }
      if !x.slots.isEmpty && drains s e then startDrain s r (x.slots.map fun h => h.2.1) (.entry e)
      else serveQueue r fuel (serveEntry s e)
    | _, _ => s

def openAgain (s : State) (r : Nat) : State :=
  let s := modRegion s r fun x => { x with state := .open_ }
  serveQueue r (getRegion s r).queue.length s

/-- A grant request reaches the directory entry of a region (R212, R221): behind the messages that its cache has sent, and not before a
queued request of an Open entry is handled (R223). -/
def evGrantRequest (r : Nat) (s : State) : Option State :=
  let x := getRegion s r
  match x.queue.find? isGrant with
  | some (.grant c) =>
    if (s.messages.any fun m => m.cache == c && m.region == r) || (x.state = .open_ && x.queue.any fun q => !isGrant q) then none
    else
    let s := modRegion s r fun x => { x with queue := x.queue.erase (.grant c) }
    if x.state != .open_ then some (reply s c r none)
    else match grantAnswer x with
      | .grant k => some (grantShare s r c k)
      | .refuse => some (reply s c r none)
      | .cut slot k =>
        match kfind x.slots slot with
        | some h =>
          let s := modRegion s r fun x => { x with state := .cutting slot c }
          some { s with calls := s.calls ++ [{ cache := h.1, region := r, call := .cut k }] }
        | none => some (reply s c r none)
  | _ => none

/-- The first call to a cache for a region, if it is of the given sort, and the state without it: calls and replies arrive in the
order in which the home sent them. -/
def takeCall (s : State) (c : CacheId) (r : Nat) (p : Call → Bool) : Option (Call × State) :=
  match s.calls.find? fun x => x.cache == c && x.region == r with
  | some x => if p x.call then some (x.call, { s with calls := s.calls.erase x }) else none
  | none => none

/-- A grant or a refusal reaches the cache that asked (R212, R222). What the cache does not take goes to the landing ahead of the entries
that followed it (R116). -/
def evGrantReply (c : CacheId) (r : Nat) (s : State) : Option State :=
  match takeCall s c r fun x => match x with
    | .reply _ => true
    | _ => false with
  | some (.reply k, s) =>
    match findHolder s c r with
    | some { state := .asking ws, .. } =>
      match k with
      | some k =>
        let t := ws.foldl (fun s e => acceptHeld s c e) (setHolder s { cache := c, region := r, state := .holding k {} })
        some { t with sent := t.sent.drop s.sent.length ++ s.sent }
      | none =>
        let s := setHolder s { cache := c, region := r, state := .refused (s.cycle + Config.refusalCycles) }
        some { s with sent := ws ++ s.sent }
    | _ => some s
  | _ => none

/-- A refused cache may ask again (R222). -/
def evRefusalExpiry (c : CacheId) (r : Nat) (s : State) : Option State :=
  match findHolder s c r with
  | some { state := .refused till, .. } => if till ≤ s.cycle then some (dropHolder s c r) else none
  | _ => none

/-- A cut call reaches its holder: it flushes if its tracker exceeds the new share, takes the share, and answers (R214). -/
def evShareCutCall (c : CacheId) (r : Nat) (s : State) : Option State :=
  match takeCall s c r fun x => match x with
    | .cut _ => true
    | _ => false with
  | some (.cut k, s) =>
    match findHolder s c r with
    | some { state := .holding _ line, .. } =>
      let share := shareVal (getRegion s r).bound k
      let s := if magLt share (line.tracker none) then flushHolder s c r [] .none else s
      let line := if magLt share (line.tracker none) then {} else line
      let s := setHolder s { cache := c, region := r, state := .holding k line }
      some { s with messages := s.messages ++ [{ cache := c, region := r, entries := [], answer := .cut }] }
    | _ => some { s with messages := s.messages ++ [{ cache := c, region := r, entries := [], answer := .cut }] }
  | _ => none

/-- A drain call reaches its holder: it flushes, releases and answers (R215, R222). -/
def evDrainCall (c : CacheId) (r : Nat) (s : State) : Option State :=
  match takeCall s c r fun x => x == .drain with
  | some (_, s) => some (releaseHolder s c r .drained)
  | none => none

def freeSlot (s : State) (r : Nat) (c : CacheId) : State :=
  modRegion s r fun x => { x with slots := x.slots.filter fun h => h.2.1 != c }

/-- The first message of a holder for a region reaches the home: its entries are received, its answer is acted on (R221).
Where the holder being cut has released on its own meanwhile, the request is judged anew, without a second cut (log entry 102). -/
def evHolderMessage (c : CacheId) (r : Nat) (s : State) : Option State :=
  match s.messages.find? fun m => m.cache == c && m.region == r with
  | none => none
  | some m =>
    let s := { s with messages := s.messages.erase m }
    let s := m.entries.foldl (fun s e => placeEntry s { e with groups := [] }) s
    match m.answer with
    | .none => some s
    | .released => some (freeSlot s r c)
    | .cut =>
      let x := getRegion s r
      match x.state with
      | .cutting slot req =>
        match kfind x.slots slot with
        | some h =>
          let s := modRegion s r fun x => { x with slots := kput x.slots slot (h.1, h.2 + 1) }
          some (openAgain (grantShare s r req (h.2 + 1)) r)
        | none =>
          match grantAnswer x with
          | .grant k => some (openAgain (grantShare s r req k) r)
          | _ => some (openAgain (reply s req r none) r)
      | _ => some s
    | .drained =>
      let s := freeSlot s r c
      match (getRegion s r).state with
      | .draining cs q =>
        let cs := cs.erase c
        if cs.isEmpty then some (openAgain (serveRequest s q) r)
        else some (modRegion s r fun x => { x with state := .draining cs q })
      | _ => some s

/-- The caches that an ldv must drain: the shortest prefix of the holders, by share and slot, outside which the shares sum to
at most the tolerance (R219). -/
def toDrain (x : Region) (tol : Word) : List CacheId :=
  let h := sortBy (fun a b => a.2.2 < b.2.2 || (a.2.2 == b.2.2 && a.1 ≤ b.1)) x.slots
  let t := Fp.decode f32 tol.toNat
  let ok := fun (n : Nat) => !magLt t (magSum ((h.drop n).map fun e => shareVal x.bound e.2.2))
  match (List.range (h.length + 1)).find? ok with
  | some n => (h.take n).map fun e => e.2.1
  | none => h.map fun e => e.2.1

/-- The directory handles the ldv whose turn has come (R219, R221). -/
def evLdvRequest (r : Nat) (s : State) : Option State :=
  let x := getRegion s r
  match x.state, x.queue.find? fun q => !isGrant q with
  | .open_, some (.ldv es tol) =>
    let s := modRegion s r fun x => { x with queue := x.queue.erase (.ldv es tol) }
    match toDrain x tol with
    | [] => some (serveQueue r x.queue.length (serveRequest s (.ldv es tol)))
    | cs => some (startDrain s r cs (.ldv es tol))
  | _, _ => none

/-! ## Running a region's traffic to its end -/

/-- One thing that is on its way for a region. -/
def regionStep (r : Nat) (s : State) : Option State :=
  match s.messages.find? fun m => m.region == r with
  | some m => evHolderMessage m.cache r s
  | none =>
    match s.calls.find? fun c => c.region == r with
    | some c =>
      match c.call with
      | .cut _ => evShareCutCall c.cache r s
      | .drain => evDrainCall c.cache r s
      | .reply _ => evGrantReply c.cache r s
    | none =>
      match evGrantRequest r s with
      | some s => some s
      | none => evLdvRequest r s

def settleRegion (r : Nat) : Nat → State → State
  | 0, s => s
  | fuel + 1, s => match regionStep r s with
    | some s => settleRegion r fuel s
    | none => s

/-- Fuel that suffices for what is on its way for a region: each request takes at most eight calls and answers. -/
def regionFuel (s : State) (r : Nat) : Nat := 40 * ((getRegion s r).queue.length + s.messages.length + s.calls.length + 2)

def settle (s : State) (r : Nat) : State := settleRegion r (regionFuel s r) s

/-- Flushes the line that a cache holds for a region and lets it arrive. -/
def flushAt (s : State) (c : CacheId) (r : Nat) : State := settle (flushHolder s c r [] .none) r

/-- Flushes the delta lines that satisfy a test; `release` also frees their grants (R215). -/
def flushHolders (s : State) (p : Holder → Bool) (release : Bool) : State :=
  (s.holders.filter p).foldl (fun s h =>
    let s := match h.state with
      | .asking _ => settle s h.region
      | _ => s
    settle (if release then releaseHolder s h.cache h.region .released else flushHolder s h.cache h.region [] .none) h.region) s

/-- Flushes every delta line of the caches that satisfy a test. -/
def flushCaches (s : State) (p : CacheId → Bool) (release : Bool) : State := flushHolders s (fun h => p h.cache) release

/-- Whether a cache holds adds of a core for a region, or keeps them waiting for a grant (R215). -/
def HolderState.addsOf (h : HolderState) (core : Nat) : Bool := match h with
  | .asking ws => ws.any fun e => e.core == core
  | .holding _ l => l.cores.contains core
  | .refused _ => false

/-- Drains every holder of a region (R216). -/
def drainRegion (s : State) (r : Nat) : State :=
  let s := settle s r
  settle ((getRegion s r).slots.foldl (fun s h => releaseHolder s h.2.1 r .released) s) r

/-- Drains every holder of a region and resets its bound (R209, R312). -/
def resetRegion (s : State) (r : Nat) : State :=
  modRegion (drainRegion s r) r fun x => { x with bound := 0, g := 0 }

def cacheDie : CacheId → Nat
  | .l1 c => dieOfCore c
  | .l2 d => d

/-- Whether the home is cutting the share of a cache. -/
def cutsHolder (s : State) (r : Nat) (c : CacheId) : Bool :=
  match (getRegion s r).state with
  | .cutting slot _ => match kfind (getRegion s r).slots slot with
    | some h => h.1 == c
    | none => false
  | _ => false

/-- The holders of a lost die: their slots are freed, what they withheld is discarded, LOST is set where an add was held (R230). What
they had sent arrives all the same. Where the holder being cut is lost, the request is refused; where the requester is, the cut ends (log
entry 102). -/
def loseHolders (s : State) (d : Nat) : State :=
  (s.holders.filter fun h => cacheDie h.cache == d).foldl (fun s h =>
    let touched := match h.state with
      | .holding _ l => !l.elems.isEmpty
      | _ => false
    let s := dropHolder s h.cache h.region
    let unanswered := fun (m : Message) => if m.cache == h.cache && m.region == h.region then { m with answer := .none } else m
    let s := { s with calls := s.calls.filter fun c => !(c.cache == h.cache && c.region == h.region), messages := s.messages.map unanswered }
    let s := modRegion s h.region fun x => { x with
      lost := x.lost || touched
      queue := x.queue.filter fun q => q != .grant h.cache }
    let wasCut := cutsHolder s h.region h.cache
    let s := freeSlot s h.region h.cache
    match (getRegion s h.region).state with
    | .cutting _ req =>
      if req == h.cache then openAgain s h.region
      else if wasCut then openAgain (reply s req h.region none) h.region
      else s
    | .draining cs q =>
      let cs' := cs.erase h.cache
      if cs'.isEmpty then openAgain (serveRequest s q) h.region
      else modRegion s h.region fun x => { x with state := .draining cs' q }
    | .open_ => s) s

end Sys2Proof.Machine
end

