-- ==== Sys2Proof/Machine/Order.lean ====
section
/-! DEFINITION. Accesses on their way and when they are performed (R103, R114 to R128): the write-combining buffers, stores
taking effect, entries arriving, releases. -/

namespace Sys2Proof.Machine

/-! ## Write-combining buffers (R103) -/

def lineOf (pa : Nat) : Nat := pa / 128

def drainTo (s : State) (core : Nat) (part : Nat) (l : WcbLine) : State :=
  if l.ae then { s with sent := s.sent ++ l.entries }
  else { s with stores := s.stores ++ [{ core := core, part := part, groups := l.groups, scope := l.scope, bytes := l.bytes, since := l.last, whole := l.whole }] }

/-- The partition of a core's groups in a list. -/
def partOfGroups (s : State) (gs : List Nat) : Nat := (gs.head?.map (partOf s)).getD 0

/-- Drains line `i` of a core's buffer towards its home. -/
def drainLine (s : State) (core i : Nat) : State :=
  match (getCore s core).wcb[i]? with
  | some l => drainTo (modCore s core fun c => { c with wcb := c.wcb.eraseIdx i }) core (partOfGroups s l.groups) l
  | none => s

/-- A line of the same number that another scope, or a page of another kind, buffered drains before a store joins the buffer, so that
the stores of a byte stay in order (R103 item 2). -/
def drainOther (s : State) (core scope line : Nat) (ae : Bool) : State :=
  match (getCore s core).wcb.findIdx? fun l => l.line == line && (l.scope != scope || l.ae != ae) with
  | some i => drainLine s core i
  | none => s

/-- A line drains to make room for a fifth: which one is unspecified (R103 item 1, log entry 85). -/
def makeRoom (s : State) (core : Nat) : State :=
  if 4 ≤ (getCore s core).wcb.length then drainLine { s with fresh := s.fresh + 1 } core (Config.drainChoice s.fresh).val else s

/-- A store of a group joins its line of the buffer, or a line of its own (R103): `put` adds what it stores. -/
def joinLine (s : State) (g core scope pa page : Nat) (ae : Bool) (put : WcbLine → WcbLine) : State :=
  let here := fun (l : WcbLine) => l.line == lineOf pa && l.scope == scope && l.ae == ae
  let add := fun (l : WcbLine) => { put l with groups := insertNat l.groups g, last := s.cycle, page := page }
  let s := drainOther s core scope (lineOf pa) ae
  if (getCore s core).wcb.any here then
    modCore s core fun c => { c with wcb := c.wcb.map fun l => if here l then add l else l }
  else
    modCore (makeRoom s core) core fun c => { c with wcb := c.wcb ++ [add { line := lineOf pa, bytes := [], groups := [], scope := scope, last := 0, page := 0, ae := ae }] }

/-- Buffers bytes of one line (R103), merged into it. `whole`: the number of their instruction, where it writes their granule whole. -/
def bufferLine (s : State) (g core scope pa page : Nat) (bytes : List Byte) (whole : Option Nat) : State :=
  joinLine s g core scope pa page false fun l => { l with
    bytes := (bytes.zipIdx).foldl (fun m b => kput m (pa + b.2) b.1) l.bytes
    whole := match whole with
      | some n => (l.whole ++ [(Loc.mem (pa / 64), n)]).eraseDups
      | none => l.whole }

/-- Buffers the bytes of one element: of one line, or of two, byte by byte. -/
def bufferStore (s : State) (g core scope pa page : Nat) (bytes : List Byte) (whole : Option Nat) : State :=
  if pa % 128 + bytes.length ≤ 128 then bufferLine s g core scope pa page bytes whole
  else bytes.zipIdx.foldl (fun s b => bufferLine s g core scope (pa + b.2) page [b.1] whole) s

/-- Buffers a store to an algebra-enabled page: its entry (R98, R195). -/
def bufferEntry (s : State) (g page : Nat) (e : Entry) : State :=
  joinLine s g e.core e.scope e.addr page true fun l => { l with entries := l.entries ++ [{ e with since := s.cycle }] }

/-- Drains the lines of a core that satisfy a test. -/
def drainLines (s : State) (core : Nat) (p : WcbLine → Bool) : State :=
  let mine := (getCore s core).wcb.filter p
  mine.foldl (fun s l => drainTo s core (partOfGroups s l.groups) l) (modCore s core fun c => { c with wcb := c.wcb.filter fun l => !p l })

/-- Whether a line holds what a group has stored or seen. -/
def WcbLine.of (l : WcbLine) (g : Nat) : Bool := l.groups.contains g

/-- A line drains towards its home (R103). -/
def evWcbDrain (core line : Nat) (s : State) : Option State :=
  if line < (getCore s core).wcb.length then some (drainLine s core line) else none

/-! ## What a load sees (R103, R112, R116) -/

def Entry.covers (e : Entry) : Loc → Bool
  | .mem a => e.addr ≤ a && a < e.addr + e.size
  | _ => false

/-- Whether a line holds a store to a place. -/
def WcbLine.holds (l : WcbLine) (p : Loc) : Bool := (p.pa.any fun a => (kfind l.bytes a).isSome) || l.entries.any fun e => e.covers p

/-- The byte that a drained store or a store to a scratch level writes at a place. -/
def Store.byteAt (t : Store) (p : Loc) : Option Byte :=
  match p.pa.bind (kfind t.bytes) with
  | some b => some b
  | none => (t.pads.find? fun w => w.1 == p).map (·.2)

/-- Whether a load of a group sees a store that has not taken effect: of global memory any of its core's, of a scratch level its own
and those that it has seen. -/
def Store.seenBy (t : Store) (core g : Nat) : Bool := if t.pads.isEmpty then t.core == core else t.groups.contains g

/-- The byte that a load of a group sees: the latest buffered one of its core, else the latest store on its way that it sees, else the
one at the home. -/
def seenByte (s : State) (g : Nat) (p : Loc) : Byte :=
  let core := coreOf s g
  match (getCore s core).wcb.reverse.findSome? fun l => p.pa.bind (kfind l.bytes) with
  | some b => b
  | none =>
    match s.stores.reverse.findSome? fun t => if t.seenBy core g then t.byteAt p else none with
    | some b => b
    | none => readByte s p

/-- Whether a load of a group meets poison at a place: not where a store that it sees writes the whole granule (R103, R109). -/
def poisonSeen (s : State) (g : Nat) (p : Loc) : Bool :=
  let core := coreOf s g
  let here := fun (k : Loc × Nat) => k.1 == p.granule
  isPoisoned s p && !((getCore s core).wcb.any fun l => l.whole.any here) && !(s.stores.any fun t => t.seenBy core g && t.whole.any here) &&
    !((entriesUnderWay s).any fun e => e.core == core && e.wholeKey.any here)

/-- A load of a group has seen the stores on their way to some places: a release of the group performs them too (R118). -/
def observe (s : State) (g : Nat) (ps : List Loc) : State :=
  let core := coreOf s g
  let seen := fun (t : Store) => t.seenBy core g && ps.any fun p => (t.byteAt p).isSome
  let s := if s.stores.any seen then
      { s with stores := s.stores.map fun t => if seen t then { t with groups := insertNat t.groups g } else t }
    else s
  if (getCore s core).wcb.any fun l => !l.ae && ps.any l.holds then
    modCore s core fun c => { c with wcb := c.wcb.map fun l => if !l.ae && ps.any l.holds then { l with groups := insertNat l.groups g } else l }
  else s

/-! ## Stores taking effect (R102, R112, R125) -/

def Store.places (t : Store) : List Loc := t.bytes.map (fun e => .mem e.1) ++ t.pads.map (·.1)

/-- Whether a store takes effect before a later one: they write a common byte, and either both passed one buffer or some group made or
saw both (R103 item 2, R116). -/
def mustPrecede (t u : Store) : Bool :=
  ((t.core == u.core && t.pads.isEmpty && u.pads.isEmpty) || t.groups.any u.groups.contains) && t.places.any u.places.contains

/-- How the home of a store answers. -/
def Store.answer (s : State) (t : Store) : DieAnswer :=
  match t.bytes, t.pads with
  | (a, _) :: _, _ => answerFor s a t.scope (dieOfCore t.core)
  | [], (l, _) :: _ => locAnswer s l
  | [], [] => .served

/-- Whether a store to a line must wait for a die under reset that holds a copy of it, until operation 4 drops the copies (R349); which
lines a die has copies of is left open (log entry 87). -/
def copyHeld (s : State) (t : Store) : Bool :=
  t.bytes.any fun b => s.dies.any fun d => d.2.state == 3 && Config.holdsCopy d.1 (lineOf b.1)

/-- Whether the home of a store answers now: not a die that holds requests, not a host page of an untrained link, and no die under
reset keeps a copy of its line. -/
def storeServed (s : State) (t : Store) : Bool :=
  t.answer s != .held && (s.linkUp || !(t.bytes.head?.any fun e => inApertures e.1)) && !copyHeld s t

/-- A store takes effect. A die that answers with errors discards it with a record of kind "stray write" (R349); else with the last
piece of an instruction that writes a poisoned granule whole its poison leaves (R109). -/
def takeEffect (s : State) (t : Store) : State :=
  if t.answer s = .error then
    match t.pads with
    | (l, _) :: _ => logAppend s t.part ((l.pa).getD 0) 7 (diePadOf ((l.pa).getD 0))
    | [] => homeWrite s t.core t.part t.scope t.bytes
  else t.whole.foldl (fun s k => healWhole s [] k) (storeRaw (homeWrite s t.core t.part t.scope t.bytes) t.pads)

/-- Store `i` takes effect at its home, behind those that must go before it. -/
def evStoreTakesEffectAtHome (i : Nat) (s : State) : Option State :=
  match s.stores[i]? with
  | none => none
  | some t =>
    if !storeServed s t || (s.stores.take i).any (mustPrecede · t) then none
    else some (takeEffect { s with stores := s.stores.eraseIdx i } t)

/-- Whether an access to an address waits for the untrained link since a cycle, for as long as it may (R355). -/
def hostLate (s : State) (a since : Nat) : Bool := inApertures a && !s.linkUp && since + Config.linkTimeout ≤ s.cycle

/-- A store that an untrained link has not performed after 110,000 cycles is discarded and logged (R355): a drained one, or behind those the
entry of one to an algebra-enabled page. -/
def evHostStoreTimeout (i : Nat) (s : State) : Option State :=
  match s.stores[i]? with
  | none =>
    let j := i - s.stores.length
    match s.sent[j]? with
    | some e =>
      if e.op == 17 && hostLate s e.addr e.since then some (logAppend { s with sent := s.sent.eraseIdx j } e.part e.addr 8 0) else none
    | none => none
  | some t =>
    match t.bytes with
    | [] => none
    | (a, _) :: _ =>
      if hostLate s a t.since then
        some (logAppend { s with stores := s.stores.eraseIdx i } t.part a 8 0)
      else none

/-- The stores that satisfy a test take effect, behind those that must go before them; a store whose home does not answer stays, and
what must follow it. -/
def applyStores (s : State) (p : Store → Bool) : State :=
  ((closedUnder mustPrecede p s.stores).foldl (fun (r : State × List Store) t =>
    if storeServed r.1 t && !r.2.any (mustPrecede · t) then (takeEffect { r.1 with stores := r.1.stores.erase t } t, r.2)
    else (r.1, r.2 ++ [t])) (s, [])).1

/-! ## Entries arriving (R195) -/

def sendEntry (s : State) (e : Entry) : State := { s with sent := s.sent ++ [{ e with since := s.cycle }] }

def Entry.of (e : Entry) (g : Nat) : Bool := e.groups.contains g
def Entry.shares (e f : Entry) : Bool := e.groups.any f.of

/-- Whether two entries must arrive in their order where one group made or saw both: to common bytes (R116, R204), or one is a dset, a
dstat or an ldv request of the other's region (R225, R226, R228). -/
def Entry.sameBytes (e f : Entry) : Bool :=
  e.overlaps f || ((18 ≤ e.op && e.op != 20 || 18 ≤ f.op && f.op != 20) && regionOf e.addr == regionOf f.addr)

/-- Whether an entry adds to a drift region, which a later load of the region must see (R216). -/
def Entry.adds (e f : Entry) : Bool := e.drift && e.op < 16 && e.ret.isEmpty && regionOf e.addr == regionOf f.addr

/-- Whether an entry must arrive before a later one: R116 for the accesses of one group, R103 for the stores of one core to a byte, R216
for a load of a drift region, R220 for an ldv of the same die. -/
def arrivesBefore (s : State) (e f : Entry) : Bool :=
  (e.shares f && e.sameBytes f) || (e.op == 17 && f.op == 17 && e.core == f.core && !e.remote && !f.remote && e.overlaps f) || (f.drift && drains s f && e.adds f) ||
    (f.op == 21 && e.adds f && dieOfCore e.core == dieOfCore f.core)

/-- Whether elements that wait at a cache for a grant, or what the reader's own caches have sent, hold back an entry. -/
def waitsForCaches (s : State) (f : Entry) : Bool :=
  (s.holders.any fun h => h.state.waiting.any fun e => arrivesBefore s e f) ||
    (f.op == 21 && s.messages.any fun m => m.region == regionOf f.addr && (m.cache == .l1 f.core || m.cache == .l2 (dieOfCore f.core)))

/-- Whether the home of an entry answers now. -/
def entryServed (s : State) (e : Entry) : Bool :=
  answerFor s e.addr e.scope (dieOfCore e.core) != .held && (s.linkUp || !inApertures e.addr)

/-- Entry `i` arrives at its landing. -/
def evLandingEntryArrival (i : Nat) (s : State) : Option State :=
  match s.sent[i]? with
  | none => none
  | some e =>
    if (s.sent.take i).any (arrivesBefore s · e) || waitsForCaches s e || !entryServed s e then none
    else some (arriveAtHome { s with sent := s.sent.eraseIdx i } e)

/-- The entries on their way that satisfy a test arrive, behind those that must go before them; `all`: whether or not their homes answer. -/
def arriveWhere (s : State) (p : Entry → Bool) (all : Bool := false) : State :=
  (closedUnder (arrivesBefore s) p s.sent).foldl (fun s e =>
    if !s.sent.contains e || !(all || entryServed s e) || (s.sent.takeWhile (· != e)).any (arrivesBefore s · e) then s
    else
      let s := if waitsForCaches s e then settle s (regionOf e.addr) else s
      arriveAtHome { s with sent := s.sent.erase e } e) s

/-- The pending entries outside the sets that satisfy a test are applied, behind those that must go before them; an entry whose home
does not answer stays, and what must follow it. -/
def applyPending (s : State) (p : Entry → Bool) (all : Bool := false) : State :=
  let ready := (inOrder s p).foldl (fun (r : List Nat × List Entry) i =>
    match s.landing[i]? with
    | some e => if (all || entryServed s e) && !r.2.any (·.overlaps e) then (r.1 ++ [i], r.2) else (r.1, r.2 ++ [e])
    | none => r) ([], [])
  applyAt s ready.1

/-- Lets the entries that satisfy a test arrive and be applied in arrival order, those in deterministic sets apart, and the drift
traffic that they caused come to its end. -/
def applyWhere (s : State) (p : Entry → Bool) (all : Bool := false) : State :=
  let regions := ((s.holders.filter fun h => h.state.waiting.any p).map (·.region) ++ s.messages.map (·.region) ++ s.regions.map (·.1) ++
    (s.sent.filter fun e => p e && e.drift).map fun e => regionOf e.addr).eraseDups
  let s := regions.foldl settle s
  let s := arriveWhere s p all
  let s := regions.foldl settle s
  let s := arriveWhere s p all
  let s := regions.foldl settle s
  applyPending s p all

/-- The adds on their way to the drift regions of some bytes arrive, and the holders of those drain (R216). -/
def drainBytes (s : State) (pa n : Nat) : State :=
  let regions := (List.range ((pa + n - 1) / 512 - pa / 512 + 1)).map (pa / 512 + ·)
  regions.foldl (fun s r =>
    if (kfind s.regions r).isSome then drainRegion (arriveWhere (settle s r) fun e => e.adds { addr := 512 * r, size := 512, op := 16 }) r
    else s) s

/-- Before an access that no group makes: the adds to its bytes have reached the landing, and what is pending there is applied (log entry
14). -/
def settleBytes (s : State) (pa n : Nat) : State := settleRange (drainBytes s pa n) pa n

/-! ## Poison and refusals do not overtake loads (R109, R329, log entry 25) -/

/-- The loads on their way to landings that satisfy a test are performed, whether or not their homes hold requests: what befalls their
bytes next comes after them. -/
def fixLanded (s : State) (p : Entry → Bool) : State :=
  let mine := fun (e : Entry) => (e.op == 16 || e.op == 21) && p e
  if (entriesUnderWay s).any mine then applyWhere s mine true else s

/-- Poisons a granule, behind the loads on their way to it. -/
def strikeGranule (s : State) (k : Loc) : State :=
  match k with
  | .mem n => markPoison (fixLanded s fun e => e.addr < 64 * n + 64 && 64 * n < e.addr + e.size) k true
  | _ => markPoison s k true

/-- Whether adds that will poison some bytes are on their way: in a damaged delta line, or flushed from one (R230). -/
def poisonComing (s : State) (pa n : Nat) : Bool :=
  let hits := fun (e : Entry) => e.poisons && e.addr / 64 ≤ (pa + n - 1) / 64 && pa / 64 ≤ e.addr / 64
  (s.holders.any fun h => match h.state with
    | .holding _ l => l.bad && (l.entries h.region 0 []).any hits
    | _ => false) || (s.messages.any fun m => m.entries.any hits) || s.landing.any hits

/-- Such adds reach the landing before a load of the bytes is checked: the load drains them, so it meets their poison (R216). -/
def meetPoison (s : State) (pa n : Nat) : State := if poisonComing s pa n then settleBytes s (pa / 64 * 64) 64 else s

/-! ## Before an access to the same bytes by another way (R115, R116, R309) -/

/-- What a group has stored to some places takes effect. -/
def settleStores (s : State) (g : Nat) (ps : List Loc) : State :=
  let s := drainLines s (coreOf s g) fun l => !l.ae && l.of g && ps.any l.holds
  applyStores s fun t => t.groups.contains g && t.places.any ps.contains

/-- What a group has sent to the landings of some places is applied. -/
def settleEntries (s : State) (g : Nat) (ps : List Loc) : State :=
  let mine := fun (e : Entry) => e.of g && ps.any e.covers
  if (entriesUnderWay s).any mine then
    let s := applyWhere (drainLines s (coreOf s g) fun l => l.ae && l.of g && ps.any l.holds) mine
    let words := ((s.landing.filter fun e => e.inSet && mine e && entryServed s e).map fun e => (e.addr, e.size)).eraseDups
    words.foldl (fun s w => flushSets s w.1 w.2 (setSlots s w.1 w.2)) s
  else s

/-- What a group has stored or sent to some places is performed: an access that goes neither through the buffer nor to the landing
comes after it. -/
def settlePlaces (s : State) (g : Nat) (ps : List Loc) : State := settleEntries (settleStores s g ps) g ps

/-- Whether an arrival of a group that has not been applied is at a gate among some places (R138, R141). -/
def arrivalAt (s : State) (g : Nat) (ps : List Loc) : Bool :=
  s.arrivals.any fun a => a.group == g && (refPlaces s a.block a.ref).any fun q => q.any ps.contains

/-- Whether an access of a group, to some places by the buffer or directly and to others by their landing, is behind one of its own that
a home holds and that went the other way, or behind an arrival of its own (R116): the instruction waits (log entry 16). -/
def behindOwn (s : State) (g : Nat) (plain landed : List Loc) : Bool :=
  (s.stores.any fun t => t.groups.contains g && t.places.any landed.contains) ||
    ((entriesUnderWay s).any fun e => e.of g && plain.any e.covers) || arrivalAt s g (plain ++ landed)

/-- Before a group's entry for some places: its stores to them that do not go through the landing take effect, those of its core that do
are on their way, and the group has seen them (R103 item 3). -/
def reachLanding (s : State) (g : Nat) (ps : List Loc) : State :=
  let core := coreOf s g
  let s := drainLines (settleStores s g ps) core fun l => l.ae && ps.any l.holds
  let stored := fun (e : Entry) => e.op == 17 && e.core == core && ps.any e.covers && !e.of g
  if s.sent.any stored then { s with sent := s.sent.map fun e => if stored e then { e with groups := e.groups ++ [g] } else e } else s

/-! ## What a group has outstanding (R114) -/

/-- Whether an access of the group is not yet performed: buffered stores, stores on their way, entries that have not been applied, but for
those in a deterministic set whose value does not come back, a flush that its element caused (R218), an arrival (R141). -/
def outstanding (s : State) (g : Nat) : Bool :=
  (s.cores.any fun c => c.2.wcb.any fun l => l.of g) || (s.stores.any fun t => t.groups.contains g) ||
    ((entriesUnderWay s).any fun e => (!e.inSet || !e.ret.isEmpty) && e.of g) || (s.messages.any fun m => m.entries.any fun e => e.of g) ||
    s.arrivals.any fun a => a.groups.contains g

/-- Adds a tag to the accesses that a group has outstanding, by which they can be told from its later ones (R141). -/
def tagAccesses (s : State) (g tag : Nat) : State :=
  let mark := fun (l : List Nat) => if l.contains g then l ++ [tag] else l
  let onE := fun (e : Entry) => { e with groups := mark e.groups }
  let onQ := fun (q : DirRequest) => match q with
    | .entry e => .entry (onE e)
    | .ldv es tol => .ldv (es.map onE) tol
    | .grant c => .grant c
  { s with
    cores := s.cores.map fun c => (c.1, { c.2 with wcb := c.2.wcb.map fun l => { l with groups := mark l.groups, entries := l.entries.map onE } })
    stores := s.stores.map fun t => { t with groups := mark t.groups }
    sent := s.sent.map onE
    landing := s.landing.map onE
    holders := s.holders.map fun h => match h.state with
      | .asking ws => { h with state := .asking (ws.map onE) }
      | _ => h
    messages := s.messages.map fun m => { m with entries := m.entries.map onE }
    regions := s.regions.map fun r => (r.1, { r.2 with
      queue := r.2.queue.map onQ
      state := match r.2.state with
        | .draining cs q => .draining cs (onQ q)
        | x => x })
    arrivals := s.arrivals.map fun a => { a with groups := mark a.groups } }

/-- Lets the entries of a group arrive and be applied. -/
def applyEntries (s : State) (g : Nat) : State := applyWhere s fun e => e.of g

/-- Performs every access that the group has issued or seen (R118): what a release does before it is performed itself (log entry 16). -/
def performAll (s : State) (g : Nat) : State :=
  let s := drainLines (fixLoads s g) (coreOf s g) fun l => l.of g
  applyEntries (applyStores s fun t => t.groups.contains g) g

/-- A release (R118): the group's accesses are performed, then the effect; the group waits where a home does not answer. -/
def release (s : State) (g : Nat) (f : State → State) : State :=
  let s := performAll s g
  if outstanding s g then waitHere s g else f s

/-- A fence completes (R128): the reach falls back to core (R121). -/
def resetReach (s : State) (g : Nat) : State := modGroup s g fun x => { x with reach := 0 }

end Sys2Proof.Machine
end

