-- ==== Sys2Proof/Machine/Translate.lean ====
section
/-! DEFINITION. Address translation (R305 to R310, R105): the TLBs, the accessed and dirty bits, permission. -/

namespace Sys2Proof.Machine

/-! ## TLBs (R308, R310) -/

def TlbEntry.maps (t : TlbEntry) (va : Nat) : Bool := va / 2 ^ t.shift * 2 ^ t.shift == t.base

def tlbFind (l : List TlbEntry) (va : Nat) : Option TlbEntry := l.find? fun t => t.maps va
/-- Puts an entry into a TLB of `cap` places, in place of the one that maps its page, or of the oldest (R308, log entry 18). -/
def tlbPut (cap : Nat) (l : List TlbEntry) (t : TlbEntry) : List TlbEntry :=
  (t :: l.filter fun u => !(u.maps t.base || t.maps u.base)).take cap
def tlbDrop (l : List TlbEntry) (va : Nat) : List TlbEntry := l.filter fun u => !u.maps va

def tlbInstallL1 (s : State) (core : Nat) (t : TlbEntry) : State :=
  modCore s core fun c => { c with tlb := tlbPut Config.l1TlbEntries c.tlb t }
def tlbInstall (s : State) (core : Nat) (t : TlbEntry) : State :=
  modDie (tlbInstallL1 s core t) (dieOfCore core) fun d => { d with tlb := tlbPut Config.l2TlbEntries d.tlb t }
/-- An entry that the TLBs hold has changed. -/
def tlbRefresh (s : State) (core : Nat) (t : TlbEntry) : State :=
  let put := fun (l : List TlbEntry) => l.map fun u => if u.base == t.base && u.shift == t.shift && u.pte == t.pte then t else u
  let s := modCore s core fun c => { c with tlb := put c.tlb }
  modDie s (dieOfCore core) fun d => { d with tlb := put d.tlb }
def tlbDiscard (s : State) (core va : Nat) : State :=
  let s := modCore s core fun c => { c with tlb := tlbDrop c.tlb va }
  modDie s (dieOfCore core) fun d => { d with tlb := tlbDrop d.tlb va }

/-- Sets bits of a leaf entry in memory, if it is still valid with the same FRAME (R310). -/
def setLeafBits (s : State) (t : TlbEntry) (bits : Nat) : Option (State × TlbEntry) :=
  let w := readWord64 s t.pte
  if bitAt w 0 && bitAt w 1 && bitsOf w 16 30 == bitsOf t.leaf 16 30 then
    let w' := w ||| bits
    some (if w' == w then s else { s with mem := (((leBytes 8 w').zipIdx).foldl (fun m e => memWrite m (t.pte + e.2) e.1) s.mem) },
      { t with leaf := t.leaf ||| bits })
  else none

def accessedBit : Nat := 2 ^ 46
def dirtyBit : Nat := 2 ^ 47

/-- Where an access is translated: the core whose TLB serves it, the group that makes it, the root, and whose renames apply. -/
structure Space where
  core : Nat
  group : Option Nat := none
  part : Nat
  root : Nat
  launch : Nat
  deriving DecidableEq, Repr

def spaceOfBlock (s : State) (b : Block) : Space :=
  { core := b.core, part := b.part, root := (ctxOfBlock s b).ptroot, launch := b.launch }
def spaceOf (s : State) (g : Nat) : Space := { spaceOfBlock s (blockOf s g) with group := some g }

/-- A walk for an access of a group is performed after every earlier access of the group (R116, R309): what the group has stored or
sent to an entry reaches it first, and its loads of the entry in flight have their values. -/
def settleWord (s : State) (g : Option Nat) (pte : Nat) : State :=
  match g with
  | some g => let ps := (Loc.mem pte).run 8; settlePlaces (fixOverlap s g ps) g ps
  | none => s

/-- Settles the entries that a walk reads, level by level. -/
def settleWalk (s : State) (g : Option Nat) (va : Nat) : Nat → Nat → Nat → State
  | 0, _, _ => s
  | fuel + 1, level, t =>
    let pte := t + 8 * tableIndex va level
    let s := settleWord s g pte
    let e := readWord64 s pte
    if bitAt e 0 && !malformed e level && !bitAt e 1 then settleWalk s g va fuel (level + 1) (bitsOf e 13 33 * 8192) else s

/-- Settles the entries of a walk from a root. -/
def settleRoot (s : State) (g : Option Nat) (root va : Nat) : State :=
  if bitAt root 0 && inHbm (bitsOf root 13 33 * 8192) then settleWalk s g va 4 1 (bitsOf root 13 33 * 8192) else s

/-- A fresh walk: the entry it installs, or the fault kind (R309, R310). -/
def walkFill (s : State) (sp : Space) (va : Nat) : State × Except Nat TlbEntry :=
  let s := settleRoot s sp.group sp.root va
  match walkRoot s sp.root va with
  | .stop kind _ _ _ => (s, .error kind)
  | .leaf level pte e =>
    let sh := levelShift level
    let t : TlbEntry := { base := va / 2 ^ sh * 2 ^ sh, shift := sh, leaf := e, pte := pte }
    match setLeafBits s t accessedBit with
    | some (s, t) => (tlbInstall s sp.core t, .ok t)
    | none => (s, .error 0)

/-- A held leaf is taken into the L1 TLB or a translation register: A is set. Where the entry has changed, the leaf is discarded and a
fresh walk made (R310). -/
def takeLeaf (s : State) (sp : Space) (va : Nat) (t : TlbEntry) : State × Except Nat TlbEntry :=
  match setLeafBits (settleWord s sp.group t.pte) t accessedBit with
  | some (s, t) => (tlbInstallL1 s sp.core t, .ok t)
  | none => walkFill (tlbDiscard (settleWord s sp.group t.pte) sp.core va) sp va

/-- The leaf for an address: from the L1 TLB, the L2 TLB, or a walk. -/
def lookup (s : State) (sp : Space) (va : Nat) : State × Except Nat TlbEntry :=
  match tlbFind (getCore s sp.core).tlb va with
  | some t => (s, .ok t)
  | none =>
    match tlbFind (getDie s (dieOfCore sp.core)).tlb va with
    | some t => takeLeaf s sp va t
    | none => walkFill s sp va

/-- The leaf for a write: its dirty bit is set, by a fresh walk where the held leaf has become stale (R310). -/
def lookupDirty (s : State) (sp : Space) (va : Nat) : State × Except Nat TlbEntry :=
  match lookup s sp va with
  | (s, .error k) => (s, .error k)
  | (s, .ok t) =>
    if bitAt t.leaf 47 then (s, .ok t)
    else
      let s := settleWord s sp.group t.pte
      match setLeafBits s t dirtyBit with
      | some (s, t) => (tlbRefresh s sp.core t, .ok t)
      | none =>
        match walkFill (tlbDiscard s sp.core va) sp va with
        | (s, .error k) => (s, .error k)
        | (s, .ok t) =>
          match setLeafBits s t dirtyBit with
          | some (s, t) => (tlbRefresh s sp.core t, .ok t)
          | none => (s, .ok t)

/-! ## Attributes and accesses -/

/-- The attributes of a leaf in the layout of xget field 2 (R106): scope, policy, R, W, dirty, AE, DE, way. -/
def attrOf (e : Nat) : Nat :=
  leafScope e + 8 * bitsOf e 8 2 + 32 * bitsOf e 2 1 + 64 * bitsOf e 3 1 + 128 * bitsOf e 47 1 + 256 * bitsOf e 13 1 +
    512 * bitsOf e 14 1 + 1024 * bitsOf e 10 3

def attrScope (a : Nat) : Nat := bitsOf a 0 3
def attrR (a : Nat) : Bool := bitAt a 5
def attrW (a : Nat) : Bool := bitAt a 6
def attrAE (a : Nat) : Bool := bitAt a 8
def attrDE (a : Nat) : Bool := bitAt a 9

/-- What an access does (R109): reading, writing, or fetching an instruction. -/
inductive Access where
  | read | write | fetch
  deriving DecidableEq, Repr

/-- Whether the first and the last byte of a run at a located address may be accessed: an aperture can end inside a page (R354). -/
def runAllowed (s : State) (p : Phys) (n : Nat) (store : Bool) : Bool := addressOk s p.pa store && addressOk s (p.pa + n - 1) store

/-- Translates the virtual address of `n` bytes of a page for an access through the TLB: the physical address, or the trap and its code
(R109 items 2 to 4, R313). -/
def translate (s : State) (sp : Space) (va : Nat) (acc : Access) (n : Nat := 1) : State × Except (Nat × Nat) Phys :=
  if 2 ^ 56 ≤ va then (s, .error (5, 0))
  else
    -- permission stands before the dirty bit is set
    match lookup s sp va with
    | (s, .error kind) => (s, .error (4, kind))
    | (s, .ok t) =>
      let allowed := fun (t : TlbEntry) => match acc with
        | .read => leafR t.leaf
        | .write => leafW t.leaf
        | .fetch => leafX t.leaf
      if !allowed t then (s, .error (5, 0))
      else
        let r := if acc = .write then lookupDirty s sp va else (s, .ok t)
        match r with
        | (s, .error kind) => (s, .error (4, kind))
        | (s, .ok t) =>
          let at_ := match renamedPage s sp.part sp.launch (va / 65536) with
            | some frame => (frame + va % 65536, 16)
            | none => (leafFrame t.leaf t.shift + va % 2 ^ t.shift, t.shift)
          let p : Phys := { pa := at_.1, attr := attrOf t.leaf, shift := at_.2, page := va / 2 ^ at_.2 * 2 ^ at_.2 }
          if !allowed t || !runAllowed s p n (acc = .write) then (s, .error (5, 0)) else (s, .ok p)

/-- set_x of R106: the register for a base, with the entry's accessed bit set; no fault is taken. A register with limit 0
holds no frame and no attributes (R104). -/
def setX (s : State) (sp : Space) (v : DWord) (cap : Nat) : State × XReg :=
  let found := match tlbFind (getCore s sp.core).tlb v.toNat with
    | some t => if cap != 0 && (leafR t.leaf || leafW t.leaf) then takeLeaf s sp v.toNat t else (s, .ok t)
    | none => lookup s sp v.toNat
  match found with
  | (s, .ok t) =>
    if cap != 0 && (leafR t.leaf || leafW t.leaf) then
      let off := v.toNat % 2 ^ t.shift
      let renamed := renamedPage s sp.part sp.launch (v.toNat / 65536)
      let frame := match renamed with
        | some f => f + v.toNat % 65536
        | none => leafFrame t.leaf t.shift + off
      -- a renamed page has a frame of its own, so the register ends with that page
      let rest := if renamed.isSome then 65536 - v.toNat % 65536 else 2 ^ t.shift - off
      (s, { base := v, frame := frame, limit := min cap (min (2 ^ 32) rest), attr := attrOf t.leaf, shift := if renamed.isSome then 16 else t.shift })
    else (s, { base := v })
  | (s, .error _) => (s, { base := v })

end Sys2Proof.Machine
end

