-- ==== Sys2Proof/Machine/Fetch.lean ====
section
/-! DEFINITION. Fetching an instruction (R18, R369): its bytes through the TLB with X, its decoding, and what a latch chain
sees ahead (R27). -/

namespace Sys2Proof.Machine

/-- What a fetch finds: an instruction, no instruction, or the exception of the halfword at `vaddr` (R18, R369). -/
inductive Fetched where
  | instr (i : Instr)
  | illegal
  | trap (num code vaddr : Nat)
  deriving DecidableEq, Repr

/-- Two bytes of instruction memory: a fetch beyond 2^56 takes trap 5 (log entry 13), poison trap 6. -/
def fetchHalf (s : State) (g va : Nat) : State × Except (Nat × Nat) (List Byte) :=
  match translate s (spaceOf s g) va .fetch 2 with
  | (s, .error e) => (s, .error e)
  | (s, .ok p) =>
    let place := Loc.mem p.pa
    if isPoisoned s place then (s, .error (6, 0))
    else (touchScope s (partOf s g) (ctxOf s g).id (attrScope p.attr) (coreOf s g) p, .ok ((place.run 2).map (readByte s)))

/-- The instruction at an address. -/
def fetchAt (s : State) (g va : Nat) : State × Fetched :=
  match fetchHalf s g va with
  | (s, .error e) => (s, .trap e.1 e.2 va)
  | (s, .ok lo) =>
    if bitAt (leNat lo) 0 then
      match fetchHalf s g (va + 2) with
      | (s, .error e) => (s, .trap e.1 e.2 (va + 2))
      | (s, .ok hi) =>
        match decode (lo ++ hi) with
        | some r => (s, .instr r.1)
        | none => (s, .illegal)
    else
      match decode lo with
      | some r => (s, .instr r.1)
      | none => (s, .illegal)

/-- The fetch fault of an instruction at `a` (R18, R313): em unchanged, no lanes. -/
def raiseFetch (s : State) (g : Nat) (a : DWord) (num code vaddr : Nat) : State :=
  enterTrap s g { num := num, code := code, pc := a, addr := a, vaddr := BitVec.ofNat 64 vaddr, fetch := true }

/-- The successor of a prefix at the program counter (R30), or the exception that stops the pair: a fetch fault, or trap 0 where
`legal` gives no meaning. -/
def withSuccessor (s : State) (legal : Instr → Option (State → Outcome)) : Outcome :=
  match s.current with
  | none => .fault .noGroup
  | some g =>
    if (kfind s.groups g).isNone then .fault .noGroup
    else
      let a := (getGroup s g).pc
      match fetchAt s g (a + 4).toNat with
      | (s, .trap num code va) => .next (raiseFetch s g a num code va)
      | (s, .illegal) => .next (raise s g 0)
      | (s, .instr i) =>
        match legal i with
        | some run => run s
        | none => .next (raise s g 0)

end Sys2Proof.Machine
end

