-- ==== Sys2Proof/Machine/Lane.lean ====
section
/-! DEFINITION. Lane instructions of majors 0x00 to 0x0E and the compact forms (R57 to R70). -/

namespace Sys2Proof.Machine

/-- The operation of add.i32 on 32-bit values (R60). -/
def opAddI32 (x y : Word) : Res := plain (x + y)

/-- The operation of sub.i32 on 32-bit values (R60). -/
def opSubI32 (x y : Word) : Res := plain (x - y)

/-- The operation of mullo.i32 on 32-bit values (R60). -/
def opMulloI32 (x y : Word) : Res := plain (x * y)

/-- The operation of mulhi.i32 on 32-bit values (R60). -/
def opMulhiI32 (x y : Word) : Res := plain (mulhiS x y)

/-- The operation of mulhi.n32 on 32-bit values (R60). -/
def opMulhiN32 (x y : Word) : Res := plain (mulhiU x y)

/-- The operation of addsat.i32 on 32-bit values (R60). -/
def opAddsatI32 (x y : Word) : Res := plain (clamp32 (x.toInt + y.toInt))

/-- The operation of subsat.i32 on 32-bit values (R60). -/
def opSubsatI32 (x y : Word) : Res := plain (clamp32 (x.toInt - y.toInt))

/-- The operation of min.i32 on 32-bit values (R60). -/
def opMinI32 (x y : Word) : Res := plain (if x.slt y then x else y)

/-- The operation of max.i32 on 32-bit values (R60). -/
def opMaxI32 (x y : Word) : Res := plain (if x.slt y then y else x)

/-- The operation of min.n32 on 32-bit values (R60). -/
def opMinN32 (x y : Word) : Res := plain (if x.ult y then x else y)

/-- The operation of max.n32 on 32-bit values (R60). -/
def opMaxN32 (x y : Word) : Res := plain (if x.ult y then y else x)

/-- The operation of and on 32-bit values (R60). -/
def opAnd (x y : Word) : Res := plain (x &&& y)

/-- The operation of or on 32-bit values (R60). -/
def opOr (x y : Word) : Res := plain (x ||| y)

/-- The operation of xor on 32-bit values (R60). -/
def opXor (x y : Word) : Res := plain (x ^^^ y)

/-- The operation of andn on 32-bit values (R60). -/
def opAndn (x y : Word) : Res := plain (x &&& ~~~y)

/-- The operation of shl on 32-bit values (R60). -/
def opShl (x y : Word) : Res := plain (shlW x y)

/-- The operation of shr on 32-bit values (R60). -/
def opShr (x y : Word) : Res := plain (shrW x y)

/-- The operation of sar on 32-bit values (R60). -/
def opSar (x y : Word) : Res := plain (sarW x y)

/-- The operation of rot on 32-bit values (R60). -/
def opRot (x y : Word) : Res := plain (rotW x y)

/-- The operation of orn on 32-bit values (R60). -/
def opOrn (x y : Word) : Res := plain (x ||| ~~~y)

/-- The operation of absdiff.i32 on 32-bit values (R60). -/
def opAbsdiffI32 (x y : Word) : Res := plain (absdiff x y)

/-- The operation of add.f32 on 32-bit values (R65). -/
def opAddF32 (x y : Word) : Res := ofFp (Fp.add Fp.f32 .ne x.toNat y.toNat)

/-- The operation of sub.f32 on 32-bit values (R65). -/
def opSubF32 (x y : Word) : Res := ofFp (Fp.sub Fp.f32 .ne x.toNat y.toNat)

/-- The operation of mul.f32 on 32-bit values (R65). -/
def opMulF32 (x y : Word) : Res := ofFp (Fp.mul Fp.f32 .ne x.toNat y.toNat)

/-- The operation of min.f32 on 32-bit values (R65). -/
def opMinF32 (x y : Word) : Res := ofFp (Fp.minMax Fp.f32 false x.toNat y.toNat)

/-- The operation of max.f32 on 32-bit values (R65). -/
def opMaxF32 (x y : Word) : Res := ofFp (Fp.minMax Fp.f32 true x.toNat y.toNat)

/-- The operation of add.f16x2 on 32-bit values (R65). -/
def opAddF16x2 (x y : Word) : Res := ofPacked (Fp.packed2 (Fp.add Fp.f16) x y)

/-- The operation of mul.f16x2 on 32-bit values (R65). -/
def opMulF16x2 (x y : Word) : Res := ofPacked (Fp.packed2 (Fp.mul Fp.f16) x y)

/-- The operation of add.bf16x2 on 32-bit values (R65). -/
def opAddBf16x2 (x y : Word) : Res := ofPacked (Fp.packed2 (Fp.add Fp.bf16) x y)

/-- The operation of mul.bf16x2 on 32-bit values (R65). -/
def opMulBf16x2 (x y : Word) : Res := ofPacked (Fp.packed2 (Fp.mul Fp.bf16) x y)

/-- Adds two 32-bit integers in each active lane, wrapping modulo 2^32 (R60). -/
def execAddI32 (d : BitVec 7) (a : BitVec 7) (b : BitVec 7) (w : BitVec 2) (n : Bool) (s : State) : Outcome :=
  alu2 s 4 d.toNat a.toNat b.toNat w.toNat n opAddI32

/-- Subtracts two 32-bit integers in each active lane, wrapping (R60). -/
def execSubI32 (d : BitVec 7) (a : BitVec 7) (b : BitVec 7) (w : BitVec 2) (n : Bool) (s : State) : Outcome :=
  alu2 s 4 d.toNat a.toNat b.toNat w.toNat n opSubI32

/-- Writes the low 32 bits of the product of two integers (R60). -/
def execMulloI32 (d : BitVec 7) (a : BitVec 7) (b : BitVec 7) (w : BitVec 2) (n : Bool) (s : State) : Outcome :=
  alu2 s 4 d.toNat a.toNat b.toNat w.toNat n opMulloI32

/-- Writes bits 63:32 of the signed 64-bit product (R60). -/
def execMulhiI32 (d : BitVec 7) (a : BitVec 7) (b : BitVec 7) (w : BitVec 2) (n : Bool) (s : State) : Outcome :=
  alu2 s 4 d.toNat a.toNat b.toNat w.toNat n opMulhiI32

/-- Writes bits 63:32 of the unsigned 64-bit product (R60). -/
def execMulhiN32 (d : BitVec 7) (a : BitVec 7) (b : BitVec 7) (w : BitVec 2) (n : Bool) (s : State) : Outcome :=
  alu2 s 4 d.toNat a.toNat b.toNat w.toNat n opMulhiN32

/-- Adds two i32 values and clamps the sum to the i32 range (R60). -/
def execAddsatI32 (d : BitVec 7) (a : BitVec 7) (b : BitVec 7) (w : BitVec 2) (n : Bool) (s : State) : Outcome :=
  alu2 s 4 d.toNat a.toNat b.toNat w.toNat n opAddsatI32

/-- Subtracts two i32 values and clamps the difference to the i32 range (R60). -/
def execSubsatI32 (d : BitVec 7) (a : BitVec 7) (b : BitVec 7) (w : BitVec 2) (n : Bool) (s : State) : Outcome :=
  alu2 s 4 d.toNat a.toNat b.toNat w.toNat n opSubsatI32

/-- Writes the signed minimum of a and b (R60). -/
def execMinI32 (d : BitVec 7) (a : BitVec 7) (b : BitVec 7) (w : BitVec 2) (n : Bool) (s : State) : Outcome :=
  alu2 s 4 d.toNat a.toNat b.toNat w.toNat n opMinI32

/-- Writes the signed maximum of a and b (R60). -/
def execMaxI32 (d : BitVec 7) (a : BitVec 7) (b : BitVec 7) (w : BitVec 2) (n : Bool) (s : State) : Outcome :=
  alu2 s 4 d.toNat a.toNat b.toNat w.toNat n opMaxI32

/-- Writes the unsigned minimum of a and b (R60). -/
def execMinN32 (d : BitVec 7) (a : BitVec 7) (b : BitVec 7) (w : BitVec 2) (n : Bool) (s : State) : Outcome :=
  alu2 s 4 d.toNat a.toNat b.toNat w.toNat n opMinN32

/-- Writes the unsigned maximum of a and b (R60). -/
def execMaxN32 (d : BitVec 7) (a : BitVec 7) (b : BitVec 7) (w : BitVec 2) (n : Bool) (s : State) : Outcome :=
  alu2 s 4 d.toNat a.toNat b.toNat w.toNat n opMaxN32

/-- Writes the bitwise and of a and b (R60). -/
def execAnd (d : BitVec 7) (a : BitVec 7) (b : BitVec 7) (w : BitVec 2) (n : Bool) (s : State) : Outcome :=
  alu2 s 4 d.toNat a.toNat b.toNat w.toNat n opAnd

/-- Writes the bitwise or of a and b (R60). -/
def execOr (d : BitVec 7) (a : BitVec 7) (b : BitVec 7) (w : BitVec 2) (n : Bool) (s : State) : Outcome :=
  alu2 s 4 d.toNat a.toNat b.toNat w.toNat n opOr

/-- Writes the bitwise xor of a and b (R60). -/
def execXor (d : BitVec 7) (a : BitVec 7) (b : BitVec 7) (w : BitVec 2) (n : Bool) (s : State) : Outcome :=
  alu2 s 4 d.toNat a.toNat b.toNat w.toNat n opXor

/-- Writes a and not b (R60). -/
def execAndn (d : BitVec 7) (a : BitVec 7) (b : BitVec 7) (w : BitVec 2) (n : Bool) (s : State) : Outcome :=
  alu2 s 4 d.toNat a.toNat b.toNat w.toNat n opAndn

/-- Shifts a left by b, giving 0 for counts of 32 or more (R60). -/
def execShl (d : BitVec 7) (a : BitVec 7) (b : BitVec 7) (w : BitVec 2) (n : Bool) (s : State) : Outcome :=
  alu2 s 4 d.toNat a.toNat b.toNat w.toNat n opShl

/-- Shifts a right logically by b, giving 0 for counts of 32 or more (R60). -/
def execShr (d : BitVec 7) (a : BitVec 7) (b : BitVec 7) (w : BitVec 2) (n : Bool) (s : State) : Outcome :=
  alu2 s 4 d.toNat a.toNat b.toNat w.toNat n opShr

/-- Shifts a right arithmetically by b (R60). -/
def execSar (d : BitVec 7) (a : BitVec 7) (b : BitVec 7) (w : BitVec 2) (n : Bool) (s : State) : Outcome :=
  alu2 s 4 d.toNat a.toNat b.toNat w.toNat n opSar

/-- Rotates a left by b mod 32 (R60). -/
def execRot (d : BitVec 7) (a : BitVec 7) (b : BitVec 7) (w : BitVec 2) (n : Bool) (s : State) : Outcome :=
  alu2 s 4 d.toNat a.toNat b.toNat w.toNat n opRot

/-- Writes a or not b (R60). -/
def execOrn (d : BitVec 7) (a : BitVec 7) (b : BitVec 7) (w : BitVec 2) (n : Bool) (s : State) : Outcome :=
  alu2 s 4 d.toNat a.toNat b.toNat w.toNat n opOrn

/-- Writes the exact magnitude of a − b as an n32 (R60). -/
def execAbsdiffI32 (d : BitVec 7) (a : BitVec 7) (b : BitVec 7) (w : BitVec 2) (n : Bool) (s : State) : Outcome :=
  alu2 s 4 d.toNat a.toNat b.toNat w.toNat n opAbsdiffI32

/-- Adds two f32 values, rounding once by round_ne (R65). -/
def execAddF32 (d : BitVec 7) (a : BitVec 7) (b : BitVec 7) (w : BitVec 2) (n : Bool) (s : State) : Outcome :=
  alu2 s 4 d.toNat a.toNat b.toNat w.toNat n opAddF32

/-- Subtracts two f32 values, rounding once (R65). -/
def execSubF32 (d : BitVec 7) (a : BitVec 7) (b : BitVec 7) (w : BitVec 2) (n : Bool) (s : State) : Outcome :=
  alu2 s 4 d.toNat a.toNat b.toNat w.toNat n opSubF32

/-- Multiplies two f32 values, rounding once (R65). -/
def execMulF32 (d : BitVec 7) (a : BitVec 7) (b : BitVec 7) (w : BitVec 2) (n : Bool) (s : State) : Outcome :=
  alu2 s 4 d.toNat a.toNat b.toNat w.toNat n opMulF32

/-- Writes the IEEE minimumNumber of two f32 values (R65). -/
def execMinF32 (d : BitVec 7) (a : BitVec 7) (b : BitVec 7) (w : BitVec 2) (n : Bool) (s : State) : Outcome :=
  alu2 s 4 d.toNat a.toNat b.toNat w.toNat n opMinF32

/-- Writes the IEEE maximumNumber of two f32 values (R65). -/
def execMaxF32 (d : BitVec 7) (a : BitVec 7) (b : BitVec 7) (w : BitVec 2) (n : Bool) (s : State) : Outcome :=
  alu2 s 4 d.toNat a.toNat b.toNat w.toNat n opMaxF32

/-- Adds two packed f16 pairs element by element (R65). -/
def execAddF16x2 (d : BitVec 7) (a : BitVec 7) (b : BitVec 7) (w : BitVec 2) (n : Bool) (s : State) : Outcome :=
  alu2 s 4 d.toNat a.toNat b.toNat w.toNat n opAddF16x2

/-- Multiplies two packed f16 pairs element by element (R65). -/
def execMulF16x2 (d : BitVec 7) (a : BitVec 7) (b : BitVec 7) (w : BitVec 2) (n : Bool) (s : State) : Outcome :=
  alu2 s 4 d.toNat a.toNat b.toNat w.toNat n opMulF16x2

/-- Adds two packed bf16 pairs (R65). -/
def execAddBf16x2 (d : BitVec 7) (a : BitVec 7) (b : BitVec 7) (w : BitVec 2) (n : Bool) (s : State) : Outcome :=
  alu2 s 4 d.toNat a.toNat b.toNat w.toNat n opAddBf16x2

/-- Multiplies two packed bf16 pairs (R65). -/
def execMulBf16x2 (d : BitVec 7) (a : BitVec 7) (b : BitVec 7) (w : BitVec 2) (n : Bool) (s : State) : Outcome :=
  alu2 s 4 d.toNat a.toNat b.toNat w.toNat n opMulBf16x2

/-- Adds two 64-bit integers held in register pairs, wrapping (R61). -/
def execAddI64 (d : BitVec 7) (a : BitVec 7) (b : BitVec 7) (w : BitVec 2) (n : Bool) (s : State) : Outcome :=
  alu64 s 4 d.toNat a.toNat b.toNat w.toNat n fun x y => plain64 (x + y)

/-- Subtracts two 64-bit integers held in register pairs, wrapping (R61). -/
def execSubI64 (d : BitVec 7) (a : BitVec 7) (b : BitVec 7) (w : BitVec 2) (n : Bool) (s : State) : Outcome :=
  alu64 s 4 d.toNat a.toNat b.toNat w.toNat n fun x y => plain64 (x - y)

/-- Writes the low 64 bits of the product of two 64-bit integers (R61). -/
def execMulI64 (d : BitVec 7) (a : BitVec 7) (b : BitVec 7) (w : BitVec 2) (n : Bool) (s : State) : Outcome :=
  alu64 s 4 d.toNat a.toNat b.toNat w.toNat n fun x y => plain64 (x * y)

/-- Adds two f64 values held in register pairs (R65). -/
def execAddF64 (d : BitVec 7) (a : BitVec 7) (b : BitVec 7) (w : BitVec 2) (n : Bool) (s : State) : Outcome :=
  alu64 s 4 d.toNat a.toNat b.toNat w.toNat n fun x y => ofFp (Fp.add Fp.f64 .ne x.toNat y.toNat)

/-- Subtracts two f64 values (R65). -/
def execSubF64 (d : BitVec 7) (a : BitVec 7) (b : BitVec 7) (w : BitVec 2) (n : Bool) (s : State) : Outcome :=
  alu64 s 4 d.toNat a.toNat b.toNat w.toNat n fun x y => ofFp (Fp.sub Fp.f64 .ne x.toNat y.toNat)

/-- Multiplies two f64 values (R65). -/
def execMulF64 (d : BitVec 7) (a : BitVec 7) (b : BitVec 7) (w : BitVec 2) (n : Bool) (s : State) : Outcome :=
  alu64 s 4 d.toNat a.toNat b.toNat w.toNat n fun x y => ofFp (Fp.mul Fp.f64 .ne x.toNat y.toNat)

/-- Shifts a 64-bit value left by a 32-bit count (R61). -/
def execShlI64 (d : BitVec 7) (a : BitVec 7) (b : BitVec 7) (w : BitVec 2) (n : Bool) (s : State) : Outcome :=
  shift64 s 4 d.toNat a.toNat b.toNat w.toNat n shlD

/-- Shifts a 64-bit value right logically (R61). -/
def execShrI64 (d : BitVec 7) (a : BitVec 7) (b : BitVec 7) (w : BitVec 2) (n : Bool) (s : State) : Outcome :=
  shift64 s 4 d.toNat a.toNat b.toNat w.toNat n shrD

/-- Shifts a 64-bit value right arithmetically (R61). -/
def execSarI64 (d : BitVec 7) (a : BitVec 7) (b : BitVec 7) (w : BitVec 2) (n : Bool) (s : State) : Outcome :=
  shift64 s 4 d.toNat a.toNat b.toNat w.toNat n sarD

/-- Issues a signed division whose quotient is written 32 cycles later (R62). -/
def execDivI32 (d : BitVec 7) (a : BitVec 7) (b : BitVec 7) (w : BitVec 2) (n : Bool) (s : State) : Outcome :=
  division s d.toNat a.toNat b.toNat w.toNat n fun x y => (divide true x y).1

/-- Issues an unsigned division whose quotient is written 32 cycles later (R62). -/
def execDivN32 (d : BitVec 7) (a : BitVec 7) (b : BitVec 7) (w : BitVec 2) (n : Bool) (s : State) : Outcome :=
  division s d.toNat a.toNat b.toNat w.toNat n fun x y => (divide false x y).1

/-- Issues a signed remainder whose result is written 32 cycles later (R62). -/
def execRemI32 (d : BitVec 7) (a : BitVec 7) (b : BitVec 7) (w : BitVec 2) (n : Bool) (s : State) : Outcome :=
  division s d.toNat a.toNat b.toNat w.toNat n fun x y => (divide true x y).2

/-- Issues an unsigned remainder whose result is written 32 cycles later (R62). -/
def execRemN32 (d : BitVec 7) (a : BitVec 7) (b : BitVec 7) (w : BitVec 2) (n : Bool) (s : State) : Outcome :=
  division s d.toNat a.toNat b.toNat w.toNat n fun x y => (divide false x y).2

/-! ## Forms that the addend prefix may precede (R32): `len` and the addend code are the prefix's -/

def madI32Form (len : Nat) (c : Option Nat) (d a b : BitVec 7) (w : BitVec 2) (n : Bool) (s : State) : Outcome :=
  alu3 s len d.toNat a.toNat b.toNat c w.toNat n fun (x y z : Word) => plain (z + x * y)

/-- Writes the low 32 bits of d + a × b, or of a × b + c with the addend prefix (R60). -/
def execMadI32 (d : BitVec 7) (a : BitVec 7) (b : BitVec 7) (w : BitVec 2) (n : Bool) (s : State) : Outcome :=
  madI32Form 4 none d a b w n s

def fmaF32Form (len : Nat) (c : Option Nat) (d a b : BitVec 7) (w : BitVec 2) (n : Bool) (s : State) : Outcome :=
  alu3 s len d.toNat a.toNat b.toNat c w.toNat n fun (x y z : Word) => ofFp (Fp.fma Fp.f32 x.toNat y.toNat z.toNat)

/-- Computes a fused d + a × b, or a × b + c with the prefix, in f32 (R65). -/
def execFmaF32 (d : BitVec 7) (a : BitVec 7) (b : BitVec 7) (w : BitVec 2) (n : Bool) (s : State) : Outcome :=
  fmaF32Form 4 none d a b w n s

def fmaF16x2Form (len : Nat) (c : Option Nat) (d a b : BitVec 7) (w : BitVec 2) (n : Bool) (s : State) : Outcome :=
  alu3 s len d.toNat a.toNat b.toNat c w.toNat n fun (x y z : Word) => ofPacked (Fp.packed3 (Fp.fma Fp.f16) x y z)

/-- Computes a fused multiply-add on packed f16 pairs (R65). -/
def execFmaF16x2 (d : BitVec 7) (a : BitVec 7) (b : BitVec 7) (w : BitVec 2) (n : Bool) (s : State) : Outcome :=
  fmaF16x2Form 4 none d a b w n s

def fmaBf16x2Form (len : Nat) (c : Option Nat) (d a b : BitVec 7) (w : BitVec 2) (n : Bool) (s : State) : Outcome :=
  alu3 s len d.toNat a.toNat b.toNat c w.toNat n fun (x y z : Word) => ofPacked (Fp.packed3 (Fp.fma Fp.bf16) x y z)

/-- Computes a fused multiply-add on packed bf16 pairs (R65). -/
def execFmaBf16x2 (d : BitVec 7) (a : BitVec 7) (b : BitVec 7) (w : BitVec 2) (n : Bool) (s : State) : Outcome :=
  fmaBf16x2Form 4 none d a b w n s

def fmaF64Form (len : Nat) (c : Option Nat) (d a b : BitVec 7) (w : BitVec 2) (n : Bool) (s : State) : Outcome :=
  alu64x3 s len d.toNat a.toNat b.toNat c w.toNat n fun (x y z : DWord) => ofFp (Fp.fma Fp.f64 x.toNat y.toNat z.toNat)

/-- Computes a fused multiply-add in f64 (R65). -/
def execFmaF64 (d : BitVec 7) (a : BitVec 7) (b : BitVec 7) (w : BitVec 2) (n : Bool) (s : State) : Outcome :=
  fmaF64Form 4 none d a b w n s

/-! ## Immediate forms (R66): `len` and the immediate are those of imx where it precedes -/

def setForm (len : Nat) (imm : Word) (d : BitVec 7) (n : Bool) (s : State) : Outcome :=
  immOp s len d.toNat 124 imm n fun _ i => plain i

/-- Writes the immediate into each active lane (R66). -/
def execSet (d : BitVec 7) (i : BitVec 8) (n : Bool) (s : State) : Outcome :=
  setForm 4 (i.signExtend 32) d n s

def addiForm (len : Nat) (imm : Word) (d a : BitVec 7) (n : Bool) (s : State) : Outcome :=
  immOp s len d.toNat a.toNat imm n fun x i => plain (x + i)

/-- Adds the immediate to a, wrapping (R66). -/
def execAddi (d : BitVec 7) (a : BitVec 7) (i : BitVec 8) (n : Bool) (s : State) : Outcome :=
  addiForm 4 (i.signExtend 32) d a n s

def muliForm (len : Nat) (imm : Word) (d a : BitVec 7) (n : Bool) (s : State) : Outcome :=
  immOp s len d.toNat a.toNat imm n fun x i => plain (x * i)

/-- Writes the low 32 bits of a times the immediate (R66). -/
def execMuli (d : BitVec 7) (a : BitVec 7) (i : BitVec 8) (n : Bool) (s : State) : Outcome :=
  muliForm 4 (i.signExtend 32) d a n s

def andiForm (len : Nat) (imm : Word) (d a : BitVec 7) (n : Bool) (s : State) : Outcome :=
  immOp s len d.toNat a.toNat imm n fun x i => plain (x &&& i)

/-- Ands a with the immediate (R66). -/
def execAndi (d : BitVec 7) (a : BitVec 7) (i : BitVec 8) (n : Bool) (s : State) : Outcome :=
  andiForm 4 (i.signExtend 32) d a n s

def oriForm (len : Nat) (imm : Word) (d a : BitVec 7) (n : Bool) (s : State) : Outcome :=
  immOp s len d.toNat a.toNat imm n fun x i => plain (x ||| i)

/-- Ors a with the immediate (R66). -/
def execOri (d : BitVec 7) (a : BitVec 7) (i : BitVec 8) (n : Bool) (s : State) : Outcome :=
  oriForm 4 (i.signExtend 32) d a n s

def xoriForm (len : Nat) (imm : Word) (d a : BitVec 7) (n : Bool) (s : State) : Outcome :=
  immOp s len d.toNat a.toNat imm n fun x i => plain (x ^^^ i)

/-- Xors a with the immediate (R66). -/
def execXori (d : BitVec 7) (a : BitVec 7) (i : BitVec 8) (n : Bool) (s : State) : Outcome :=
  xoriForm 4 (i.signExtend 32) d a n s

def shliForm (len : Nat) (imm : Word) (d a : BitVec 7) (n : Bool) (s : State) : Outcome :=
  immOp s len d.toNat a.toNat imm n fun x i => plain (shlW x i)

/-- Shifts a left by the immediate count (R66). -/
def execShli (d : BitVec 7) (a : BitVec 7) (i : BitVec 8) (n : Bool) (s : State) : Outcome :=
  shliForm 4 (i.signExtend 32) d a n s

def shriForm (len : Nat) (imm : Word) (d a : BitVec 7) (n : Bool) (s : State) : Outcome :=
  immOp s len d.toNat a.toNat imm n fun x i => plain (shrW x i)

/-- Shifts a right logically by the immediate count (R66). -/
def execShri (d : BitVec 7) (a : BitVec 7) (i : BitVec 8) (n : Bool) (s : State) : Outcome :=
  shriForm 4 (i.signExtend 32) d a n s

def sariForm (len : Nat) (imm : Word) (d a : BitVec 7) (n : Bool) (s : State) : Outcome :=
  immOp s len d.toNat a.toNat imm n fun x i => plain (sarW x i)

/-- Shifts a right arithmetically by the immediate count (R66). -/
def execSari (d : BitVec 7) (a : BitVec 7) (i : BitVec 8) (n : Bool) (s : State) : Outcome :=
  sariForm 4 (i.signExtend 32) d a n s

def rsbiForm (len : Nat) (imm : Word) (d a : BitVec 7) (n : Bool) (s : State) : Outcome :=
  immOp s len d.toNat a.toNat imm n fun x i => plain (i - x)

/-- Writes the immediate minus a, wrapping (R66). -/
def execRsbi (d : BitVec 7) (a : BitVec 7) (i : BitVec 8) (n : Bool) (s : State) : Outcome :=
  rsbiForm 4 (i.signExtend 32) d a n s

def miniForm (len : Nat) (imm : Word) (d a : BitVec 7) (n : Bool) (s : State) : Outcome :=
  immOp s len d.toNat a.toNat imm n fun x i => opMinI32 x i

/-- Writes the signed minimum of a and the immediate (R66). -/
def execMini (d : BitVec 7) (a : BitVec 7) (i : BitVec 8) (n : Bool) (s : State) : Outcome :=
  miniForm 4 (i.signExtend 32) d a n s

def maxiForm (len : Nat) (imm : Word) (d a : BitVec 7) (n : Bool) (s : State) : Outcome :=
  immOp s len d.toNat a.toNat imm n fun x i => opMaxI32 x i

/-- Writes the signed maximum of a and the immediate (R66). -/
def execMaxi (d : BitVec 7) (a : BitVec 7) (i : BitVec 8) (n : Bool) (s : State) : Outcome :=
  maxiForm 4 (i.signExtend 32) d a n s

def setiF32Form (len : Nat) (imm : Word) (d : BitVec 7) (n : Bool) (s : State) : Outcome :=
  immOp s len d.toNat 124 imm n fun _ i => plain i

/-- Writes the immediate bits as an f32 without rounding (R66). -/
def execSetiF32 (d : BitVec 7) (i : BitVec 8) (n : Bool) (s : State) : Outcome :=
  setiF32Form 4 (i.signExtend 32) d n s

def addiF32Form (len : Nat) (imm : Word) (d a : BitVec 7) (n : Bool) (s : State) : Outcome :=
  immOp s len d.toNat a.toNat imm n fun x i => opAddF32 x i

/-- Adds the f32 immediate to a (R66). -/
def execAddiF32 (d : BitVec 7) (a : BitVec 7) (i : BitVec 8) (n : Bool) (s : State) : Outcome :=
  addiF32Form 4 (i.signExtend 32) d a n s

def muliF32Form (len : Nat) (imm : Word) (d a : BitVec 7) (n : Bool) (s : State) : Outcome :=
  immOp s len d.toNat a.toNat imm n fun x i => opMulF32 x i

/-- Multiplies a by the f32 immediate (R66). -/
def execMuliF32 (d : BitVec 7) (a : BitVec 7) (i : BitVec 8) (n : Bool) (s : State) : Outcome :=
  muliF32Form 4 (i.signExtend 32) d a n s

/-! ## Unary forms (R67 to R70) -/

/-- Copies a into d (R67). -/
def execMov (d : BitVec 7) (a : BitVec 7) (w : BitVec 2) (n : Bool) (s : State) : Outcome :=
  unary s 4 d.toNat a.toNat w.toNat n fun x => plain x

/-- Writes the bitwise not of a (R67). -/
def execNot (d : BitVec 7) (a : BitVec 7) (w : BitVec 2) (n : Bool) (s : State) : Outcome :=
  unary s 4 d.toNat a.toNat w.toNat n fun x => plain (~~~x)

/-- Writes 0 − a, wrapping (R67). -/
def execNegI32 (d : BitVec 7) (a : BitVec 7) (w : BitVec 2) (n : Bool) (s : State) : Outcome :=
  unary s 4 d.toNat a.toNat w.toNat n fun x => plain (-x)

/-- Writes the wrapping absolute value of a (R67). -/
def execAbsI32 (d : BitVec 7) (a : BitVec 7) (w : BitVec 2) (n : Bool) (s : State) : Outcome :=
  unary s 4 d.toNat a.toNat w.toNat n fun x => plain (if x.msb then -x else x)

/-- Writes the number of set bits of a (R67). -/
def execPopc (d : BitVec 7) (a : BitVec 7) (w : BitVec 2) (n : Bool) (s : State) : Outcome :=
  unary s 4 d.toNat a.toNat w.toNat n fun x => plain (popcount x)

/-- Writes the number of leading zero bits of a (R67). -/
def execClz (d : BitVec 7) (a : BitVec 7) (w : BitVec 2) (n : Bool) (s : State) : Outcome :=
  unary s 4 d.toNat a.toNat w.toNat n fun x => plain (countLeading x)

/-- Writes the number of trailing zero bits of a (R67). -/
def execCtz (d : BitVec 7) (a : BitVec 7) (w : BitVec 2) (n : Bool) (s : State) : Outcome :=
  unary s 4 d.toNat a.toNat w.toNat n fun x => plain (countTrailing x)

/-- Reverses the bits of a (R67). -/
def execBrev (d : BitVec 7) (a : BitVec 7) (w : BitVec 2) (n : Bool) (s : State) : Outcome :=
  unary s 4 d.toNat a.toNat w.toNat n fun x => plain (bitReverse x)

/-- Reverses the bytes of a (R67). -/
def execBswap (d : BitVec 7) (a : BitVec 7) (w : BitVec 2) (n : Bool) (s : State) : Outcome :=
  unary s 4 d.toNat a.toNat w.toNat n fun x => plain (byteSwap x)

/-- Inverts the sign bit of a non-NaN f32 (R68). -/
def execNegF32 (d : BitVec 7) (a : BitVec 7) (w : BitVec 2) (n : Bool) (s : State) : Outcome :=
  unary s 4 d.toNat a.toNat w.toNat n fun x => signOp (fun v => v ^^^ 0x80000000) x

/-- Clears the sign bit of a non-NaN f32 (R68). -/
def execAbsF32 (d : BitVec 7) (a : BitVec 7) (w : BitVec 2) (n : Bool) (s : State) : Outcome :=
  unary s 4 d.toNat a.toNat w.toNat n fun x => signOp (fun v => v &&& 0x7FFFFFFF) x

/-- Writes the correctly rounded reciprocal of a (R69). -/
def execRcpF32 (d : BitVec 7) (a : BitVec 7) (w : BitVec 2) (n : Bool) (s : State) : Outcome :=
  unary s 4 d.toNat a.toNat w.toNat n fun x => ofFp (Fp.rcp Fp.f32 x.toNat)

/-- Writes the reciprocal square root of a within 1 ulp (R69). -/
def execRsqrtF32 (d : BitVec 7) (a : BitVec 7) (w : BitVec 2) (n : Bool) (s : State) : Outcome :=
  unary s 4 d.toNat a.toNat w.toNat n fun x => ofFp (Fp.rsqrt32 x.toNat)

/-- Writes the correctly rounded square root of a (R69). -/
def execSqrtF32 (d : BitVec 7) (a : BitVec 7) (w : BitVec 2) (n : Bool) (s : State) : Outcome :=
  unary s 4 d.toNat a.toNat w.toNat n fun x => ofFp (Fp.sqrt Fp.f32 x.toNat)

/-- Writes 2 to the power a within 2 ulp (R69). -/
def execExp2F32 (d : BitVec 7) (a : BitVec 7) (w : BitVec 2) (n : Bool) (s : State) : Outcome :=
  unary s 4 d.toNat a.toNat w.toNat n fun x => ofFp (Fp.exp2f32 x.toNat)

/-- Writes the base-2 logarithm of a (R69). -/
def execLog2F32 (d : BitVec 7) (a : BitVec 7) (w : BitVec 2) (n : Bool) (s : State) : Outcome :=
  unary s 4 d.toNat a.toNat w.toNat n fun x => ofFp (Fp.log2f32 x.toNat)

/-- Writes sin(π a) within 2 ulp (R69). -/
def execSinpiF32 (d : BitVec 7) (a : BitVec 7) (w : BitVec 2) (n : Bool) (s : State) : Outcome :=
  unary s 4 d.toNat a.toNat w.toNat n fun x => ofFp (Fp.sinpif32 x.toNat)

/-- Writes cos(π a) within 2 ulp (R69). -/
def execCospiF32 (d : BitVec 7) (a : BitVec 7) (w : BitVec 2) (n : Bool) (s : State) : Outcome :=
  unary s 4 d.toNat a.toNat w.toNat n fun x => ofFp (Fp.cospif32 x.toNat)

/-- Writes tanh(a) within 2 ulp (R69). -/
def execTanhF32 (d : BitVec 7) (a : BitVec 7) (w : BitVec 2) (n : Bool) (s : State) : Outcome :=
  unary s 4 d.toNat a.toNat w.toNat n fun x => ofFp (Fp.tanhf32 x.toNat)

/-- Rounds a to an integral f32 in the mode the selector gives (R70). -/
def execRndF32 (d : BitVec 7) (a : BitVec 7) (w : BitVec 2) (m : BitVec 2) (n : Bool) (s : State) : Outcome :=
  unary s 4 d.toNat a.toNat w.toNat n fun x => ofFp (Fp.roundIntegral Fp.f32 (Fp.Mode.ofCode m.toNat) x.toNat)

/-- Writes the correctly rounded f64 reciprocal (R69). -/
def execRcpF64 (d : BitVec 7) (a : BitVec 7) (w : BitVec 2) (n : Bool) (s : State) : Outcome :=
  unary64 s 4 d.toNat a.toNat w.toNat n fun x => ofFp (Fp.rcp Fp.f64 x.toNat)

/-- Writes the correctly rounded f64 square root (R69). -/
def execSqrtF64 (d : BitVec 7) (a : BitVec 7) (w : BitVec 2) (n : Bool) (s : State) : Outcome :=
  unary64 s 4 d.toNat a.toNat w.toNat n fun x => ofFp (Fp.sqrt Fp.f64 x.toNat)

/-! ## Compact forms (R33): each has the effect of its 32-bit equivalent -/

/-- Compact two-address add.i32 (R33). -/
def execAddI32Compact (d : BitVec 6) (a : BitVec 5) (s : State) : Outcome :=
  alu2 s 2 d.toNat d.toNat (compactCode a) 0 false opAddI32

/-- Compact two-address sub.i32 (R33). -/
def execSubI32Compact (d : BitVec 6) (a : BitVec 5) (s : State) : Outcome :=
  alu2 s 2 d.toNat d.toNat (compactCode a) 0 false opSubI32

/-- Compact two-address mullo.i32 (R33). -/
def execMulloI32Compact (d : BitVec 6) (a : BitVec 5) (s : State) : Outcome :=
  alu2 s 2 d.toNat d.toNat (compactCode a) 0 false opMulloI32

/-- Compact two-address and (R33). -/
def execAndCompact (d : BitVec 6) (a : BitVec 5) (s : State) : Outcome :=
  alu2 s 2 d.toNat d.toNat (compactCode a) 0 false opAnd

/-- Compact two-address or (R33). -/
def execOrCompact (d : BitVec 6) (a : BitVec 5) (s : State) : Outcome :=
  alu2 s 2 d.toNat d.toNat (compactCode a) 0 false opOr

/-- Compact two-address xor (R33). -/
def execXorCompact (d : BitVec 6) (a : BitVec 5) (s : State) : Outcome :=
  alu2 s 2 d.toNat d.toNat (compactCode a) 0 false opXor

/-- Compact two-address shl (R33). -/
def execShlCompact (d : BitVec 6) (a : BitVec 5) (s : State) : Outcome :=
  alu2 s 2 d.toNat d.toNat (compactCode a) 0 false opShl

/-- Compact two-address logical shr (R33). -/
def execShrCompact (d : BitVec 6) (a : BitVec 5) (s : State) : Outcome :=
  alu2 s 2 d.toNat d.toNat (compactCode a) 0 false opShr

/-- Compact two-address add.f32 (R33). -/
def execAddF32Compact (d : BitVec 6) (a : BitVec 5) (s : State) : Outcome :=
  alu2 s 2 d.toNat d.toNat (compactCode a) 0 false opAddF32

/-- Compact two-address sub.f32 (R33). -/
def execSubF32Compact (d : BitVec 6) (a : BitVec 5) (s : State) : Outcome :=
  alu2 s 2 d.toNat d.toNat (compactCode a) 0 false opSubF32

/-- Compact two-address mul.f32 (R33). -/
def execMulF32Compact (d : BitVec 6) (a : BitVec 5) (s : State) : Outcome :=
  alu2 s 2 d.toNat d.toNat (compactCode a) 0 false opMulF32

/-- Compact two-address max.f32 (R33). -/
def execMaxF32Compact (d : BitVec 6) (a : BitVec 5) (s : State) : Outcome :=
  alu2 s 2 d.toNat d.toNat (compactCode a) 0 false opMaxF32

/-- Compact two-address min.f32 (R33). -/
def execMinF32Compact (d : BitVec 6) (a : BitVec 5) (s : State) : Outcome :=
  alu2 s 2 d.toNat d.toNat (compactCode a) 0 false opMinF32

/-- Compact form of mov (R33). -/
def execMovCompact (d : BitVec 6) (a : BitVec 5) (s : State) : Outcome :=
  unary s 2 d.toNat (compactCode a) 0 false plain

/-- Compact addi with a signed 5-bit immediate (R33). -/
def execAddiCompact (d : BitVec 6) (i : BitVec 5) (s : State) : Outcome :=
  addiForm 2 (i.signExtend 32) (d.setWidth 7) (d.setWidth 7) false s

end Sys2Proof.Machine
end

