-- ==== Sys2Proof/Machine/Narrow.lean ====
section
/-! DEFINITION. Narrow formats (R45 to R49): descriptors, saturation, decoding and packing. -/

namespace Sys2Proof.Narrow

open Sys2Proof.Fp

/-- The fields of a descriptor (R45). -/
structure Desc where
  sz : Nat
  e : Nat
  m : Nat
  sp : Nat
  badj : Int
  deriving DecidableEq, Repr

def Desc.of (d : Half) : Desc :=
  { sz := fld d 14 2, e := fld d 11 3, m := fld d 8 3, sp := fld d 6 2
    badj := (BitVec.ofNat 6 (fld d 0 6)).toInt }

def Desc.signed (d : Desc) : Nat := if d.sz == 0 then 0 else 1
/-- the width T of an element -/
def Desc.width (d : Desc) : Nat := d.signed + d.e + d.m
def Desc.bias (d : Desc) : Int := if d.e == 0 then d.badj else 2 ^ (d.e - 1) - 1 + d.badj

/-- The five conditions of R45. -/
def Desc.legal (d : Desc) : Bool :=
  d.sz != 3 && 1 ≤ d.width && d.width ≤ 8 && ((d.sp == 3) == (d.e == 0)) && !(d.sp == 3 && d.sz == 2)
    && (d.sp != 0 || 2 ≤ d.e)

def legal (d : Half) : Bool := (Desc.of d).legal

/-- The magnitude encoding of the largest finite value (R46). -/
def Desc.maxMag (d : Desc) : Nat :=
  match d.sp with
  | 0 => (2 ^ d.e - 1) * 2 ^ d.m - 1
  | 1 => 2 ^ (d.e + d.m) - 2
  | 2 => 2 ^ (d.e + d.m) - 1
  | _ => 2 ^ d.m - 1

/-- The canonical NaN of the format, if it has one (R46). -/
def Desc.nan (d : Desc) : Option Nat :=
  let ones := 2 ^ (d.e + d.m) - 1
  if (d.sp == 0 && d.m != 0) || d.sp == 1 then some ones
  else if d.sz == 2 then some (2 ^ (d.width - 1))
  else none

def Desc.withSign (d : Desc) (s : Bool) (mag : Nat) : Nat :=
  if s && d.signed == 1 then 2 ^ (d.width - 1) + mag else mag

/-- The exact value of an encoding of a legal format (R46). -/
def Desc.value (d : Desc) (x0 : Nat) : Val :=
  let x := x0 % 2 ^ d.width
  let s := d.signed == 1 && x / 2 ^ (d.width - 1) % 2 == 1
  let e := x / 2 ^ d.m % 2 ^ d.e
  let f := x % 2 ^ d.m
  if d.sp == 3 then
    if s then .fin true (2 ^ d.m - f) (-d.bias) else .fin false f (-d.bias)
  else if d.sz == 2 && x == 2 ^ (d.width - 1) then .nan false
  else if d.sp == 0 && e == 2 ^ d.e - 1 then
    if f == 0 then .inf s else .nan false
  else if d.sp == 1 && e == 2 ^ d.e - 1 && f == 2 ^ d.m - 1 then .nan false
  else if e == 0 then .fin s f (1 - d.bias - d.m)
  else .fin s (2 ^ d.m + f) ((e : Int) - d.bias - d.m)

/-- The f32 of an element (R48): exact, a NaN gives 0x7FC0_0000. -/
def Desc.toF32 (d : Desc) (x : Nat) : Nat := (roundVal f32 .ne (d.value x)).1

/-- A magnitude m × 2^e rounded to nearest even at M bits: its magnitude encoding, unbounded above, and whether a rest was
rounded away. A tie goes to the even encoding, which for M = 0 is that of an even exponent field (log entry 11). -/
def Desc.roundMag (d : Desc) (m : Nat) (e : Int) : Nat × Bool :=
  if m == 0 then (0, false)
  else
    let qmin : Int := if d.sp == 3 then -d.bias else 1 - d.bias - d.m
    let q := if d.sp == 3 then qmin else max qmin (Nat.log2 m + e - d.m)
    let sh := (q - e).toNat
    let n0 := if q ≤ e then m * 2 ^ (e - q).toNat else m / 2 ^ sh
    let rem := if q ≤ e then 0 else m % 2 ^ sh
    let code := (q - qmin).toNat * 2 ^ d.m + n0
    (if roundUp .ne false code rem sh then code + 1 else code, rem != 0)

/-- sat_fmt for a legal descriptor, from a value (R47), by the first row that applies. -/
def Desc.sat (d : Desc) (x : Val) : Nat × Flags :=
  match x with
  | .nan sg =>
    match d.nan with
    | some n => (n, if sg then invalid else 0)
    | none => (0, invalid)
  | .inf s =>
    if d.sp == 0 then
      if d.sz == 0 && s then (0, invalid) else (d.withSign s (d.maxMag + 1), 0)
    else if d.sp == 1 then (d.nan.getD 0, invalid)
    else if d.sz == 0 && s then (0, invalid)
    else if d.sp == 3 && s then ((2 ^ d.width - d.maxMag) % 2 ^ d.width, invalid)
    else (d.withSign s d.maxMag, invalid)
  | .fin s m e =>
    let r := d.roundMag m e
    let ix : Flags := if r.2 then inexact else 0
    if s && d.sz == 0 then
      if m == 0 then (0, 0)
      else if r.1 != 0 then (0, invalid)
      else (0, inexact ||| (if d.sp == 3 then 0 else underflow))
    else if d.sp == 3 then
      if s then
        if 2 ^ d.m < r.1 then (2 ^ d.m, overflow ||| inexact)
        else ((2 ^ d.width - r.1) % 2 ^ d.width, ix)
      else if d.maxMag < r.1 then (d.maxMag, overflow ||| inexact)
      else (r.1, ix)
    else
      let beyond := d.maxMag < r.1
      let mag := if beyond then (if d.sp == 0 then d.maxMag + 1 else d.maxMag) else r.1
      let fl : Flags := if beyond then overflow ||| inexact else ix
      let tiny : Flags := if (r.2 || beyond) && mag < 2 ^ d.m then underflow else 0
      (if mag == 0 then (if s && d.sz == 1 then 2 ^ (d.width - 1) else 0) else d.withSign s mag, fl ||| tiny)

/-- sat_fmt of an f32 (R47); an illegal descriptor encodes 0 with invalid (R48). -/
def satFmt (x : Word) (d : Half) : Nat × Flags :=
  if legal d then (Desc.of d).sat (Fp.decode f32 x.toNat) else (0, invalid)

/-- A narrow element as an f32 (R48); an illegal descriptor decodes to the canonical NaN with invalid. -/
def decodeElem (x : Nat) (d : Half) : Word × Flags :=
  if legal d then (BitVec.ofNat 32 ((Desc.of d).toF32 x), 0) else (BitVec.ofNat 32 f32.nan, invalid)

/-- Bits one element takes in a packed word or in memory (R49): 8, or 4 for widths 1 to 4. -/
def Desc.cell (d : Desc) : Nat := if d.width ≤ 4 then 4 else 8

/-- pack.nx (R72): four f32 values, element 0 first. -/
def pack (d : Half) (xs : List Word) : Word × Flags :=
  if legal d then
    let c := (Desc.of d).cell
    let r := xs.map fun x => satFmt x d
    (BitVec.ofNat 32 (r.foldr (fun e acc => acc * 2 ^ c + e.1) 0), r.foldl (fun f e => f ||| e.2) 0)
  else (0, invalid)

/-- Element i of a packed word, decoded (R72). -/
def unpack (d : Half) (w : Word) (i : Nat) : Word × Flags :=
  let c := (Desc.of d).cell
  decodeElem (bitsOf w.toNat (c * i) c) d

end Sys2Proof.Narrow
end

