-- ==== Sys2Proof/Machine/Mask.lean ====
section
/-! DEFINITION. Flag reads, narrow packing, conversion, compares, masks, select, exchange, reductions and the prefixes
(R30 to R32, R54 to R56, R71 to R78). -/

namespace Sys2Proof.Machine

/-! ## Flags and narrow formats (R71, R72) -/

/-- Writes fsr[4:0] of the lane (R71). -/
def execFsrGet (d : BitVec 7) (n : Bool) (s : State) : Outcome :=
  laneOp s 4 d.toNat 1 1 n [] fun g _ _ l => plain ((g.flags l).setWidth 32)

/-- Writes fsr[4:0], then clears each flag whose bit is set in a[4:0] (R71). -/
def execFsrClr (d : BitVec 7) (a : BitVec 7) (n : Bool) (s : State) : Outcome :=
  laneInstr s { len := 4, dst := (d.toNat, 1), srcs := [(a.toNat, 1)] } fun gid fr s reader =>
    modGroup s gid fun g =>
      let x := laneEffect g reader d.toNat 1 1 n fun _ l => plain ((g.flags l).setWidth 32)
      g.lanes.foldl (fun x l => x.setFlags l (g.flags l &&& ~~~((src g fr a.toNat 0 l).setWidth 5))) x

/-- Packs four f32 values into a narrow format (R72). -/
def execPackNx (d : BitVec 7) (a : BitVec 7) (n : Bool) (f : BitVec 3) (s : State) : Outcome :=
  laneOp s 4 d.toNat 1 1 n [(a.toNat, 4)] fun g fr _ l =>
    ofPacked (Narrow.pack (g.fmtReg f.toNat) ((List.range 4).map fun i => src g fr a.toNat i l))

/-- Decodes four elements of a narrow format (R72); the destination run has four registers. -/
def execUnpackNx (d : BitVec 7) (a : BitVec 7) (n : Bool) (f : BitVec 3) (s : State) : Outcome :=
  laneOp s 4 d.toNat 1 4 n [(a.toNat, 1)] fun g fr i l =>
    ofPacked (Narrow.unpack (g.fmtReg f.toNat) (src g fr a.toNat 0 l) i)

/-! ## Conversion (R54): `y` is the destination type, `z` the source type -/

/-- Registers of one element of a type (R54). -/
def typeUnit (t : BitVec 4) : Nat := if t.toNat % 4 == 3 then 2 else 1

/-- Converts each element from the source type to the destination type (R54, R55). -/
def execCvt (d : BitVec 7) (a : BitVec 7) (w : BitVec 2) (y : BitVec 4) (z : BitVec 4) (n : Bool) (s : State) : Outcome :=
  laneOp s 4 d.toNat (typeUnit y) (2 ^ w.toNat) n [(a.toNat, typeUnit z * 2 ^ w.toNat)] fun g fr i l =>
    convert z.toNat y.toNat
      (if typeUnit z == 2 then src64 g a.toNat i l else (src g fr a.toNat i l).setWidth 64)

/-! ## Compare (R73) -/

/-- Compares A with B in each active lane into a mask register (R73). -/
def execCmp (k : BitVec 3) (a : BitVec 7) (b : BitVec 7) (c : BitVec 4) (t : BitVec 2) (s : State) : Outcome :=
  let unit := if t.toNat == 3 then 2 else 1
  laneInstr s { len := 4, dst := (124, 1), srcs := [(a.toNat, unit), (b.toNat, unit)] } fun gid fr s reader =>
    modGroup s gid fun g =>
      let operand := fun (x : BitVec 7) l => if unit == 2 then src64 g x.toNat 0 l else (src g fr x.toNat 0 l).setWidth 64
      let r := fun l => compare t.toNat c.toNat (operand a l) (operand b l)
      let x := g.setK k.toNat (maskOf fun l => g.active l && (r l).1)
      laneEffect x reader 0 1 1 true fun _ l => ((boolWord (r l).1).setWidth 64, (r l).2)

/-! ## Masks (R74) -/

/-- A source of the mask space (R38): k0 to k7, em, or the low word of s(c − 64). -/
def maskSrc (g : Group) (c : Nat) : Word :=
  if c ≤ 7 then g.kreg c else if c == 8 then g.em else (g.sreg (c - 64)).setWidth 32

/-- A destination of the mask space: an s register is written zero-extended. -/
def maskDst (g : Group) (c : Nat) (x : Word) : Group :=
  if c ≤ 7 then g.setK c x else if c == 8 then { g with em := x } else g.setS (c - 64) (x.setWidth 64)

def maskOp (s : State) (d a b : BitVec 7) (op : Word → Word → Word) : Outcome :=
  scalarOp s fun gid s => modGroup s gid fun g => maskDst g d.toNat (op (maskSrc g a.toNat) (maskSrc g b.toNat))

/-- a and b (R74). -/
def execKand (d : BitVec 7) (a : BitVec 7) (b : BitVec 7) (s : State) : Outcome := maskOp s d a b fun x y => x &&& y
/-- a or b (R74). -/
def execKor (d : BitVec 7) (a : BitVec 7) (b : BitVec 7) (s : State) : Outcome := maskOp s d a b fun x y => x ||| y
/-- a xor b (R74). -/
def execKxor (d : BitVec 7) (a : BitVec 7) (b : BitVec 7) (s : State) : Outcome := maskOp s d a b fun x y => x ^^^ y
/-- not a (R74). -/
def execKnot (d : BitVec 7) (a : BitVec 7) (s : State) : Outcome := maskOp s d a 0 fun x _ => ~~~x
/-- a (R74). -/
def execKmov (d : BitVec 7) (a : BitVec 7) (s : State) : Outcome := maskOp s d a 0 fun x _ => x
/-- The number of set bits (R74). -/
def execKpop (d : BitVec 7) (a : BitVec 7) (s : State) : Outcome := maskOp s d a 0 fun x _ => popcount x
/-- The index of the lowest set bit; 32 for none (R74). -/
def execKfirst (d : BitVec 7) (a : BitVec 7) (s : State) : Outcome := maskOp s d a 0 fun x _ => countTrailing x

/-! ## Select and exchange (R75, R76) -/

/-- a where the lane's bit of kN is 1, else b (R75). -/
def execSel (d : BitVec 7) (k : BitVec 3) (a : BitVec 7) (b : BitVec 7) (s : State) : Outcome :=
  laneOp s 4 d.toNat 1 1 false [(a.toNat, 1), (b.toNat, 1)] fun g fr _ l =>
    plain (if (g.kreg k.toNat).getLsbD l then src g fr a.toNat 0 l else src g fr b.toNat 0 l)

/-- An exchange: `from` gives the source lane from the lane and the value of B; out of range a lane receives its own a. -/
def shuffle (s : State) (d a b : BitVec 7) (source : Nat → Nat → Option Nat) : Outcome :=
  laneOp s 4 d.toNat 1 1 false [(a.toNat, 1), (b.toNat, 1)] fun g fr _ l =>
    let t := (source l (src g fr b.toNat 0 l).toNat).getD l
    plain (src g fr a.toNat 0 t)

/-- A lane number, where it is one. -/
def laneIn (t : Nat) : Option Nat := if t ≤ 31 then some t else none

/-- From lane b[l] (R76). -/
def execShfIdx (d : BitVec 7) (a : BitVec 7) (b : BitVec 7) (s : State) : Outcome := shuffle s d a b fun _ n => laneIn n
/-- From lane l − b[l] (R76). -/
def execShfUp (d : BitVec 7) (a : BitVec 7) (b : BitVec 7) (s : State) : Outcome :=
  shuffle s d a b fun l n => if l < n then none else some (l - n)
/-- From lane l + b[l] (R76). -/
def execShfDown (d : BitVec 7) (a : BitVec 7) (b : BitVec 7) (s : State) : Outcome := shuffle s d a b fun l n => laneIn (l + n)
/-- From lane l xor b[l] (R76). -/
def execShfXor (d : BitVec 7) (a : BitVec 7) (b : BitVec 7) (s : State) : Outcome :=
  shuffle s d a b fun l n => if 31 < n then none else some (l ^^^ n)
/-- From the lane that B names (R76). -/
def execBcast (d : BitVec 7) (a : BitVec 7) (b : BitVec 7) (s : State) : Outcome := shuffle s d a b fun _ n => laneIn n

/-- Bit l of kd is 1 when lane l is active and a[l] ≠ 0 (R77). -/
def execVote (d : BitVec 3) (a : BitVec 7) (s : State) : Outcome :=
  laneInstr s { len := 4, dst := (124, 1), srcs := [(a.toNat, 1)] } fun gid fr s reader =>
    modGroup s gid fun g =>
      let r := fun l => src g fr a.toNat 0 l != 0
      let x := g.setK d.toNat (maskOf fun l => g.active l && r l)
      laneEffect x reader 0 1 1 true fun _ l => plain (boolWord (r l))

/-! ## Reductions (R56, R78) -/

/-- One level of the tree of R56: nodes 2i and 2i + 1 combine, an absent node passes its sibling through. -/
def pairUp (op : Word → Word → Res) : List (Option Word) → List (Option Word) × Fp.Flags
  | x :: y :: r =>
    let (rest, fl) := pairUp op r
    match x, y with
    | some a, some b => (some ((op a b).1.setWidth 32) :: rest, fl ||| (op a b).2)
    | some a, none => (some a :: rest, fl)
    | none, y => (y :: rest, fl)
  | r => (r, 0)

/-- The tree of R56 over 32 lanes, five levels. -/
def reduceTree (op : Word → Word → Res) (leaves : List (Option Word)) : Option Word × Fp.Flags :=
  let step := fun (x : List (Option Word) × Fp.Flags) =>
    let y := pairUp op x.1
    (y.1, x.2 ||| y.2)
  let r := step (step (step (step (step (leaves, 0)))))
  (r.1.headD none, r.2)

/-- A reduction of the active lanes' A into an s register; `empty` with no active lane (R56, R78). -/
def reduce (s : State) (d : BitVec 6) (a : BitVec 7) (empty : Word) (op : Word → Word → Res) : Outcome :=
  laneInstr s { len := 4, dst := (124, 1), srcs := [(a.toNat, 1)] } fun gid fr s reader =>
    modGroup s gid fun g =>
      let r := reduceTree op ((List.range 32).map fun l => if g.active l then some (src g fr a.toNat 0 l) else none)
      let x := g.setS d.toNat ((r.1.getD empty).setWidth 64)
      let x := g.lanes.foldl (fun x l => x.setFlags l (x.flags l ||| r.2)) x
      { x with latch := pushLatch g reader none }

/-- The wrapping sum of the active lanes (R56, R78). -/
def execRedAddI32 (d : BitVec 6) (a : BitVec 7) (s : State) : Outcome := reduce s d a 0 opAddI32
/-- The sum of the active lanes, rounded at each node (R56, R78). -/
def execRedAddF32 (d : BitVec 6) (a : BitVec 7) (s : State) : Outcome := reduce s d a 0 opAddF32
/-- The least of the active lanes, signed (R56, R78). -/
def execRedMinI32 (d : BitVec 6) (a : BitVec 7) (s : State) : Outcome := reduce s d a 0x7FFFFFFF opMinI32
/-- The least of the active lanes (R56, R78). -/
def execRedMinF32 (d : BitVec 6) (a : BitVec 7) (s : State) : Outcome := reduce s d a 0x7F800000 opMinF32
/-- The greatest of the active lanes, signed (R56, R78). -/
def execRedMaxI32 (d : BitVec 6) (a : BitVec 7) (s : State) : Outcome := reduce s d a 0x80000000 opMaxI32
/-- The greatest of the active lanes (R56, R78). -/
def execRedMaxF32 (d : BitVec 6) (a : BitVec 7) (s : State) : Outcome := reduce s d a 0xFF800000 opMaxF32

/-! ## Prefixes (R30 to R32): the prefix and its successor issue as one unit -/

/-- An I-format instruction under imx with immediate bits [31:8] (R31). -/
def immForm (p : BitVec 24) : Instr → Option (State → Outcome)
  | .set d i n => some (setForm 8 (p ++ i) d n)
  | .addi d a i n => some (addiForm 8 (p ++ i) d a n)
  | .muli d a i n => some (muliForm 8 (p ++ i) d a n)
  | .andi d a i n => some (andiForm 8 (p ++ i) d a n)
  | .ori d a i n => some (oriForm 8 (p ++ i) d a n)
  | .xori d a i n => some (xoriForm 8 (p ++ i) d a n)
  | .shli d a i n => some (shliForm 8 (p ++ i) d a n)
  | .shri d a i n => some (shriForm 8 (p ++ i) d a n)
  | .sari d a i n => some (sariForm 8 (p ++ i) d a n)
  | .rsbi d a i n => some (rsbiForm 8 (p ++ i) d a n)
  | .mini d a i n => some (miniForm 8 (p ++ i) d a n)
  | .maxi d a i n => some (maxiForm 8 (p ++ i) d a n)
  | .setiF32 d i n => some (setiF32Form 8 (p ++ i) d n)
  | .addiF32 d a i n => some (addiF32Form 8 (p ++ i) d a n)
  | .muliF32 d a i n => some (muliF32Form 8 (p ++ i) d a n)
  | _ => none

/-- Whether an addend code is legal beside a run of `unit` registers (R24, R26, R32). -/
def addendOk (unit : Nat) (c : BitVec 7) (w : BitVec 2) : Bool := if unit == 2 then Legal.src64 w c else Legal.src w c

/-- A multiply-add under the addend prefix with code C7 (R32). -/
def addendForm (c : BitVec 7) : Instr → Option (State → Outcome)
  | .madI32 d a b w n => if addendOk 1 c w then some (madI32Form 8 (some c.toNat) d a b w n) else none
  | .fmaF32 d a b w n => if addendOk 1 c w then some (fmaF32Form 8 (some c.toNat) d a b w n) else none
  | .fmaF64 d a b w n => if addendOk 2 c w then some (fmaF64Form 8 (some c.toNat) d a b w n) else none
  | .fmaF16x2 d a b w n => if addendOk 1 c w then some (fmaF16x2Form 8 (some c.toNat) d a b w n) else none
  | .fmaBf16x2 d a b w n => if addendOk 1 c w then some (fmaBf16x2Form 8 (some c.toNat) d a b w n) else none
  | _ => none

/-- Extends the successor's immediate to 32 bits and executes it (R30, R31). -/
def execImx (p : BitVec 24) (s : State) : Outcome := withSuccessor s (immForm p)

/-- Gives the successor a third source and executes it (R30, R32). -/
def execAddendPrefix (c : BitVec 7) (s : State) : Outcome := withSuccessor s (addendForm c)

end Sys2Proof.Machine
end

