-- ==== Sys2Proof/Machine/Uniform.lean ====
section
/-! DEFINITION. Uniform operations, control flow, user traps (R80 to R91). -/

namespace Sys2Proof.Machine

/-! ## Uniform arithmetic and compares (R81) -/

/-- s[D6] := op (s[A6], b), where b is IMM6 sign-extended or s[B6] (R20, R81). -/
def uniform2 (s : State) (d a b : BitVec 6) (i : Bool) (op : DWord → DWord → DWord) : Outcome :=
  scalarOp s fun gid s => modGroup s gid fun g => g.setS d.toNat (op (g.sreg a.toNat) (uniformB g b i))

/-- Adds two 64-bit uniform values (R81). -/
def execSadd (d : BitVec 6) (a : BitVec 6) (b : BitVec 6) (i : Bool) (s : State) : Outcome :=
  uniform2 s d a b i fun x y => x + y

/-- Subtracts two 64-bit uniform values (R81). -/
def execSsub (d : BitVec 6) (a : BitVec 6) (b : BitVec 6) (i : Bool) (s : State) : Outcome :=
  uniform2 s d a b i fun x y => x - y

/-- Writes the low 64 bits of a uniform product (R81). -/
def execSmul (d : BitVec 6) (a : BitVec 6) (b : BitVec 6) (i : Bool) (s : State) : Outcome :=
  uniform2 s d a b i fun x y => x * y

/-- Ands two uniform values (R81). -/
def execSand (d : BitVec 6) (a : BitVec 6) (b : BitVec 6) (i : Bool) (s : State) : Outcome :=
  uniform2 s d a b i fun x y => x &&& y

/-- Ors two uniform values (R81). -/
def execSor (d : BitVec 6) (a : BitVec 6) (b : BitVec 6) (i : Bool) (s : State) : Outcome :=
  uniform2 s d a b i fun x y => x ||| y

/-- Xors two uniform values (R81). -/
def execSxor (d : BitVec 6) (a : BitVec 6) (b : BitVec 6) (i : Bool) (s : State) : Outcome :=
  uniform2 s d a b i fun x y => x ^^^ y

/-- Shifts a uniform value left (R81). -/
def execSshl (d : BitVec 6) (a : BitVec 6) (b : BitVec 6) (i : Bool) (s : State) : Outcome :=
  uniform2 s d a b i fun x y => shlD x y.toNat

/-- Shifts a uniform value right logically (R81). -/
def execSshr (d : BitVec 6) (a : BitVec 6) (b : BitVec 6) (i : Bool) (s : State) : Outcome :=
  uniform2 s d a b i fun x y => shrD x y.toNat

/-- Copies a uniform register or immediate into a uniform register (R81). -/
def execSmov (d : BitVec 6) (b : BitVec 6) (i : Bool) (s : State) : Outcome :=
  uniform2 s d 0 b i fun _ y => y

/-- Writes 1 if two uniform values are equal (R81). -/
def execScmpEq (d : BitVec 6) (a : BitVec 6) (b : BitVec 6) (i : Bool) (s : State) : Outcome :=
  uniform2 s d a b i fun x y => if x == y then 1 else 0

/-- Writes 1 if two uniform values differ (R81). -/
def execScmpNe (d : BitVec 6) (a : BitVec 6) (b : BitVec 6) (i : Bool) (s : State) : Outcome :=
  uniform2 s d a b i fun x y => if x != y then 1 else 0

/-- Signed less-than compare of uniform values (R81). -/
def execScmpLtI64 (d : BitVec 6) (a : BitVec 6) (b : BitVec 6) (i : Bool) (s : State) : Outcome :=
  uniform2 s d a b i fun x y => if x.slt y then 1 else 0

/-- Signed less-or-equal compare of uniform values (R81). -/
def execScmpLeI64 (d : BitVec 6) (a : BitVec 6) (b : BitVec 6) (i : Bool) (s : State) : Outcome :=
  uniform2 s d a b i fun x y => if x.sle y then 1 else 0

/-- Signed greater-than compare of uniform values (R81). -/
def execScmpGtI64 (d : BitVec 6) (a : BitVec 6) (b : BitVec 6) (i : Bool) (s : State) : Outcome :=
  uniform2 s d a b i fun x y => if y.slt x then 1 else 0

/-- Signed greater-or-equal compare of uniform values (R81). -/
def execScmpGeI64 (d : BitVec 6) (a : BitVec 6) (b : BitVec 6) (i : Bool) (s : State) : Outcome :=
  uniform2 s d a b i fun x y => if y.sle x then 1 else 0

/-- Unsigned less-than compare of uniform values (R81). -/
def execScmpLtN64 (d : BitVec 6) (a : BitVec 6) (b : BitVec 6) (i : Bool) (s : State) : Outcome :=
  uniform2 s d a b i fun x y => if x.ult y then 1 else 0

/-- Unsigned less-or-equal compare of uniform values (R81). -/
def execScmpLeN64 (d : BitVec 6) (a : BitVec 6) (b : BitVec 6) (i : Bool) (s : State) : Outcome :=
  uniform2 s d a b i fun x y => if x.ule y then 1 else 0

/-- Unsigned greater-than compare of uniform values (R81). -/
def execScmpGtN64 (d : BitVec 6) (a : BitVec 6) (b : BitVec 6) (i : Bool) (s : State) : Outcome :=
  uniform2 s d a b i fun x y => if y.ult x then 1 else 0

/-- Unsigned greater-or-equal compare of uniform values (R81). -/
def execScmpGeN64 (d : BitVec 6) (a : BitVec 6) (b : BitVec 6) (i : Bool) (s : State) : Outcome :=
  uniform2 s d a b i fun x y => if y.ule x then 1 else 0

/-! ## Identifiers, single values, format registers (R84 to R86) -/

/-- The identifier of a code (R16, R84). -/
def identifier (s : State) (gid : Nat) (c : Nat) : DWord :=
  let b := blockOf s gid
  BitVec.ofNat 64 (match c with
    | 0 => b.number
    | 1 => (getGroup s gid).index
    | 2 => b.launch
    | 3 => b.core
    | 4 => dieOfCore b.core
    | _ => s.cycle)

/-- Writes the identifier of a code (R84). -/
def execSid (d : BitVec 6) (c : BitVec 6) (s : State) : Outcome :=
  scalarOp s fun gid s => modGroup s gid fun g => g.setS d.toNat (identifier s gid c.toNat)

/-- A uniform instruction that names a lane register: the declared count is checked (R22, R85). -/
def laneScalar (s : State) (r : Nat) (f : Nat → State → State) : Outcome :=
  withGroup s fun gid =>
    if r < (blockOf s gid).regs then advance (f gid (endChain s gid)) gid 4 else raise s gid 0

/-- The lane that IMM6 or s[B6] mod 32 names (R85). -/
def laneOperand (g : Group) (b : BitVec 6) (i : Bool) : Nat := if i then b.toNat else (g.sreg b.toNat).toNat % 32

/-- s[D6] := v[A6] of one lane, zero-extended (R85). -/
def execVget (d : BitVec 6) (a : BitVec 6) (b : BitVec 6) (i : Bool) (s : State) : Outcome :=
  laneScalar s a.toNat fun gid s => modGroup s gid fun g =>
    g.setS d.toNat ((g.vreg a.toNat (laneOperand g b i)).setWidth 64)

/-- v[D6] of one lane := the low word of s[A6], if that lane is active (R85). -/
def execVput (d : BitVec 6) (a : BitVec 6) (b : BitVec 6) (i : Bool) (s : State) : Outcome :=
  laneScalar s d.toNat fun gid s => modGroup s gid fun g =>
    let l := laneOperand g b i
    if g.active l then g.setV d.toNat l ((g.sreg a.toNat).setWidth 32) else g

/-- fmtN := s[A6][15:0] (R86). -/
def execFmtSet (d : BitVec 3) (a : BitVec 6) (s : State) : Outcome :=
  scalarOp s fun gid s => modGroup s gid fun g => g.setFmt d.toNat ((g.sreg a.toNat).setWidth 16)

/-- s[D6] := fmtN, zero-extended (R86). -/
def execFmtGet (d : BitVec 6) (a : BitVec 3) (s : State) : Outcome :=
  scalarOp s fun gid s => modGroup s gid fun g => g.setS d.toNat ((g.fmtReg a.toNat).setWidth 64)

/-! ## Branches, calls, jumps (R87, R88) -/

/-- a + 2 × DISP19 (R20). -/
def displaced (a : DWord) (d : BitVec 19) : DWord := a + d.signExtend 64 * 2

/-- A branch: to its target when the condition holds, else to a + 4; trap 2 for a target beyond 2^56 (R88). -/
def branch (s : State) (d : BitVec 19) (cond : Group → Bool) : Outcome :=
  withGroup s fun gid =>
    let g := getGroup s gid
    let t := displaced g.pc d
    if cond g && (bitAt t.toNat 0 || 2 ^ 56 ≤ t.toNat) then raise s gid 2 t.toNat
    else modGroup s gid fun g => { g with latch := {}, pc := if cond g then t else g.pc + 4 }

/-- Branches unconditionally (R88). -/
def execBra (d : BitVec 19) (s : State) : Outcome :=
  branch s d fun _ => true

/-- Branches if any active lane is set in the mask register (R88). -/
def execBany (d : BitVec 19) (k : BitVec 3) (s : State) : Outcome :=
  branch s d fun g => g.kreg k.toNat &&& g.em != 0

/-- Branches if every active lane is set in the mask register (R88). -/
def execBall (d : BitVec 19) (k : BitVec 3) (s : State) : Outcome :=
  branch s d fun g => g.kreg k.toNat &&& g.em == g.em

/-- Branches if no active lane is set in the mask register (R88). -/
def execBnone (d : BitVec 19) (k : BitVec 3) (s : State) : Outcome :=
  branch s d fun g => g.kreg k.toNat &&& g.em == 0

/-- Branches if a uniform register is zero (R88). -/
def execBz (d : BitVec 19) (k : BitVec 3) (s : State) : Outcome :=
  branch s d fun g => g.sreg k.toNat == 0

/-- Branches if a uniform register is nonzero (R88). -/
def execBnz (d : BitVec 19) (k : BitVec 3) (s : State) : Outcome :=
  branch s d fun g => g.sreg k.toNat != 0

/-- s(56 + K) := a + 4; pc := target; trap 2 for a target beyond 2^56, with nothing changed (R88). -/
def execCall (d : BitVec 19) (k : BitVec 3) (s : State) : Outcome :=
  withGroup s fun gid =>
    let t := displaced (getGroup s gid).pc d
    if bitAt t.toNat 0 || 2 ^ 56 ≤ t.toNat then raise s gid 2 t.toNat
    else modGroup s gid fun g =>
      let x := g.setS (56 + k.toNat) (g.pc + 4)
      { x with latch := {}, pc := t }

/-- A jump to a register's target, with s63 as link when `link`; trap 2 for an odd target or one beyond 2^56, with nothing
changed (R88). -/
def jump (s : State) (t : Group → DWord) (link : Bool) : Outcome :=
  withGroup s fun gid =>
    let g := getGroup s gid
    if bitAt (t g).toNat 0 || 2 ^ 56 ≤ (t g).toNat then raise s gid 2 (t g).toNat
    else modGroup s gid fun g =>
      let x := if link then g.setS 63 (g.pc + 4) else g
      { x with latch := {}, pc := t g }

/-- pc := s(56 + K) (R87, R88). -/
def execRet (k : BitVec 3) (s : State) : Outcome := jump s (fun g => g.sreg (56 + k.toNat)) false
/-- pc := s(56 + K) + 2 × DISP19 (R87, R88). -/
def execJmp (d : BitVec 19) (k : BitVec 3) (s : State) : Outcome := jump s (fun g => displaced (g.sreg (56 + k.toNat)) d) false
/-- jmp with the return address in s63 (R87, R88). -/
def execJmpL (d : BitVec 19) (k : BitVec 3) (s : State) : Outcome := jump s (fun g => displaced (g.sreg (56 + k.toNat)) d) true

/-! ## nop, user trap, breakpoint (R34, R91) -/

/-- Changes no state but the program counter (R34); it reads and pushes no latch, so a chain before it ends (R27). -/
def execNop (s : State) : Outcome := withGroup s fun gid => advance (endChain s gid) gid 2

/-- Raises trap 13 with code n after the instruction (R91). -/
def execTrap (n : BitVec 6) (s : State) : Outcome := withGroup s fun gid => raiseAfter s gid 13 n.toNat
/-- Raises trap 12 after the instruction (R91). -/
def execBrk (s : State) : Outcome := withGroup s fun gid => raiseAfter s gid 12

end Sys2Proof.Machine
end

