-- ==== Sys2Proof/Machine/Global.lean ====
section
/-! DEFINITION. Global accesses of a group (R105, R107 to R113, R83): locating and checking elements, loads, stores, prefetch,
results coming back. -/

namespace Sys2Proof.Machine

/-! ## Locating and checking (R105, R108, R109) -/

/-- An element of an access: its lane, its number in the run, its virtual address and its offset from the x register's base. -/
structure Elem where
  lane : Nat
  idx : Nat
  va : Nat
  off : Nat
  deriving DecidableEq, Repr

/-- The elements of a run of `cnt` elements of `size` bytes in the active lanes, lane by lane (R108). -/
def elements (g : Group) (x a cnt size : Nat) : List Elem :=
  g.lanes.flatMap fun l => (List.range cnt).map fun i =>
    let off := (src g 0 a 0 l).toNat + i * size
    { lane := l, idx := i, va := (g.xreg x).base.toNat + off, off := off }

/-- The trap of the lanes whose elements failed a check (R109, R330): the lowest failing address of the lowest lane. -/
def laneTrap (s : State) (g num code : Nat) (bad : List Elem) : State :=
  let lanes := maskOf fun l => bad.any fun e => e.lane == l
  let first := bad.foldl (fun (m : Option Elem) e => match m with
    | some f => if e.lane < f.lane || (e.lane == f.lane && e.va < f.va) then some e else some f
    | none => some e) none
  raise s g num ((first.map (·.va)).getD 0) lanes code

/-- Translates one element: by the x register's frame, else through the TLB; a store whose frame is not yet dirty goes through
the TLB and the register learns it (R105). Where the page has another frame by now, the leaf that the register held is discarded (R310). -/
def locate (s : State) (g x size : Nat) (acc : Access) (e : Elem) : State × Except (Nat × Nat) Phys :=
  let xr := (getGroup s g).xreg x
  let framed := e.off + size ≤ xr.limit
  if framed && (acc != .write || bitAt xr.attr 7) then
    let p : Phys := { pa := xr.frame + e.off, attr := xr.attr, shift := xr.shift, page := e.va / 2 ^ xr.shift * 2 ^ xr.shift }
    let ok := match acc with
      | .write => attrW p.attr
      | _ => attrR p.attr
    if ok && runAllowed s p size (acc = .write) then (s, .ok p) else (s, .error (5, 0))
  else
    match translate s (spaceOf s g) e.va acc size with
    | (s, .error k) => (s, .error k)
    | (s, .ok p) =>
      if framed && acc = .write then
        (modGroup s g fun q =>
          let r := q.xreg x
          q.setX x (if p.pa = xr.frame + e.off then { r with attr := r.attr ||| 128 } else r.dropped), .ok p)
      else (s, .ok p)

/-- Locates elements one after another. -/
def locateAll (s : State) (g x size : Nat) (acc : Access) : List Elem → State × List (Elem × Except (Nat × Nat) Phys)
  | [] => (s, [])
  | e :: es =>
    let (s, r) := locate s g x size acc e
    let (s, rs) := locateAll s g x size acc es
    (s, (e, r) :: rs)

/-- Items 1 to 4 of R109 over all elements of all active lanes, `allowed` adding what the instruction asks of a page; then `k`
with the located elements. -/
def checked (s : State) (g x size : Nat) (acc : Access) (allowed : Phys → Bool) (es : List Elem)
    (k : State → List (Elem × Phys) → State) : State :=
  let misaligned := es.filter fun e => e.va % size != 0
  let beyond := es.filter fun e => 2 ^ 56 ≤ e.va + size - 1
  if !misaligned.isEmpty then laneTrap s g 2 0 misaligned
  else if !beyond.isEmpty then laneTrap s g 5 0 beyond
  else
    let (s', rs) := locateAll s g x size acc es
    -- an instruction that traps leaves the dirty attribute of xN alone
    let stopped := modGroup s' g fun q => { q with x := (getGroup s g).x }
    let faults := rs.filterMap fun r => match r.2 with
      | .error (4, c) => some (r.1, c)
      | _ => none
    let denied := rs.filterMap fun r => match r.2 with
      | .ok p => if allowed p then none else some r.1
      | .error (4, _) => none
      | .error _ => some r.1
    match faults with
    | (e0, c0) :: _ =>
      -- the kind reported is that of the lowest faulting address of the lowest lane
      let worst := faults.foldl (fun (m : Elem × Nat) f =>
        if f.1.lane < m.1.lane || (f.1.lane == m.1.lane && f.1.va < m.1.va) then f else m) (e0, c0)
      laneTrap stopped g 4 worst.2 (faults.map (·.1))
    | [] =>
      if !denied.isEmpty then laneTrap stopped g 5 0 denied
      else k s' (rs.filterMap fun r => match r.2 with
        | .ok p => some (r.1, p)
        | .error _ => none)

/-- A memory instruction of formats M and P: declared registers (R22), then its effect. -/
def memInstr (s : State) (runs : List (Nat × Nat)) (f : Nat → State → State) : Outcome :=
  withGroup s fun gid =>
    if runs.all (declared (blockOf s gid).regs) then f gid (endChain s gid) else raise s gid 0

/-- The registers that the elements of a run from `d` on take, as first and count. -/
def runOf {α : Type} (d unit : Nat) (les : List (Elem × α)) : Nat × Nat := (d, unit * (les.foldl (fun n e => max n (e.1.idx + 1)) 0))

/-! ## Loads (R108 to R111) -/

/-- Records what a global access of a group does to the scopes (R101, R121). -/
def touchPage (s : State) (g : Nat) (p : Phys) : State :=
  let s := touchScope s (partOf s g) (ctxOf s g).id (attrScope p.attr) (coreOf s g) p
  modGroup s g fun x => x.widen (attrScope p.attr)

def isDrift (p : Phys) : Bool := attrDE p.attr && attrAE p.attr

/-- An entry that an access of a group sends (R195). -/
def entryOf (s : State) (g : Nat) (p : Phys) (size op : Nat) : Entry :=
  let c := ctxOf s g
  { addr := p.pa, size := size, op := op, part := partOf s g, ctx := c.id, gen := c.gen, table := c.table, groups := [g]
    core := coreOf s g, scope := attrScope p.attr, drift := isDrift p }

/-- The places of an element. -/
def Phys.places (p : Phys) (size : Nat) : List Loc := (Loc.mem p.pa).run size

/-- The value that a load of a group sees (R101, R103, R370): zeros from a window, a free value from a page touched outside its scope. -/
def seenValue (s : State) (g : Nat) (ps : List Loc) : Nat :=
  let head := (ps.head?.bind Loc.pa)
  if head.any inEndpoints then 0
  else if head.any (mixed s) then freeValue s (head.getD 0) ps.length
  else leNat (ps.map (seenByte s g))

/-- Whether a load of an element reads poison, or a die that answers with errors (R109 item 5, R349). -/
def readsPoison (s : State) (g : Nat) (size : Nat) (p : Phys) : Bool :=
  !inEndpoints p.pa && (poisonSeen s g (.mem p.pa) || poisonSeen s g (.mem (p.pa + size - 1)) ||
    answerFor s p.pa (attrScope p.attr) (dieOf s g) = .error)

def heldBack (s : State) (g : Nat) (ps : List Phys) : Bool :=
  ps.any fun p => answerFor s p.pa (attrScope p.attr) (dieOf s g) = .held

/-- A group waits for a host page behind the untrained link (R355): since when, the lanes and the lowest address. -/
def waitHost (s : State) (g : Nat) (lanes : Word) (va : Nat) : State :=
  let since := ((getGroup s g).hostWait.map (·.1)).getD s.cycle
  modGroup s g fun x => { x with status := .waiting, stalled := true, hostWait := some (since, lanes, va) }

/-- Item 5 of R109 over the located elements of a load, and homes that do not answer now (R349, R355); then `k`. -/
def loadChecked (s : State) (g size : Nat) (les : List (Elem × Phys)) (k : State → State) : State :=
  let s := les.foldl (fun s e => if attrAE e.2.attr then meetPoison s e.2.pa size else s) s
  let bad := les.filter fun e => readsPoison s g size e.2
  let host := les.filter fun e => inApertures e.2.pa && !s.linkUp
  if !bad.isEmpty then laneTrap s g 6 0 (bad.map (·.1))
  else if heldBack s g (les.map (·.2)) then waitHere s g
  else if !host.isEmpty then
    waitHost s g (maskOf fun l => host.any fun e => e.1.lane == l) ((host.head?.map fun e => e.1.va).getD 0)
  else k s

/-- Opens a result in flight. An acquire whose result has still to come back holds the group's next instruction (R118). -/
def openResult (s : State) (g : Nat) (acq : Bool) (e : InFlight) : Nat × State :=
  let (k, s) := newId s
  (k, modGroup s g fun x => { x with
    inFlight := kput x.inFlight k { e with addr := x.pc }
    acquires := if acq && 0 < e.awaiting then x.acquires ++ [k] else x.acquires })

/-- Whether an element reaches the landing as an L entry (R195). -/
def viaLanding (p : Phys) : Bool := attrAE p.attr && !inEndpoints p.pa

/-- The number of a store of a core that writes the whole of a poisoned granule: the poison does not count for an entry behind it. -/
def wholeBehind (s : State) (core pa : Nat) : Option Nat :=
  if isPoisoned s (.mem pa) then
    let here := fun (k : Loc × Nat) => if k.1 == .mem (pa / 64) then some k.2 else none
    (((entriesUnderWay s).filter fun e => e.core == core).filterMap Entry.wholeKey ++
      (s.stores.filter fun t => t.core == core).flatMap (·.whole)).reverse.findSome? here
  else none

/-- An L entry of a group's load (R195). -/
def loadEntry (s : State) (g : Nat) (p : Phys) (size : Nat) (ret : List Return) : Entry :=
  { entryOf s g p size 16 with ret := ret, behind := wholeBehind s (coreOf s g) p.pa }

/-- The results of the elements of a load, as keyed registers. -/
def elemRegs (s : State) (g size : Nat) (sgn : Bool) (es : List (Nat × Nat × List Loc)) : KMap Word :=
  es.foldl (fun m e => (valueRegs e.1 e.2.1 size sgn (seenValue s g e.2.2)).foldl (fun m r => kput m r.1 r.2) m) []

/-- Where elements that read the same word put its value: one L entry for each word (R110). -/
def sameWords (es : List (Phys × Return)) : List (Phys × List Return) :=
  es.foldl (fun acc e => if acc.any fun a => a.1.pa == e.1.pa then
      acc.map fun a => if a.1.pa == e.1.pa then (a.1, a.2 ++ [e.2]) else a
    else acc ++ [(e.1, [e.2])]) []

/-- The accesses of a load: the values of plain elements are read now, and may be read anew on arrival (R117) unless it is an acquire;
the elements of algebra-enabled pages go to their landings, those of `tol` that lie in drift regions as requests with that tolerance, one
for each region (R219). -/
def sendLoads (s : State) (g d unit size : Nat) (sgn acq : Bool) (tol : Option Word) (les : List (Elem × Phys)) : State :=
  if les.isEmpty then advance s g 4
  else
    let core := coreOf s g
    let places := les.flatMap fun e => e.2.places size
    let plain := les.filter fun e => !viaLanding e.2
    let landed := les.filter fun e => viaLanding e.2
    let reg := fun (e : Elem) => d + unit * e.idx
    let plainAt := plain.flatMap fun e => e.2.places size
    let landedAt := landed.flatMap fun e => e.2.places size
    let s := reachLanding (settleEntries s g plainAt) g landedAt
    if behindOwn s g plainAt landedAt then waitHere s g
    else
    let s := les.foldl (fun s e => touchPage s g e.2) (fixOverlap s g places)
    let es := plain.map fun e => (e.1.lane, reg e.1, e.2.places size)
    let late : List LoadElem := if acq then [] else (plain.filter fun e => !inEndpoints e.2.pa && !mixed s e.2.pa).map fun e =>
      { lane := e.1.lane, reg := reg e.1, places := e.2.places size, sgn := sgn }
    let (k, s) := openResult { s with fresh := s.fresh + 1 } g acq {
      v := elemRegs s g size sgn es, dst := runOf d unit les, lanes := (getGroup s g).em, elems := late, awaiting := landed.length }
    let s := observe s g plainAt
    let ret := fun (e : Elem × Phys) => (e.2, Return.lane g k e.1.lane (reg e.1) e.1.va sgn)
    let asked := landed.filter fun e => tol.isSome && isDrift e.2
    let s := (sameWords ((landed.filter fun e => !(tol.isSome && isDrift e.2)).map ret)).foldl
      (fun s w => sendEntry s (loadEntry s g w.1 size w.2)) s
    let s := ((asked.map fun e => regionOf e.2.pa).eraseDups).foldl (fun s r =>
      -- the reader's own holders flush and release first
      let caches := [CacheId.l1 core, CacheId.l2 (dieOfCore core)]
      let s := if caches.any fun c => (findHolder s c r).any fun h => !h.state.waiting.isEmpty then settle s r else s
      let s := caches.foldl (fun s c => releaseHolder s c r .released) s
      let ws := sameWords ((asked.filter fun e => regionOf e.2.pa == r).map ret)
      match ws with
      | w :: _ => sendEntry s { loadEntry s g w.1 512 [] with
          op := 21, addr := 512 * r, asks := ws.map fun w => (w.1.pa, w.2), tol := tol.getD 0 }
      | [] => s) s
    advance s g 4

/-- A load of located elements into registers from `d` on (R108): poison first, then the values in flight. -/
def loadElems (s : State) (g d unit size : Nat) (sgn acq : Bool) (les : List (Elem × Phys)) : State :=
  loadChecked s g size les fun s => sendLoads s g d unit size sgn acq none les

/-- ld, ld.acq, ldnc (R107, R108). -/
def loadInstr (s : State) (d a : BitVec 7) (x sz : BitVec 3) (w : BitVec 2) (acq : Bool) : Outcome :=
  let size := Legal.elemSize sz
  let unit := Legal.elemUnit sz
  let cnt := 2 ^ w.toNat
  memInstr s [(d.toNat, unit * cnt), (a.toNat, 1)] fun g s =>
    checked s g x.toNat size .read (fun _ => true) (elements (getGroup s g) x.toNat a.toNat cnt size) fun s les =>
      loadElems s g d.toNat unit size (sz == 1 || sz == 3) acq les

/-- Loads lane elements from global memory (R108). -/
def execLd (d : BitVec 7) (a : BitVec 7) (x : BitVec 3) (s : BitVec 3) (w : BitVec 2) (st : State) : Outcome :=
  loadInstr st d a x s w false
/-- ld as an acquire: performed before any later access of the group (R118, R119). -/
def execLdAcq (d : BitVec 7) (a : BitVec 7) (x : BitVec 3) (s : BitVec 3) (w : BitVec 2) (st : State) : Outcome :=
  loadInstr st d a x s w true
/-- ld that fills no line; which values it can return does not change (R111). -/
def execLdnc (d : BitVec 7) (a : BitVec 7) (x : BitVec 3) (s : BitVec 3) (w : BitVec 2) (st : State) : Outcome :=
  loadInstr st d a x s w false

/-- Brings lines nearer: it changes no register, no memory value and no reach, and never traps after the encoding check (R113). -/
def execPref (a : BitVec 7) (x : BitVec 3) (s : BitVec 3) (st : State) : Outcome :=
  let _ := (x, s)
  memInstr st [(a.toNat, 1)] fun g s => advance s g 4

/-! ## Tolerant loads (R219, R225) -/

/-- ldv: ld.b32 but for one request for each drift region, with the group's tolerance. -/
def ldvElems (s : State) (g d : Nat) (acq : Bool) (les : List (Elem × Phys)) : State :=
  loadChecked s g 4 les fun s => sendLoads s g d 1 4 false acq (some (getGroup s g).tl) les

def ldvInstr (s : State) (d a : BitVec 7) (x : BitVec 3) (w : BitVec 2) (acq : Bool) : Outcome :=
  memInstr s [(d.toNat, 2 ^ w.toNat), (a.toNat, 1)] fun g s =>
    checked s g x.toNat 4 .read (fun _ => true) (elements (getGroup s g) x.toNat a.toNat (2 ^ w.toNat) 4) fun s les =>
      ldvElems s g d.toNat acq les

/-- A load within the group's tolerance on drift regions (R225). -/
def execLdv (d : BitVec 7) (a : BitVec 7) (x : BitVec 3) (w : BitVec 2) (s : State) : Outcome := ldvInstr s d a x w false
/-- ldv as an acquire (R225). -/
def execLdvAcq (d : BitVec 7) (a : BitVec 7) (x : BitVec 3) (w : BitVec 2) (s : State) : Outcome := ldvInstr s d a x w true

/-! ## Stores (R108, R110, R111) -/

/-- The bytes of element `i` of a lane's data run (R107, R108). -/
def storeData (g : Group) (d unit size i l : Nat) : List Byte :=
  leBytes size ((List.range unit).foldr (fun j n => (g.vreg (d + unit * i + j) l).toNat + 2 ^ 32 * n) 0)

/-- Enqueues window elements of a group's own store; each packet that a full port drops counts at the port's partition (R257). -/
def enqueueLocal (s : State) (g : Nat) (es : List WindowElem) : State :=
  let (s, dropped) := enqueue s (.group g) (some (coreOf s g)) (partOf s g) s.dev es
  dropped.foldl (fun s w => countDrop s (windowPart (partOf s g) (windowOf w))) s

/-- The granules all of whose bytes the elements of one store write: poison that they carry when it has taken effect leaves (R109). -/
def wholeGranules (es : List (Nat × Phys × List Byte)) : List Nat :=
  (es.map fun e => e.2.1.pa / 64).eraseDups.filter fun k =>
    (List.range 64).all fun i => es.any fun e => e.2.1.pa ≤ 64 * k + i && 64 * k + i < e.2.1.pa + e.2.2.length

/-- One element of a store: an S entry on an algebra-enabled page (R195), else its bytes; both go into the buffer (R98, R103). -/
def storeOne (s : State) (g : Nat) (va : Nat) (p : Phys) (bytes : List Byte) (whole : Option Nat) : State :=
  let ps := p.places bytes.length
  let s := fixOverlap s g ps
  if attrAE p.attr then
    bufferEntry (settleStores s g ps) g (va / 65536) { entryOf s g p bytes.length 17 with bytes := bytes, whole := whole }
  else bufferStore (settleEntries s g ps) g (coreOf s g) (attrScope p.attr) p.pa (va / 65536) bytes whole

/-- A store of located elements with their bytes, lane by lane (R108, R110): window elements are enqueued at once (R257). stnc drains
the lines of its elements (R111, log entry 16); a release store resets the reach at its end (R121). -/
def storeElems (s : State) (g : Nat) (nc rel : Bool) (es : List (Nat × Phys × List Byte)) : State :=
  let win := (es.filter fun e => inEndpoints e.2.1.pa).map fun e => (e.2.1.pa, e.2.2)
  let others := es.filter fun e => !inEndpoints e.2.1.pa
  let at_ := fun (ae : Bool) => (others.filter fun e => attrAE e.2.1.attr == ae).flatMap fun e => e.2.1.places e.2.2.length
  let s := settleEntries (settleStores s g (at_ true)) g (at_ false)
  if enqueueWaits s (.group g) (coreOf s g) win || behindOwn s g (at_ false) (at_ true) then waitHere s g
  else
    let s := es.foldl (fun s e => touchPage s g e.2.1) s
    let s := enqueueLocal s g win
    let whole := wholeGranules others
    let (n, s) := if whole.isEmpty then (0, s) else newId s
    let s := others.foldl (fun s e =>
      storeOne s g e.1 e.2.1 e.2.2 (if whole.contains (e.2.1.pa / 64) then some n else none)) s
    let lines := others.map fun e => lineOf e.2.1.pa
    let s := if nc then drainLines s (coreOf s g) fun l => l.of g && lines.contains l.line else s
    advance (if rel then resetReach s g else s) g 4

/-- st, stnc (R107, R108). -/
def storeInstr (s : State) (d a : BitVec 7) (x sz : BitVec 3) (w : BitVec 2) (nc rel : Bool) : Outcome :=
  let size := Legal.elemSize sz
  let unit := Legal.elemUnit sz
  let cnt := 2 ^ w.toNat
  memInstr s [(d.toNat, unit * cnt), (a.toNat, 1)] fun g s =>
    checked s g x.toNat size .write (fun _ => true) (elements (getGroup s g) x.toNat a.toNat cnt size) fun s les =>
      let data := les.map fun e => (e.1.va, e.2, storeData (getGroup s g) d.toNat unit size e.1.idx e.1.lane)
      if rel then release s g fun s => storeElems s g false true data else storeElems s g nc false data

/-- Stores lane elements to global memory (R108). -/
def execSt (d : BitVec 7) (a : BitVec 7) (x : BitVec 3) (s : BitVec 3) (w : BitVec 2) (st : State) : Outcome :=
  storeInstr st d a x s w false false
/-- st as a release: after every earlier access of the group (R118, R119). -/
def execStRel (d : BitVec 7) (a : BitVec 7) (x : BitVec 3) (s : BitVec 3) (w : BitVec 2) (st : State) : Outcome :=
  storeInstr st d a x s w false true
/-- st whose lines drain at once (R111). -/
def execStnc (d : BitVec 7) (a : BitVec 7) (x : BitVec 3) (s : BitVec 3) (w : BitVec 2) (st : State) : Outcome :=
  storeInstr st d a x s w true false

/-! ## sld and sst (R83) -/

/-- The address of sld and sst (R83). -/
def uniformAddr (g : Group) (a b : BitVec 6) (i : Bool) : DWord :=
  g.sreg a.toNat + (if i then b.signExtend 64 * 8 else g.sreg b.toNat)

/-- The checks of a group-wide access of 8 bytes (R83): alignment, bound, translation; then `k`. -/
def uniformAccess (s : State) (g : Nat) (va : DWord) (acc : Access) (k : State → Phys → State) : State :=
  if va.toNat % 8 != 0 then raise s g 2 va.toNat
  else if 2 ^ 56 ≤ va.toNat then raise s g 5 va.toNat
  else match translate s (spaceOf s g) va.toNat acc 8 with
    | (s, .error (num, code)) => raise s g num va.toNat 0 code
    | (s, .ok p) => k s p

/-- s[D6] := the doubleword at an address, in flight (R83). -/
def execSld (d : BitVec 6) (a : BitVec 6) (b : BitVec 6) (i : Bool) (s : State) : Outcome :=
  withGroup s fun g =>
    let s := endChain s g
    let va := uniformAddr (getGroup s g) a b i
    uniformAccess s g va .read fun s p =>
      let s := if attrAE p.attr then meetPoison s p.pa 8 else s
      if readsPoison s g 8 p then raise s g 6 va.toNat
      else if heldBack s g [p] then waitHere s g
      else if inApertures p.pa && !s.linkUp then waitHost s g 0 va.toNat
      else
        let ps := p.places 8
        let alg := viaLanding p
        let s := if alg then reachLanding s g ps else settleEntries s g ps
        if behindOwn s g (if alg then [] else ps) (if alg then ps else []) then waitHere s g
        else
        let s := touchPage (fixOverlap s g ps) g p
        let (k, s) := openResult { s with fresh := s.fresh + 1 } g false {
          s := if alg then none else some (d.toNat, BitVec.ofNat 64 (seenValue s g ps)), sdst := some d.toNat, awaiting := if alg then 1 else 0
          elems := if alg || inEndpoints p.pa || mixed s p.pa then [] else [{ lane := 32, reg := d.toNat, places := ps, sgn := false }] }
        let s := if alg then sendEntry s (loadEntry s g p 8 [.uniform g k d.toNat]) else observe s g ps
        advance s g 4

/-- The doubleword at an address := s[D6] (R83). -/
def execSst (d : BitVec 6) (a : BitVec 6) (b : BitVec 6) (i : Bool) (s : State) : Outcome :=
  withGroup s fun g =>
    let s := endChain s g
    let va := uniformAddr (getGroup s g) a b i
    uniformAccess s g va .write fun s p =>
      storeElems s g false false [(va.toNat, p, leBytes 8 ((getGroup s g).sreg d.toNat).toNat)]

/-! ## Results arriving (R10, R62, R117, R204) -/

/-- A result with the elements of the lanes in `late` (for sld any bit) read anew now (R117); lanes that read the same bytes get the same
value (R110). An element that meets poison or a refusing die by now keeps its value. -/
def arrived (s : State) (g : Nat) (e : InFlight) (late : Word) : State × InFlight :=
  let asked := fun (l : LoadElem) => if l.lane < 32 then late.getLsbD l.lane else late != 0
  let clean := fun (p : Loc) => !poisonSeen s g p && locAnswer s p = .served
  let again := e.elems.filter fun l => (e.elems.any fun m => m.places == l.places && asked m) && l.places.all clean
  if again.isEmpty then (s, e)
  else
    let new := again.foldl (fun e l =>
      if l.lane < 32 then
        { e with v := (valueRegs l.lane l.reg l.places.length l.sgn (seenValue s g l.places)).foldl (fun m r => kput m r.1 r.2) e.v }
      else { e with s := some (l.reg, BitVec.ofNat 64 (seenValue s g l.places)) }) e
    (observe { s with fresh := s.fresh + 1 } g (again.flatMap (·.places)), new)

/-- Whether an entry that a group issued under an earlier table than `gen` has still to be applied (R208). -/
def earlierPending (s : State) (g : Nat) (gen : Option Nat) : Bool :=
  match gen with
  | none => false
  | some t => (entriesUnderWay s).any fun e => e.of g && e.table < t && (e.op < 18 || e.op == 21)

/-- A result in flight arrives: its registers are written; where a returning entry met poison, none is, and trap 6 becomes
pending (R204). -/
def evResultArrival (g slot : Nat) (late : Word) (s : State) : Option State :=
  match (kfind s.groups g).bind fun x => kfind x.inFlight slot with
  | none => none
  | some e =>
    if 0 < e.awaiting || s.cycle < e.due || earlierPending s g e.gen then none
    else
      let s := modGroup s g fun x => { x with inFlight := kerase x.inFlight slot, acquires := x.acquires.erase slot }
      if !e.poisoned.isEmpty then
        let p : Pending := {
          num := 6, addr := e.addr, vaddr := BitVec.ofNat 64 ((e.poisoned.headD (0, 0)).2)
          lanes := if e.s.isSome then 0 else maskOf fun l => (kfind e.poisoned l).isSome }
        some (modGroup s g fun x => { x with pending := x.pending ++ [p] })
      else
        let (s, e) := arrived s g e late
        some (modGroup s g fun x =>
          let x := { x with v := e.v.foldl (fun v r => if e.passed.contains r.1 then v else kstore v r.1 r.2 0) x.v }
          match e.s with
          | some (d, v) => if e.spassed then x else x.setS d v
          | none => x)

/-- A load of a host page that the untrained link has not answered for 110,000 cycles returns poison: trap 6 (R355). -/
def evHostLoadTimeout (g _slot : Nat) (s : State) : Option State :=
  match kfind s.groups g with
  | none => none
  | some x =>
    match x.hostWait with
    | some (since, lanes, va) =>
      if !x.still && !s.linkUp && since + Config.linkTimeout ≤ s.cycle then some (raise s g 6 va lanes) else none
    | none => none

end Sys2Proof.Machine
end

