-- ==== Sys2Proof/Machine/Pad.lean ====
section
/-! DEFINITION. Scratch accesses and translation registers (R94 to R97, R104, R106, R108 to R110, R119): ldp, stp, xset, xadd,
xget. -/

namespace Sys2Proof.Machine

/-! ## Pad accesses -/

/-- The elements of a run at a pad level in the active lanes: `va` is the pad offset. -/
def padElements (g : Group) (a cnt size : Nat) : List Elem :=
  g.lanes.flatMap fun l => (List.range cnt).map fun i =>
    let off := (src g 0 a 0 l).toNat + i * size
    { lane := l, idx := i, va := off, off := off }

/-- Alignment, then the pad bound (R109 items 1 and 2), then `k` with each element's places. -/
def padChecked (s : State) (g lvl size : Nat) (es : List Elem) (k : List (Elem × List Loc) → State) : State :=
  let x := getGroup s g
  let place := fun (e : Elem) => padPlaces s x.block x.index e.lane lvl e.off size
  let misaligned := es.filter fun e => e.va % size != 0
  let beyond := es.filter fun e => (place e).isNone
  if !misaligned.isEmpty then laneTrap s g 2 0 misaligned
  else if !beyond.isEmpty then laneTrap s g 3 0 beyond
  else k (es.filterMap fun e => (place e).map fun p => (e, p))

/-- Whether an access to some places meets poison or a die that answers with errors. -/
def placePoisoned (s : State) (p : List Loc) : Bool := p.any fun l => isPoisoned s l || locAnswer s l = .error
/-- The same for a load of a group, which sees its own stores on their way. -/
def placeSpoilt (s : State) (g : Nat) (p : List Loc) : Bool := p.any fun l => poisonSeen s g l || locAnswer s l = .error

def placeHeld (s : State) (p : List Loc) : Bool := match p with
  | l :: _ => locAnswer s l = .held
  | [] => false

/-- The reach that a pad access leaves (R121). -/
def widenPad (s : State) (g lvl : Nat) : State := modGroup s g fun x => x.widen (padScope lvl)

/-- A load from a scratch level (R108): its values are read now, and may be read anew on arrival (R117) unless it is an acquire. -/
def padLoad (s : State) (d a : BitVec 7) (sz l : BitVec 3) (w : BitVec 2) (acq : Bool) : Outcome :=
  let size := Legal.elemSize sz
  let unit := Legal.elemUnit sz
  let cnt := 2 ^ w.toNat
  let sgn := sz == 1 || sz == 3
  memInstr s [(d.toNat, unit * cnt), (a.toNat, 1)] fun g s =>
    padChecked s g l.toNat size (padElements (getGroup s g) a.toNat cnt size) fun les =>
      let bad := les.filter fun e => placeSpoilt s g e.2
      if !bad.isEmpty then laneTrap s g 6 0 (bad.map (·.1))
      else if les.any fun e => placeHeld s e.2 then waitHere s g
      else if les.isEmpty then advance s g 4
      else
        let places := les.flatMap (·.2)
        let s := settleEntries s g places
        if behindOwn s g places [] then waitHere s g
        else
        let s := widenPad (fixOverlap s g places) g l.toNat
        let es := les.map fun e => (e.1.lane, d.toNat + unit * e.1.idx, e.2)
        let late : List LoadElem := if acq then [] else es.map fun e => { lane := e.1, reg := e.2.1, places := e.2.2, sgn := sgn }
        let (_, s) := openResult s g acq {
          v := elemRegs s g size sgn es, dst := runOf d.toNat unit les, lanes := (getGroup s g).em, elems := late }
        advance (observe s g places) g 4

/-- Loads lane elements from a scratch level (R108). -/
def execLdp (d : BitVec 7) (a : BitVec 7) (s : BitVec 3) (l : BitVec 3) (w : BitVec 2) (st : State) : Outcome :=
  padLoad st d a s l w false
/-- ldp as an acquire (R119): its values are those of its issue, before any later access. -/
def execLdpAcq (d : BitVec 7) (a : BitVec 7) (s : BitVec 3) (l : BitVec 3) (w : BitVec 2) (st : State) : Outcome :=
  padLoad st d a s l w true

/-- The granules all of whose bytes some places take in (R109). -/
def wholeOf (ps : List Loc) : List Loc := (ps.map Loc.granule).eraseDups.filter fun k => k.granuleBytes.all ps.contains

/-- A store of one element to a scratch level leaves the group. Lines of its core's buffer that hold a byte of it go before. -/
def sendPadStore (s : State) (g : Nat) (n : Nat) (whole : List Loc) (e : List Loc × List Byte) : State :=
  let s := drainLines s (coreOf s g) fun l => !l.ae && e.1.any l.holds
  let s := settleEntries (fixOverlap s g e.1) g e.1
  { s with stores := s.stores ++ [{
    core := coreOf s g, part := partOf s g, groups := [g], scope := 3, bytes := [], since := s.cycle, pads := e.1.zip e.2
    whole := ((e.1.map Loc.granule).eraseDups.filter whole.contains).map fun k => (k, n) }] }

/-- Stores of located elements (R108), lane by lane: they are on their way to the pad (R112, R117). -/
def padStores (s : State) (g lvl d unit size : Nat) (rel : Bool) (les : List (Elem × List Loc)) : State :=
  let x := getGroup s g
  let places := les.flatMap (·.2)
  let s := settleEntries s g places
  if behindOwn s g places [] then waitHere s g
  else
  let whole := wholeOf places
  let (n, s) := if whole.isEmpty then (0, s) else newId s
  let s := les.foldl (fun s e => sendPadStore s g n whole (e.2, storeData x d unit size e.1.idx e.1.lane)) s
  let s := if les.isEmpty then s else widenPad s g lvl
  advance (if rel then resetReach s g else s) g 4

/-- A store to a scratch level (R108); as a release, after every earlier access of the group (R118, R119). -/
def padStore (s : State) (d a : BitVec 7) (sz l : BitVec 3) (w : BitVec 2) (rel : Bool) : Outcome :=
  let size := Legal.elemSize sz
  let unit := Legal.elemUnit sz
  let cnt := 2 ^ w.toNat
  memInstr s [(d.toNat, unit * cnt), (a.toNat, 1)] fun g s =>
    padChecked s g l.toNat size (padElements (getGroup s g) a.toNat cnt size) fun les =>
      if rel then release s g fun s => padStores s g l.toNat d.toNat unit size true les
      else padStores s g l.toNat d.toNat unit size false les

/-- Stores lane elements into a scratch level (R108). -/
def execStp (d : BitVec 7) (a : BitVec 7) (s : BitVec 3) (l : BitVec 3) (w : BitVec 2) (st : State) : Outcome :=
  padStore st d a s l w false
/-- stp as a release (R119). -/
def execStpRel (d : BitVec 7) (a : BitVec 7) (s : BitVec 3) (l : BitVec 3) (w : BitVec 2) (st : State) : Outcome :=
  padStore st d a s l w true

/-! ## Translation registers (R104, R106) -/

/-- xset: trap 5 for a base beyond 2^56, else x[D] := set_x (v, cap). -/
def xsetTo (s : State) (d : BitVec 3) (a : BitVec 6) (cap : Group → Nat) : Outcome :=
  withGroup s fun g =>
    let s := endChain s g
    let x := getGroup s g
    let v := x.sreg a.toNat
    if 2 ^ 56 ≤ v.toNat then raise s g 5 v.toNat
    else
      let r := setX s (spaceOf s g) v (cap x)
      advance (modGroup r.1 g fun x => x.setX d.toNat r.2) g 4

/-- Sets a translation register for a base (R106). -/
def execXset (d : BitVec 3) (a : BitVec 6) (s : State) : Outcome := xsetTo s d a fun _ => 2 ^ 32
/-- xset with a cap on the limit (R106). -/
def execXsetCap (d : BitVec 3) (a : BitVec 6) (b : BitVec 6) (s : State) : Outcome := xsetTo s d a fun x => (x.sreg b.toNat).toNat

/-- The step of xadd: 128 × IMM6 or s[B6], signed (R106). -/
def xaddStep (g : Group) (b : BitVec 6) (i : Bool) : DWord := if i then b.signExtend 64 * 128 else g.sreg b.toNat

/-- Steps a translation register within its limit, else sets it anew (R106). -/
def execXadd (d : BitVec 3) (a : BitVec 3) (b : BitVec 6) (i : Bool) (s : State) : Outcome :=
  withGroup s fun g =>
    let s := endChain s g
    let x := getGroup s g
    let r := x.xreg a.toNat
    let st := (xaddStep x b i).toInt
    if 0 ≤ st && st < r.limit then
      advance (modGroup s g fun x => x.setX d.toNat
        { r with base := r.base + BitVec.ofInt 64 st, frame := r.frame + st.toNat, limit := r.limit - st.toNat }) g 4
    else
      let v := r.base + BitVec.ofInt 64 st
      if 2 ^ 56 ≤ v.toNat then raise s g 5 v.toNat
      else
        let q := setX s (spaceOf s g) v (2 ^ 32)
        advance (modGroup q.1 g fun x => x.setX d.toNat q.2) g 4

/-- Reads the base, limit or attributes of a translation register (R106). -/
def execXget (d : BitVec 6) (a : BitVec 3) (f : BitVec 6) (s : State) : Outcome :=
  scalarOp s fun gid s => modGroup s gid fun g =>
    let r := g.xreg a.toNat
    g.setS d.toNat (match f.toNat with
      | 0 => r.base
      | 1 => BitVec.ofNat 64 r.limit
      | _ => BitVec.ofNat 64 r.attr)

end Sys2Proof.Machine
end

