-- ==== Sys2Proof/Machine/Algebra.lean ====
section
/-! DEFINITION. Algebraic instructions and drift instructions of major 0x16 (R194, R204 to R208, R226 to R229). -/

namespace Sys2Proof.Machine

open Sys2Proof.Fp

/-! ## alg.op (R204) -/

/-- An element goes to the landing, or is offered to the caches that may withhold it (R211, R222) once what the group has sent to its
word before has arrived (R116). -/
def dispatchEntry (s : State) (e : Entry) : State :=
  let earlier := fun (f : Entry) => f.shares e && f.sameBytes e
  if !holdable s e then sendEntry s e
  else if !s.sent.any earlier then offer s e
  else
    let s := settle (arriveWhere s earlier) (regionOf e.addr)
    if s.sent.any earlier then sendEntry s e else offer s e

/-- Registers of one element of a slot's type. -/
def slotUnit (d : Word) : Nat := slotSize d / 4

/-- The pages an algebraic operation accepts (R204 item 5): W, R for a returning form, algebra-enable, not host scope. An endpoint window
mapped so is memory to the entry: the model's choice, log entry 39. -/
def algPage (ret : Bool) (p : Phys) : Bool := attrW p.attr && (!ret || attrR p.attr) && attrAE p.attr && attrScope p.attr != 5

/-- The entries of an alg.op, each with its key of R199, and the results that come back; `acq`: nothing of the group begins before
they have. -/
def sendAlg (s : State) (g d slot : Nat) (desc : Word) (ret acq : Bool) (les : List (Elem × Phys)) : State :=
  let size := slotSize desc
  let unit := slotUnit desc
  let places := les.flatMap fun e => e.2.places size
  let x := getGroup s g
  let blk := blockOf s g
  let s := les.foldl (fun s e => touchPage s g e.2) (fixOverlap s g places)
  let s := modGroup s g fun x => { x with algCount := x.algCount + 1 }
  let (k, s) := if ret && !les.isEmpty then
      openResult s g acq { dst := runOf d unit les, lanes := x.em, awaiting := les.length }
    else (0, s)
  les.foldl (fun s e =>
    dispatchEntry s { entryOf s g e.2 size slot with
      desc := desc
      operand := leNat (storeData x d unit size e.1.idx e.1.lane)
      page := e.1.va / 65536
      ret := if ret then [.lane g k e.1.lane (d + unit * e.1.idx) e.1.va false] else []
      key := [s.dev, blk.launch, blk.number, x.index, e.1.lane, 8 * x.algCount + e.1.idx] }) s

/-- The checks of R204, then `k` with the slot's descriptor and the located elements. -/
def algChecked (s : State) (g d a x n : Nat) (w : BitVec 2) (ret : Bool)
    (k : State → Word → List (Elem × Phys) → State) : State :=
  let desc := (getTable s (ctxOf s g).table).slot n
  let cnt := 2 ^ w.toNat
  let size := slotSize desc
  let unit := if slotV desc then slotUnit desc else 1
  if !declared (blockOf s g).regs (d, unit * cnt) then raise s g 0
  else if !slotV desc || d % (unit * cnt) != 0 || 64 < size * cnt then raise s g 11
  else checked s g x size .write (algPage ret) (elements (getGroup s g) x a cnt size) fun s les => k s desc les

def algInstr (s : State) (d a : BitVec 7) (x : BitVec 3) (w : BitVec 2) (n : BitVec 4) (o ret : Bool) : Outcome :=
  memInstr s [(d.toNat, 1), (a.toNat, 1)] fun g s =>
    algChecked s g d.toNat a.toNat x.toNat n.toNat w ret fun s desc les =>
      let places := les.flatMap fun e => e.2.places (slotSize desc)
      let send := fun (s : State) =>
        let s := reachLanding s g places
        if behindOwn s g [] places then waitHere s g else advance (sendAlg s g d.toNat n.toNat desc ret (o && ret) les) g 4
      if o then release s g send else send s

/-- Sends a non-returning entry of a slot for each element (R204). -/
def execAlgOp (d : BitVec 7) (a : BitVec 7) (x : BitVec 3) (w : BitVec 2) (n : BitVec 4) (o : Bool) (s : State) : Outcome :=
  algInstr s d a x w n o false
/-- Sends a returning entry of a slot for each element; the words' prior values come back (R204). -/
def execAlgOpRet (d : BitVec 7) (a : BitVec 7) (x : BitVec 3) (w : BitVec 2) (n : BitVec 4) (o : Bool) (s : State) : Outcome :=
  algInstr s d a x w n o true

/-! ## alg.load, alg.flush, alg.gen (R205 to R208) -/

/-- The bytes of a range of one page as the group's own read sees them (R116): what it has sent to a landing there is applied first; on
an algebra-enabled page, what is pending (log entry 14). -/
def ownRead (s : State) (g : Nat) (p : Phys) (n : Nat) : State × List Byte :=
  let ps := p.places n
  let s := settleEntries (fixOverlap s g ps) g ps
  let s := observe (if attrAE p.attr then settleBytes s p.pa n else s) g ps
  ({ s with fresh := s.fresh + 1 }, leBytes n (seenValue s g ps))

/-- The four 64-byte parts of an image, located; or the first part that faults, a page fault before any other (R205). -/
def locateImage (s : State) (g x va : Nat) : State × Except (Nat × Nat × Nat) (List Phys) :=
  let es := (List.range 4).map fun i => { lane := 0, idx := i, va := va + 64 * i, off := 64 * i : Elem }
  let (s, rs) := locateAll s g x 64 .read es
  let errs := rs.filterMap fun r => match r.2 with
    | .error e => some (e.1, e.2, r.1.va)
    | .ok _ => none
  match errs.find? fun e => e.1 == 4 with
  | some e => (s, .error e)
  | none =>
    match errs with
    | e :: _ => (s, .error e)
    | [] => (s, .ok (rs.filterMap fun r => match r.2 with
        | .ok p => some p
        | .error _ => none))

/-- What a group has sent to the landings of an image is applied before it is read (R116). -/
def settleImage (s : State) (g : Nat) (ps : List Phys) : State := settleEntries s g (ps.flatMap fun p => p.places 64)

/-- Whether the bytes of an image do not come: a home holds requests back, the link is untrained, or they are behind an access of the group
that is held (R116, R349, R355). -/
def imageWaits (s : State) (g : Nat) (ps : List Phys) : Bool :=
  heldBack s g ps || (ps.any fun p => inApertures p.pa && !s.linkUp) || behindOwn s g (ps.flatMap fun p => p.places 64) []

/-- Whether the image at the base of a translation register has still to be waited for. -/
def imageHeld (s : State) (g x : Nat) : Bool :=
  match locateImage s g x ((getGroup s g).xreg x).base.toNat with
  | (s, .ok ps) => !(ps.any fun p => readsPoison s g 64 p) && imageWaits (settleImage s g ps) g ps
  | _ => false

/-- The part of alg.load that reads the image at `va` and installs it (R205): Blocked while its bytes do not come. -/
def loadImage (s : State) (g x va : Nat) : State :=
  match locateImage s g x va with
  | (s, .error (num, code, at_)) => raise s g num at_ 0 code
  | (s, .ok ps) =>
    if ps.any fun p => readsPoison s g 64 p then raise s g 6 va
    else
    let s := settleImage s g ps
    if imageWaits s g ps then
      let since := ((getGroup s g).hostWait.map (·.1)).getD s.cycle
      let s := if ps.any fun p => inApertures p.pa && !s.linkUp then modGroup s g fun y => { y with hostWait := some (since, 0, va) } else s
      block s g (.algLoad x)
    else
      let s := ps.foldl (fun s p => touchPage s g p) s
      let (s, bs) := ps.foldl (fun (r : State × List Byte) p =>
        let q := ownRead r.1 g p 64
        (q.1, r.2 ++ q.2)) (s, [])
      if !imageLegal bs then raise s g 11
      else
        let (k, s) := newId s
        let s := { s with algTables := kput s.algTables (k + 1) (parseImage bs) }
        advance (modCtxOf s g fun c => { c with table := k + 1, gen := c.gen + 1 }) g 4

/-- Checks and installs the image at the base of a translation register, and increments the generation (R205). -/
def execAlgLoad (x : BitVec 3) (s : State) : Outcome :=
  withGroup s fun g =>
    let s := endChain s g
    let va := ((getGroup s g).xreg x.toNat).base.toNat
    if va % 64 != 0 then raise s g 2 va else loadImage s g x.toNat va

/-- The 128-byte lines of some elements, each once, with the page of the first (R207). -/
def flushLines (les : List (Elem × Phys)) : List (Nat × Phys) :=
  (les.map fun e => (e.2.pa / 128, e.2)).foldl (fun acc e => if acc.any fun f => f.1 == e.1 then acc else acc ++ [e]) []

/-- A flush point at every word of the 128-byte line of each active lane's element (R207). -/
def execAlgFlush (a : BitVec 7) (x : BitVec 3) (s : State) : Outcome :=
  memInstr s [(a.toNat, 1)] fun g s =>
    checked s g x.toNat 4 .write (algPage false) (elements (getGroup s g) x.toNat a.toNat 1 4) fun s les =>
      let lines := flushLines les
      let s := reachLanding s g (lines.flatMap fun l => (Loc.mem (128 * l.1)).run 128)
      let s := les.foldl (fun s e => touchPage s g e.2) s
      advance (lines.foldl (fun s l => sendEntry s { entryOf s g l.2 128 20 with addr := 128 * l.1 }) s) g 4

/-- The context's generation, once every entry of the group under an earlier one has been applied (R208). -/
def execAlgGen (d : BitVec 7) (s : State) : Outcome :=
  memInstr s [(d.toNat, 1)] fun g s =>
    let x := getGroup s g
    let c := ctxOf s g
    let v : KMap Word := x.lanes.map fun l => (32 * d.toNat + l, c.gen.setWidth 32)
    advance (if x.lanes.isEmpty then s else addInFlight s g { v := v, dst := (d.toNat, 1), lanes := x.em, gen := some c.table }) g 4

/-! ## Drift instructions (R226 to R229) -/

/-- The pages that dset accepts (R226 item 4). -/
def dsetPage (p : Phys) : Bool := attrW p.attr && isDrift p && attrScope p.attr != 5

/-- A bound that dset accepts: finite and not negative, −0 as +0 (R226 item 5). -/
def boundOf (b : Word) : Option Word :=
  match Fp.decode f32 b.toNat with
  | .fin sg m _ => if m == 0 then some 0 else if sg then none else some b
  | _ => none

/-- The last of some elements in each drift region. -/
def lastOfRegions (les : List (Elem × Phys)) : List (Elem × Phys) :=
  les.foldr (fun e acc => if acc.any fun f => regionOf f.2.pa == regionOf e.2.pa then acc else e :: acc) []

/-- Sets the bound and share exponent of the region of each active lane's element; of several lanes in one region, the highest's (R226). -/
def execDset (d : BitVec 7) (a : BitVec 7) (x : BitVec 3) (g : BitVec 2) (s : State) : Outcome :=
  memInstr s [(d.toNat, 1), (a.toNat, 1)] fun gid s =>
    let q0 := getGroup s gid
    checked s gid x.toNat 4 .write dsetPage (elements (getGroup s gid) x.toNat a.toNat 1 4) fun s les =>
      let q := getGroup s gid
      let bound := fun (e : Elem) => boundOf (q.vreg d.toNat e.lane)
      let bad := les.filter fun e => (bound e.1).isNone
      -- the dirty attribute of xN is left alone where it traps (R109)
      if !bad.isEmpty then raise (modGroup s gid fun y => { y with x := q0.x }) gid 11
      else
        let last := lastOfRegions les
        let s := reachLanding s gid (last.flatMap fun e => e.2.places 4)
        let s := les.foldl (fun s e => touchPage s gid e.2) s
        advance (last.foldl (fun s e =>
          sendEntry s { entryOf s gid e.2 4 18 with bound := some ((bound e.1).getD 0, g.toNat) }) s) gid 4

/-- Where an element's page is mapped, whatever the page permits. -/
def locateMapped (s : State) (g x : Nat) (e : Elem) : State × Option Phys :=
  let xr := (getGroup s g).xreg x
  if e.off + 4 ≤ xr.limit then
    (s, some { pa := xr.frame + e.off, attr := xr.attr, shift := xr.shift, page := e.va / 2 ^ xr.shift * 2 ^ xr.shift })
  else
    let sp := spaceOf s g
    match lookup s sp e.va with
    | (s, .error _) => (s, none)
    | (s, .ok t) =>
      let pa := match renamedPage s sp.part sp.launch (e.va / 65536) with
        | some f => f + e.va % 65536
        | none => leafFrame t.leaf t.shift + e.va % 2 ^ t.shift
      (s, some { pa := pa, attr := attrOf t.leaf, shift := t.shift, page := t.base })

/-- The mapped pages of elements, one after another. -/
def locateMappedAll (s : State) (g x : Nat) : List Elem → State × List Phys
  | [] => (s, [])
  | e :: es =>
    let q := locateMapped s g x e
    let r := locateMappedAll q.1 g x es
    (r.1, q.2.toList ++ r.2)

/-- Flushes the delta lines that the group's own L1 and L2 hold for the region of each active lane's element, keeping the
grants; elements that are misaligned, unmapped or in no drift region are skipped (R227). -/
def execDflush (a : BitVec 7) (x : BitVec 3) (s : State) : Outcome :=
  memInstr s [(a.toNat, 1)] fun g s =>
    let es := (elements (getGroup s g) x.toNat a.toNat 1 4).filter fun e => e.va % 4 == 0 && e.va < 2 ^ 56
    let (s, ps) := locateMappedAll s g x.toNat es
    let regions := ((ps.filter isDrift).map fun p => regionOf p.pa).eraseDups
    let core := coreOf s g
    -- the flushed entries reach the landing after what the group has sent to those regions
    let here := fun (e : Entry) => e.of g && regions.contains (regionOf e.addr)
    let caches := [CacheId.l1 core, CacheId.l2 (dieOfCore core)]
    -- elements that wait for a grant are taken or refused first
    let s := regions.foldl (fun s r => if caches.any fun c => (findHolder s c r).any fun h => h.state.waiting.any here then settle s r else s) s
    let s := arriveWhere (drainLines s core fun l => l.entries.any here) here
    advance (regions.foldl (fun s r => caches.foldl (fun s c => flushHolder s c r [g] .none) s) s) g 4

/-- Reads the directory state of the region of each active lane's element (R228). -/
def execDstat (d : BitVec 7) (a : BitVec 7) (x : BitVec 3) (s : State) : Outcome :=
  memInstr s [(d.toNat, 4), (a.toNat, 1)] fun g s =>
    checked s g x.toNat 4 .read (fun _ => true) (elements (getGroup s g) x.toNat a.toNat 1 4) fun s les =>
      loadChecked s g 4 les fun s =>
        let asked := les.filter fun e => isDrift e.2
        let zero : KMap Word := (les.filter fun e => !isDrift e.2).flatMap fun e =>
          (List.range 4).map fun j => (32 * (d.toNat + j) + e.1.lane, 0)
        if les.isEmpty then advance s g 4
        else
          let s := reachLanding s g (asked.flatMap fun e => e.2.places 4)
          let s := les.foldl (fun s e => touchPage s g e.2) s
          let (k, s) := openResult s g false {
            v := zero.foldl (fun m r => kput m r.1 r.2) [], dst := (d.toNat, 4), lanes := (getGroup s g).em, awaiting := asked.length }
          advance (asked.foldl (fun s e =>
            sendEntry s { entryOf s g e.2 4 19 with ret := [.lane g k e.1.lane d.toNat e.1.va false] }) s) g 4

/-- The tolerance that tlset writes (R229): the sign bit cleared, a NaN as +0. -/
def tolerance (x : Word) : Word :=
  let m := x &&& 0x7FFFFFFF
  if 0x7F800000 < m.toNat then 0 else m

/-- Writes tl from a lane operand of the lowest active lane, a uniform register, or zero (R229). -/
def execTlset (d : BitVec 7) (s : State) : Outcome :=
  memInstr s [(d.toNat, 1)] fun g s =>
    let s := modGroup s g fun x =>
      if d.toNat ≤ 111 then
        match x.lanes with
        | l :: _ => { x with tl := tolerance (x.vreg d.toNat l) }
        | [] => x
      else { x with tl := tolerance (src x 0 d.toNat 0 0) }
    advance s g 4

/-- Writes tl into each active lane (R229). -/
def execTlget (d : BitVec 7) (s : State) : Outcome :=
  memInstr s [(d.toNat, 1)] fun g s =>
    advance (modGroup s g fun x => x.lanes.foldl (fun y l => y.setV d.toNat l x.tl) x) g 4

end Sys2Proof.Machine
end

