-- ==== Sys2Proof/Machine/Gates.lean ====
section
/-! DEFINITION. Gates (R132 to R148): the record, references, arrivals, the instructions of major 0x18. -/

namespace Sys2Proof.Machine

/-! ## The record (R132) -/

/-- The fields of a gate. -/
structure Gate where
  expArr : Nat
  pendArr : Nat
  pendBytes : Nat
  expBytes : Nat
  gen : Nat
  stale : Bool
  underflow : Bool
  exitcnt : Bool
  armed : Bool
  phase : Bool
  deriving DecidableEq, Repr

def bit (b : Bool) : Nat := if b then 1 else 0

/-- The gate in 16 bytes read as one number. -/
def gateOf (n : Nat) : Gate :=
  { pendArr := bitsOf n 0 16, expArr := bitsOf n 16 16, pendBytes := bitsOf n 32 32, expBytes := bitsOf n 64 32
    phase := bitAt n 96, armed := bitAt n 97, exitcnt := bitAt n 98, underflow := bitAt n 99, stale := bitAt n 100
    gen := bitsOf n 104 8 }

def Gate.toNat (x : Gate) : Nat :=
  x.pendArr + x.expArr * 2 ^ 16 + x.pendBytes * 2 ^ 32 + x.expBytes * 2 ^ 64 + bit x.phase * 2 ^ 96 + bit x.armed * 2 ^ 97 +
    bit x.exitcnt * 2 ^ 98 + bit x.underflow * 2 ^ 99 + bit x.stale * 2 ^ 100 + x.gen * 2 ^ 104

def readGate (s : State) (p : List Loc) : Gate := gateOf (leNat (p.map (readByte s)))
def writeGate (s : State) (p : List Loc) (x : Gate) : State := writeBytes s (p.zip (leBytes 16 x.toNat))

/-! ## References (R133) -/

/-- The places of a gate, where the reference passes items 1 and 3 of R133 (and 2); the trap number otherwise. Item 4 is the
last check. -/
def gatePlaces (s : State) (b : Nat) (r : DWord) : Except Nat (List Loc) :=
  if refLvl r == 4 || fld r 34 30 != 0 then .error 3
  else if refOff r % 16 != 0 then .error 2
  else match padPlaces s b 0 0 (refLvl r) (refOff r) 16 with
    | none => .error 3
    | some p => if placePoisoned s p then .error 6 else .ok p

/-- What a group has stored to a gate, and its loads of it, come before its next access there (R116, R138). -/
def settleGate (s : State) (g : Nat) (r : DWord) : State :=
  match refPlaces s (getGroup s g).block r with
  | some p => settlePlaces (fixOverlap s g p) g p
  | none => s

/-- The checks of R133 on the reference of a gate instruction, then `k` with the places of the gate; the access widens the reach (R138). -/
def gateChecked (s : State) (g : Nat) (r : DWord) (k : State → List Loc → State) : State :=
  let s := settleGate s g r
  match gatePlaces s (getGroup s g).block r with
  | .error num => raise s g num (refOff r)
  | .ok p => k (widenPad s g (refLvl r)) p

/-- Whether a group's access to a gate is held: by the die of the gate, or behind an access of its own (R116, R349). -/
def gateBusy (s : State) (g : Nat) (p : List Loc) : Bool := placeHeld s p || behindOwn s g p []

/-- Runs a gate instruction on the places of its reference, unless its access is held. -/
def withGate (s : State) (g : Nat) (r : DWord) (k : State → List Loc → State) : State :=
  gateChecked s g r fun s p => if gateBusy s g p then waitHere s g else k s p

/-! ## Arrivals (R136, R137, R144) -/

/-- Whether a group is Blocked in a wait on the gate at some places. -/
def waitsOn (s : State) (g : Nat) (p : List Loc) : Bool :=
  let x := getGroup s g
  let same := fun (r : DWord) => refPlaces s x.block r == some p
  match x.status with
  | .blocked (.gate r _) => same r
  | .blocked (.gateT r _ _ _) => same r
  | _ => false

/-- A stale arrival at a gate (R136, R144): it is counted, and trap 7 becomes pending in the waiters where it is enabled. -/
def staleArrival (s : State) (b : Nat) (p : List Loc) (x : Gate) : State :=
  let blk := getBlock s b
  let s := writeGate s p { x with stale := true }
  let s := modCtx s blk.part blk.shadow fun c => { c with gateStale := c.gateStale + 1 }
  if !bitAt (ctxOfBlock s blk).trapEn 7 then s
  else
    let waiters := (kkeys s.groups).filter fun g => partOf s g == blk.part && (blockOf s g).shadow == blk.shadow && waitsOn s g p
    waiters.foldl (fun s g => modGroup s g fun y => { y with pending := y.pending ++ [{ num := 7 }] }) s

/-- apply_arrival of R136 for a gate of block `b`'s context; no tag for gate.arrive, which is never stale. True where it sets
underflow. -/
def applyArrival (s : State) (b : Nat) (p : List Loc) (c n : Nat) (tag : Option Nat) (fromExit : Bool) : State × Bool :=
  let x := readGate s p
  if fromExit && !x.exitcnt then (s, false)
  else if tag.any fun t => t != x.gen then (staleArrival s b p x, false)
  else
    let under := x.pendArr < c || x.pendBytes < n
    let x := { x with underflow := x.underflow || under, pendArr := x.pendArr - c, pendBytes := x.pendBytes - n }
    let x := if x.pendArr == 0 && x.pendBytes == 0 then
        { x with pendArr := x.expArr, pendBytes := x.expBytes, phase := !x.phase, armed := false }
      else x
    (writeGate s p x, under)

/-! ## The instructions (R138 to R146) -/

/-- A gate instruction that ends at the next instruction. -/
def gateOp (s : State) (a : BitVec 6) (f : State → Nat → List Loc → State) : Outcome :=
  withGroup s fun g =>
    let s := endChain s g
    withGate s g ((getGroup s g).sreg a.toNat) fun s p => f s g p

/-- Configures a gate and increments its generation (R139). -/
def execGateInit (a : BitVec 6) (b : BitVec 6) (s : State) : Outcome :=
  gateOp s a fun s g p =>
    let c := (getGroup s g).sreg b.toNat
    let x := readGate s p
    advance (writeGate s p { x with
      pendArr := fld c 0 16, expArr := fld c 0 16, pendBytes := fld c 32 32, expBytes := fld c 32 32
      exitcnt := bitAt c.toNat 16, armed := false, underflow := false, stale := false, gen := (x.gen + 1) % 256 }) g 4

/-- Sets the armed bit (R140). -/
def execGateArm (a : BitVec 6) (s : State) : Outcome :=
  gateOp s a fun s g p => advance (writeGate s p { readGate s p with armed := true }) g 4

/-- Trap 8 where an update sets underflow and the context enables it (R145), else the next instruction. -/
def afterUpdate (s : State) (g : Nat) (under : Bool) : State :=
  if under && bitAt (ctxOf s g).trapEn 8 then raiseAfter s g 8 else advance s g 4

/-- Whether an arrival of a group at the gate at some places cannot be applied now: an earlier access of the group is outstanding, or the
gate's die holds requests. -/
def arrivalWaits (s : State) (g : Nat) (p : List Loc) : Bool := outstanding s g || placeHeld s p

/-- Keeps an arrival until the accesses of its group from before it are performed (R141). -/
def keepArrival (s : State) (g : Nat) (a : Arrival) : State :=
  let (t, s) := newId s
  let s := tagAccesses s g t
  { s with arrivals := s.arrivals ++ [{ a with tag := t, group := g, block := (getGroup s g).block, groups := [g] }] }

/-- One arrival with a participant and a byte count, as a release (R141). Where it cannot be applied yet it is kept and the group goes
on. -/
def execGateArrive (a : BitVec 6) (b : BitVec 6) (s : State) : Outcome :=
  withGroup s fun g =>
    let s := endChain s g
    let x := getGroup s g
    let c := x.sreg b.toNat
    gateChecked s g (x.sreg a.toNat) fun s p =>
      let s := performAll s g
      if arrivalWaits s g p then
        advance (resetReach (keepArrival s g { ref := x.sreg a.toNat, c := fld c 0 16, n := fld c 32 32, addr := x.pc }) g) g 4
      else
        let r := applyArrival s x.block p (fld c 0 16) (fld c 32 32) none false
        afterUpdate (resetReach r.1 g) g r.2

/-- The kept arrivals whose groups' earlier accesses are performed by now are applied (R92, R141). One whose gate is gone or poisoned by
then changes nothing. Where a gate.arrive sets underflow, trap 8 becomes pending in its group, which has issued nothing since (R145, log
entry 88). -/
def applyArrivals (s : State) : State :=
  s.arrivals.foldl (fun s a =>
    match refPlaces s a.block a.ref with
    | none => { s with arrivals := s.arrivals.erase a }
    | some p =>
      if arrivalWaits s a.tag p then s
      else
        let s := { s with arrivals := s.arrivals.erase a }
        if placePoisoned s p then s
        else
          let r := applyArrival s a.block p a.c a.n a.exits a.exits.isSome
          if r.2 && a.exits.isNone && bitAt (ctxOf r.1 a.group).trapEn 8 then
            modGroup r.1 a.group fun x => { x with pending := x.pending ++ [{ num := 8, addr := a.addr }] }
          else r.1) s

/-- Adds bytes to the pending count of the current phase, saturating with underflow (R142). -/
def execGateExpect (a : BitVec 6) (b : BitVec 6) (s : State) : Outcome :=
  gateOp s a fun s g p =>
    let x := readGate s p
    let n := x.pendBytes + fld ((getGroup s g).sreg b.toNat) 32 32
    let under := 2 ^ 32 ≤ n
    afterUpdate (writeGate s p { x with pendBytes := min n (2 ^ 32 - 1), underflow := x.underflow || under }) g under

/-- Whether a wait of a group finds another phase than its operand at a gate now. The poison of the gate counts at the issue of the wait
only (log entry 88). -/
def flipped (s : State) (g : Nat) (p : List Loc) (ph : Bool) : Bool := !gateBusy s g p && (readGate s p).phase != ph

/-- A wait on a gate: its checks, then `k` with what the wait finds (R143). -/
def gateWaiter (s : State) (a : BitVec 6) (ph : Group → Bool) (k : State → Nat → Bool → State) : Outcome :=
  withGroup s fun g =>
    let s := endChain s g
    let x := getGroup s g
    gateChecked s g (x.sreg a.toNat) fun s p => k s g (flipped s g p (ph x))

/-- Blocks until the phase differs from the operand, as an acquire (R143). -/
def execGateWait (a : BitVec 6) (b : BitVec 6) (s : State) : Outcome :=
  let ph := fun (x : Group) => bitAt (x.sreg b.toNat).toNat 0
  gateWaiter s a ph fun s g yes =>
    let x := getGroup s g
    if yes then advance s g 4 else block s g (.gate (x.sreg a.toNat) (ph x))

/-- Samples the phase and writes `yes` or 0 into the odd register of the pair 2 × B (R138, R143). -/
def gateSample (s : State) (a : BitVec 6) (b : BitVec 5) (yes : DWord) : Outcome :=
  gateOp s a fun s g p =>
    let ph := bitAt ((getGroup s g).sreg (2 * b.toNat)).toNat 0
    advance (modGroup s g fun x => x.setS (2 * b.toNat + 1) (if (readGate s p).phase != ph then yes else 0)) g 4

/-- Writes 1 or 0: whether the phase differs from the operand (R143). -/
def execGateTest (a : BitVec 6) (b : BitVec 5) (s : State) : Outcome := gateSample s a b 1
/-- gate.test as a mask of all lanes (R143). -/
def execGateTestM (a : BitVec 6) (b : BitVec 5) (s : State) : Outcome := gateSample s a b 0xFFFFFFFF

/-- min (D + n, 2^64 − 1): a deadline from the cycle of issue (R131, R143). -/
def deadlineFrom (s : State) (n : Nat) : Nat := min (s.cycle + n) (2 ^ 64 - 1)

/-- gate.wait with a deadline; 0 for a flip, 1 for a timeout (R143). A flip in the deadline's own cycle counts (R11), so the group is
Blocked for that cycle also where the deadline is the cycle of issue. -/
def execGateTwait (a : BitVec 6) (b : BitVec 5) (s : State) : Outcome :=
  let ph := fun (x : Group) => bitAt (x.sreg (2 * b.toNat)).toNat 0
  let dst := 2 * b.toNat + 1
  gateWaiter s a ph fun s g yes =>
    let x := getGroup s g
    if yes then advance (modGroup s g fun x => x.setS dst 0) g 4
    else block s g (.gateT (x.sreg a.toNat) (ph x) (deadlineFrom s (x.sreg dst).toNat) dst)

/-- Fills or empties an entry of the enlist table (R146). -/
def execGateEnlist (a : BitVec 6) (b : BitVec 6) (s : State) : Outcome :=
  withGroup s fun g =>
    let s := endChain s g
    let x := getGroup s g
    let c := x.sreg b.toNat
    let e := fld c 0 2
    if bitAt c.toNat 2 then advance (modGroup s g fun x => { x with enlist := kerase x.enlist e }) g 4
    else
      let r := x.sreg a.toNat
      withGate s g r fun s p =>
        advance (modGroup s g fun x => { x with enlist := kput x.enlist e (r, BitVec.ofNat 8 (readGate s p).gen) }) g 4

/-- Marks the group critical (R148). -/
def execCritOn (s : State) : Outcome := scalarOp s fun gid s => modGroup s gid fun g => { g with critical := true }
/-- Clears the mark; a halt that it deferred can proceed (R148). -/
def execCritOff (s : State) : Outcome := scalarOp s fun gid s => modGroup s gid fun g => { g with critical := false }

/-! ## exit (R92) -/

/-- The arrival of one enlisted gate, withheld where the reference fails items 1, 3 or 4 of R133 (R92 item 3). It is kept where it cannot
be applied yet, if the gate counts exits now (R141). -/
def exitArrival (g : Nat) (s : State) (e : DWord × Byte) : State :=
  let b := (getGroup s g).block
  match gatePlaces s b e.1 with
  | .ok p =>
    if !arrivalWaits s g p then (applyArrival s b p 1 0 (some e.2.toNat) true).1
    else if (readGate s p).exitcnt then keepArrival s g { ref := e.1, c := 1, n := 0, exits := some e.2.toNat }
    else s
  | .error _ => s

/-- Ends the group with its exit actions (R92): each enlisted gate gets its arrival behind the group's accesses, the packets it was
gathering are discarded (R258); in supervisor mode its block ends as failed (R325). -/
def execExit (s : State) : Outcome :=
  withGroup s fun g =>
    let s := endChain s g
    let x := getGroup s g
    -- the arrivals of exit are releases (R118)
    let s := if x.enlist.isEmpty then s else (kvals x.enlist).foldl (exitArrival g) (performAll s g)
    let s := discardPacketsOf s g
    let s := modGroup s g fun x => { x with
      status := .exited, critical := false, haltAsked := none, pending := [], inFlight := [], enlist := [], hostWait := none }
    if x.sup then endBlock s x.block .failed else s

end Sys2Proof.Machine
end

