-- ==== Sys2Proof/Machine/Engine.lean ====
section
/-! DEFINITION. What the engines share (R123, R124, R137, R157, R316): issue, completion in order, global accesses, page faults,
deliveries into gates. -/

namespace Sys2Proof.Machine

/-! ## Issue and completion (R123, R124) -/

/-- Puts an operation of the group into the machine and returns its key. -/
def issueOp (s : State) (g cls : Nat) (state : OpState) (body : OpBody) : Nat × State :=
  let (k, s) := newId s
  (k, { s with ops := kput s.ops k {
    cls := cls, group := g, block := (getGroup s g).block, part := partOf s g, issued := s.cycle, since := s.cycle, state := state, body := body
    ctx := (ctxOf s g).id, gen := (ctxOf s g).gen, table := (ctxOf s g).table } })

/-- The operations of a class of a group, oldest first. -/
def opsOf (s : State) (g cls : Nat) : KMap Op := s.ops.filter fun e => e.2.group == g && e.2.cls == cls

/-- oc of a class: the operations from the oldest incomplete one on (R124). -/
def ocOf (s : State) (g cls : Nat) : Nat := ((opsOf s g cls).dropWhile fun e => e.2.done.isSome).length

/-- Whether every older operation of its class and group is complete. -/
def olderDone (s : State) (k : Nat) (o : Op) : Bool :=
  ((opsOf s o.group o.cls).filter fun e => e.1 < k).all fun e => e.2.done.isSome

/-- Whether a group is there to receive a status (R92 item 6). -/
def receives (s : State) (g : Nat) : Bool :=
  match kfind s.groups g with
  | some x => x.status != .exited
  | none => false

/-- Sets a sticky status bit of a class (R124). -/
def stickyBit (s : State) (g cls : Nat) (st : OpStatus) : State :=
  if !receives s g then s
  else match st with
    | .ok => s
    | .err => modGroup s g fun x => { x with err := x.err ||| BitVec.ofNat 4 (2 ^ cls) }
    | .tmo => modGroup s g fun x => { x with tmo := x.tmo ||| BitVec.ofNat 4 (2 ^ cls) }

/-- An operation completes with the status it recorded; both sticky bits are set where it recorded both (R124, R186). -/
def completeOp (s : State) (k : Nat) (o : Op) : State :=
  let st : OpStatus := if o.err then .err else if o.tmo then .tmo else .ok
  let s := stickyBit (modOp s k fun o => { o with done := some st }) o.group o.cls st
  if o.err && o.tmo then stickyBit s o.group o.cls .tmo else s

/-- Whether the engines of a core run: their die is not stopped by a trip, point 0 or a change of point (R360, R363). -/
def engineRuns (s : State) (core : Nat) : Bool :=
  let d := getDie s (dieOfCore core)
  !d.tripped && d.change.isNone && d.point != 0

/-- Whether a halt keeps an operation's group from starting new work of the engines (R337). -/
def notStarting (s : State) (o : Op) : Bool :=
  (getBlock s o.block).shadow || match (getGroup s o.group).status with
    | .halted _ => true
    | _ => false

/-- An event of an operation in one of some states, with no page fault that holds it, of a block whose context is resident; the amplitude engines
and the fabric go on without it (R337). -/
def opEvent (s : State) (k : Nat) (states : List OpState) (f : Op → Option State) : Option State :=
  match getOp s k with
  | some o =>
    let b := getBlock s o.block
    if o.done.isNone && states.contains o.state && o.fault.isNone && (!b.shadow || 2 ≤ o.cls) && engineRuns s b.core then f o else none
  | none => none

/-- Whether an older checkpointed operation of its class and group has still to resume (R338). -/
def behindSaved (s : State) (k : Nat) (o : Op) : Bool := (opsOf s o.group o.cls).any fun e => e.1 < k && e.2.saved && e.2.done.isNone

def setOpState (s : State) (k : Nat) (st : OpState) : State := modOp s k fun o => { o with state := st, saved := false, since := s.cycle }

/-- Records what an operation has met. -/
def recordOp (s : State) (k : Nat) (fl : BitVec 5) (err : Bool) : State :=
  modOp s k fun o => { o with flags := o.flags ||| fl, err := o.err || err }

/-! ## Global accesses (R157, R181, R251, R354, R356, R370) -/

/-- Translation for an operation of a block: through its core's TLB while its context runs, else by the saved root. -/
def engineTranslate (s : State) (b va : Nat) (acc : Access) : State × Except (Nat × Nat) Phys :=
  let blk := getBlock s b
  let sp := spaceOfBlock s blk
  if !blk.shadow then translate s sp va acc
  else if 2 ^ 56 ≤ va then (s, .error (5, 0))
  else
  match walkRoot s sp.root va with
    | .stop kind _ _ _ => (s, .error (4, kind))
    | .leaf level pte e =>
      let sh := levelShift level
      let t : TlbEntry := { base := va / 2 ^ sh * 2 ^ sh, shift := sh, leaf := e, pte := pte }
      let s := match setLeafBits s t (if acc = .write then accessedBit + dirtyBit else accessedBit) with
        | some r => r.1
        | none => s
      let p : Phys := match renamedPage s sp.part sp.launch (va / 65536) with
        | some frame => { pa := frame + va % 65536, attr := attrOf e, page := va / 65536 * 65536 }
        | none => { pa := leafFrame e sh + va % 2 ^ sh, attr := attrOf e, shift := sh, page := t.base }
      let allowed := match acc with
        | .write => leafW e
        | _ => leafR e
      if allowed && addressOk s p.pa (acc = .write) then (s, .ok p) else (s, .error (5, 0))

/-- What an engine finds at a virtual address: its place, an access failure, or a page fault of a kind that the handler serves. -/
inductive Found where
  | at_ (p : Phys)
  | failed
  | fault (kind : Nat)
  deriving DecidableEq, Repr

def pageOf (va : Nat) : Nat := va / 65536

/-- Locates an address for an operation: endpoint windows are reserved to engines (R370), a page that the handler could not map
fails (R316). -/
def engineLocate (s : State) (o : Op) (va : Nat) (acc : Access) : State × Found :=
  match engineTranslate s o.block va acc with
  | (s, .ok p) => if inEndpoints p.pa then (s, .failed) else (s, .at_ p)
  | (s, .error (4, kind)) => if o.unmappable.contains (pageOf va) then (s, .failed) else (s, .fault kind)
  | (s, .error _) => (s, .failed)

/-- Whether an operation's access to a host page has had no answer of the untrained link for so long that a load returns poison and a
store is discarded (R355): counted from the loss of the link, or from when the operation entered its state. -/
def hostSilent (s : State) (o : Op) (p : Phys) : Bool := hostLate s p.pa (max o.since s.linkLost)
/-- Whether it still waits for the link. -/
def hostBehind (s : State) (o : Op) (p : Phys) : Bool := inApertures p.pa && !s.linkUp && !hostSilent s o p

/-- A run of bytes cut at its page boundary. -/
def splitPages (va n : Nat) : List (Nat × Nat) :=
  let r := 65536 - va % 65536
  if n ≤ r then [(va, n)] else [(va, r), (va + r, n - r)]

def coreOfBlock (s : State) (b : Nat) : Nat := (getBlock s b).core

/-- Whether a read of bytes at a located address meets poison. -/
def physPoisoned (s : State) (p : Phys) (n : Nat) : Bool :=
  isPoisoned s (.mem p.pa) || isPoisoned s (.mem (p.pa + n - 1))

/-- How the die that serves a located address answers an engine of a core. -/
def physAnswer (s : State) (core : Nat) (p : Phys) : DieAnswer := answerFor s p.pa (attrScope p.attr) (dieOfCore core)

/-- For whom an engine of a core accesses memory: the context, generation and table of the command at its issue (R195). -/
structure Issuer where
  core : Nat
  part : Nat
  ctx : Nat
  gen : BitVec 16
  table : Nat
  deriving DecidableEq, Repr

def Op.issuer (o : Op) (core : Nat) : Issuer := { core := core, part := o.part, ctx := o.ctx, gen := o.gen, table := o.table }

/-- The entry that a byte range of an engine is at the landing (R195). -/
def Issuer.entry (who : Issuer) (p : Phys) (n : Nat) (store : Bool) : Entry :=
  { addr := p.pa, size := n, op := if store then 17 else 16, part := who.part, ctx := who.ctx, gen := who.gen, table := who.table }

/-- How many of the last pending entries of its word an engine's range may be swapped before (R193, R196); none where the range is no word,
or entries of other words overlap it. -/
def passable (s : State) (e : Entry) : Nat :=
  if (e.size != 4 && e.size != 8) || crowded s e.addr e.size then 0
  else (((wordIdx s e.addr e.size).filterMap fun i => s.landing[i]?).reverse.takeWhile fun x =>
    x.mayStep && x.sameGen e && (tableOf s x e).commutes x.op e.op).length

/-- Before an engine's access: the page's scope is noted (R101), and what is pending at the landings of its bytes comes first, but for
the last entries of its word that the range may be swapped before: how many of those it passes is left open (R195 to R197, log entry
14). -/
def engineTouch (s : State) (who : Issuer) (p : Phys) (n : Nat) (store : Bool) : State :=
  let s := touchScope s who.part who.ctx (attrScope p.attr) who.core p
  if !attrAE p.attr then s
  else
    let s := flushRange (drainBytes s p.pa n) p.pa n
    let e := who.entry p n store
    let free := passable s e
    let (k, s) := if free == 0 then (0, s) else (Config.enginePasses s.fresh % (free + 1), { s with fresh := s.fresh + 1 })
    let is := inOrder s e.overlaps
    applyAt s (is.take (is.length - k))

/-- Bytes that an engine reads: free values from a page touched outside its scope (R101). -/
def engineRead (s : State) (who : Issuer) (p : Phys) (n : Nat) : State × List Byte :=
  let s := engineTouch s who p n false
  if mixed s p.pa then
    ({ s with fresh := s.fresh + 1 }, (List.range n).map fun i => Config.freeByte (2 ^ 48 * s.fresh + p.pa + i))
  else (s, ((Loc.mem p.pa).run n).map (readByte s))

/-- Writes of an engine at local physical addresses, poison not yet cleared: a die that answers with errors takes nothing, which
the operation reports as err (R349); a die-scope home keeps its granules dirty (R98). -/
def engineWriteRaw (s : State) (core scope : Nat) (bytes : List (Nat × Byte)) : State :=
  match bytes with
  | [] => s
  | (a, _) :: _ =>
    match answerFor s a scope (dieOfCore core) with
    | .error => s
    | _ =>
      keepDirty (writeRaw s (bytes.map fun e => (Loc.mem e.1, e.2))) core scope (bytes.map (·.1))

/-- A store that an engine makes for a program: what it writes in the shards of an amplitude operation becomes unspecified (R250). -/
def engineStore (s : State) (core scope : Nat) (bytes : List (Nat × Byte)) : State :=
  match bytes with
  | [] => s
  | (a, _) :: _ =>
    if answerFor s a scope (dieOfCore core) = .error then s
    else spoilAmp s (engineWriteRaw s core scope bytes) (bytes.map (·.1))

/-- Clears the poison of the granules of some written places that are wholly written and received none (R157, R342). -/
def healGranules (s : State) (written carry : List Loc) : State :=
  let gs := (written.map Loc.granule).eraseDups.filter fun g => !carry.contains g && g.granuleBytes.all fun l => written.contains l
  gs.foldl (fun s g => markPoison s g false) s

/-- Poisons some granules, behind the loads on their way to them. -/
def poisonGranules (s : State) (gs : List Loc) : State := gs.foldl strikeGranule s

/-- The record of a granule withheld from the host (R356). -/
def logWithheld (s : State) (part cls : Nat) (granule : Nat) : State := logAppend s part (64 * granule) 9 cls

/-! ## Records that a command reads at its issue (R151, R231) -/

/-- What an issue check finds: a value, a trap with its code and address, or that the group waits, for a host page with its address (R355). -/
inductive Checked (α : Type) where
  | ok (x : α)
  | trap (num code va : Nat)
  | wait (host : Option Nat)
  deriving DecidableEq, Repr

/-- Ends an issue check: the trap, the wait, or what follows. -/
def settleCheck {α : Type} (s : State) (g : Nat) (c : Checked α) (k : α → State) : State :=
  match c with
  | .ok x => k x
  | .trap num code va => raise s g num va 0 code
  | .wait none => waitHere s g
  | .wait (some va) => waitHost s g 0 va

/-- Issues a command of a class (R123, R124, R155, R173): what the group has issued is performed, the checks are made, then the group
waits while an access of its own is outstanding or the class counts 63; else the command issues. -/
def issueCommand {α : Type} (s : State) (g cls : Nat) (check : State → State × Checked α) (issue : State → α → State) : State :=
  let r := check (performAll (endChain s g) g)
  settleCheck r.1 g r.2 fun x => if 63 ≤ ocOf r.1 g cls || outstanding r.1 g then waitHere r.1 g else issue r.1 x

/-- A release that issues a command of a class behind its checks (R124, R260): the group waits while the class counts 63 (log entry 89). -/
def releaseIssue (s : State) (g cls : Nat) (f : State → State) : State :=
  release s g fun s => if 63 ≤ ocOf s g cls then waitHere s g else f s

/-- Reads `n` bytes at a virtual address through the TLB with no translation register (R109 items 3 to 5, R151, R239): where it is a load of
the group, `widen`, it widens the reach (R121). A window reads as zeros, as memory that nothing writes (R370). -/
def readGlobal (s : State) (g va n : Nat) (widen : Bool) : State × Checked (List Byte) :=
  let (s, rs) := (splitPages va n).foldl (fun (acc : State × List (Nat × Nat × Except (Nat × Nat) Phys)) q =>
    let r := translate acc.1 (spaceOf s g) q.1 .read q.2
    (r.1, acc.2 ++ [(q.1, q.2, r.2)])) (s, [])
  let errs := rs.filterMap fun r => match r.2.2 with
    | .error e => some (e.1, e.2, r.1)
    | .ok _ => none
  match errs.find? fun e => e.1 == 4, errs with
  | some e, _ => (s, .trap e.1 e.2.1 e.2.2)
  | none, e :: _ => (s, .trap e.1 e.2.1 e.2.2)
  | none, [] =>
    let ps := rs.filterMap fun r => match r.2.2 with
      | .ok p => some (r.1, r.2.1, p)
      | .error _ => none
    let granules := fun (q : Nat × Nat × Phys) => (List.range (q.2.1 / 64 + 1)).map fun i => Loc.mem (q.2.2.pa + min (64 * i) (q.2.1 - 1))
    match ps.find? fun q => (granules q).any (isPoisoned s) || answerFor s q.2.2.pa (attrScope q.2.2.attr) (dieOf s g) = .error with
    | some q => (s, .trap 6 0 q.1)
    | none =>
      let host := (ps.find? fun q => inApertures q.2.2.pa && !s.linkUp).map (·.1)
      if host.isSome || heldBack s g (ps.map fun q => q.2.2) then (s, .wait host)
      else
        let r := ps.foldl (fun (acc : State × List Byte) q =>
          let s := if widen then touchPage acc.1 g q.2.2 else touchScope acc.1 (partOf s g) (ctxOf s g).id (attrScope q.2.2.attr) (coreOf s g) q.2.2
          let r := ownRead s g q.2.2 q.2.1
          (r.1, acc.2 ++ r.2)) (s, [])
        (r.1, .ok r.2)

/-- Reads `n` bytes of a record at a pad offset of a level (R154 item 3), behind what the group has stored there (R116). -/
def readPadRecord (s : State) (g lvl off n : Nat) : Checked (List Byte) :=
  match padPlaces s (getGroup s g).block 0 0 lvl off n with
  | none => .trap 3 0 off
  | some p =>
    let s := settlePlaces s g p
    if placePoisoned s p then .trap 6 0 off else if placeHeld s p then .wait none else .ok (p.map (readByte s))

/-! ## Page faults (R316) -/

/-- The group that takes the trap of an operation's page fault: its own, else the lowest-numbered of its block; none of a block that is
being ended. -/
def faultGroup (s : State) (o : Op) : Option Nat :=
  if (getBlock s o.block).ending.isSome then none
  else if receives s o.group then some o.group else (groupsOf s o.block).find? fun g => receives s g

/-- Holds an operation on a page: trap 4 becomes pending in a group, or the page counts as unmappable where none remains. -/
def raiseEngineFault (s : State) (k : Nat) (o : Op) (va kind : Nat) (held : OpState) : State :=
  let page := pageOf va
  match faultGroup s o with
  | none => modOp s k fun o => { o with unmappable := insertNat o.unmappable page }
  | some g =>
    let a := BitVec.ofNat 64 (65536 * page)
    let p : Pending := { num := 4, code := kind + 4 + 8 * o.cls, addr := a, vaddr := a, op := some k }
    let s := modOp s k fun o => { o with fault := some { page := page }, state := held }
    modGroup s g fun x => { x with pending := x.pending ++ [p] }

/-- After the handler's return, or where no group can serve it, a held operation translates its page again: it goes on, with the page
counted as unmappable where that fails (R316). An operation whose group is halted waits (R337). -/
def resumeFault (s : State) (k : Nat) (o : Op) (next : OpState) : Option State :=
  match o.fault with
  | none => none
  | some f =>
    if notStarting s o || !(f.served || (faultGroup s o).isNone) then none
    else
      let go := fun (s : State) (bad : Bool) => modOp s k fun o => { o with
        fault := none, state := next, unmappable := if bad then insertNat o.unmappable f.page else o.unmappable }
      match engineTranslate s o.block (65536 * f.page) .read with
      | (s', .error (4, _)) => some (go s' true)
      | (s', _) => some (go s' false)

/-! ## Deliveries (R137) -/

/-- Applies one delivery of an operation to a gate, given as a reference of the issuing block and, for fy.mcast, a rank: discarded
with err where the gate's bytes are poisoned. -/
def deliverTo (s : State) (k : Nat) (o : Op) (ref : DWord) (rank : Option Nat) (bytes tag : Nat) : State :=
  let places := match rank with
    | none => padPlaces s o.block 0 0 (refLvl ref) (refOff ref) 16
    | some r => padPlaces s o.block 0 0 2 (r * 2 ^ 18 + refOff ref) 16
  match places with
  | none => s
  | some p =>
    if placePoisoned s p then modOp s k fun o => { o with err := true }
    else (applyArrival s o.block p 0 bytes (some tag) false).1

/-! ## What has been handled (R255, R271) -/

/-- Notes that a packet or contribution of another module, by its device, operation and issue cycle, has been handled; what the limit keeps from being
applied is forgotten. -/
def noteHandled (s : State) (h : Nat × Nat × Nat) : State :=
  { s with handled := (s.handled.filter fun h => s.cycle < h.2.2 + Config.packetLimit) ++ [h] }

/-! ## Routes and completions of the fabric (R255, R260, R271, R366) -/

/-- What becomes of traffic to a device: it leaves, it is denied by every port filter, or every port that admits it has failed. -/
inductive Route where
  | open_ | denied | failed
  deriving DecidableEq, Repr

/-- The route to a device through the twenty-four ports; the module reaches itself without one. -/
def route (s : State) (dev : Nat) : Route :=
  if dev == s.dev then .open_
  else
    let allow := ((List.range 24).map fun i => kgetD s.ports i {}).filter fun p => p.lo ≤ dev && dev ≤ p.hi
    if allow.isEmpty then .denied else if allow.all (·.failed) then .failed else .open_

/-- Sends a completion to the device that asked. -/
def sendCompletion (s : State) (dev op : Nat) (status : OpStatus) (data : List Byte) : State :=
  let c : Completion := { dev := dev, op := op, status := status, data := data }
  if dev == s.dev then { s with completions := s.completions ++ [c] } else { s with replies := s.replies ++ [c] }

/-- A class x operation completes; a result in flight has come back, and the operation's packets are no longer on their way. -/
def endRemote (s : State) (k : Nat) (o : Op) (x : FabricOp) : State :=
  let s := match x.slot with
    | some i => modGroup s o.group fun g => { g with inFlight := kmodify g.inFlight i fun e => { e with awaiting := 0 } }
    | none => s
  completeOp s k o

/-- The operation has completed at a device: a failure there is kept for the next rfence.flag to it (R260, R264). -/
def deviceDone (s : State) (k dev : Nat) (st : OpStatus) : State :=
  match getOp s k with
  | some o => match o.body with
    | .fabric x =>
      let s := if st = .ok then s else modGroup s o.group fun g => { g with xFailed := g.xFailed ++ [(dev, k)] }
      let x := { x with waiting := x.waiting.erase dev }
      let o := { o with err := o.err || st == .err, tmo := o.tmo || st == .tmo, body := .fabric x }
      let s := { s with ops := kput s.ops k o }
      if x.waiting.isEmpty then endRemote s k o x else s
    | _ => s
  | none => s

end Sys2Proof.Machine
end

