-- ==== Sys2Proof/Machine/Layout.lean ====
section
/-! DEFINITION. Layout records and boxes of the ferry (R151 to R153): fields, element sizes, places of elements, conversions. -/

namespace Sys2Proof.Machine

/-! ## Fields (R152) -/

def word32 (bs : List Byte) (i : Nat) : Nat := leNat ((List.range 4).map fun k => (bs[4 * i + k]?).getD 0)

/-- The record in 64 bytes. -/
def parseLayout (bs : List Byte) : Layout :=
  let w := word32 bs
  let hi := w 2 + 2 ^ 32 * w 3
  { gb := w 0 + 2 ^ 32 * w 1, fd := BitVec.ofNat 16 (bitsOf hi 48 16), cv := bitsOf hi 42 4, esz := bitsOf hi 39 3
    dims := bitsOf hi 36 3, dir := bitsOf hi 34 2, pl := bitsOf hi 32 2, po := bitsOf hi 0 32
    box := [bitsOf (w 4) 0 16, bitsOf (w 4) 16 16, bitsOf (w 5) 0 16, bitsOf (w 5) 16 16, bitsOf (w 6) 0 16]
    pp := bitsOf (w 6) 16 16, ext := (List.range 5).map fun k => w (7 + k), str := 0 :: (List.range 4).map fun k => w (12 + k) }

def at5 (l : List Nat) (k : Nat) : Nat := (l[k]?).getD 0

/-- Bits of an element of the narrow side: a byte for an illegal descriptor (R153). -/
def narrowBits (d : Half) : Nat := if Narrow.legal d then (Narrow.Desc.of d).cell else 8

/-- Bits of a source element and of a destination element (R152). -/
def Layout.srcBits (l : Layout) : Nat := if l.cv == 6 then narrowBits l.fd else 8 * 2 ^ l.esz
def Layout.dstBits (l : Layout) : Nat := match l.cv with
  | 1 | 2 => 16
  | 3 => narrowBits l.fd
  | 4 | 5 | 6 => 32
  | _ => l.srcBits
/-- Bits of an element of the global side, and of the pad side. -/
def Layout.globalBits (l : Layout) : Nat := if l.dir == 0 then l.srcBits else l.dstBits
def Layout.padBits (l : Layout) : Nat := if l.dir == 1 then l.srcBits else l.dstBits

/-- Rows of the box (R153). -/
def Layout.rows (l : Layout) : Nat := ((List.range l.dims).drop 1).foldl (fun n k => n * at5 l.box k) 1
def Layout.rowBytes (l : Layout) : Nat := at5 l.box 0 * l.padBits / 8
/-- The row pitch q. -/
def Layout.pitch (l : Layout) : Nat := if l.pp != 0 then 16 * l.pp else l.rowBytes
/-- Bytes from PO to the end of the last of `n` rows. -/
def Layout.footprint (l : Layout) (n : Nat) : Nat := (n - 1) * l.pitch + l.rowBytes

/-- The rules of R154 item 4 on a record, with those of R158 to R160 for the command. -/
def Layout.legal (l : Layout) (bs : List Byte) (kind : FerryKind) : Bool :=
  let dims := List.range 5
  let used := fun (k : Nat) => k < l.dims
  let hi := word32 bs 2 + 2 ^ 32 * word32 bs 3
  l.cv ≤ 6 && l.esz ≤ 4 && 1 ≤ l.dims && l.dims ≤ 5 && l.dir != 3 && bitsOf hi 46 2 == 0 &&
    (l.cv == 3 || l.cv == 6 || l.fd == 0) && l.po % 16 == 0 &&
    (dims.all fun k => if used k then at5 l.box k != 0 && (2 ≤ l.dir || at5 l.ext k != 0)
      else at5 l.box k == 0 && at5 l.ext k == 0 && at5 l.str k == 0) &&
    (match l.cv with
      | 1 | 2 | 3 => l.esz == 2
      | 4 | 5 => l.esz == 1
      | 6 => l.esz == 0
      | _ => true) &&
    (if l.dir == 2 then l.gb < 2 ^ 34 else l.gb < 2 ^ 56 && l.gb % (max 1 (l.globalBits / 8)) == 0) &&
    ((l.srcBits != 4 && l.dstBits != 4) || at5 l.box 0 % 2 == 0) &&
    (l.pp == 0 || l.rowBytes ≤ 16 * l.pp) &&
    (match kind with
      | .copy => true
      | .mcast => l.dir != 1 && l.pl == 1
      | .gather => l.dir == 0 && 2 ≤ l.dims && ((List.range l.dims).drop 1).all fun k => at5 l.box k == 1
      | .fill => l.cv == 0 && l.dir ≤ 1 && (l.dir == 1 || l.gb == 0))

/-! ## Elements of an operation (R153, R158) -/

def FerryOp.rowCount (f : FerryOp) : Nat := if f.kind = .gather then f.rows.length else f.lay.rows
/-- Elements of the box, in the order of its dense layout. -/
def FerryOp.total (f : FerryOp) : Nat := f.rowCount * at5 f.lay.box 0

/-- The tensor index of element `n` in each dimension. -/
def FerryOp.index (f : FerryOp) (n : Nat) : List Int :=
  let b := fun k => max 1 (at5 f.lay.box k)
  let r := n / b 0
  let c := fun k => (f.coords[k]?).getD 0
  if f.kind = .gather then
    (List.range f.lay.dims).map fun k => if k == 0 then c 0 + (n % b 0 : Nat) else if k == 1 then (f.rows[r]?).getD 0 else c k
  else
    (List.range f.lay.dims).map fun k =>
      let below := ((List.range k).drop 1).foldl (fun m i => m * b i) 1
      if k == 0 then c 0 + (n % b 0 : Nat) else c k + (r / below % b k : Nat)

def FerryOp.inBounds (f : FerryOp) (n : Nat) : Bool :=
  ((f.index n).zip f.lay.ext).all fun e => 0 ≤ e.1 && e.1 < e.2

/-- Virtual address and nibble of an in-bounds element on the global side. -/
def FerryOp.globalAt (f : FerryOp) (n : Nat) : Nat × Nat :=
  let ix := f.index n
  let x0 := (ix.headD 0).toNat
  let rest := ((ix.zip f.lay.str).drop 1).foldl (fun a e => a + e.1.toNat * 16 * e.2) 0
  let bits := f.lay.globalBits
  (f.lay.gb + x0 * bits / 8 + rest, if bits == 4 then x0 % 2 else 0)

/-- Offset and nibble of an element on the pad side. -/
def FerryOp.padAt (f : FerryOp) (n : Nat) : Nat × Nat :=
  let b0 := max 1 (at5 f.lay.box 0)
  let bits := f.lay.padBits
  (f.lay.po + n / b0 * f.lay.pitch + n % b0 * bits / 8, if bits == 4 then n % b0 % 2 else 0)

/-- Offset and nibble of an element in the dense source of DIR 2. -/
def FerryOp.srcAt (f : FerryOp) (n : Nat) : Nat × Nat :=
  let bits := f.lay.srcBits
  (bitsOf f.lay.gb 0 32 + n * bits / 8, if bits == 4 then n % 2 else 0)

/-! ## Values -/

/-- Bytes that an element of some bits touches. -/
def cellBytes (bits : Nat) : Nat := max 1 (bits / 8)

/-- An element out of the bytes it touches: a nibble, or all of them; narrow elements keep their low T bits. -/
def cellOf (bits nib : Nat) (bs : List Byte) : Nat := if bits == 4 then bitsOf (leNat bs) (4 * nib) 4 else leNat bs

/-- The bytes an element leaves where `old` stood. -/
def cellPut (bits nib : Nat) (old : List Byte) (v : Nat) : List Byte :=
  if bits == 4 then
    let o := leNat old
    leBytes 1 (if nib == 0 then o / 16 * 16 + v % 16 else o % 16 + 16 * (v % 16))
  else leBytes (bits / 8) v

open Sys2Proof.Fp in
/-- The conversion of an element (R153). -/
def Layout.convert (l : Layout) (x : Nat) : Nat × BitVec 5 :=
  match l.cv with
  | 1 => let r := Machine.convert 10 9 (BitVec.ofNat 64 x); (r.1.toNat, r.2)
  | 2 => let r := Machine.convert 10 8 (BitVec.ofNat 64 x); (r.1.toNat, r.2)
  | 3 => Narrow.satFmt (BitVec.ofNat 32 x) l.fd
  | 4 => let r := Machine.convert 9 10 (BitVec.ofNat 64 x); (r.1.toNat, r.2)
  | 5 => let r := Machine.convert 8 10 (BitVec.ofNat 64 x); (r.1.toNat, r.2)
  | 6 => let r := Narrow.decodeElem x l.fd; (r.1.toNat, r.2)
  | _ => (x, 0)

end Sys2Proof.Machine
end

