-- ==== Sys2Proof/Machine/MatrixMath.lean ====
section
/-! DEFINITION. The arithmetic of the matrix engine (R50, R167, R168, R176, R177): operand elements, the inner sum in its window,
promotion. -/

namespace Sys2Proof.Mx

open Sys2Proof.Fp

/-- How operand elements are held: 1 bf16, 2 f16, 3 narrow with a descriptor (R171). -/
structure Form where
  kind : Nat
  desc : Half
  deriving DecidableEq, Repr

/-- K, the elements of one 64-byte row or column (R167). -/
def Form.depth (f : Form) : Nat :=
  if f.kind != 3 then 32 else if (Narrow.Desc.of f.desc).width ≤ 4 then 128 else 64

/-- Block scales of one row or column: K / 32 (R178). -/
def Form.blocks (f : Form) : Nat := f.depth / 32

def byteAt (bs : List Byte) (i : Nat) : Nat := ((bs[i]?).getD 0).toNat

/-- Element `k` of a 64-byte row or column (R168), exactly (R48, R175). -/
def Form.elem (f : Form) (bs : List Byte) (k : Nat) : Val :=
  if f.kind == 3 then
    let x := if f.depth == 128 then bitsOf (byteAt bs (k / 2)) (4 * (k % 2)) 4 else byteAt bs k
    (Narrow.Desc.of f.desc).value x
  else Fp.decode (if f.kind == 1 then bf16 else f16) (byteAt bs (2 * k) + 256 * byteAt bs (2 * k + 1))

/-- An element under its block scale byte (R50). -/
def scaled (v : Val) (x : Nat) : Val :=
  if x == 255 then .nan false
  else match v with
    | .fin s m e => .fin s m (e + x - 127)
    | v => v

/-- The K elements of a row or column, under its block scales where there are any. -/
def Form.row (f : Form) (bs scales : List Byte) : List Val :=
  (List.range f.depth).map fun k =>
    if scales.isEmpty then f.elem bs k else scaled (f.elem bs k) (byteAt scales (k / 32))

/-- A sum of products: as the window delivers it, exactly, and whether NaN arose (R176, R177). -/
structure Sum where
  window : Val
  exact : Val
  bad : Bool := false
  deriving DecidableEq, Repr

def zeroSum : Sum := { window := .fin false 0 0, exact := .fin false 0 0 }

/-- The sum of finite values given as sign, magnitude and exponent, each first truncated toward zero to a multiple of 2^q. -/
def sumFrom (q : Int) (ps : List (Bool × Nat × Int)) : Val :=
  let t : Int := ps.foldl (fun t p =>
    let m : Nat := if q ≤ p.2.2 then p.2.1 * 2 ^ (p.2.2 - q).toNat else p.2.1 / 2 ^ (q - p.2.2).toNat
    if p.1 then t - m else t + m) 0
  .fin (t < 0) t.natAbs q

/-- inner_sum of the products of a row and a column (R176). -/
def innerSum (a b : List Val) : Sum :=
  let ps := (a.zip b).map fun e => mulExact e.1 e.2
  let plus := ps.any fun p => p == .inf false
  let minus := ps.any fun p => p == .inf true
  if ps.any isNan || (plus && minus) then { window := .nan false, exact := .nan false, bad := true }
  else if plus || minus then { window := .inf minus, exact := .inf minus }
  else
    let fin := ps.filterMap fun p => match p with
      | .fin s m e => if m == 0 then none else some (s, m, e)
      | _ => none
    match fin with
    | [] => zeroSum
    | p :: rest =>
      let top := fun (p : Bool × Nat × Int) => (Nat.log2 p.2.1 : Int) + p.2.2
      let emax := rest.foldl (fun m p => max m (top p)) (top p)
      let emin := rest.foldl (fun m p => min m p.2.2) p.2.2
      { window := sumFrom (emax - 47) fin, exact := sumFrom emin fin }

/-- A NaN that raises nothing by itself (R177). -/
def quiet (v : Val) : Val := if isNan v then .nan false else v

/-- The exact c + p of finite values. -/
def plusExact (c p : Val) : Val :=
  match c, p with
  | .fin s1 m1 e1, .fin s2 m2 e2 =>
    let r := addExact .ne s1 m1 e1 s2 m2 e2
    .fin r.1 r.2.1 r.2.2
  | _, _ => .nan false

def sameValue (a b : Val) : Bool := !isNan a && !isNan b && !ltV a b && !ltV b a

/-- round_ne_f32 (c + S × s), with the flags of R177: inexact and underflow against the untruncated sum. -/
def promote (c : Word) (sa sb : Word) (s : Sum) : Word × Flags :=
  let va := quiet (Fp.decode f32 sa.toNat)
  let vb := quiet (Fp.decode f32 sb.toNat)
  let scale := mulExact va vb
  let cv := quiet (Fp.decode f32 c.toNat)
  let p := mulExact scale s.window
  let r := addV f32 .ne cv p
  let bad := s.bad || mulInvalid va vb || mulInvalid scale s.window ||
    (match cv, p with
      | .inf x, .inf y => x != y
      | _, _ => false)
  let fl : Flags := if bad then invalid else 0
  let d := Fp.decode f32 r.1
  match cv, p with
  | .fin .., .fin .. =>
    let off := !sameValue d (plusExact cv (mulExact scale s.exact))
    let tiny := r.1 / 2 ^ 23 % 256 == 0
    (BitVec.ofNat 32 r.1, fl ||| (r.2 &&& overflow) ||| (if off then inexact ||| (if tiny then underflow else 0) else 0))
  | _, _ => (BitVec.ofNat 32 r.1, fl)

/-- tile[t][n] + x of a contribution (R182), with the flags of R177. A NaN addend, quiet or signalling, counts as a NaN operand
element of R177 and sets invalid: the model's reading, log entry 31. -/
def addend (c x : Word) : Word × Flags :=
  let v := Fp.decode f32 x.toNat
  promote c 0x3F800000 0x3F800000 { window := quiet v, exact := quiet v, bad := isNan v }

end Sys2Proof.Mx
end

