-- ==== Sys2Proof/Machine/Matrix.lean ====
section
/-! DEFINITION. The matrix engine (R167 to R189): the issue checks, the commands of major 0x1A, how they are performed, contributions. -/

namespace Sys2Proof.Machine

/-! ## Fields of a control word (R171, R178, R182) -/

def MatrixOp.tile (m : MatrixOp) : Option Nat := if m.cmd == 0 || m.cmd == 5 then none else some (fld m.ctl 8 4)
def MatrixOp.sub (m : MatrixOp) : Option Nat := if m.cmd ≤ 1 || m.cmd == 5 then some (fld m.ctl 0 2) else none
def MatrixOp.row0 (m : MatrixOp) : Nat := fld m.ctl 17 5
/-- rows of the command -/
def MatrixOp.count (m : MatrixOp) : Nat := fld m.ctl 12 5 + 1
def MatrixOp.form (m : MatrixOp) : Mx.Form := { kind := m.kind, desc := m.desc }
/-- bits of an output element, the output row size, the pitch P (R180) -/
def MatrixOp.outBits (m : MatrixOp) : Nat := match m.kind with
  | 0 => 32
  | 3 => narrowBits m.desc
  | _ => 16
def MatrixOp.outRow (m : MatrixOp) : Nat := 8 * m.outBits
def MatrixOp.pitch (m : MatrixOp) : Nat := if fld m.ctl 32 16 == 0 then m.outRow else 16 * fld m.ctl 32 16
/-- contributions of an mx.arm (R182) -/
def MatrixOp.contributors (m : MatrixOp) : Nat := fld m.ctl 16 16

/-- The operand format that FK, or the output format that OK, names (R171): its kind and descriptor. -/
def mxFormat (x : Group) (cmd : Nat) (c : DWord) : Nat × Half :=
  let fr := x.fmtReg (fld c 2 3)
  let fd := BitVec.ofNat 16 (fld c 48 16)
  if cmd ≤ 1 then match fld c 5 2 with
    | 0 => (3, fr)
    | 3 => (3, fd)
    | k => (k, 0)
  else if cmd == 3 || cmd == 4 then match fld c 22 3 with
    | 3 => (3, fr)
    | 4 => (3, fd)
    | k => (k, 0)
  else (0, 0)

/-- The bits of the control word that a command may set. -/
def mxUsed (cmd : Nat) (c : DWord) : DWord :=
  let rows : DWord := 0x3FFF00
  let fk := fld c 5 2
  let ok := fld c 22 3
  let frIn : DWord := if fk == 0 then 0x1C else 0
  let fdIn : DWord := if fk == 3 then 0xFFFF000000000000 else 0
  let frOut : DWord := if ok == 3 then 0x1C else 0
  let fdOut : DWord := if ok == 4 then 0xFFFF000000000000 else 0
  match cmd with
  | 0 => 0x63 ||| frIn ||| fdIn
  | 1 => 0xE3 ||| rows ||| frIn ||| fdIn
  | 2 => rows
  | 3 | 4 => 0xFFFF01C00000 ||| rows ||| frOut ||| fdOut
  | 5 => 0x303
  | _ => 0xFFFF1F00

/-! ## Checks at issue or capture (R172) -/

/-- Bytes of block scales: K / 32 for each of `n` rows or columns (R178). -/
def MatrixOp.scaleBytes (m : MatrixOp) (n : Nat) : Nat := m.form.blocks * n

/-- A footprint of a matrix pad reference, or trap 3. -/
def mxFoot (s : State) (b : Nat) (r : DWord) (n : Nat) : Except (Nat × Nat) Unit :=
  if (padPlaces s b 0 0 (refLvl r) (refOff r) n).isSome then .ok () else .error (3, refOff r)

/-- Items 4 to 6. -/
def mxReference (s : State) (b : Nat) (m : MatrixOp) : Except (Nat × Nat) Unit :=
  let r := m.ref
  let lvl := fld r 32 2
  let off := refOff r
  match m.cmd with
  | 0 | 1 =>
    if 2 ≤ lvl || fld r 34 30 != 0 then .error (3, off)
    else if off % 64 != 0 then .error (2, off)
    else if m.cmd == 0 then mxFoot s b r (4096 + if m.issued.2 then m.scaleBytes 64 else 0)
    else mxFoot s b r (64 * m.count + if m.issued.1 then m.scaleBytes m.count else 0)
  | 3 =>
    if lvl == 3 || fld r 34 30 != 0 then .error (3, off)
    else if off % 16 != 0 then .error (2, off)
    else mxFoot s b r ((m.count - 1) * m.pitch + m.outRow)
  | 4 => if r.toNat % 16 != 0 then .error (2, r.toNat) else if 2 ^ 56 ≤ r.toNat then .error (5, r.toNat) else .ok ()
  | 6 => match m.gate with
    | none => .ok ()
    | some q => match gatePlaces s b q with
      | .error n => .error (n, refOff q)
      | .ok _ => .ok ()
  | _ => .ok ()

/-- A matrix command with SUB5 `cmd` and fields SA and SB, its operands read and checked, or the trap with its address (R172). -/
def mxCheck (s : State) (g cmd a b : Nat) : Except (Nat × Nat) MatrixOp :=
  let x := getGroup s g
  let blk := blockOf s g
  let c := x.sreg b
  let fmt := mxFormat x cmd c
  let m : MatrixOp := {
    cmd := cmd, ref := if cmd == 2 then 0 else x.sreg a, ctl := c, kind := fmt.1, desc := fmt.2
    issued := kgetD blk.issuedScales (fld c 0 2) (false, false)
    gate := if cmd == 6 && a != 0 then some (x.sreg a) else none }
  if m.tile.any fun t => blk.tiles ≤ t then .error (3, 0)
  else if c &&& ~~~(mxUsed cmd c) != 0 then .error (0, 0)
  else if (1 ≤ cmd && cmd ≤ 4) && 32 < m.row0 + m.count then .error (0, 0)
  else if (cmd == 3 || cmd == 4) && 4 < fld c 22 3 then .error (0, 0)
  else if fmt.1 == 3 && !Narrow.legal fmt.2 then .error (0, 0)
  else if (cmd == 3 || cmd == 4) && fld c 32 16 != 0 && 16 * fld c 32 16 < m.outRow then .error (0, 0)
  else if cmd == 6 && m.contributors == 0 then .error (0, 0)
  else (mxReference s (getGroup s g).block m).map fun _ => m

/-- The generation of a gate of a block, 0 where its bytes are not there. -/
def gateGen (s : State) (b : Nat) (r : DWord) : Nat := match gatePlaces s b r with
  | .ok p => (readGate s p).gen
  | .error _ => 0

/-- Whether the gate of a reference lies in a die pad that answers nothing now. -/
def gateHeld (s : State) (b : Nat) (r : Option DWord) : Bool := r.any fun r => match gatePlaces s b r with
  | .ok p => placeHeld s p
  | .error _ => false

/-- Puts a checked command into the engine's order, or behind its copy (R162, R173). -/
def mxIssue (s : State) (g : Nat) (m : MatrixOp) (captured : Bool) : Nat × State :=
  let b := (getGroup s g).block
  let m := { m with tag := (m.gate.map (gateGen s b)).getD 0 }
  let s := if m.cmd == 5 then modBlock s b fun k => { k with
      issuedScales := kput k.issuedScales (fld m.ctl 0 2) (bitAt m.ctl.toNat 8, bitAt m.ctl.toNat 9) } else s
  issueOp s g 1 (if captured then .captured else .ordered) (.matrix m)

/-- The check of a matrix command at its issue or capture (R172): the group waits where its gate's die answers nothing now. -/
def mxChecked (s : State) (g cmd a b : Nat) : State × Checked MatrixOp :=
  match mxCheck s g cmd a b with
  | .error e => (s, .trap e.1 0 e.2)
  | .ok m => (s, if gateHeld s (getGroup s g).block m.gate then .wait none else .ok m)

/-- Issues a matrix command (R172, R173). -/
def mxInstr (s : State) (cmd a b : Nat) : Outcome :=
  withGroup s fun g => issueCommand s g 1 (mxChecked · g cmd a b) fun s m => advance (mxIssue s g m false).2 g 4

/-- Loads weights into a sub-array (R174). -/
def execMxWload (a : BitVec 6) (b : BitVec 6) (s : State) : Outcome := mxInstr s 0 a.toNat b.toNat
/-- Streams A rows through a sub-array (R175). -/
def execMxStream (a : BitVec 6) (b : BitVec 6) (s : State) : Outcome := mxInstr s 1 a.toNat b.toNat
/-- Zeroes rows of a tile (R179). -/
def execMxZero (b : BitVec 6) (s : State) : Outcome := mxInstr s 2 0 b.toNat
/-- Reads rows of a tile out to a pad (R180). -/
def execMxRead (a : BitVec 6) (b : BitVec 6) (s : State) : Outcome := mxInstr s 3 a.toNat b.toNat
/-- Stores rows of a tile to global memory (R180, R181). -/
def execMxStore (a : BitVec 6) (b : BitVec 6) (s : State) : Outcome := mxInstr s 4 a.toNat b.toNat
/-- Sets the scale state of a sub-array index (R178). -/
def execMxScale (a : BitVec 6) (b : BitVec 6) (s : State) : Outcome := mxInstr s 5 a.toNat b.toNat
/-- Arms a tile for contributions (R182). -/
def execMxArm (a : BitVec 6) (b : BitVec 6) (s : State) : Outcome := mxInstr s 6 a.toNat b.toNat

/-! ## Rows of a tile (R167) -/

def accRow (b : Block) (tile row : Nat) : List Word := (List.range 64).map fun n => kgetD b.acc (2048 * tile + 64 * row + n) 0
def setAccRow (b : Block) (tile row : Nat) (xs : List Word) : Block :=
  { b with acc := xs.zipIdx.foldl (fun m e => kstore m (2048 * tile + 64 * row + e.2) e.1 0) b.acc }
def rowIsPoisoned (b : Block) (tile row : Nat) : Bool := b.rowPoison.contains (32 * tile + row)
def setRowPoison (b : Block) (tile row : Nat) (on : Bool) : Block :=
  { b with rowPoison := if on then insertNat b.rowPoison (32 * tile + row) else eraseNat b.rowPoison (32 * tile + row) }

/-- Bytes at a pad reference of a block, and whether a granule of theirs is poisoned (R185). -/
def padRead (s : State) (b : Nat) (r : DWord) (off n : Nat) : List Byte × Bool :=
  match padPlaces s b 0 0 (refLvl r) (refOff r + off) n with
  | some p => (p.map (readByte s), p.any (isPoisoned s))
  | none => ([], false)

def modSub (s : State) (core i : Nat) (f : SubArray → SubArray) : State :=
  modCore s core fun c => { c with subs := kput c.subs i (f (kgetD c.subs i {})) }
def getSub (s : State) (core i : Nat) : SubArray := kgetD (getCore s core).subs i {}

/-- The weights of a binding of a block go into a sub-array of its core (R169, R174). -/
def loadWeights (s : State) (b i : Nat) (bd : Binding) : State :=
  let fm : Mx.Form := { kind := bd.kind, desc := bd.desc }
  let r := padRead s b bd.ref 0 (4096 + if bd.bbs then fm.blocks * 64 else 0)
  modSub s (coreOfBlock s b) i fun x => { x with owner := some b, weights := r.1, poisoned := r.2, lastUse := s.cycle }

/-! ## Performing a command (R174 to R188) -/

def modMatrix (s : State) (k : Nat) (f : MatrixOp → MatrixOp) : State :=
  modOp s k fun o => match o.body with
    | .matrix m => { o with body := .matrix (f m) }
    | _ => o

/-- One row pass (R175): row `i` of a stream, with the weights of the sub-array. -/
def rowPass (s : State) (k : Nat) (o : Op) (m : MatrixOp) (bd : Binding) (w : SubArray) (sc : Scale) (i : Nat) : State :=
  let blk := getBlock s o.block
  let t := m.row0 + i
  let tile := m.tile.getD 0
  let a := padRead s o.block m.ref (64 * i) 64
  let nb := m.form.blocks
  let asc := if sc.abs then padRead s o.block m.ref (64 * m.count + nb * i) nb else ([], false)
  let av := m.form.row a.1 asc.1
  let bf : Mx.Form := { kind := bd.kind, desc := bd.desc }
  let ovw := bitAt m.ctl.toNat 7
  let rs := (accRow blk tile t).zipIdx.map fun c =>
    let bs := if bd.bbs then (w.weights.drop (4096 + nb * c.2)).take nb else []
    let bv := bf.row ((w.weights.drop (64 * c.2)).take 64) bs
    Mx.promote (if ovw then 0 else c.1) sc.sa bd.sb (Mx.innerSum av bv)
  let poison := (!ovw && rowIsPoisoned blk tile t) || a.2 || asc.2 || w.poisoned
  let s := modBlock s o.block fun b => setRowPoison (setAccRow b tile t (rs.map (·.1))) tile t poison
  recordOp s k (rs.foldl (fun f r => f ||| r.2) 0) false

/-- A stream performs up to `n` of its row passes (R175), after its reload (R169). -/
def performStream (s : State) (k : Nat) (o : Op) (m : MatrixOp) (n : Nat) : Option State :=
  let core := coreOfBlock s o.block
  let i := m.sub.getD 0
  let blk := getBlock s o.block
  let sc := kgetD blk.scales i {}
  if !(getSub s core i).awake then none
  else
    let fail := some (setOpState (recordOp s k 0 true) k .performed)
    match kfind blk.bindings i with
    | none => fail
    | some bd =>
      if m.form.depth != (Mx.Form.mk bd.kind bd.desc).depth || (sc.abs && !m.issued.1) then fail
      else
        let s := if (getSub s core i).owner == some o.block then s else loadWeights s o.block i bd
        let w := getSub s core i
        let n := min n (m.count - m.rows)
        let s := (List.range n).foldl (fun s j => rowPass s k o m bd w sc (m.rows + j)) s
        let s := modSub s core i fun x => { x with lastUse := s.cycle }
        let s := modMatrix s k fun m => { m with rows := m.rows + n }
        some (if m.rows + n == m.count then setOpState s k .performed else s)

/-- A load of weights sets the binding, unless a scale enable does not match (R174, R186). -/
def performWload (s : State) (k : Nat) (o : Op) (m : MatrixOp) : Option State :=
  let core := coreOfBlock s o.block
  let i := m.sub.getD 0
  let sc := kgetD (getBlock s o.block).scales i {}
  if !(getSub s core i).awake then none
  else if sc.bbs && !m.issued.2 then some (setOpState (recordOp s k 0 true) k .performed)
  else
    let bd : Binding := { ref := m.ref, kind := m.kind, desc := m.desc, bbs := sc.bbs, sb := sc.sb }
    let s := loadWeights s o.block i bd
    some (setOpState (modBlock s o.block fun b => { b with bindings := kput b.bindings i bd }) k .performed)

/-- Zeroes up to `n` rows (R179). -/
def performZero (s : State) (k : Nat) (o : Op) (m : MatrixOp) (n : Nat) : State :=
  let tile := m.tile.getD 0
  let n := min n (m.count - m.rows)
  let s := modBlock s o.block fun b => (List.range n).foldl (fun b j =>
    let t := m.row0 + m.rows + j
    setRowPoison (setAccRow b tile t (List.replicate 64 0)) tile t false) b
  let s := modMatrix s k fun m => { m with rows := m.rows + n }
  if m.rows + n == m.count then setOpState s k .performed else s

/-- An element as it is read out (R180). -/
def MatrixOp.convert (m : MatrixOp) (x : Word) : Nat × BitVec 5 :=
  match m.kind with
  | 1 => let r := Machine.convert 10 9 (x.setWidth 64); (r.1.toNat, r.2)
  | 2 => let r := Machine.convert 10 8 (x.setWidth 64); (r.1.toNat, r.2)
  | 3 => Narrow.satFmt x m.desc
  | _ => (x.toNat, 0)

/-- The bytes of row `i` as it is read out, its flags and its poison; a poisoned row's values are free. -/
def readOutRow (s : State) (o : Op) (m : MatrixOp) (i : Nat) : List Byte × BitVec 5 × Bool :=
  let blk := getBlock s o.block
  let tile := m.tile.getD 0
  let t := m.row0 + i
  let poison := rowIsPoisoned blk tile t
  let es := (accRow blk tile t).map m.convert
  let packed := es.foldr (fun e n => n * 2 ^ m.outBits + e.1 % 2 ^ m.outBits) 0
  let bytes := if poison then (List.range m.outRow).map fun j => Config.freeByte (2 ^ 20 * s.fresh + 256 * i + j) else leBytes m.outRow packed
  (bytes, es.foldl (fun f e => f ||| e.2) 0, poison)

/-- Reads up to `n` rows out to a pad (R180): a row that is poisoned poisons its granules, a granule that is written whole and
receives no poison loses it. -/
def performRead (s : State) (k : Nat) (o : Op) (m : MatrixOp) (n : Nat) : Option State :=
  let n := min n (m.count - m.rows)
  let placesOf := fun (i : Nat) => (padPlaces s o.block 0 0 (refLvl m.ref) (refOff m.ref + i * m.pitch) m.outRow).getD []
  if placeHeld s (placesOf m.rows) then none
  else
    let rows := (List.range n).map fun j => (placesOf (m.rows + j), readOutRow s o m (m.rows + j))
    let s := { s with fresh := s.fresh + 1 }
    let s := rows.foldl (fun s r => match r.1 with
      | [] => s
      | l :: _ => if locAnswer s l = .error then recordOp s k 0 true else storeRaw s (r.1.zip r.2.1)) s
    let carry := (m.carry ++ ((rows.filter fun r => r.2.2.2).flatMap fun r => r.1.map Loc.granule)).eraseDups
    let s := poisonGranules s carry
    let s := recordOp s k (rows.foldl (fun f r => f ||| r.2.2.1) 0) false
    let s := modMatrix s k fun m => { m with rows := m.rows + n, carry := carry }
    if m.rows + n == m.count then
      some (setOpState (healGranules s ((List.range m.count).flatMap placesOf) carry) k .performed)
    else some s

/-- Every page that a store of a tile touches, by an address in it. -/
def MatrixOp.pages (m : MatrixOp) : List Nat :=
  ((List.range m.count).flatMap fun i =>
    let a := m.ref.toNat + i * m.pitch
    [pageOf a, pageOf (a + m.outRow - 1)]).eraseDups.map (65536 * ·)

/-- The runs of row `i` of a store within pages: the place, the offset in the row, the length. -/
def MatrixOp.runs (m : MatrixOp) (ps : KMap Phys) (i : Nat) : List (Phys × Nat × Nat) :=
  let a := m.ref.toNat + i * m.pitch
  (splitPages a m.outRow).map fun q =>
    let p := kgetD ps (pageOf q.1) { pa := 0, attr := 0 }
    ({ p with pa := p.pa + q.1 % 65536 }, q.1 - a, q.2)

/-- The granules of the host that row `i` of a store touches. -/
def MatrixOp.hostGranules (m : MatrixOp) (ps : KMap Phys) (i : Nat) : List Nat :=
  ((m.runs ps i).flatMap fun q => if inApertures q.1.pa then (List.range q.2.2).map fun j => (q.1.pa + j) / 64 else []).eraseDups

/-- How many rows a step of a store performs: up to `n`, and on while the next shares a granule of the host, which is written or withheld
whole (R356). -/
def MatrixOp.storeRows (m : MatrixOp) (ps : KMap Phys) (n : Nat) : Nat :=
  let joined := fun (j : Nat) => (m.hostGranules ps j).any (m.hostGranules ps (j + 1)).contains
  (List.range m.count).foldl (fun n _ => if m.rows + n < m.count && joined (m.rows + n - 1) then n + 1 else n) (min n (m.count - m.rows))

/-- A store of a tile performs up to `n` rows (R180, R181, R184): none before every page is resolved; a page that cannot be written leaves
what is still to be written unwritten, with err (log entry 90). A poisoned granule is withheld from the host (R356), rows that the untrained
link has not taken in time are discarded (R355). -/
def performStore (s : State) (k : Nat) (o : Op) (m : MatrixOp) (n : Nat) : Option State :=
  let core := coreOfBlock s o.block
  let r := m.pages.foldl (fun (acc : State × KMap Phys × Bool × Bool) va =>
    let (s, ps, bad, held) := acc
    match engineLocate s o va .write with
    | (s, .at_ p) => (s, kput ps (pageOf va) p, bad, held || physAnswer s core p = .held || hostBehind s o p)
    | (s, .failed) => (s, ps, true, held)
    | (s, .fault _) => (s, ps, bad, true)) (s, [], false, false)
  let (s, ps, bad, held) := r
  let allowed := (List.range m.count).all fun i => (m.runs ps i).all fun q => runAllowed s q.1 q.2.2 true
  if bad || (!held && !allowed) then some (setOpState (recordOp s k 0 true) k .performed)
  else if held then none
  else
    let n := m.storeRows ps n
    let rows := (List.range n).map fun j => (m.rows + j, readOutRow s o m (m.rows + j))
    let s := { s with fresh := s.fresh + 1 }
    -- runs of the rows: place, bytes, poison
    let out := rows.flatMap fun r => (m.runs ps r.1).map fun q => (q.1, (r.2.1.drop q.2.1).take q.2.2, r.2.2.2)
    let gs := ((out.filter fun q => q.2.2).flatMap fun q => (List.range q.2.1.length).map fun i => (q.1.pa + i) / 64).eraseDups
    let withheld := gs.filter fun g => inApertures (64 * g)
    let keep := out.map fun q => (q.1, (q.2.1.zipIdx.map fun b => (q.1.pa + b.2, b.1)).filter fun b => !withheld.contains (b.1 / 64))
    let late := keep.filter fun q => hostSilent s o q.1
    let s := (keep.filter fun q => !hostSilent s o q.1).foldl (fun s q =>
      engineStore (engineTouch s (o.issuer core) q.1 q.2.length true) core (attrScope q.1.attr) q.2) s
    let s := late.foldl (fun s q => logAppend s o.part q.1.pa 8 0) s
    let carry := (m.carry ++ (gs.filter fun g => !withheld.contains g).map fun g => Loc.mem g).eraseDups
    let s := withheld.foldl (fun s g => logWithheld s o.part 1 g) (poisonGranules s carry)
    let refused := keep.any fun q => physAnswer s core q.1 = .error
    let s := recordOp s k (rows.foldl (fun f r => f ||| r.2.2.1) 0) (refused || !withheld.isEmpty || !late.isEmpty)
    let s := modMatrix s k fun m => { m with rows := m.rows + n, carry := carry }
    if m.rows + n == m.count then
      let written := (List.range m.count).flatMap fun i => ((m.runs ps i).filter fun q => physAnswer s core q.1 != .error && !hostSilent s o q.1).flatMap fun q =>
        (Loc.mem q.1.pa).run q.2.2
      some (setOpState (healGranules s written carry) k .performed)
    else some s

/-- Sets a scale state (R178). -/
def performScale (s : State) (k : Nat) (o : Op) (m : MatrixOp) : State :=
  let sc : Scale := {
    sa := m.ref.setWidth 32, sb := (m.ref >>> 32).setWidth 32, abs := bitAt m.ctl.toNat 8, bbs := bitAt m.ctl.toNat 9 }
  setOpState (modBlock s o.block fun b => { b with scales := kput b.scales (fld m.ctl 0 2) sc }) k .performed

/-! ## Order (R183) -/

def sameSome (a b : Option Nat) : Bool := a.isSome && a == b
def MatrixOp.shares (a b : MatrixOp) : Bool := sameSome a.tile b.tile || sameSome a.sub b.sub

/-- Whether a matrix operation has been performed. -/
def Op.mxDone (o : Op) : Bool := o.done.isSome || o.state == .performed

/-- Whether a coll.acc has still to read its tile. -/
def Op.unread (o : Op) : Option Nat := match o.body with
  | .fabric x => if x.cmd == 5 && o.state == .queued && o.done.isNone then some x.tile else none
  | _ => none

/-- Whether an earlier command of the group on a tile or sub-array of this one stands before it. -/
def mxBehind (s : State) (k : Nat) (o : Op) (m : MatrixOp) : Bool :=
  s.ops.any fun e => e.1 < k && e.2.group == o.group && ((match e.2.body with
    | .matrix q => !e.2.mxDone && q.shares m
    | _ => false) || sameSome e.2.unread m.tile)

/-- An ordered command begins to execute, one that a halt lets fire before the saved ones (R337); a gated sub-array is woken (R187, R188,
R361). -/
def evMxExecute (k : Nat) (s : State) : Option State :=
  opEvent s k [.ordered] fun o => match o.body with
    | .matrix m =>
      if mxBehind s k o m || (!m.fires && (behindSaved s k o || notStarting s o)) then none
      else
        let s := setOpState (modMatrix s k fun m => { m with began := s.cycle }) k .executing
        some (if m.cmd ≤ 1 then modSub s (coreOfBlock s o.block) (m.sub.getD 0) fun x =>
            if x.awake || x.wakeAt.isSome then x else { x with wakeAt := some (s.cycle + slowdown s (dieOfCore (coreOfBlock s o.block)) * Config.wakeCycles) } else s)
    | _ => none

/-- The wake latency of a sub-array has passed (R187). -/
def evSubarrayWake (core i : Nat) (s : State) : Option State :=
  match (getSub s core i).wakeAt with
  | some c => if c ≤ s.cycle then some (modSub s core i fun x => { x with awake := true, wakeAt := none, lastUse := s.cycle }) else none
  | none => none

/-- Whether a load or a stream executes on a sub-array of a core. -/
def subBusy (s : State) (core i : Nat) (p : Nat → MatrixOp → Bool) : Bool :=
  s.ops.any fun e => e.2.done.isNone && e.2.state == .executing && coreOfBlock s e.2.block == core && match e.2.body with
    | .matrix m => m.cmd ≤ 1 && m.sub == some i && p e.1 m
    | _ => false

/-- A sub-array idle for sys.mx.idle cycles is gated and loses its weights (R187). -/
def evSubarrayIdleGating (core i : Nat) (s : State) : Option State :=
  let x := getSub s core i
  if x.awake && s.mxIdle != 0 && x.lastUse + s.mxIdle ≤ s.cycle && !subBusy s core i (fun _ _ => true) then
    some (modSub s core i fun _ => {})
  else none

/-! ## Contributions read from a tile (R267) -/

/-- A coll.acc reads its tile and leaves, or ends with err where no port admits its device. -/
def readTile (s : State) (k : Nat) (o : Op) (x : FabricOp) : State :=
  let blk := getBlock s o.block
  match x.target with
  | [dev, core, launch, number, tile, rank] =>
    let c : Contribution := {
      dev := BitVec.ofNat 18 s.dev, op := k, core := core, launch := launch, block := number, tile := tile, rank := rank
      poisoned := (List.range 32).any fun t => rowIsPoisoned blk x.tile t
      data := (List.range 32).flatMap fun t => accRow blk x.tile t, group := o.group, issued := o.issued }
    let s := setOpState s k .pending
    match route s dev with
    | .open_ => { s with contributions := s.contributions ++ [(dev, c)] }
    | .denied => deviceDone s k dev .err
    | .failed => s
  | _ => s

/-- Every coll.acc of a group with nothing before it on its tile reads it. -/
def readTiles (s : State) (g : Nat) : State :=
  s.ops.foldl (fun s e => match e.2.body, e.2.unread with
    | .fabric x, some t =>
      if e.2.group == g && !s.ops.any fun f => f.1 < e.1 && f.2.group == g && match f.2.body with
          | .matrix q => !f.2.mxDone && q.tile == some t
          | _ => false
      then readTile s e.1 e.2 x else s
    | _, _ => s) s

/-! ## Performed, complete (R188) -/

/-- An executing command performs up to `rows` rows; a command whose page has been served goes on. -/
def evMxPerformed (k rows : Nat) (s : State) : Option State :=
  match getOp s k with
  | none => none
  | some o =>
    match o.body with
    | .matrix m =>
      if o.done.isNone && o.state == .executing && o.fault.isSome then resumeFault s k o .executing
      else if rows == 0 then none
      else
        (opEvent s k [.executing] fun o =>
          let busy := m.sub.any fun i => subBusy s (coreOfBlock s o.block) i fun k' q => k' != k && q.rows != 0
          if busy then none
          else match m.cmd with
            | 0 => performWload s k o m
            | 1 => performStream s k o m rows
            | 2 => some (performZero s k o m rows)
            | 3 => performRead s k o m rows
            | 4 => performStore s k o m rows
            | 5 => some (performScale s k o m)
            | _ => none).map fun s => readTiles s o.group
    | _ => none

/-- A performed command completes when its deliveries are applied and every older one of the group is complete. -/
def evMxComplete (k : Nat) (s : State) : Option State :=
  match getOp s k with
  | some o => match o.body with
    | .matrix m =>
      if o.done.isNone && o.state == .performed && m.deliveries.isEmpty && olderDone s k o then some (completeOp s k o) else none
    | _ => none
  | none => none

/-! ## Contributions at an armed tile (R182, R267) -/

/-- The arm that a contribution reaches. -/
def findArm (s : State) (c : Contribution) : Option (Nat × Op × MatrixOp) :=
  s.ops.findSome? fun e => match e.2.body with
    | .matrix m =>
      let b := getBlock s e.2.block
      if m.cmd == 6 && e.2.done.isNone && e.2.state == .executing && m.tile == some c.tile && b.core == c.core &&
        b.launch == c.launch && b.number == c.block && !b.retired && !b.shadow then some (e.1, e.2, m) else none
    | _ => none

/-- Adds a contribution to the tile of an arm, in one step (R182). -/
def addContribution (s : State) (k : Nat) (o : Op) (c : Contribution) : State :=
  let tile := c.tile
  let r := (List.range 32).foldl (fun (acc : Block × BitVec 5) t =>
    let es := (accRow acc.1 tile t).zip ((c.data.drop (64 * t)).take 64) |>.map fun e => Mx.addend e.1 e.2
    let b := setAccRow acc.1 tile t (es.map (·.1))
    (if c.poisoned then setRowPoison b tile t true else b, es.foldl (fun f e => f ||| e.2) acc.2)) (getBlock s o.block, 0)
  let s := recordOp (modBlock s o.block fun _ => r.1) k r.2 false
  let s := modMatrix s k fun m => { m with
    added := insertNat m.added c.rank, deliveries := if m.gate.isSome then m.deliveries ++ [8192] else m.deliveries }
  sendCompletion s c.dev.toNat c.op .ok []

/-- Adds kept contributions whose turn has come. -/
def addKept (k : Nat) : Nat → State → State
  | 0, s => s
  | n + 1, s =>
    match getOp s k with
    | some o => match o.body with
      | .matrix m =>
        match m.kept.find? fun c => c.rank == m.added.length with
        | some c => addKept k n (addContribution (modMatrix s k fun m => { m with kept := m.kept.filter fun d => d.rank != c.rank }) k o c)
        | none => s
      | _ => s
    | none => s

/-- The arm is performed when N contributions have been added. -/
def armDone (s : State) (k : Nat) : State :=
  match getOp s k with
  | some o => match o.body with
    | .matrix m => if m.added.length == m.contributors then readTiles (setOpState s k .performed) o.group else s
    | _ => s
  | none => s

/-- A contribution arrives, once and never later than 220,000 cycles after its issue (R255, R271): it is refused with err, added, or kept for its
turn under DET (R182, R267). -/
def evContributionArrival (c : Contribution) (s : State) : Option State :=
  let mine := c.dev.toNat == s.dev
  let key := (c.dev.toNat, c.op, c.issued)
  if c.issued + Config.packetLimit ≤ s.cycle || (if mine then !s.contributions.contains (s.dev, c) else s.handled.contains key) then none
  else
    let s := if mine then { s with contributions := s.contributions.erase (s.dev, c) } else noteHandled s key
    match findArm s c with
    | none => some (sendCompletion s c.dev.toNat c.op .err [])
    | some (k, o, m) =>
      if m.contributors ≤ c.rank || m.added.contains c.rank || m.kept.any fun d => d.rank == c.rank then
        some (sendCompletion s c.dev.toNat c.op .err [])
      else if bitAt m.ctl.toNat 12 && c.rank != m.added.length then
        some (modMatrix s k fun m => { m with kept := m.kept ++ [c] })
      else some (armDone (addKept k m.kept.length (addContribution s k o c)) k)

/-- An arm that has waited for 110,000 cycles ends with tmo; what it had kept is refused (R182). -/
def evArmTimeout (k : Nat) (s : State) : Option State :=
  match getOp s k with
  | some o => match o.body with
    | .matrix m =>
      if m.cmd == 6 && o.done.isNone && o.state == .executing && m.began + Config.linkTimeout ≤ s.cycle then
        let s := m.kept.foldl (fun s c => sendCompletion s c.dev.toNat c.op .err []) s
        let s := modMatrix s k fun m => { m with kept := [] }
        some (readTiles (setOpState (modOp s k fun o => { o with tmo := true }) k .performed) o.group)
      else none
    | _ => none
  | none => none

end Sys2Proof.Machine
end

