-- ==== Sys2Proof/Machine/Ferry.lean ====
section
/-! DEFINITION. The ferry (R149 to R166): the issue checks, the commands of major 0x19, moving elements, landing, completing. -/

namespace Sys2Proof.Machine

/-! ## Issue checks (R151, R154) -/

/-- The record that a reference names (R151, R154 item 3). -/
def readRecord (s : State) (g : Nat) (r : DWord) : State × Checked (List Byte) :=
  let place := fld r 56 3
  let addr := if place == 0 then fld r 0 56 else fld r 0 32
  if 4 ≤ place || fld r 59 5 != 0 || (place != 0 && fld r 32 24 != 0) then (s, .trap 3 0 addr)
  else if addr % 64 != 0 then (s, .trap 2 0 addr)
  else if place == 0 then readGlobal s g addr 64 false
  else (s, readPadRecord s g place addr 64)

/-- The places of a run in the window of a rank (R160). -/
def rankPlaces (s : State) (b r off n : Nat) : Option (List Loc) :=
  if off + n ≤ 2 ^ 18 then padPlaces s b 0 0 2 (r * 2 ^ 18 + off) n else none

/-- The gate of a rank of an fy.mcast (R160): a reference of level 0, at its offset in the window of the rank. -/
def rankGate (s : State) (b r : Nat) (q : DWord) : Except Nat (List Loc) :=
  if fld q 32 32 != 0 then .error 3
  else if refOff q % 16 != 0 then .error 2
  else match rankPlaces s b r (refOff q) 16 with
    | none => .error 3
    | some p => if placePoisoned s p then .error 6 else .ok p

/-- What item 6 of R154 finds in the reference of an fy.mcast itself (R160): level 0, aligned, within some receiver's window. -/
def mcastRef (q : DWord) : Option Nat :=
  if fld q 32 32 != 0 then some 3 else if refOff q % 16 != 0 then some 2 else if 2 ^ 18 < refOff q + 16 then some 3 else none

/-- The gates of a command with its receivers' ranks; rank 0 stands for the command itself where it is no fy.mcast. -/
def FerryOp.gates (f : FerryOp) (s : State) (b : Nat) : List (Nat × DWord × Except Nat (List Loc)) :=
  match f.gate with
  | none => []
  | some q => if f.kind = .mcast then f.ranks.map fun r => (r, q, rankGate s b r q) else [(0, q, gatePlaces s b q)]

/-- The places of a run on the pad side, for a receiver's rank. -/
def FerryOp.padRun (f : FerryOp) (s : State) (b gi r off n : Nat) : Option (List Loc) :=
  if f.kind = .mcast then rankPlaces s b r off n else padPlaces s b gi f.lane f.lay.pl off n

/-- The receivers: the ranks of an fy.mcast, else the command's own place as rank 0. -/
def FerryOp.receivers (f : FerryOp) : List Nat := if f.kind = .mcast then f.ranks else [0]

/-- The trap of item 6 of R154: the checks of R133 are made item by item, each for every receiver (log entry 89). -/
def FerryOp.gateTrap (f : FerryOp) (s : State) (b : Nat) : Option Nat :=
  let es := (f.gates s b).filterMap fun e => match e.2.2 with
    | .error n => some n
    | .ok _ => none
  match if f.kind = .mcast then f.gate.bind mcastRef else none, es.find? (· != 6) with
  | some n, _ => some n
  | none, some n => some n
  | none, none => es.head?

/-- Items 5 to 7 of R154. An absent rank of an fy.mcast is found between items 5 and 6; the pad footprint of an fy.fill with DIR 1 is
checked too (log entry 89). -/
def ferryItems (s : State) (g : Nat) (f : FerryOp) : Checked FerryOp :=
  let x := getGroup s g
  let b := x.block
  let l := f.lay
  let foot := l.footprint f.rowCount
  let size := f.total * l.srcBits / 8
  let src := bitsOf l.gb 0 32
  if l.dir ≤ 1 && l.globalBits == 4 && (f.coords.headD 0) % 2 != 0 then .trap 2 0 0
  else if f.kind = .mcast && f.ranks.any fun r => (rankBlock s b r).isNone then .trap 3 0 l.po
  else match f.gateTrap s b with
    | some n => .trap n 0 (refOff (f.gate.getD 0))
    | none =>
      if f.receivers.any fun r => (f.padRun s b x.index r l.po foot).isNone then .trap 3 0 l.po
      else if l.dir == 2 && (padPlaces s b x.index f.lane (bitsOf l.gb 32 2) src size).isNone then .trap 3 0 src
      else if (f.gates s b).any fun e => match e.2.2 with
          | .ok p => placeHeld s p
          | .error _ => false then .wait none
      else .ok f

/-- A ferry command with fields SA, SB and V, its record and operands read and checked (R154). -/
def ferryCheck (s : State) (g : Nat) (kind : FerryKind) (a b v : Nat) : State × Checked FerryOp :=
  let x := getGroup s g
  let lane := (x.lanes.headD 0)
  match readRecord s g (x.sreg a) with
  | (s, .trap n c va) => (s, .trap n c va)
  | (s, .wait h) => (s, .wait h)
  | (s, .ok bs) =>
    let l := parseLayout bs
    let regs := (blockOf s g).regs
    let extra := kind = .mcast || kind = .fill
    -- V itself is a register that the command names (R22)
    let last := if extra then v + l.dims + 1 else if l.dir ≤ 1 then v + l.dims else v + 1
    if !l.legal bs kind then (s, .trap 0 0 0)
    else if regs < last then (s, .trap 0 0 0)
    else
      let e := x.vreg (v + l.dims) lane
      let ranks := if kind = .mcast then (List.range 4).filter fun i => e.getLsbD i else []
      let f : FerryOp := {
        kind := kind, lay := l, lane := lane, seq := x.ferryCount + 1
        coords := if l.dir ≤ 1 then (List.range l.dims).map fun k => (x.vreg (v + k) lane).toInt else []
        rows := if kind = .gather then x.lanes.map fun j => (x.vreg (v + 1) j).toInt else []
        pattern := e, ranks := ranks
        gate := if b == 0 then none else some (x.sreg b), tags := [] }
      (s, ferryItems s g f)

/-! ## Promises (R163) -/

/-- The bytes of a ferry operation: the larger of its source and destination counts. -/
def FerryOp.bytes (f : FerryOp) : Nat := f.total * max f.lay.srcBits f.lay.dstBits / 8

/-- The bytes that it still has to move. -/
def FerryOp.left (f : FerryOp) : Nat :=
  (f.total - f.done.foldl (fun n d => n + d.2) 0) * max f.lay.srcBits f.lay.dstBits / 8

/-- Q: what the ferry of a core still has to move. -/
def ferryQueue (s : State) (core : Nat) : Nat :=
  s.ops.foldl (fun n e => match e.2.body with
    | .ferry f => if e.2.done.isNone && e.2.state != .performed && coreOfBlock s e.2.block == core then n + f.left else n
    | _ => n) 0

def promiseOf (s : State) (g : Nat) (f : FerryOp) : Nat :=
  s.cycle + clockFactor s (dieOf s g) * (96 + (ferryQueue s (coreOf s g) + f.bytes + 63) / 64)

/-! ## Issue (R149, R155, R158 to R162) -/

/-- Queues a checked command: the tags of its gates are read, its promise is written, its successor captured. -/
def ferryIssue (s : State) (g : Nat) (f : FerryOp) (promise : Option Nat) (follow : Option MatrixOp) : State :=
  let tags := (f.gates s (getGroup s g).block).foldl (fun m e => match e.2.2 with
    | .ok p => kput m e.1 (readGate s p).gen
    | .error _ => m) []
  let f := { f with tags := tags, accepted := if f.kind = .mcast && f.gate.isNone then f.ranks else [] }
  let p := promiseOf s g f
  let (mx, s) := match follow with
    | none => (none, s)
    | some m => let r := mxIssue s g m true; (some r.1, r.2)
  let (k, s) := issueOp s g 0 .queued (.ferry { f with captured := mx })
  modGroup s g fun x =>
    let x := { x with ferryCount := x.ferryCount + 1 }
    match promise with
    | some d => { x.setS d (BitVec.ofNat 64 p) with promise := some { op := k, cycle := p } }
    | none => x

/-- A ferry command without capture; with em zero it only has its encoding checked, the declared count too (R22, R149, log entry 89). -/
def ferryInstr (s : State) (kind : FerryKind) (a b v : Nat) (promise : Option Nat) : Outcome :=
  withGroup s fun g =>
    if (getGroup s g).em = 0 then
      let s := endChain s g
      if (blockOf s g).regs ≤ v then raise s g 0
      else
        advance (match promise with
          | some d => modGroup s g fun x => x.setS d (BitVec.ofNat 64 s.cycle)
          | none => s) g 4
    else issueCommand s g 0 (ferryCheck · g kind a b v) fun s f => advance (ferryIssue s g f promise none) g 4

/-- The matrix command of an instruction of major 0x1A: SUB5, SA, SB. -/
def mxFields : Instr → Option (Nat × Nat × Nat)
  | .mxWload a b => some (0, a.toNat, b.toNat)
  | .mxStream a b => some (1, a.toNat, b.toNat)
  | .mxZero b => some (2, 0, b.toNat)
  | .mxRead a b => some (3, a.toNat, b.toNat)
  | .mxStore a b => some (4, a.toNat, b.toNat)
  | .mxScale a b => some (5, a.toNat, b.toNat)
  | .mxArm a b => some (6, a.toNat, b.toNat)
  | _ => none

/-- MAJ of the 32-bit word at an address. -/
def majorAt (s : State) (g va : Nat) : Option Nat := match (fetchHalf s g va).2 with
  | .ok lo => if bitAt (leNat lo) 0 then some (bitsOf (leNat lo) 1 5) else none
  | .error _ => none

/-- A trap of the captured successor (R154): the saved program counter is the ferry's, sys.trap.addr names the successor. -/
def raiseSuccessor (s : State) (g num va code : Nat) (fetch : Bool) : State :=
  let pc := (getGroup s g).pc
  enterTrap s g { num := num, code := code, pc := pc, addr := pc + 4, vaddr := BitVec.ofNat 64 va, fetch := fetch }

/-- The check of a fy.copy that captures a matrix command `m`; an illegal encoding of major 0x1A as `none` is found behind the ferry's own
checks (R154, R172). -/
def pairCheck (s : State) (g a b v : Nat) (m : Option (Nat × Nat × Nat)) : State × Checked (FerryOp × Except (Nat × Nat) MatrixOp) :=
  match ferryCheck s g .copy a b v with
  | (s, .trap n c va) => (s, .trap n c va)
  | (s, .wait h) => (s, .wait h)
  | (s, .ok f) =>
    match m with
    | none => (s, .ok (f, .error (0, 0)))
    | some (cmd, ma, mb) =>
      match mxChecked s g cmd ma mb with
      | (s, .trap n _ va) => (s, .ok (f, .error (n, va)))
      | (s, .wait h) => (s, .wait h)
      | (s, .ok q) => (s, if 63 ≤ ocOf s g 1 then .wait none else .ok (f, .ok q))

/-- fy.copy with its captured successor (R154, R162): the pair issues as one unit. -/
def ferryPair (s : State) (a b v : Nat) (promise : Option Nat) : Outcome :=
  withGroup s fun g =>
    let s := performAll (endChain s g) g
    let next := ((getGroup s g).pc + 4).toNat
    let issue := fun (s : State) (m : Option (Nat × Nat × Nat)) =>
      let r := pairCheck s g a b v m
      settleCheck r.1 g r.2 fun q => match q.2 with
        | .error e => raiseSuccessor r.1 g e.1 e.2 0 false
        | .ok c => if 63 ≤ ocOf r.1 g 0 || outstanding r.1 g then waitHere r.1 g else advance (ferryIssue r.1 g q.1 promise (some c)) g 8
    match fetchAt s g next with
    | (s, .trap num code va) => raiseSuccessor s g num va code true
    | (s, .illegal) => if majorAt s g next = some 0x1A then issue s none else raise s g 0
    | (s, .instr i) =>
      match mxFields i with
      | none => raise s g 0
      | some m => issue s (some m)

/-- Copies a box between global memory and a pad, or between pads (R155); F captures the successor (R162), G writes a promise
into s(SB + 1) (R163). -/
def execFyCopy (a : BitVec 6) (b : BitVec 6) (v : BitVec 7) (f : Bool) (g : Bool) (s : State) : Outcome :=
  let promise := if g then some (b.toNat + 1) else none
  -- with em zero the successor issues on its own (R149)
  let idle := match s.current with
    | some gid => (getGroup s gid).em == 0
    | none => true
  if f && !idle then ferryPair s a.toNat b.toNat v.toNat promise else ferryInstr s .copy a.toNat b.toNat v.toNat promise

/-- Writes one box into the windows of several ranks (R160). -/
def execFyMcast (a : BitVec 6) (b : BitVec 6) (v : BitVec 7) (s : State) : Outcome :=
  ferryInstr s .mcast a.toNat b.toNat v.toNat none
/-- One row for each active lane (R158). -/
def execFyGather (a : BitVec 6) (b : BitVec 6) (v : BitVec 7) (s : State) : Outcome :=
  ferryInstr s .gather a.toNat b.toNat v.toNat none
/-- Fills a box with a pattern (R159). -/
def execFyFill (a : BitVec 6) (b : BitVec 6) (v : BitVec 7) (s : State) : Outcome :=
  ferryInstr s .fill a.toNat b.toNat v.toNat none
/-- s[SB] := the status of the youngest operation that a wait has covered (R161). -/
def execFyStat (b : BitVec 6) (s : State) : Outcome :=
  scalarOp s fun gid s => modGroup s gid fun g => g.setS b.toNat g.ferryStatus

/-- The status word of an operation (R161). -/
def FerryOp.status (f : FerryOp) (err : Bool) : DWord :=
  let mask := fun (l : List Nat) => l.foldl (fun n r => n + 2 ^ r) 0
  BitVec.ofNat 64 (f.seq % 2 ^ 32 * 2 ^ 32 + bit f.poison * 1024 + bit (!f.wrote) * 512 + bit err * 256 +
    mask f.accepted * 16 + mask f.refused)

/-! ## Moving elements (R153, R156, R157) -/

def modFerry (s : State) (k : Nat) (f : FerryOp → FerryOp) : State :=
  modOp s k fun o => match o.body with
    | .ferry x => { o with body := .ferry (f x) }
    | _ => o

/-- The global side is written. -/
def FerryOp.outward (f : FerryOp) : Bool := f.lay.dir == 1
/-- The global side is read. -/
def FerryOp.inward (f : FerryOp) : Bool := f.lay.dir == 0 && f.kind != .fill

/-- Page addresses of the in-bounds elements of a span on the global side. -/
def FerryOp.pagesOf (f : FerryOp) (first n : Nat) : List Nat :=
  (((List.range n).map (first + ·)).filter f.inBounds |>.map fun i => 65536 * pageOf (f.globalAt i).1).eraseDups

/-- The global pages that an operation needs next: those of a span that it reads, or every page that it writes. -/
def FerryOp.needs (f : FerryOp) (first n : Nat) : List Nat :=
  if f.outward then f.pagesOf 0 f.total else if f.inward then f.pagesOf first n else []

/-- The first page of a list that a handler would have to map, with the kind of its fault. -/
def firstFault (s : State) (o : Op) (vas : List Nat) (acc : Access) : Option (Nat × Nat) :=
  vas.findSome? fun va => match (engineLocate s o va acc).2 with
    | .fault kind => some (va, kind)
    | _ => none

def FerryOp.access (f : FerryOp) : Access := if f.outward then .write else .read

/-- Whether the element runs on one of some pages within what may be accessed: an aperture can end inside a page (R354). -/
def FerryOp.allowed (f : FerryOp) (s : State) (ps : KMap (Option Phys)) (i bits : Nat) (store : Bool) : Bool :=
  let a := f.globalAt i
  match kfind ps (pageOf a.1) with
  | some (some p) => !inApertures p.pa || runAllowed s { p with pa := p.pa + a.1 % 65536 } (cellBytes bits) store
  | _ => false

/-- Pages of an operation located: by page number a place, or none for one that cannot be read or written; whether one is
unmapped or its die holds requests. -/
def locatePages (s : State) (o : Op) (vas : List Nat) (acc : Access) : State × KMap (Option Phys) × Bool :=
  let core := coreOfBlock s o.block
  vas.foldl (fun (r : State × KMap (Option Phys) × Bool) va =>
    match engineLocate r.1 o va acc with
    | (s, .at_ p) => (s, kput r.2.1 (pageOf va) (some p), r.2.2 || physAnswer s core p = .held || hostBehind s o p)
    | (s, .failed) => (s, kput r.2.1 (pageOf va) none, r.2.2)
    | (s, .fault _) => (s, r.2.1, true)) (s, [], false)

/-- An element of a span: its number, its value at the destination, whether it was read from poison, or could not be read. -/
structure Moved where
  idx : Nat
  value : Nat
  poisoned : Bool := false
  lost : Bool := false
  deriving DecidableEq, Repr

/-- The pattern of an fy.fill (R159). -/
def fillValue (esz : Nat) (w : Word) : Nat := match esz with
  | 0 => w.toNat % 256
  | 1 => w.toNat % 65536
  | 2 => w.toNat
  | 3 => w.toNat * (2 ^ 32 + 1)
  | _ => w.toNat * (2 ^ 96 + 2 ^ 64 + 2 ^ 32 + 1)

/-- Reads and converts one element (R153, R157), with its flags. -/
def readElement (s : State) (o : Op) (f : FerryOp) (gi : Nat) (ps : KMap (Option Phys)) (i : Nat) : State × Moved × BitVec 5 :=
  let l := f.lay
  let core := coreOfBlock s o.block
  let of := fun (s : State) (nib : Nat) (bs : List Byte) (bad lost : Bool) =>
    let r := l.convert (cellOf l.srcBits nib bs)
    (s, ({ idx := i, value := r.1, poisoned := bad, lost := lost } : Moved), if lost then 0 else r.2)
  if f.kind = .fill then (s, { idx := i, value := fillValue l.esz f.pattern }, 0)
  else if l.dir == 0 then
    if !f.inBounds i then (s, { idx := i, value := 0 }, 0)
    else
      let a := f.globalAt i
      match kfind ps (pageOf a.1) with
      | some (some p) =>
        let p := { p with pa := p.pa + a.1 % 65536 }
        let n := cellBytes l.srcBits
        let r := engineRead s (o.issuer core) p n
        of r.1 a.2 r.2 (physPoisoned r.1 p n || hostSilent r.1 o p) (physAnswer s core p = .error || !f.allowed s ps i l.srcBits false)
      | _ => (s, { idx := i, value := 0, lost := true }, 0)
  else
    let a := if l.dir == 1 then f.padAt i else f.srcAt i
    let lvl := if l.dir == 1 then l.pl else bitsOf l.gb 32 2
    match padPlaces s o.block gi f.lane lvl a.1 (cellBytes l.srcBits) with
    | some p => of s a.2 (p.map (readByte s)) (p.any (isPoisoned s)) (p.any fun x => locAnswer s x = .error)
    | none => (s, { idx := i, value := 0 }, 0)

/-- The places of an element's destination, with its nibble, for a receiver. -/
def destOf (s : State) (o : Op) (f : FerryOp) (gi r : Nat) (ps : KMap (Option Phys)) (i : Nat) : List Loc × Nat :=
  let n := cellBytes f.lay.dstBits
  if f.outward then
    let a := f.globalAt i
    match kfind ps (pageOf a.1) with
    | some (some p) => (Loc.run (.mem (p.pa + a.1 % 65536)) n, a.2)
    | _ => ([], a.2)
  else
    let a := f.padAt i
    ((f.padRun s o.block gi r a.1 n).getD [], a.2)

/-- The receivers that take the bytes: those that have accepted, or the command's own place. -/
def FerryOp.takers (f : FerryOp) : List Nat := if f.kind = .mcast then f.accepted else [0]
/-- Whether every receiver has accepted or refused: the acceptance points of an fy.mcast all come before its first byte (log entry 89). -/
def FerryOp.decided (f : FerryOp) : Bool :=
  f.kind != .mcast || f.gate.isNone || f.ranks.all fun r => f.accepted.contains r || f.refused.contains r

/-- A span is one that nothing has moved yet, in whole bytes. -/
def FerryOp.spanFree (f : FerryOp) (first n : Nat) : Bool :=
  let nibbles := f.lay.srcBits == 4 || f.lay.dstBits == 4
  0 < n && first + n ≤ f.total && (!nibbles || (first % 2 == 0 && n % 2 == 0)) &&
    f.done.all fun d => first + n ≤ d.1 || d.1 + d.2 ≤ first

/-- The bytes that a written element adds to a delivery: one nibble of each byte counts (R156). -/
def FerryOp.counts (f : FerryOp) (nib : Nat) (written : List (Loc × Byte)) : Nat :=
  if f.lay.dstBits == 4 && nib != 0 then 0 else written.length

/-- Writes the moved elements of a span for a receiver, and counts the bytes written: granules in `withheld` keep their bytes, a die that
answers with errors takes none (R349). -/
def writeSpan (s : State) (o : Op) (f : FerryOp) (gi r : Nat) (ps : KMap (Option Phys)) (ms : List Moved) (withheld : List Loc) : State × Nat :=
  let core := coreOfBlock s o.block
  ms.foldl (fun (acc : State × Nat) m =>
    let s := acc.1
    let d := destOf s o f gi r ps m.idx
    let bytes := (d.1.zip (cellPut f.lay.dstBits d.2 (d.1.map (readByte s)) m.value)).filter fun b => !withheld.contains b.1.granule
    match bytes with
    | [] => acc
    | (l, _) :: _ =>
      if f.outward then
        match kfind ps (pageOf (f.globalAt m.idx).1), l.pa with
        | some (some p), some pa =>
          if physAnswer s core p = .error then acc
          else if hostSilent s o p then (logAppend s o.part pa 8 0, acc.2)
          else (engineStore (engineTouch s (o.issuer core) { p with pa := pa } bytes.length true) core (attrScope p.attr)
              (bytes.filterMap fun b => b.1.pa.map fun a => (a, b.2)), acc.2 + f.counts d.2 bytes)
        | _, _ => acc
      else if locAnswer s l = .error then acc
      else (storeRaw s bytes, acc.2 + f.counts d.2 bytes)) (s, 0)

/-- The granules that the destinations of some elements touch. -/
def destGranules (s : State) (o : Op) (f : FerryOp) (gi : Nat) (ps : KMap (Option Phys)) (is : List Nat) : List Loc :=
  (f.takers.flatMap fun r => is.flatMap fun i => (destOf s o f gi r ps i).1.map Loc.granule).eraseDups

/-- Whether a granule lies in the host's memory. -/
def hostGranule (g : Loc) : Bool := match g.granuleBytes.head?.bind Loc.pa with
  | some a => inApertures a
  | none => false

/-- Whether a span takes in every element on the granules of the host that it touches: such a granule is written or withheld whole (R356). -/
def wholeHost (s : State) (o : Op) (f : FerryOp) (gi : Nat) (ps : KMap (Option Phys)) (is : List Nat) : Bool :=
  !f.outward ||
    let hs := (destGranules s o f gi ps is).filter hostGranule
    hs.isEmpty || (List.range f.total).all fun i => is.contains i || !f.inBounds i || (destOf s o f gi 0 ps i).1.all fun l => !hs.contains l.granule

/-- Whether the die of a pad that the operation reads or writes holds requests. -/
def FerryOp.padHeld (f : FerryOp) (s : State) (o : Op) (gi : Nat) : Bool :=
  let first := fun (p : Option (List Loc)) => p.any (placeHeld s)
  (f.lay.dir != 0 && f.kind != .fill && first (padPlaces s o.block gi f.lane
      (if f.lay.dir == 1 then f.lay.pl else bitsOf f.lay.gb 32 2) (if f.lay.dir == 1 then f.lay.po else bitsOf f.lay.gb 0 32) 1)) ||
    (!f.outward && f.takers.any fun r => first (f.padRun s o.block gi r f.lay.po 1))

/-- Whether a dir 1 operation cannot write one of its pages, or a byte in one (R157, R354). -/
def FerryOp.writeFails (f : FerryOp) (s : State) (ps : KMap (Option Phys)) : Bool :=
  f.outward && ((List.range f.total).filter f.inBounds).any fun i => (kfind ps (pageOf (f.globalAt i).1)).isSome && !f.allowed s ps i f.lay.dstBits true

/-- Poison leaves a granule once the operation has written all of it (R157). -/
def healWritten (s : State) (o : Op) (f : FerryOp) (gi : Nat) (ps : KMap (Option Phys)) (first n : Nat) (carry : List Loc) : State :=
  let core := coreOfBlock s o.block
  let served := fun (i : Nat) (l : Loc) => if f.outward then match kfind ps (pageOf (f.globalAt i).1) with
      | some (some p) => physAnswer s core p != .error
      | _ => false
    else locAnswer s l != .error
  let is := (List.range n).map (first + ·)
  let touched := (destGranules s o f gi ps is).filter fun g => isPoisoned s (g.granuleBytes.headD (.mem 0)) && !carry.contains g
  if touched.isEmpty then s
  else
    let all := ((first, n) :: f.done).flatMap fun d => (List.range d.2).map (d.1 + ·)
    let written := f.takers.flatMap fun r => (all.filter fun i => !f.outward || f.inBounds i).flatMap fun i =>
      (destOf s o f gi r ps i).1.filter fun l => touched.contains l.granule && served i l
    healGranules s written carry

/-- A span of elements is performed: read, converted, written, reported to the gates (R153, R156, R157). Each delivery counts the bytes
that were written for its receiver (R137). -/
def evFerryDelivery (k first n : Nat) (s : State) : Option State :=
  opEvent s k [.active] fun o => match o.body with
    | .ferry f =>
      if !f.spanFree first n || !f.decided then none
      else
        let gi := (getGroup s o.group).index
        let (s, ps, stuck) := locatePages s o (f.needs first n) f.access
        let is := (List.range n).map (first + ·)
        let is := if f.outward then is.filter f.inBounds else is
        if stuck || f.padHeld s o gi || f.writeFails s ps || !wholeHost s o f gi ps is then none
        else
          let (s, ms, fl) := is.foldl (fun (acc : State × List Moved × BitVec 5) i =>
            let r := readElement acc.1 o f gi ps i
            (r.1, acc.2.1 ++ [r.2.1], acc.2.2 ||| r.2.2)) (s, [], 0)
          let bad := destGranules s o f gi ps ((ms.filter fun m => m.poisoned || m.lost).map (·.idx))
          let carry := (f.carry ++ bad).eraseDups
          let withheld := bad.filter hostGranule
          let (s, sent) := f.takers.foldl (fun (acc : State × List (Nat × Nat)) r =>
            let q := writeSpan acc.1 o f gi r ps ms withheld
            (q.1, acc.2 ++ [(r, q.2)])) (s, [])
          let s := poisonGranules s (carry.filter fun g => !hostGranule g)
          let s := withheld.foldl (fun s g => logWithheld s o.part 0 ((((g.granuleBytes.headD (.mem 0)).pa).getD 0) / 64)) s
          let s := healWritten s o f gi ps first n carry
          let full := (ms.map fun m => f.counts (destOf s o f gi 0 ps m.idx).2 ((destOf s o f gi 0 ps m.idx).1.map fun l => (l, 0))).foldl (· + ·) 0
          let short := f.kind != .mcast && sent.any fun d => d.2 < full
          let refusal := f.kind = .mcast && sent.any fun d => d.2 == 0 && !ms.isEmpty
          some (modFerry (recordOp s k fl (short || refusal || ms.any fun m => m.lost)) k fun f => { f with
            done := f.done ++ [(first, n)], carry := carry, wrote := f.wrote || sent.any fun d => d.2 != 0
            poison := f.poison || ms.any fun m => m.poisoned
            deliveries := f.deliveries ++ if f.gate.isSome then sent.filter fun d => d.2 != 0 else [] })
    | _ => none

/-! ## The states (R160, R166) -/

/-- The core's ferry takes a queued operation. -/
def evFerryStart (k : Nat) (s : State) : Option State :=
  opEvent s k [.queued] fun o => match o.body with
    | .ferry _ => if notStarting s o || behindSaved s k o then none else some (setOpState s k .active)
    | _ => none

/-- A held operation goes on when its page is mapped, or as one whose page cannot be (R157, R316). -/
def evFerryPageMapped (k : Nat) (s : State) : Option State :=
  match getOp s k with
  | some o => match o.body with
    | .ferry _ => if o.done.isNone && o.state == .faulting then resumeFault s k o .active else none
    | _ => none
  | none => none

/-- The acceptance point of a receiver: its gate's armed bit (R160). -/
def evMcastAcceptance (k r : Nat) (s : State) : Option State :=
  opEvent s k [.active] fun o => match o.body with
    | .ferry f =>
      match f.gate with
      | some q =>
        if f.kind != .mcast || !f.ranks.contains r || f.accepted.contains r || f.refused.contains r then none
        else
          let armed := match rankPlaces s o.block r (refOff q) 16 with
            | some p => (readGate s p).armed
            | none => false
          some (modFerry s k fun f => if armed then { f with accepted := insertNat f.accepted r } else { f with refused := insertNat f.refused r })
      | none => none
    | _ => none

/-- Whether every element has been moved. -/
def FerryOp.moved (f : FerryOp) : Bool := f.done.foldl (fun n d => n + d.2) 0 == f.total

/-- The operation has landed; its captured command can execute (R156, R162). -/
def land (s : State) (k : Nat) (f : FerryOp) : State :=
  let s := setOpState s k .performed
  match f.captured with
  | some m => modOp s m fun o => if o.state = .captured then { o with state := .ordered } else o
  | none => s

/-- The last byte is performed, no receiver accepts, or a page that a dir 1 operation writes cannot be written (R157, R166): it ends with
err, and what it had written and reported before the page was lost stands (log entry 90). -/
def evFerryLand (k : Nat) (s : State) : Option State :=
  opEvent s k [.active] fun o => match o.body with
    | .ferry f =>
      if f.decided && (f.moved || f.takers.isEmpty) then some (land s k f)
      else if f.outward then
        let (s, ps, stuck) := locatePages s o (f.needs 0 f.total) .write
        if !stuck && f.writeFails s ps then some (land (modOp s k fun o => { o with err := true }) k f) else none
      else none
    | _ => none

/-- A landed operation completes when its deliveries are applied and every older one of the group is complete. -/
def evFerryComplete (k : Nat) (s : State) : Option State :=
  match getOp s k with
  | some o => match o.body with
    | .ferry f =>
      if o.done.isNone && o.state == .performed && f.deliveries.isEmpty && olderDone s k o then some (completeOp s k o) else none
    | _ => none
  | none => none

/-- Delivery `i` of a ferry operation or of an mx.arm is applied to its gate (R137). -/
def evGateDelivery (k i : Nat) (s : State) : Option State :=
  match getOp s k with
  | none => none
  | some o =>
    if o.done.isSome || gateHeld s o.block (match o.body with
        | .ferry f => if f.kind = .mcast then none else f.gate
        | .matrix m => m.gate
        | _ => none) then none
    else match o.body with
      | .ferry f =>
        match f.gate, f.deliveries[i]? with
        | some q, some (r, n) =>
          let s := modFerry s k fun f => { f with deliveries := f.deliveries.eraseIdx i }
          some (deliverTo s k o q (if f.kind = .mcast then some r else none) n (kgetD f.tags r 0))
        | _, _ => none
      | .matrix m =>
        match m.gate, m.deliveries[i]? with
        | some q, some n =>
          let s := modMatrix s k fun m => { m with deliveries := m.deliveries.eraseIdx i }
          some (deliverTo s k o q none n m.tag)
        | _, _ => none
      | _ => none

end Sys2Proof.Machine
end

