-- ==== Sys2Proof/Machine/Amplitude.lean ====
section
/-! DEFINITION. The amplitude engine (R231 to R252): state records, the commands of major 0x1B, exchanges, applying, page faults of
the engines (R316). -/

namespace Sys2Proof.Machine

/-! ## The rules of the state record (R232) -/

def recFmt (raw : List DWord) : Fp.Fmt := if recWide raw then Fp.f64 else Fp.f32

def nodup (l : List Nat) : Bool := l.eraseDups.length == l.length

/-- The rules of R232 on a record of module `dev`. -/
def recLegal (raw : List DWord) (dev : Nat) : Bool :=
  let w := rawWord raw 0
  let n := recN raw
  let dies := List.range (2 ^ recD raw)
  let rest := (List.range 8).drop (2 ^ recD raw)
  let devs := (List.range (2 ^ recV raw)).map (recDev raw)
  bitsOf w 25 7 == 0 && bitsOf w 18 2 == 0 && bitsOf w 14 2 == 0 && bitsOf w 6 2 == 0 && bitsOf w 44 20 == 0 &&
    recV raw ≤ 12 && 2 ≤ recL raw && 2 ≤ n && n ≤ 48 && n == recL raw + recD raw + recV raw && recSelf raw < 2 ^ recV raw &&
    (dies.all fun d => recEng raw d < 8) && nodup (dies.map (recEng raw)) && (rest.all fun d => recEng raw d == 0) &&
    (dies.all fun d => recShard raw d % 64 == 0 && recShard raw d < 2 ^ 56) && (rest.all fun d => recShard raw d == 0) &&
    ((recMap raw).all fun p => p < n) && nodup (recMap raw) && (((List.range 48).drop n).all fun q => rawByte raw (80 + q) == 0) &&
    (recV raw == 0 || ((devs.all fun d => d < 2 ^ 18) && nodup devs && recDev raw (recSelf raw) == dev))

/-! ## amp.bind (R239) -/

/-- The 8-byte words of some bytes. -/
def wordsOf (bs : List Byte) : List DWord := (List.range (bs.length / 8)).map fun i => BitVec.ofNat 64 (leNat ((bs.drop (8 * i)).take 8))

/-- Reads and checks the record at an address (R239 items 3 to 6). A V above 12 gives no device table to read: its breach of R232 raises
trap 0 before any check of one (log entry 104). -/
def readState (s : State) (g a : Nat) : State × Checked (List DWord) :=
  if a % 64 != 0 then (s, .trap 2 0 a)
  else if 2 ^ 56 ≤ a then (s, .trap 5 0 a)
  else match readGlobal s g a 128 true with
    | (s, .trap n c va) => (s, .trap n c va)
    | (s, .wait h) => (s, .wait h)
    | (s, .ok hd) =>
      let h := wordsOf hd
      let more := if recV h == 0 || 12 < recV h then (s, .ok []) else readGlobal s g (a + 128) (4 * 2 ^ recV h) true
      match more with
      | (s, .trap n c va) => (s, .trap n c va)
      | (s, .wait h) => (s, .wait h)
      | (s, .ok tb) =>
        let raw := h ++ wordsOf tb
        if !recLegal raw s.dev then (s, .trap 0 0 0)
        else if (List.range (2 ^ recD raw)).any fun d => !(getPart s (partOf s g)).dies.contains (recEng raw d) then (s, .trap 5 0 a)
        else (s, .ok raw)

/-- Whether an operation of the group on a handle is not complete. -/
def handleBusy (s : State) (g h : Nat) : Bool := (opsOf s g 2).any fun e => e.2.done.isNone && match e.2.body with
  | .amp a => a.handle == h
  | _ => false

/-- Binds or unbinds a handle (R239). -/
def execAmpBind (a : BitVec 6) (b : BitVec 6) (s : State) : Outcome :=
  withGroup s fun g =>
    let s := endChain s g
    let x := getGroup s g
    let h := fld (x.sreg b.toNat) 0 2
    let r := x.sreg a.toNat
    if fld (x.sreg b.toNat) 2 62 != 0 then raise s g 0
    else if handleBusy s g h then block s g (.bind h)
    else if r = 0 then advance (modGroup s g fun x => { x with handles := kerase x.handles h }) g 4
    else
      let q := readState s g r.toNat
      settleCheck q.1 g q.2 fun raw =>
        advance (modGroup q.1 g fun x => { x with handles := kput x.handles h { record := r, raw := raw, map := recMap raw } }) g 4

/-! ## Issue checks (R236, R237) -/

def posOf (m : List Nat) (q : Nat) : Nat := (m[q]?).getD 0
def controlBits (c : DWord) : List Nat := (List.range 48).filter fun q => bitAt c.toNat q
/-- The map after physical positions p and q are exchanged. -/
def swapPos (m : List Nat) (p q : Nat) : List Nat := m.map fun x => if x == p then q else if x == q then p else x

/-- The exchanges of the remap (R240), or none where the free local bits do not suffice. -/
def remap (l : Nat) (m : List Nat) (targets controls : List Nat) : Option (List (Nat × Nat)) :=
  let taken := (targets ++ controls).map (posOf m)
  let free := (((List.range l).filter fun r => !taken.contains r)).reverse
  let far := (targets.map (posOf m)).filter fun p => l ≤ p
  if free.length < far.length then none else some (far.zip free)

/-- The targets that an operand word names. -/
def operandTargets (w : DWord) : List Nat := ((List.range 4).map fun i => fld w (6 * i) 6).take (fld w 24 2 + 1)

/-- The bits of the operand word that a command may set. -/
def operandUsed (cmd : Nat) (w : DWord) : DWord :=
  match cmd with
  | 1 | 2 => 0xFFFFFFFF3F000000 ||| (BitVec.ofNat 64 (2 ^ (6 * (fld w 24 2 + 1)) - 1))
  | 3 => 0xC000FFF
  | 5 => 0xC00007F
  | _ => 0xC00003F

/-- Item 3 of R237 for a command on a handle: the operands are in range. -/
def operandLegal (cmd : Nat) (w c : DWord) (h : Handle) : Bool :=
  let n := recN h.raw
  let ts := operandTargets w
  let cs := controlBits c
  w &&& ~~~(operandUsed cmd w) == 0 &&
  match cmd with
  | 1 | 2 =>
    fld w 28 2 != 3 && fld c 48 16 == 0 && (ts.all fun t => t < n) && (cs.all fun q => q < n) && nodup ts &&
      (ts.all fun t => !cs.contains t) && (cmd == 2 || (remap (recL h.raw) h.map ts cs).isSome)
  | 3 => fld w 0 6 != fld w 6 6 && fld w 0 6 < n && fld w 6 6 < n
  | _ => fld w 0 6 < n

/-- Bytes of the matrix of amp.gate or the diagonal of amp.diag. -/
def matrixBytes (cmd k size : Nat) : Nat := (if cmd == 1 then 4 ^ k else 2 ^ k) * size

/-- The parts of a matrix out of its bytes. -/
def partsOf (size : Nat) (bs : List Byte) : List Nat :=
  (List.range (2 * bs.length / size)).map fun i => leNat ((bs.drop (size / 2 * i)).take (size / 2))

/-- An amplitude command of SUB5 1 to 5 with its operands read and checked (R237). -/
def ampCheck (s : State) (g cmd a b : Nat) : Checked AmpOp :=
  let x := getGroup s g
  let w := x.sreg a
  let arg := if cmd == 3 then 0 else x.sreg b
  let hn := fld w 26 2
  match kfind x.handles hn with
  | none => .trap 0 0 0
  | some h =>
    let c := if cmd ≤ 2 then arg else 0
    if !operandLegal cmd w c h then .trap 0 0 0
    else
      let ts := if cmd ≤ 2 then operandTargets w else [fld w 0 6]
      let swaps := if cmd == 1 then (remap (recL h.raw) h.map ts (controlBits c)).getD []
        else if cmd == 3 then [(fld w 0 6, fld w 6 6)] else []
      let o : AmpOp := {
        cmd := cmd, handle := hn, record := h.record, count := h.count + 1, raw := h.raw, before := h.map
        after := swaps.foldl (fun m e => swapPos m e.1 e.2) h.map, swaps := swaps, targets := ts, controls := c, arg := arg
        keep := bitAt w.toNat 6 }
      if cmd ≤ 2 then
        let off := fld w 32 32
        let size := recSize h.raw
        if off % 16 != 0 then .trap 2 0 off
        else match padPlaces s x.block 0 0 (fld w 28 2 + 1) off (matrixBytes cmd (fld w 24 2 + 1) size) with
          | none => .trap 3 0 off
          | some p =>
            if placePoisoned s p then .trap 6 0 off
            else if placeHeld s p then .wait none
            else .ok { o with matrix := partsOf size (p.map (readByte s)) }
      else if cmd == 4 then
        if arg.toNat % 8 != 0 then .trap 2 0 arg.toNat else if 2 ^ 56 ≤ arg.toNat then .trap 5 0 arg.toNat else .ok o
      else .ok o

/-! ## Shards (R233) -/

/-- Physical indices of this module, without their device bits. -/
def AmpOp.here (a : AmpOp) : List Nat := List.range (2 ^ (recL a.raw + recD a.raw))
/-- Bit `p` of the physical index with low part `j` on this module. -/
def AmpOp.bitOf (a : AmpOp) (j p : Nat) : Bool := bitAt (j + recSelf a.raw * 2 ^ (recL a.raw + recD a.raw)) p
def AmpOp.die (a : AmpOp) (j : Nat) : Nat := j / 2 ^ recL a.raw
/-- The virtual address of an amplitude. -/
def AmpOp.addr (a : AmpOp) (j : Nat) : Nat := recShard a.raw (a.die j) + j % 2 ^ recL a.raw * recSize a.raw
/-- A core of the die whose engine serves an amplitude's shard. -/
def AmpOp.core (a : AmpOp) (j : Nat) : Nat := 40 * recEng a.raw (a.die j)

/-- The map that amp.gate and the other commands apply under. -/
def AmpOp.pos (a : AmpOp) (q : Nat) : Nat := posOf a.after q

/-- Whether the controls select an index; a control on a die or device bit selects whole shards. -/
def AmpOp.selects (a : AmpOp) (j : Nat) : Bool := (controlBits a.controls).all fun c => a.bitOf j (a.pos c)

/-- Some shards, page by page: address and length. -/
def AmpOp.pages (a : AmpOp) (ds : List Nat) : List (Nat × Nat) :=
  (ds.flatMap fun d => pagePieces (recShard a.raw d) (2 ^ recL a.raw * recSize a.raw)).eraseDups

def modAmp (s : State) (k : Nat) (f : AmpOp → AmpOp) : State :=
  modOp s k fun o => match o.body with
    | .amp a => { o with body := .amp (f a) }
    | _ => o

/-- The runs of an operation as the engines find them. -/
def ampRuns (s : State) (o : Op) (a : AmpOp) : List PhysRun :=
  a.spans.flatMap fun v => (pagePieces v.va v.bytes).filterMap fun q =>
    match (engineLocate s o q.1 .read).2 with
    | .at_ p => some { pa := p.pa, bytes := q.2, loose := v.loose }
    | _ => none

/-- An amplitude operation by its key. -/
def getAmp (s : State) (k : Nat) : Option (Op × AmpOp) :=
  match getOp s k with
  | some o => match o.body with
    | .amp a => some (o, a)
    | _ => none
  | none => none

/-! ## The commands (R238, R239) -/

/-- Whether another handle of the context is bound to a record, of a group that can still issue a command (R239). -/
def boundTwice (s : State) (g h : Nat) (r : DWord) : Bool :=
  s.groups.any fun e => e.2.status != .exited && (getBlock s e.2.block).part == partOf s g && (getBlock s e.2.block).shadow == (blockOf s g).shadow &&
    e.2.handles.any fun k => (e.1 != g || k.1 != h) && k.2.record == r

/-- Issues an amplitude command (R238): its matrix read is an access of the group at the level of the pad (R121). -/
def ampInstr (s : State) (cmd a b : Nat) : Outcome :=
  withGroup s fun g => issueCommand s g 2 (fun s => (s, ampCheck s g cmd a b)) fun s o =>
    let s := if cmd ≤ 2 then widenPad s g (fld ((getGroup s g).sreg a) 28 2 + 1) else s
    let (k, s) := issueOp s g 2 .queued (.amp { o with spoilt := boundTwice s g o.handle o.record })
    let s := match getAmp s k with
      | some (o, a) => modAmp s k fun b => { b with runs := ampRuns s o a }
      | none => s
    advance (modGroup s g fun x => { x with handles := kmodify x.handles o.handle fun h => { h with map := o.after, count := o.count } }) g 4

/-- Applies a matrix of 1 to 4 targets under controls (R240, R241). -/
def execAmpGate (a : BitVec 6) (b : BitVec 6) (s : State) : Outcome := ampInstr s 1 a.toNat b.toNat
/-- Multiplies by a diagonal under controls (R242). -/
def execAmpDiag (a : BitVec 6) (b : BitVec 6) (s : State) : Outcome := ampInstr s 2 a.toNat b.toNat
/-- Exchanges two physical positions (R243). -/
def execAmpSwap (a : BitVec 6) (s : State) : Outcome := ampInstr s 3 a.toNat 0
/-- Writes the probability of a logical bit (R244). -/
def execAmpProb (a : BitVec 6) (b : BitVec 6) (s : State) : Outcome := ampInstr s 4 a.toNat b.toNat
/-- Keeps and scales the amplitudes of one value of a bit, clears the others (R245). -/
def execAmpNorm (a : BitVec 6) (b : BitVec 6) (s : State) : Outcome := ampInstr s 5 a.toNat b.toNat

/-- s[SB] := the physical position of a logical bit (R246). -/
def execAmpMap (a : BitVec 6) (b : BitVec 6) (s : State) : Outcome :=
  withGroup s fun g =>
    let s := endChain s g
    let x := getGroup s g
    let w := x.sreg a.toNat
    match kfind x.handles (fld w 26 2) with
    | none => raise s g 0
    | some h =>
      if !operandLegal 6 w 0 h then raise s g 0
      else advance (modGroup s g fun x => x.setS b.toNat (BitVec.ofNat 64 (posOf h.map (fld w 0 6)))) g 4

/-! ## Amplitudes (R233, R251) -/

/-- Whether an index stands in an exchange of the operation: its amplitude moves. -/
def AmpOp.moves (a : AmpOp) (j : Nat) : Bool := a.swaps.any fun e => a.bitOf j e.1 != a.bitOf j e.2

/-- Whether the work of an operation reads or writes an index: under the controls, with its bit 1 for amp.prob (R241 to R245). -/
def AmpOp.works (a : AmpOp) (j : Nat) : Bool :=
  match a.cmd with
  | 1 | 2 => a.selects j
  | 3 => false
  | 4 => a.bitOf j (a.pos (a.targets.headD 0))
  | _ => true

/-- The indices that an operation reads or writes in its present state. -/
def AmpOp.touched (a : AmpOp) (exchanging : Bool) : List Nat := a.here.filter fun j => a.moves j || (!exchanging && a.works j)

/-- The amplitudes of some indices, page by page: the first address and the length up to the last of them. -/
def AmpOp.pagesAt (a : AmpOp) (js : List Nat) : List (Nat × Nat) :=
  let at_ := js.map a.addr
  ((at_.map pageOf).eraseDups).map fun g =>
    let here := at_.filter fun va => pageOf va == g
    let lo := here.foldl min (here.headD 0)
    (lo, here.foldl max 0 + recSize a.raw - lo)

/-- Whether amplitudes are written, or only read as by amp.prob. -/
def AmpOp.access (a : AmpOp) : Access := if a.cmd == 4 then .read else .write

/-- What an operation finds of its pages: places by page, whether one fails, whether one waits. -/
structure AmpPages where
  places : KMap Phys := []
  failed : Bool := false
  stuck : Bool := false

/-- Locates runs of an operation, each in its page: every byte must be accessible (R354), and one that is written readable too. -/
def ampLocate (s : State) (o : Op) (spans : List (Nat × Nat)) (acc : Access) : State × AmpPages :=
  spans.foldl (fun (r : State × AmpPages) q =>
    match engineLocate r.1 o q.1 acc with
    | (s, .at_ p) =>
      let core := coreOfBlock s o.block
      if attrR p.attr && runAllowed s p q.2 false && (acc != .write || runAllowed s p q.2 true) then (s, { r.2 with
        places := kput r.2.places (pageOf q.1) { p with pa := p.pa - q.1 % 65536 }
        failed := r.2.failed || physAnswer s core p = .error
        stuck := r.2.stuck || physAnswer s core p = .held || hostBehind s o p })
      else (s, { r.2 with failed := true })
    | (s, .failed) => (s, { r.2 with failed := true })
    | (s, .fault _) => (s, { r.2 with stuck := true })) (s, {})

def ampPlace (ps : KMap Phys) (va : Nat) : Phys :=
  let p := kgetD ps (pageOf va) { pa := 0, attr := 0 }
  { p with pa := p.pa + va % 65536 }

/-- The amplitude at an index as its two parts, and whether it is poisoned: its granule is, or the host does not answer (R355). -/
def ampRead (s : State) (o : Op) (a : AmpOp) (ps : KMap Phys) (j : Nat) : State × (Nat × Nat) × Bool :=
  let p := ampPlace ps (a.addr j)
  let n := recSize a.raw
  let r := engineRead s (o.issuer (a.core j)) p n
  let w := leNat r.2
  (r.1, (w % 2 ^ (4 * n), w / 2 ^ (4 * n)), physPoisoned r.1 p n || hostSilent r.1 o p || physAnswer r.1 (a.core j) p = .error)

/-- Bytes that an amplitude operation writes at a located address, through a core of a die; a write that the untrained link has kept
too long is discarded and logged (R355). -/
def ampPut (s : State) (o : Op) (core : Nat) (p : Phys) (bytes : List Byte) : State :=
  if hostSilent s o p then logAppend s o.part p.pa 8 0
  else engineWriteRaw (engineTouch s (o.issuer core) p bytes.length true) core (attrScope p.attr) (bytes.zipIdx.map fun b => (p.pa + b.2, b.1))

/-- Writes the amplitude at an index. -/
def ampWrite (s : State) (o : Op) (a : AmpOp) (ps : KMap Phys) (j : Nat) (v : Nat × Nat) : State :=
  let n := recSize a.raw
  ampPut s o (a.core j) (ampPlace ps (a.addr j)) (leBytes n (v.1 + v.2 * 2 ^ (4 * n)))

def ampGranule (a : AmpOp) (ps : KMap Phys) (j : Nat) : Loc := Loc.granule (.mem (ampPlace ps (a.addr j)).pa)
def ampBytes (a : AmpOp) (ps : KMap Phys) (j : Nat) : List Loc := (Loc.mem (ampPlace ps (a.addr j)).pa).run (recSize a.raw)

/-- Reads the amplitudes at several indices. -/
def ampReadAll (s : State) (o : Op) (a : AmpOp) (ps : KMap Phys) (js : List Nat) : State × List ((Nat × Nat) × Bool) :=
  js.foldl (fun (r : State × List ((Nat × Nat) × Bool)) j =>
    let q := ampRead r.1 o a ps j
    (q.1, r.2 ++ [q.2])) (s, [])

/-- Amplitudes whose values are unspecified from now on (R247, R251). -/
def ampUnspecified (s : State) (o : Op) (a : AmpOp) (ps : KMap Phys) (js : List Nat) : State :=
  let n := recSize a.raw
  let s := { s with fresh := s.fresh + 1 }
  js.foldl (fun s j =>
    if (kfind ps (pageOf (a.addr j))).isNone then s
    else
      let v := leNat ((List.range n).map fun i => Config.freeByte (2 ^ 48 * s.fresh + 16 * j + i))
      ampWrite s o a ps j (v % 2 ^ (4 * n), v / 2 ^ (4 * n))) s

/-- Writes amplitudes with their poison: a granule keeps it where one of them carries it, and loses it where all of it is written (R251,
R342). -/
def ampStore (s : State) (o : Op) (a : AmpOp) (ps : KMap Phys) (outs : List (Nat × (Nat × Nat) × Bool)) : State :=
  let s := outs.foldl (fun s e => ampWrite s o a ps e.1 e.2.1) s
  let outs := outs.filter fun e => !hostSilent s o (ampPlace ps (a.addr e.1))
  let carry := ((outs.filter fun e => e.2.2).map fun e => ampGranule a ps e.1).eraseDups
  healGranules (poisonGranules s carry) (outs.flatMap fun e => ampBytes a ps e.1) carry

/-! ## Exchanges (R243, R247) -/

def AmpOp.isDevice (a : AmpOp) (p : Nat) : Bool := recL a.raw + recD a.raw ≤ p

/-- The index with bits p and q interchanged. -/
def swapBits (j p q : Nat) : Nat :=
  let f := fun (k : Nat) => if bitAt j k then 2 ^ k else 0
  j - f p - f q + (if bitAt j p then 2 ^ q else 0) + (if bitAt j q then 2 ^ p else 0)

/-- The indices of this module whose amplitudes come from another module in an exchange over p and q. -/
def AmpOp.incoming (a : AmpOp) (e : Nat × Nat) : List Nat :=
  if a.isDevice e.1 || a.isDevice e.2 then a.here.filter fun j => a.bitOf j e.1 != a.bitOf j e.2 else []

/-- The device that an exchange pairs this module with: its index differs in the bits of the device positions (R247). -/
def AmpOp.partner (a : AmpOp) (e : Nat × Nat) : Nat :=
  let flip := fun (p : Nat) => if a.isDevice p then 2 ^ (p - recL a.raw - recD a.raw) else 0
  recDev a.raw (Nat.xor (Nat.xor (recSelf a.raw) (flip e.1)) (flip e.2))

/-- Amplitudes after exchange `i`, over p and q: those of this module change places, the others come from the partner. -/
def AmpOp.exchange (a : AmpOp) (m : KMap ((Nat × Nat) × Bool)) (e : Nat × Nat) (i : Nat) : KMap ((Nat × Nat) × Bool) :=
  let n := recSize a.raw
  let js := a.incoming e
  let h := kgetD a.halves i ([], [])
  m.map fun x =>
    if a.isDevice e.1 || a.isDevice e.2 then match js.findIdx? (· == x.1) with
      | some k =>
        let w := leNat ((h.1.drop (n * k)).take n)
        (x.1, (w % 2 ^ (4 * n), w / 2 ^ (4 * n)), h.2.contains k)
      | none => x
    else if bitAt x.1 e.1 != bitAt x.1 e.2 then (x.1, kgetD m (swapBits x.1 e.1 e.2) x.2)
    else x

/-- The amplitudes of some indices with their poison, after the exchanges that have been made: those of an amp.gate reach the shards with
its results, so that no load sees a value from between (R250). -/
def ampValues (s : State) (o : Op) (a : AmpOp) (ps : KMap Phys) (js : List Nat) : State × KMap ((Nat × Nat) × Bool) :=
  let r := ampReadAll s o a ps js
  (r.1, (a.swaps.zipIdx.take a.moved).foldl (fun m e => a.exchange m e.1 e.2) (js.zip r.2))

/-- The transfer of this module's half in an exchange. -/
def AmpOp.outgoing (a : AmpOp) (dev : Nat) (m : KMap ((Nat × Nat) × Bool)) (e : Nat × Nat) : Transfer :=
  let n := recSize a.raw
  let vs := (a.incoming e).map fun j => kgetD m j ((0, 0), false)
  { dev := BitVec.ofNat 18 dev, count := a.count, p := e.1, q := e.2
    data := vs.flatMap fun v => leBytes n (v.1.1 + v.1.2 * 2 ^ (4 * n))
    poisoned := (vs.zipIdx.filter fun v => v.1.2).map (·.2) }

/-- Whether a transfer is the partner's of an exchange: of the same count over the same positions (R247). -/
def AmpOp.accepts (a : AmpOp) (t : Transfer) (e : Nat × Nat) : Bool :=
  t.dev.toNat == a.partner e && t.count == a.count && ((t.p == e.1 && t.q == e.2) || (t.p == e.2 && t.q == e.1)) &&
    t.data.length == recSize a.raw * (a.incoming e).length

/-- Writes part `i`, 16 bytes, of the map in bytes 80 to 127 of the record (R249). -/
def writeMap (s : State) (o : Op) (a : AmpOp) (p : Phys) (va i : Nat) : State :=
  let bytes := (List.range 16).map fun q => BitVec.ofNat 8 (posOf a.after (16 * i + q))
  ampPut s o (coreOfBlock s o.block) { p with pa := p.pa + (va + 16 * i) % 65536 } bytes

/-- What an operation leaves when it has written: values that are unspecified where its record was misused (R239, R250). -/
def ampSettle (s : State) (k : Nat) : State :=
  match getAmp s k with
  | some (o, a) => if a.spoilt then spoilRuns s (o.claimed s a) else s
  | none => s

/-- Whether bytes lie in some runs. -/
def runsHold (rs : List PhysRun) (a n : Nat) : Bool := rs.any fun r => runsMeet (a, n) (r.pa, r.bytes)

/-- Whether a store is on its way to some runs: in a line, drained, or as an entry of a landing that is no load. -/
def storesComing (s : State) (rs : List PhysRun) : Bool :=
  (s.cores.any fun c => c.2.wcb.any fun l => l.bytes.any fun b => runsHold rs b.1 1) ||
    (s.stores.any fun t => t.places.any fun p => p.pa.any fun a => runsHold rs a 1) ||
    (entriesUnderWay s).any fun e => e.op ≤ 17 && e.op != 16 && runsHold rs e.addr e.size

/-- The stores on their way to some runs take effect. -/
def landStores (s : State) (rs : List PhysRun) : State :=
  let s := (kkeys s.cores).foldl (fun s c => drainLines s c fun l => l.bytes.any fun b => runsHold rs b.1 1) s
  let s := applyStores s fun t => t.places.any fun p => p.pa.any fun a => runsHold rs a 1
  rs.foldl (fun s r => flushRange s r.pa r.bytes) (applyWhere s fun e => e.op ≤ 17 && e.op != 16 && runsHold rs e.addr e.size)

/-- An operation is performed. Stores on their way to its shards or its record were made while it might be: they take effect before that,
and leave the values unspecified as those that have landed do (R250). -/
def ampEnd (s : State) (k : Nat) : State :=
  match getAmp s k with
  | some (o, a) =>
    let rs := o.claimed s a
    setOpState (ampSettle (if storesComing s rs then landStores s rs else s) k) k .performed
  | none => s

/-- An operation ends with err, the shards that it would have written unspecified, their mapped pages whole (R251). One that ends before
its exchanges are made leaves the map of the record unwritten (log entry 105). -/
def ampFail (s : State) (k : Nat) (o : Op) (a : AmpOp) : State :=
  let ds := ((a.touched false).map a.die).eraseDups
  let s := if a.cmd == 4 then s else
    let r := ampLocate s o (a.pages ds) .write
    ampUnspecified r.1 o a r.2.places (a.here.filter fun j => ds.contains (a.die j))
  ampEnd (recordOp s k 0 true) k

/-- An operation of which an engine is lost or reset ends with err, every shard of its record unspecified (R251). -/
def ampLost (s : State) (k : Nat) (o : Op) (a : AmpOp) : State :=
  let o := { o with fault := none }
  let r := ampLocate s o (a.pages (List.range (2 ^ recD a.raw))) .write
  let s := modOp r.1 k fun o => { o with fault := none }
  ampEnd (recordOp (ampUnspecified s o a r.2.places a.here) k 0 true) k

/-- The pages of an operation in its present state: of its amplitudes, the map while it exchanges, the result of amp.prob. -/
def AmpOp.needs (a : AmpOp) (exchanging : Bool) : List (Nat × Access) :=
  ((a.pagesAt (a.touched exchanging)).map fun q => (q.1, a.access)) ++
    (if exchanging then [(a.record.toNat + 80, .write)] else []) ++ (if a.cmd == 4 then [(a.arg.toNat, .write)] else [])

/-- The dies whose engines take part in an operation. -/
def AmpOp.dies (a : AmpOp) : List Nat := (List.range (2 ^ recD a.raw)).map (recEng a.raw)

/-- Whether the engines that take part can go on: their dies run, and are not on the way to a reset, which ends the operation (R251, R348,
R363). -/
def ampEnginesRun (s : State) (a : AmpOp) : Bool := a.dies.all fun d => engineRuns s (40 * d) && (getDie s d).state < 3
/-- Whether an engine of an operation is lost for ever: its die is fenced (R251, R352). -/
def ampEngineLost (s : State) (a : AmpOp) : Bool := a.dies.any fun d => (getDie s d).state == 7

/-- Whether an earlier operation of the group on the handle is not performed (R248). -/
def ampBehind (s : State) (k : Nat) (o : Op) (a : AmpOp) : Bool :=
  (opsOf s o.group 2).any fun e => e.1 < k && e.2.done.isNone && e.2.state != .performed && match e.2.body with
    | .amp b => b.handle == a.handle
    | _ => false

/-- An operation starts on its engines (R252), or ends at once where one of them is lost (R251). -/
def evAmpStart (k : Nat) (s : State) : Option State :=
  opEvent s k [.queued] fun o => match o.body with
    | .amp a =>
      if ampBehind s k o a || notStarting s o || behindSaved s k o then none
      else if ampEngineLost s a then some (ampLost s k o a)
      else if !ampEnginesRun s a then none
      else some (setOpState (modAmp s k fun a => { a with began := s.cycle }) k (if a.swaps.isEmpty then .applying else .exchanging))
    | _ => none

/-- An exchange over devices ends without its partner: the exchanged halves are unspecified (R247, R252), the map of the record unwritten
(log entry 105). -/
def loseExchange (s : State) (k : Nat) (o : Op) (a : AmpOp) (f : Op → Op) : State :=
  let js := a.touched true
  let (s, ps) := ampLocate s o (a.pagesAt js) .write
  ampEnd (modOp (ampUnspecified s o a ps.places js) k f) k

/-- One exchange of the operation, or the departure of its half (R243, R247): a filter that denies the partner, or a transfer of the
partner's over other positions, ends it with err. -/
def ampExchange (s : State) (k : Nat) (o : Op) (a : AmpOp) (ps : KMap Phys) (e : Nat × Nat) (incoming : Option Transfer) : Option State :=
  let js := a.touched true
  let err := fun (o : Op) => { o with err := true }
  -- an amp.swap is done when its amplitudes have moved
  let done := fun (s : State) (a : AmpOp) =>
    let s := modAmp s k fun _ => { a with moved := a.moved + 1, began := s.cycle }
    if a.cmd == 3 then
      let r := ampValues s o { a with moved := a.moved + 1 } ps js
      ampSettle (ampStore r.1 o a ps r.2) k
    else s
  if (a.incoming e).isEmpty then some (done s a)
  else if a.sentOut ≤ a.moved then
    match route s (a.partner e) with
    | .denied => some (loseExchange s k o a err)
    | .failed => none
    | .open_ =>
      let r := ampValues s o a ps js
      some { modAmp r.1 k fun a => { a with sentOut := a.moved + 1 } with transfers := s.transfers ++ [(a.partner e, a.outgoing s.dev r.2 e)] }
  else match incoming with
    | none => none
    | some t =>
      if route s (a.partner e) != .open_ then none
      else if a.accepts t e then
        some (done s { a with halves := kput a.halves a.moved (t.data, t.poisoned) })
      else if t.dev.toNat == a.partner e && t.count == a.count then some (loseExchange s k o a err)
      else none

/-- Every half and shard has moved, one exchange after another, and the map is written, 16 bytes at a time (R243, R249, R252). -/
def evAmpExchangeDone (k : Nat) (incoming : Option Transfer) (s : State) : Option State :=
  match getOp s k with
  | none => none
  | some o =>
    match o.body with
    | .amp a =>
      if o.done.isNone && o.state == .exchanging && o.fault.isSome then resumeFault s k o .exchanging
      else opEvent s k [.exchanging] fun o =>
        if !ampEnginesRun s a then none
        else
          let (s, ps) := ampLocate s o (a.pagesAt (a.touched true)) .write
          let va := a.record.toNat + 80
          let (s, mp) := ampLocate s o [(va, 48)] .write
          if ps.failed || mp.failed then some (ampFail s k o a)
          else if ps.stuck || mp.stuck then none
          else match a.swaps[a.moved]? with
            | some e => ampExchange s k o a ps.places e incoming
            | none =>
              -- the map is written
              let left := (List.range 3).filter fun i => !a.mapParts.contains i
              match left[(Config.mapPart s.fresh).val % left.length]? with
              | none => none
              | some i =>
                let s := writeMap { s with fresh := s.fresh + 1 } o a (kgetD mp.places (pageOf va) { pa := 0, attr := 0 }) va i
                let s := modAmp s k fun a => { a with mapParts := insertNat a.mapParts i }
                some (if left.length != 1 then ampSettle s k else if a.cmd == 1 then setOpState (ampSettle s k) k .applying else ampEnd s k)
    | _ => none

/-- The present exchange, over devices, ends without its partner. -/
def exchangeLost (k : Nat) (s : State) (p : AmpOp → Bool) (f : Op → Op) : Option State :=
  opEvent s k [.exchanging] fun o => match o.body with
    | .amp a => if (a.swaps[a.moved]?).any (fun e => !(a.incoming e).isEmpty) && p a then some (loseExchange s k o a f) else none
    | _ => none

/-- The partner is silent for 110,000 cycles from the start of the exchange (R247). -/
def evDeviceExchangeTimeout (k : Nat) (s : State) : Option State :=
  exchangeLost k s (fun a => a.began + Config.linkTimeout ≤ s.cycle) fun o => { o with tmo := true }
/-- The partner refuses the transfer, or a port filter denies it (R247). -/
def evDeviceExchangeRefused (k : Nat) (s : State) : Option State := exchangeLost k s (fun _ => true) fun o => { o with err := true }

/-! ## Applying (R241, R242, R244, R245) -/

/-- A sum of products of fma steps from −0, with flags (R241). -/
def fmaChain (f : Fp.Fmt) (ts : List (Nat × Nat)) : Nat × BitVec 5 :=
  ts.foldl (fun acc t =>
    let r := Fp.fma f t.1 t.2 acc.1
    (r.1, acc.2 ||| r.2)) (f.zero true, 0)

/-- The sign of a part turned round. -/
def negPart (f : Fp.Fmt) (x : Nat) : Nat := if f.signBit ≤ x then x - f.signBit else x + f.signBit

/-- An output amplitude from a row of coefficients and the amplitudes they meet. -/
def ampOut (f : Fp.Fmt) (row : List (Nat × Nat)) (v : List (Nat × Nat)) : (Nat × Nat) × BitVec 5 :=
  let z := row.zip v
  let re := fmaChain f (z.flatMap fun e => [(e.1.1, e.2.1), (negPart f e.1.2, e.2.2)])
  let im := fmaChain f (z.flatMap fun e => [(e.1.1, e.2.2), (e.1.2, e.2.1)])
  ((re.1, im.1), re.2 ||| im.2)

def AmpOp.coef (a : AmpOp) (i : Nat) : Nat × Nat := ((a.matrix[2 * i]?).getD 0, (a.matrix[2 * i + 1]?).getD 0)

/-- The indices of a group: the index with the target bits set by each i. -/
def AmpOp.groupAt (a : AmpOp) (j : Nat) : List Nat :=
  (List.range (2 ^ a.targets.length)).map fun i =>
    (a.targets.zipIdx).foldl (fun n t => if bitAt i t.2 then n + 2 ^ a.pos t.1 else n) j

/-- The outputs of one group of amplitudes, with flags: poison that it reads reaches all that it writes (R251). -/
def AmpOp.group (a : AmpOp) (m : KMap ((Nat × Nat) × Bool)) (js : List Nat) (rows : List (List (Nat × Nat))) :
    List (Nat × (Nat × Nat) × Bool) × BitVec 5 :=
  let vs := js.map fun j => kgetD m j ((0, 0), false)
  let outs := rows.map fun row => ampOut (recFmt a.raw) row (vs.map (·.1))
  ((js.zip outs).map fun e => (e.1, e.2.1, vs.any (·.2)), outs.foldl (fun fl e => fl ||| e.2) 0)

/-- The outputs of several groups. -/
def joinOuts (l : List (List (Nat × (Nat × Nat) × Bool) × BitVec 5)) : List (Nat × (Nat × Nat) × Bool) × BitVec 5 :=
  (l.flatMap (·.1), l.foldl (fun f r => f ||| r.2) 0)

/-- amp.gate on the shards (R241). -/
def AmpOp.gateOuts (a : AmpOp) (m : KMap ((Nat × Nat) × Bool)) : List (Nat × (Nat × Nat) × Bool) × BitVec 5 :=
  let dim := 2 ^ a.targets.length
  let rows := (List.range dim).map fun i => (List.range dim).map fun j => a.coef (dim * i + j)
  joinOuts ((a.here.filter fun j => a.selects j && a.targets.all fun t => !bitAt j (a.pos t)).map fun j => a.group m (a.groupAt j) rows)

/-- amp.diag on the shards (R242). -/
def AmpOp.diagOuts (a : AmpOp) (m : KMap ((Nat × Nat) × Bool)) : List (Nat × (Nat × Nat) × Bool) × BitVec 5 :=
  joinOuts ((a.here.filter a.selects).map fun j =>
    a.group m [j] [[a.coef ((a.targets.zipIdx).foldl (fun n t => if a.bitOf j (a.pos t.1) then n + 2 ^ t.2 else n) 0)]])

/-- amp.norm on the shards (R245): an amplitude that it clears takes no poison with it. -/
def AmpOp.normOuts (a : AmpOp) (m : KMap ((Nat × Nat) × Bool)) : List (Nat × (Nat × Nat) × Bool) × BitVec 5 :=
  let f := recFmt a.raw
  let b := a.pos (a.targets.headD 0)
  let fac := Fp.decode Fp.f64 a.arg.toNat
  let times := fun (x : Nat) => if Fp.isNan fac then (f.nan, Fp.invalid) else Fp.mulV f .ne (Fp.decode f x) fac
  joinOuts (a.here.map fun j =>
    let v := kgetD m j ((0, 0), false)
    if a.bitOf j b != a.keep then ([(j, (0, 0), false)], 0)
    else
      let re := times v.1.1
      let im := times v.1.2
      ([(j, (re.1, im.1), v.2)], re.2 ||| im.2))

/-- The probability of amp.prob as an f64, its flags, whether it read poison: of the amplitudes whose bit is 1, in their order (R244). -/
def AmpOp.prob (a : AmpOp) (m : KMap ((Nat × Nat) × Bool)) : Nat × BitVec 5 × Bool :=
  let f := recFmt a.raw
  (a.here.filter fun j => a.bitOf j (a.pos (a.targets.headD 0))).foldl (fun r j =>
    let v := kgetD m j ((0, 0), false)
    let re := Fp.decode f v.1.1
    let im := Fp.decode f v.1.2
    -- re × re + im × im, exact, rounded once
    let sq := Fp.fmaV Fp.f64 .ne re re (Fp.mulExact im im)
    let fl := if Fp.isSignalling im then sq.2 ||| Fp.invalid else sq.2
    let p := Fp.add Fp.f64 .ne r.1 sq.1
    (p.1, r.2.1 ||| fl ||| p.2, r.2.2 || v.2)) (0, 0, false)

/-- Writes the result of amp.prob; a poisoned result is withheld from the host (R251, R356). -/
def writeProb (s : State) (k : Nat) (o : Op) (p : Phys) (v : Nat) (bad : Bool) : State :=
  if bad && inApertures p.pa then logWithheld (recordOp s k 0 true) o.part 2 (p.pa / 64)
  else
    let s := ampPut s o (coreOfBlock s o.block) p (leBytes 8 v)
    if bad then poisonGranules s [Loc.granule (.mem p.pa)] else s

/-- Every amplitude and result is written (R252). -/
def evAmpApplyDone (k : Nat) (s : State) : Option State :=
  match getOp s k with
  | none => none
  | some o =>
    match o.body with
    | .amp a =>
      if o.done.isNone && o.state == .applying && o.fault.isSome then resumeFault s k o .applying
      else opEvent s k [.applying] fun o =>
        if !ampEnginesRun s a then none
        else
          let js := a.touched false
          let (s, ps) := ampLocate s o (a.pagesAt js) a.access
          if a.cmd == 4 then
            let (s, rp) := match engineLocate s o a.arg.toNat .write with
              | (s, .at_ p) => if runAllowed s p 8 true then (s, some (some p)) else (s, some none)
              | (s, .failed) => (s, some none)
              | (s, .fault _) => (s, none)
            match rp with
            | none => if ps.failed then some (ampFail s k o a) else none
            | some none => some (ampFail s k o a)
            | some (some p) =>
              let answer := physAnswer s (coreOfBlock s o.block) p
              if ps.failed || answer = .error then some (ampFail s k o a)
              else if ps.stuck || answer = .held || hostBehind s o p then none
              else
                let (s, m) := ampValues s o a ps.places js
                let (v, fl, bad) := a.prob m
                some (ampEnd (recordOp (writeProb s k o p v bad) k fl false) k)
          else if ps.failed then some (ampFail s k o a)
          else if ps.stuck then none
          else
            let (s, m) := ampValues s o a ps.places js
            let r := match a.cmd with
              | 1 => a.gateOuts m
              | 2 => a.diagOuts m
              | _ => a.normOuts m
            -- what has moved and is no output
            let moved := m.filter fun v => a.moves v.1 && !(r.1.any fun e => e.1 == v.1)
            some (ampEnd (recordOp (ampStore s o a ps.places (r.1 ++ moved)) k r.2 false) k)
    | _ => none

/-- A performed operation completes when every older one of the group is complete. -/
def evAmpComplete (k : Nat) (s : State) : Option State :=
  match getOp s k with
  | some o => match o.body with
    | .amp _ => if o.done.isNone && o.state == .performed && olderDone s k o then some (completeOp s k o) else none
    | _ => none
  | none => none

/-! ## Page faults of the engines (R316) -/

/-- The pages that an operation needs now, with what it does to each. -/
def Op.needs (o : Op) : List (Nat × Access) :=
  match o.body, o.state with
  | .ferry f, .active =>
    -- a span still to be moved, or every page that is written
    let spans := (List.range f.total).filter fun i => f.done.all fun d => i < d.1 || d.1 + d.2 ≤ i
    (if f.outward then f.pagesOf 0 f.total else if f.inward then (spans.flatMap fun i => f.pagesOf i 1).eraseDups else []).map fun va => (va, f.access)
  | .matrix m, .executing => if m.cmd == 4 then m.pages.map fun va => (va, .write) else []
  | .amp a, .exchanging => a.needs true
  | .amp a, .applying => a.needs false
  | _, _ => []

/-- An engine meets a page that is not mapped: the operation is held and trap 4 becomes pending in a group (R316). -/
def evEnginePageFault (k : Nat) (s : State) : Option State :=
  match getOp s k with
  | none => none
  | some o => if (getBlock s o.block).shadow then none else opEvent s k [.active, .executing, .exchanging, .applying] fun o' =>
      let held : OpState := match o.body with
        | .ferry _ => .faulting
        | _ => o.state
      match o'.needs.findSome? fun q => match (engineLocate s o' q.1 q.2).2 with
          | .fault kind => some (q.1, kind)
          | _ => none with
      | some (va, kind) => some (raiseEngineFault s k o' va kind held)
      | none => none

end Sys2Proof.Machine
end

