-- ==== Sys2Proof/Machine/Fabric.lean ====
section
/-! DEFINITION. The fabric (R253 to R271): ingress, inbound packets, the commands of major 0x1C, flagged fences, die reductions. -/

namespace Sys2Proof.Machine

/-! ## Global addresses (R253) -/

def devOf (a : DWord) : Nat := fld a 46 18
def localOf (a : DWord) : Nat := fld a 0 46

/-! ## The target's checks (R254, R255) -/

/-- The leaf of an address in a partition's ingress table, with its level: a cached translation stays in use until it is invalidated
(R295). -/
def ingressLeaf (s : State) (pt : Partition) (va : Nat) : Option (Nat × Nat) :=
  match kfind pt.ingressTlb (va / 65536) with
  | some r => some r
  | none => match walkRoot s pt.ingress va with
    | .leaf level _ l => some (level, l)
    | .stop .. => none

/-- The table that judges a page: its partition and the leaf with its level. -/
def judge (s : State) (va : Nat) : Option (Nat × Nat × Nat) :=
  s.parts.findSome? fun e => if e.2.formed then (ingressLeaf s e.2 va).map fun r => (e.1, r) else none

/-- The translation that has judged a page is cached (R295, log entry 91). -/
def cacheIngress (s : State) (va : Nat) : State :=
  match judge s va with
  | some (p, r) => modPart s p fun pt => { pt with ingressTlb := kput pt.ingressTlb (va / 65536) r }
  | none => s

/-- What a packet does to its bytes, as the operation code of R294. -/
def fabCode (b : FabBody) (pa : Nat) : Nat := match b with
  | .read .. => 0
  | .write .. => if inWindows pa then 3 else 1
  | .alg .. => 2

/-- The bytes a packet touches, as runs in the packet's order. -/
def fabRuns : FabBody → List (Nat × Nat)
  | .read a n => splitPages a n
  | .write bs _ => bs.map fun b => (b.1, 1)
  | .alg _ d _ es => es.map fun e => (e.1, slotSize d)

/-- Whether a packet reads its bytes: a returning algebraic entry sends a word's value away (R342). -/
def fabReads : FabBody → Bool
  | .read .. => true
  | .write .. => false
  | .alg _ _ ret _ => ret

/-- The bytes of a packet: at most 256 (R255). -/
def fabBytes (b : FabBody) : Nat := match b with
  | .read _ n => n
  | .write bs _ => bs.length
  | .alg _ d _ es => slotSize d * es.length

/-- Why a run is refused: the reason code of R294 with the judging partition, or none. -/
def refusal (s : State) (b : FabBody) (r : Nat × Nat) : Option (Nat × Option Nat) :=
  match judge s r.1 with
  | none => some (1, none)
  | some (p, level, l) =>
    let sh := levelShift level
    let page := r.1 / 65536 * 65536
    let frame := leafFrame l sh + page % 2 ^ sh
    -- what may not be enqueued in a window (R370): an algebraic entry, the flag of an rfence.flag
    let alg := match b with
      | .alg .. | .write _ true => true
      | _ => false
    let permitted := match b with
      | .read .. => leafR l
      | .write .. => leafW l
      | .alg .. => leafW l && bitAt l 13
    if frame != page || leafScope l != 4 then some (1, some p)
    else if !(inHbm r.1 || inDiePads r.1 || (inWindows r.1 && !alg)) then some (4, some p)
    else if !permitted then some (2, some p)
    else if inDiePads r.1 && dieAnswer s (diePadOf r.1) = .error then some (5, some p)
    else if fabReads b && ((List.range r.2).any fun i => isPoisoned s (.mem (r.1 + i))) then some (3, some p)
    else none

/-- The first byte of a refused run that failed (R294). -/
def firstBad (s : State) (r : Nat × Nat) (reason : Nat) : Nat :=
  if reason == 3 then (((List.range r.2).map (r.1 + ·)).find? fun a => isPoisoned s (.mem a)).getD r.1 else r.1

/-- The log that takes the record of a refused packet (R255). -/
def refusalLog (s : State) (va : Nat) (judged : Option Nat) : Option Nat :=
  match judged with
  | some p => some p
  | none =>
    if inDiePads va then (s.parts.find? fun e => e.2.formed && e.2.dies.contains (diePadOf va)).map (·.1)
    else (s.parts.find? fun e => e.2.formed && bitAt e.2.ingress 0).map (·.1)

/-- Whether a remote algebraic entry makes the home drain the holders of its region: not one that returns nothing, of the held slot, with the
numbers of its context and generation that its packet carries (R216; log entry 15). -/
def remoteDrains (s : State) (p : FabPacket) (slot : Nat) (d : Word) (a : Nat) (ret : Bool) : Bool :=
  ret || s.holders.any fun h => h.region == regionOf a && match h.state with
    | .holding _ l => !l.elems.isEmpty && !(l.op == slot && l.desc == d && l.ctx == p.context && l.gen.toNat == p.generation)
    | _ => false

/-- Applies one remote algebraic entry to its word after everything pending there (R263); the word's old value. -/
def applyRemote (s : State) (p : FabPacket) (slot : Nat) (d : Word) (ret : Bool) (a : Nat) (x : DWord) : State × Nat :=
  let n := slotSize d
  let s := if remoteDrains s p slot d a ret then settleBytes s a n else settleRange (settle s (regionOf a)) a n
  let w := readLE s (.mem a) n
  (applyEntry s { addr := a, size := n, op := 0, desc := d, operand := x.toNat % 2 ^ (8 * n), remote := true, scope := 4 }, w)

/-- Applies an admitted packet: the bytes it returns, and whether an endpoint took it. -/
def applyPacket (s : State) (p : FabPacket) (part : Nat) : State × List Byte × Bool :=
  match p.body with
  | .read a n =>
    if inWindows a then (s, List.replicate n 0, true)
    else
      let s := settleBytes s a n
      let free := { s with fresh := s.fresh + 1 }
      (free, (List.range n).map fun i =>
        if mixed s (a + i) then Config.freeByte (2 ^ 48 * s.fresh + a + i) else memRead s.mem (a + i), true)
  | .write bs _ =>
    let win := bs.filter fun b => inWindows b.1
    let mem := bs.filter fun b => !inWindows b.1
    let s := mem.foldl (fun s b => settleBytes s b.1 1) s
    let s := spoilAmp s (writeBytes s (mem.map fun b => (Loc.mem b.1, b.2))) (mem.map (·.1))
    let r := enqueue s (.remote p.dev.toNat p.group) none part p.dev.toNat (win.map fun b => (b.1, [b.2]))
    (r.1, [], r.2.isEmpty)
  | .alg slot d ret es =>
    let r := es.foldl (fun (acc : State × List Byte) e =>
      let q := applyRemote acc.1 p slot d ret e.1 e.2
      (q.1, acc.2 ++ leBytes (slotSize d) q.2)) (s, [])
    (r.1, if ret then r.2 else [], true)

/-- A packet cannot be applied now: its die holds requests, or it closes a packet at a full ring. -/
def packetWaits (s : State) (b : FabBody) : Bool :=
  (fabRuns b).any fun r => (inDiePads r.1 && dieAnswer s (diePadOf r.1) = .held) ||
    match b with
    | .write .. => inWindows r.1 && bitAt r.1 12 && ringFull s (windowOf (r.1 / 65536))
    | _ => false

/-- A packet arrives: refused whole with a record, or applied whole, at most once, and never later than 220,000 cycles after its issue
(R255). One of this module's own is on its way in State. -/
def evInboundPacket (p : FabPacket) (s : State) : Option State :=
  let own : Outbound := { dest := s.dev, packet := p }
  let mine := p.dev.toNat == s.dev
  if 256 < fabBytes p.body || p.issued + Config.packetLimit ≤ s.cycle || packetWaits s p.body ||
      (if mine then !s.outbound.contains own else s.handled.contains (p.dev.toNat, p.op, p.issued)) then none
  else
    let s := if mine then { s with outbound := s.outbound.erase own } else noteHandled s (p.dev.toNat, p.op, p.issued)
    let s := (fabRuns p.body).foldl (fun s r => cacheIngress s r.1) s
    let bad := (fabRuns p.body).findSome? fun r => (refusal s p.body r).map fun x => (firstBad s r x.1, x)
    match bad with
    | some (a, reason, judged) =>
      let s := match refusalLog s a judged with
        | some l => logAppendFrom s l p.dev.toNat a 1 (reason + 256 * fabCode p.body a)
        | none => s
      some (sendCompletion s p.dev.toNat p.op .err [])
    | none =>
      let part := match (fabRuns p.body).head?.bind fun r => judge s r.1 with
        | some (q, _) => q
        | none => 0
      let (s, data, taken) := applyPacket s p part
      some (sendCompletion s p.dev.toNat p.op (if taken then .ok else .err) data)

/-- A packet, or behind the packets the contribution of a coll.acc, that has not been applied 220,000 cycles after its issue never is
(R255). -/
def evPacketApplyExpiry (i : Nat) (s : State) : Option State :=
  match s.outbound[i]? with
  | some o => if o.packet.issued + Config.packetLimit ≤ s.cycle then some { s with outbound := s.outbound.eraseIdx i } else none
  | none =>
    let j := i - s.outbound.length
    match s.contributions[j]? with
    | some c => if c.2.issued + Config.packetLimit ≤ s.cycle then some { s with contributions := s.contributions.eraseIdx j } else none
    | none => none

/-! ## Issue (R260) -/

/-- Sends a packet of an operation, unless no port lets it out: denied by the filters it fails at once, with every link failed it
times out (R260, R271). -/
def sendPacket (s : State) (g k dev : Nat) (body : FabBody) : State :=
  match route s dev with
  | .denied => deviceDone s k dev .err
  | .failed => s
  | .open_ =>
    let c := ctxOf s g
    let p : FabPacket := {
      dev := BitVec.ofNat 18 s.dev, group := g, op := k, issued := s.cycle, context := c.id, generation := c.gen.toNat, body := body }
    { s with outbound := s.outbound ++ [{ dest := dev, packet := p }] }

/-- Issues a class x operation: it counts for the next rfence.flag to each device it names. -/
def issueRemote (s : State) (g : Nat) (state : OpState) (x : FabricOp) : Nat × State :=
  let (k, s) := issueOp s g 3 state (.fabric x)
  (k, modGroup s g fun y => { y with sinceFence := y.sinceFence ++ x.waiting.map fun d => (d, k) })

/-- A class x command with lane registers from `v` on, `n` of them, declared (R259); then its checks and effect. -/
def fabricInstr (s : State) (v n : Nat) (f : Nat → State → State) : Outcome :=
  withGroup s fun g =>
    let s := endChain s g
    if (blockOf s g).regs < v + n then raise s g 0 else f g s

/-- Adds a result in flight that a completion will fill. -/
def awaitRemote (s : State) (g : Nat) (dst : Nat × Nat) (regs : List (Nat × Nat)) : Nat × State :=
  let (slot, s) := newId s
  (slot, modGroup s g fun x => { x with inFlight := kput x.inFlight slot {
    v := regs.foldl (fun m r => kput m (32 * r.1 + r.2) 0) [], dst := dst, awaiting := 1, addr := x.pc, lanes := x.em } })

/-- The destination registers of elements of `unit` registers from `v` on, in some lanes. -/
def destRegs (v unit : Nat) (lanes : List Nat) : List (Nat × Nat) := lanes.flatMap fun l => (List.range unit).map fun j => (v + j, l)

/-- Loads one element for each active lane from another module (R261). -/
def execRld (a : BitVec 6) (v : BitVec 7) (g : Bool) (s : State) : Outcome :=
  let size := if g then 8 else 4
  fabricInstr s v.toNat (size / 4) fun gid s =>
    let x := getGroup s gid
    let at_ := x.sreg a.toNat
    if at_.toNat % size != 0 then raise s gid 2 at_.toNat
    else if x.em = 0 then advance s gid 4
    else releaseIssue s gid 3 fun s =>
      let lanes := x.lanes
      let (slot, s) := awaitRemote s gid (v.toNat, size / 4) (destRegs v.toNat (size / 4) lanes)
      let (k, s) := issueRemote s gid .pending {
        cmd := 0, waiting := [devOf at_], size := size, lanes := lanes, reg := v.toNat, slot := some slot }
      advance (sendPacket s gid k (devOf at_) (.read (localOf at_) (size * lanes.length))) gid 4

/-- Stores one element of each active lane to another module (R261). -/
def execRst (a : BitVec 6) (v : BitVec 7) (g : Bool) (s : State) : Outcome :=
  let size := if g then 8 else 4
  fabricInstr s v.toNat (size / 4) fun gid s =>
    let x := getGroup s gid
    let at_ := x.sreg a.toNat
    if at_.toNat % size != 0 then raise s gid 2 at_.toNat
    else if x.em = 0 then advance s gid 4
    else releaseIssue s gid 3 fun s =>
      let bytes := x.lanes.zipIdx.flatMap fun l =>
        let w := (x.vreg v.toNat l.1).toNat + (if g then (x.vreg (v.toNat + 1) l.1).toNat * 2 ^ 32 else 0)
        (leBytes size w).zipIdx.map fun b => (localOf at_ + l.2 * size + b.2, b.1)
      let (k, s) := issueRemote s gid .pending { cmd := 1, waiting := [devOf at_] }
      advance (sendPacket s gid k (devOf at_) (.write bytes false)) gid 4

/-- ralg in both forms (R262). -/
def remoteAlg (s : State) (a b : BitVec 6) (v : BitVec 7) (ret : Bool) : Outcome :=
  fabricInstr s v.toNat 1 fun gid s =>
    let x := getGroup s gid
    let at_ := x.sreg a.toNat
    let slot := (x.sreg b.toNat).toNat
    let d := (getTable s (ctxOf s gid).table).slot slot
    let size := slotSize d
    if 15 < slot || !slotV d || (size == 8 && (v.toNat % 2 == 1 || (blockOf s gid).regs ≤ v.toNat + 1)) then raise s gid 11
    else if at_.toNat % size != 0 then raise s gid 2 at_.toNat
    else if x.em = 0 then advance s gid 4
    else releaseIssue s gid 3 fun s =>
      let lanes := x.lanes
      let es := lanes.zipIdx.map fun l =>
        let lo := x.vreg v.toNat l.1
        (localOf at_ + l.2 * size, if size == 8 then (x.vreg (v.toNat + 1) l.1 ++ lo : BitVec 64) else lo.setWidth 64)
      let (fl, s) := if ret then let r := awaitRemote s gid (v.toNat, max 1 (size / 4)) (destRegs v.toNat (max 1 (size / 4)) lanes); (some r.1, r.2) else (none, s)
      let (k, s) := issueRemote s gid .pending {
        cmd := 2, waiting := [devOf at_], size := size, lanes := lanes, reg := v.toNat, slot := fl }
      advance (sendPacket s gid k (devOf at_) (.alg slot d ret es)) gid 4

/-- Sends one algebraic entry for each active lane to another module (R262). -/
def execRalg (a : BitVec 6) (b : BitVec 6) (v : BitVec 7) (s : State) : Outcome := remoteAlg s a b v false
/-- ralg that returns each word's old value (R262). -/
def execRalgRet (a : BitVec 6) (b : BitVec 6) (v : BitVec 7) (s : State) : Outcome := remoteAlg s a b v true

/-- Writes a flag after the group's earlier operations to the device (R264). -/
def execRfenceFlag (a : BitVec 6) (b : BitVec 6) (s : State) : Outcome :=
  fabricInstr s 0 0 fun gid s =>
    let x := getGroup s gid
    let at_ := x.sreg a.toNat
    if at_.toNat % 8 != 0 then raise s gid 2 at_.toNat
    else releaseIssue s gid 3 fun s =>
      let dev := devOf at_
      let after := (kkeys (opsOf s gid 3)).filter fun k => match getOp s k with
        | some o => match o.body with
          | .fabric y => o.done.isNone && y.cmd ≤ 5 && y.cmd != 3 && y.waiting.contains dev
          | _ => false
        | none => false
      let x := getGroup s gid
      let first := (x.sinceFence.filter fun e => e.1 == dev).map (·.2)
      let s := modGroup s gid fun x => { x with sinceFence := x.sinceFence.filter fun e => e.1 != dev }
      let (_, s) := issueOp s gid 3 .queued (.fabric {
        cmd := 3, waiting := [dev], addr := at_, value := x.sreg b.toNat, after := after, first := first })
      advance s gid 4

/-- Scatters one word of each active lane to the module it names (R266). -/
def execCollPut (v : BitVec 5) (s : State) : Outcome :=
  let r := 4 * v.toNat
  fabricInstr s r 4 fun gid s =>
    let x := getGroup s gid
    let addr := fun (l : Nat) => (x.vreg (r + 2) l).toNat + fld (x.vreg (r + 3) l) 0 14 * 2 ^ 32
    let dev := fun (l : Nat) => fld (x.vreg (r + 1) l) 0 18
    let lanes := x.lanes
    let elem := fun (l : Nat) => { lane := l, idx := 0, va := addr l + dev l * 2 ^ 46, off := 0 : Elem }
    let bad := lanes.filter fun l => fld (x.vreg (r + 1) l) 18 14 != 0 || fld (x.vreg (r + 3) l) 14 18 != 0
    let odd := lanes.filter fun l => addr l % 4 != 0
    if !bad.isEmpty then laneTrap s gid 5 0 (bad.map elem)
    else if !odd.isEmpty then laneTrap s gid 2 0 (odd.map elem)
    else if lanes.isEmpty then advance s gid 4
    else releaseIssue s gid 3 fun s =>
      let devs := (lanes.map dev).eraseDups
      let (k, s) := issueRemote s gid .pending { cmd := 4, waiting := devs }
      let s := devs.foldl (fun s d =>
        let bytes := (lanes.filter fun l => dev l == d).flatMap fun l =>
          (leBytes 4 (x.vreg r l).toNat).zipIdx.map fun b => (addr l + b.2, b.1)
        sendPacket s gid k d (.write bytes false)) s
      advance s gid 4

/-- Sends a tile as a contribution to an armed tile of another module (R267). -/
def execCollAcc (a : BitVec 5) (b : BitVec 6) (s : State) : Outcome :=
  fabricInstr s 0 0 fun gid s =>
    let x := getGroup s gid
    let t := x.sreg (2 * a.toNat)
    let c := x.sreg b.toNat
    if bitAt t.toNat 32 || c &&& ~~~0xFFFF000F != 0 then raise s gid 0
    else if (blockOf s gid).tiles ≤ fld c 0 4 then raise s gid 3
    else releaseIssue s gid 3 fun s =>
      let (_, s) := issueRemote s gid .queued {
        cmd := 5, waiting := [devOf t], tile := fld c 0 4
        target := [devOf t, fld t 33 9, (x.sreg (2 * a.toNat + 1)).toNat, fld t 0 32, fld t 42 4, fld c 16 16] }
      advance (readTiles s gid) gid 4

/-- Contributes a vector to a die-reduction slot (R268). -/
def execDred (a : BitVec 6) (b : BitVec 6) (v : BitVec 7) (s : State) : Outcome :=
  fabricInstr s v.toNat 1 fun gid s =>
    let x := getGroup s gid
    let c := x.sreg a.toNat
    let d := x.sreg b.toNat
    if bitAt c.toNat 11 || bitAt c.toNat 7 || fld c 12 6 < fld c 18 6 then raise s gid 0
    else if d.toNat % 256 != 0 then raise s gid 2 d.toNat
    else if 2 ^ 56 ≤ d.toNat then raise s gid 5 d.toNat
    else releaseIssue s gid 3 fun s =>
      let (_, s) := issueOp s gid 3 .queued (.fabric {
        cmd := 6, control := c, addr := d, data := (List.range 32).map fun l => x.vreg v.toNat l })
      advance s gid 4

/-! ## Completions (R255, R260, R261) -/

/-- A completion has come back from a device: one of this module's own was on its way; what had left for another device is there. -/
def completing (s : State) (k dev : Nat) (status : OpStatus) (data : List Byte) : Option State :=
  let own : Completion := { dev := s.dev, op := k, status := status, data := data }
  if status == .tmo then none
  else if dev == s.dev then (if s.completions.contains own then some { s with completions := s.completions.erase own } else none)
  else some { s with
    outbound := s.outbound.filter fun o => !(o.packet.op == k && o.dest == dev)
    contributions := s.contributions.filter fun c => !(c.2.op == k && c.1 == dev) }

/-- The registers of returned elements by rank (R261, R262). -/
def rankRegs (x : FabricOp) (data : List Byte) : KMap Word :=
  x.lanes.zipIdx.foldl (fun m l =>
    (valueRegs l.1 x.reg x.size false (leNat ((data.drop (x.size * l.2)).take x.size))).foldl (fun m r => kput m r.1 r.2) m) []

/-- A completion of a device arrives (R255, R260, R266): one that comes after the operation has timed out changes no register. -/
def evRemoteCompletion (k dev : Nat) (status : OpStatus) (data : List Byte) (s : State) : Option State :=
  (completing s k dev status data).map fun s =>
    match getOp s k with
    | none => s
    | some o =>
      match o.body with
      | .fabric x =>
        if o.done.isSome || o.state != .pending || x.cmd == 6 || !x.waiting.contains dev then s
        else
          let s := match x.slot with
            | some i => if status = .ok then modGroup s o.group fun g => { g with
                inFlight := kmodify g.inFlight i fun e => { e with v := rankRegs x data } } else s
            | none => s
          deviceDone s k dev status
      | _ => s

/-- Whether an operation that a fence covers first has failed: its flag is not written (R264). -/
def fenceFailed (s : State) (g : Nat) (x : FabricOp) : Bool :=
  (getGroup s g).xFailed.any fun e => e.1 == devOf x.addr && x.first.contains e.2

/-- A fence that covers a failed operation fails; the failure is reported with it (R264). -/
def failFence (s : State) (k g : Nat) (x : FabricOp) : State :=
  let dev := devOf x.addr
  deviceDone (setOpState (modGroup s g fun y => { y with
    xFailed := y.xFailed.filter fun e => !(e.1 == dev && x.first.contains e.2) }) k .pending) k dev .err

/-- An operation that has not completed 110,000 cycles after its issue completes with tmo (R260), a fence that covers a failed one with err
(R264); dred has its own deadline. -/
def evRemoteTimeout (k : Nat) (s : State) : Option State :=
  match getOp s k with
  | none => none
  | some o =>
    match o.body with
    | .fabric x =>
      if o.done.isSome || x.cmd == 6 || s.cycle < o.issued + Config.linkTimeout then none
      else if x.cmd == 3 && o.state == .queued && fenceFailed s o.group x then some (failFence s k o.group x)
      else some (x.waiting.foldl (fun s d => deviceDone s k d .tmo) (setOpState s k .pending))
    | _ => none

/-- Whether every operation that a fence waits for is complete at its device. -/
def fenceCovers (s : State) (x : FabricOp) (dev : Nat) : Bool :=
  x.after.all fun k => match getOp s k with
  | some o => o.done.isSome || match o.body with
    | .fabric y => !y.waiting.contains dev
    | _ => true
  | none => true

/-- Whether nothing that fence `f` of a group covers is on its way to its device: an operation that has timed out can still be applied there
(R255, R264). -/
def fenceClear (s : State) (g f dev : Nat) : Bool :=
  let flag := fun (p : FabPacket) => match p.body with
    | .write _ r => r
    | _ => false
  (s.outbound.all fun o => !(o.dest == dev && o.packet.group == g && o.packet.op < f && !flag o.packet)) &&
    s.contributions.all fun c => !(c.1 == dev && c.2.group == g && c.2.op < f && c.2.dev.toNat == s.dev)

/-- The covered operations have completed: the fence fails where one that it covers first has failed; else the flag leaves, once none of
them can still be applied (R264). -/
def evRfenceFlagWrite (k : Nat) (s : State) : Option State :=
  match getOp s k with
  | none => none
  | some o =>
    match o.body with
    | .fabric x =>
      let dev := devOf x.addr
      if o.done.isSome || o.state != .queued || x.cmd != 3 || !fenceCovers s x dev then none
      else if fenceFailed s o.group x then some (failFence s k o.group x)
      else if !fenceClear s o.group k dev then none
      else
        let bytes := (leBytes 8 x.value.toNat).zipIdx.map fun b => (localOf x.addr + b.2, b.1)
        some (sendPacket (setOpState s k .pending) o.group k dev (.write bytes true))
    | _ => none

/-! ## Die reductions (R268 to R270) -/

/-- RND, CNT, TY and OP of a control word. -/
def dredTag (c : DWord) : DWord := c &&& 0xFF03F700
def getSlot (s : State) (i : Nat) : DieSlot := kgetD s.dieSlots i {}
def modSlot (s : State) (i : Nat) (f : DieSlot → DieSlot) : State := { s with dieSlots := kput s.dieSlots i (f (getSlot s i)) }

/-- A contribution reaches its slot (R269). -/
def evDredContribution (k : Nat) (s : State) : Option State :=
  opEvent s k [.queued] fun o => match o.body with
    | .fabric x =>
      if x.cmd != 6 then none
      else
        let c := x.control
        let i := fld c 0 7
        let id := (ctxOfBlock s (getBlock s o.block)).id
        let keep := fun (r : Round) =>
          let r := { r with kept := kput r.kept (fld c 18 6) { op := k, data := x.data } }
          some (setOpState (modSlot s i fun d => { d with round := some { r with writing := r.kept.length == fld c 12 6 + 1 } }) k .pending)
        match (getSlot s i).round with
        | none =>
          if (getSlot s i).last == some (o.part, id, fld c 24 8) then some (completeOp s k { o with tmo := true })
          else
            let wait := if fld c 32 32 == 0 then Config.linkTimeout else fld c 32 32
            keep { part := o.part, ctx := id, tag := dredTag c, kept := [], deadline := s.cycle + wait }
        | some r =>
          if r.writing then none
          else if r.part == o.part && r.ctx == id && r.tag == dredTag c && (kfind r.kept (fld c 18 6)).isNone then keep r
          else some (completeOp s k { o with err := true })
    | _ => none

/-- The deadline of a round (R269). -/
def evDredDeadline (i : Nat) (s : State) : Option State :=
  match (getSlot s i).round with
  | some r =>
    if !r.writing && r.deadline ≤ s.cycle then some (modSlot s i fun d => { d with round := some { r with writing := true, timed := true } })
    else none
  | none => none

/-- The tree of R56 with six levels; absent nodes pass the other through. -/
def pairsOf (op : Nat → Nat → Nat) : List (Option Nat) → List (Option Nat)
  | x :: y :: r => (match x, y with
    | some a, some b => some (op a b)
    | some a, none => some a
    | none, y => y) :: pairsOf op r
  | l => l

def treeOf (op : Nat → Nat → Nat) : Nat → List (Option Nat) → Option Nat
  | 0, l => l.headD none
  | n + 1, l => treeOf op n (pairsOf op l)

/-- One combination of OP in the element type (R270). -/
def dredOp (f : Fp.Fmt) (op : Nat) (a b : Nat) : Nat := match op with
  | 0 => (Fp.add f .ne a b).1
  | 1 => (Fp.minMax f false a b).1
  | 2 => (Fp.minMax f true a b).1
  | _ => Fp.absMax f a b

/-- One element of the result and whether a NaN makes it one. -/
def dredElem (f : Fp.Fmt) (op : Nat) (leaves : List (Option Nat)) : Nat × Bool :=
  if leaves.any fun x => x.any fun v => Fp.isNan (Fp.decode f v) then (f.nan, true)
  else ((treeOf (dredOp f op) 6 leaves).getD 0, false)

/-- The 144 bytes that a round writes (R270). -/
def dredResult (r : Round) : List Byte :=
  let cnt := fld r.tag 12 6
  let op := fld r.tag 8 2
  let ks := (List.range (cnt + 1)).map fun i => kfind r.kept i
  let word := fun (w : Nat) => ks.map fun k => k.map fun k => ((k.data[w]?).getD 0).toNat
  let es := (List.range 32).map fun w =>
    if bitAt r.tag.toNat 10 then
      let lo := dredElem Fp.bf16 op ((word w).map fun x => x.map (· % 65536))
      let hi := dredElem Fp.bf16 op ((word w).map fun x => x.map (· / 65536))
      (lo.1 + 65536 * hi.1, lo.2 || hi.2)
    else dredElem Fp.f32 op (word w)
  let late := ks.zipIdx.foldl (fun n k => if k.1.isNone then n + 2 ^ k.2 else n) 0
  (es.flatMap fun e => leBytes 4 e.1) ++ leBytes 8 late ++ leBytes 8 (bit (es.any (·.2)) + 2 * bit r.timed)

/-- The result reaches every kept contributor's destination (R269, R270); a destination that cannot be written gives err to its
contributor alone. -/
def evDredResultWrite (i : Nat) (s : State) : Option State :=
  match (getSlot s i).round with
  | none => none
  | some r =>
    if !r.writing then none
    else
      let bytes := dredResult r
      let done := r.kept.foldl (fun (s? : Option State) e => s?.bind fun s =>
        match getOp s e.2.op with
        | none => some s
        | some o =>
          match o.body with
          | .fabric x =>
            let core := coreOfBlock s o.block
            let o := { o with tmo := r.timed }
            match engineLocate s o x.addr.toNat .write with
            | (s, .at_ p) =>
              if !runAllowed s p 144 true then some (completeOp s e.2.op { o with err := true })
              else if hostBehind s o p then none
              else if hostSilent s o p then some (completeOp (logAppend s o.part p.pa 8 0) e.2.op o)
              else match physAnswer s core p with
              | .held => none
              | .error => some (completeOp s e.2.op { o with err := true })
              | .served =>
                let s := engineStore (engineTouch s (o.issuer core) p 144 true) core (attrScope p.attr) (bytes.zipIdx.map fun b => (p.pa + b.2, b.1))
                some (completeOp (healGranules s ((Loc.mem p.pa).run 144) []) e.2.op o)
            | (s, _) => some (completeOp s e.2.op { o with err := true })
          | _ => some s) (some s)
      done.map fun s => modSlot s i fun _ => { round := none, last := some (r.part, r.ctx, fld r.tag 24 8) }

end Sys2Proof.Machine
end

