-- ==== Sys2Proof/Machine/Waits.lean ====
section
/-! DEFINITION. Counter waits, batches, fences and sleeps (R93, R128 to R131, R164): coverage of engine operations, the instructions
of major 0x17, sleep.until. -/

namespace Sys2Proof.Machine

/-! ## Coverage (R129, R130) -/

/-- A wait covers operations for the first time: their flags are merged into every lane, the ferry's status is kept (R161). -/
def coverOps (s : State) (g : Nat) (covered : KMap Op) : State :=
  let keys := kkeys covered
  let fl := covered.foldl (fun f e => f ||| e.2.flags) 0
  let status := (covered.filterMap fun e => match e.2.body with
    | .ferry f => some (f.status (e.2.done == some .err))
    | _ => none).getLast?
  let s := { s with ops := s.ops.filter fun e => !keys.contains e.1 }
  modGroup s g fun x => { (x.mergeFlags fl) with ferryStatus := status.getD x.ferryStatus }

/-- Whether any of some operations failed (R129). -/
def anyFailed (covered : KMap Op) : Bool := covered.any fun e => e.2.done == some .err || e.2.done == some .tmo

/-- A counter wait completes (R129): coverage, the status word, trap 10. `len` bytes lie behind. -/
def completeOc (s : State) (g cls t : Nat) (dst : Option Nat) : State :=
  let ops := opsOf s g cls
  let covered := ops.take (ops.length - t)
  let oc := ocOf s g cls
  let s := coverOps s g covered
  let s := match dst with
    | none => s
    | some d => modGroup s g fun x =>
      let w := oc + 256 * bit (x.err.getLsbD cls) + 512 * bit (x.tmo.getLsbD cls)
      let clear := ~~~(BitVec.ofNat 4 (2 ^ cls))
      { (x.setS d (BitVec.ofNat 64 w)) with err := x.err &&& clear, tmo := x.tmo &&& clear }
  if cls == 3 && anyFailed covered && bitAt (ctxOf s g).trapEn 10 then raiseAfter s g 10 3 else advance s g 4

/-- The matrix commands of batches 1 to n (R130). -/
def batchOps (s : State) (g n : Nat) : KMap Op := (opsOf s g 1).filter fun e => 1 ≤ e.2.batch && e.2.batch ≤ n
def batchDone (s : State) (g n : Nat) : Bool := (batchOps s g n).all fun e => e.2.done.isSome

/-! ## The instructions (R127 to R131) -/

/-- wait.oc in both forms (R129). -/
def waitOcInstr (s : State) (b : BitVec 6) (i : Bool) (c : BitVec 2) (dst : Option Nat) : Outcome :=
  withGroup s fun g =>
    let s := endChain s g
    let t := if i then b.toNat else min ((getGroup s g).sreg b.toNat).toNat 63
    if ocOf s g c.toNat ≤ t then completeOc s g c.toNat t dst else block s g (.oc c.toNat t dst)

/-- Waits until at most t operations of a class are not complete (R129). -/
def execWaitOc (b : BitVec 6) (i : Bool) (c : BitVec 2) (s : State) : Outcome := waitOcInstr s b i c none
/-- wait.oc that writes and clears the class's status (R129). -/
def execWaitOcSt (d : BitVec 6) (b : BitVec 6) (i : Bool) (c : BitVec 2) (s : State) : Outcome := waitOcInstr s b i c (some d.toNat)

/-- Closes the open batch of matrix commands (R130). -/
def execBatch (d : BitVec 6) (s : State) : Outcome :=
  withGroup s fun g =>
    let s := endChain s g
    let n := (getGroup s g).lastBatch + 1
    let s := { s with ops := s.ops.map fun e =>
      if e.2.group == g && e.2.cls == 1 && e.2.batch == 0 then (e.1, { e.2 with batch := n }) else e }
    advance (modGroup s g fun x => { (x.setS d.toNat (BitVec.ofNat 64 n)) with lastBatch := n }) g 4

/-- Waits for the batches up to a number (R130). -/
def execWaitBatch (a : BitVec 6) (s : State) : Outcome :=
  withGroup s fun g =>
    let s := endChain s g
    let n := min ((getGroup s g).sreg a.toNat).toNat (getGroup s g).lastBatch
    if batchDone s g n then advance (coverOps s g (batchOps s g n)) g 4 else block s g (.batch n)

/-- What a group does towards a fence: its loads are fixed, its buffered stores leave. -/
def startFence (s : State) (g : Nat) : State :=
  drainLines (fixLoads s g) (coreOf s g) fun l => l.of g

/-- Completes when every earlier access is performed, then resets the reach (R128). -/
def execFence (s : State) : Outcome :=
  withGroup s fun g =>
    let s := startFence (endChain s g) g
    if outstanding s g then block s g .fence else advance (resetReach s g) g 4

/-- Blocks until the counter has advanced by k (R131). -/
def execSleep (b : BitVec 6) (i : Bool) (s : State) : Outcome :=
  withGroup s fun g =>
    let s := endChain s g
    let k := if i then 16 * b.toNat else ((getGroup s g).sreg b.toNat).toNat
    let dl := deadlineFrom s k
    if dl ≤ s.cycle then advance s g 4 else block s g (.sleep dl)

/-- Whether a ferry operation has landed; one that a wait has covered has (R164). -/
def landed (s : State) (k : Nat) : Bool := match getOp s k with
  | some o => o.done.isSome || o.state == .performed
  | none => true

/-- A sleep.until completes: a promise at or before its deadline is cleared and checked; a missed one raises trap 9 (R164). -/
def completeSleepUntil (s : State) (g dl : Nat) : State :=
  match (getGroup s g).promise with
  | none => advance s g 4
  | some p =>
    if dl < p.cycle then advance s g 4
    else
      let s := modGroup s g fun x => { x with promise := none }
      if landed s p.op then advance s g 4 else raiseAfter s g 9

/-- Blocks until the counter reaches a value (R93). The counter starts at 0 again after 2^64 − 1, and values compare as numbers (log
entry 84). -/
def execSleepUntil (a : BitVec 6) (s : State) : Outcome :=
  withGroup s fun g =>
    let s := endChain s g
    let dl := ((getGroup s g).sreg a.toNat).toNat
    if dl ≤ s.cycle then completeSleepUntil s g dl else block s g (.sleepUntil dl)

/-! ## Deadlines (R11, R143) -/

/-- The results in flight with keys below `before` no longer write some lane registers in some lanes, nor some uniform registers. -/
def passResults (x : Group) (before : Nat) (lanes : Word) (regs uni : List Nat) : Group :=
  { x with inFlight := x.inFlight.map fun e =>
    if before ≤ e.1 then e
    else
      let hit := regs.filter fun r => e.2.dst.1 ≤ r && r < e.2.dst.1 + e.2.dst.2
      (e.1, { e.2 with
        passed := e.2.passed ++ hit.flatMap fun r => ((List.range 32).filter lanes.getLsbD).map (32 * r + ·)
        spassed := e.2.spassed || uni.any fun r => e.2.sdst == some r }) }

/-- The uniform register that a blocked instruction writes when it completes. -/
def Wait.dst : Wait → Option Nat
  | .gateT _ _ _ d | .wfi _ d | .halt _ d | .swap d | .dieHalt _ d => some d
  | .oc _ _ d => d
  | _ => none

/-- A blocked instruction completes: no result in flight writes its register again. -/
def passBlocked (s : State) (g : Nat) : State :=
  modGroup s g fun x => match x.status with
    | .blocked w => passResults x s.nextId 0 [] w.dst.toList
    | _ => x

/-- Whether a gate of a group's block shows another phase than the operand, as a blocked wait evaluates it. -/
def gateFlipped (s : State) (g : Nat) (r : DWord) (ph : Bool) : Bool := (refPlaces s (getGroup s g).block r).any fun p => flipped s g p ph

/-- Whether a trap may be taken: 7, 8 and 10 only while their bit of sys.trap.en is set (R329). -/
def trapEnabled (s : State) (g num : Nat) : Bool := !(num == 7 || num == 8 || num == 10) || bitAt (ctxOf s g).trapEn num

/-- Whether a group must not go on before its gate.arrive has been applied: trap 8 is enabled, and its saved program counter is that of the
next instruction (R145, R329, log entry 88). -/
def awaitsArrival (s : State) (g : Nat) : Bool := bitAt (ctxOf s g).trapEn 8 && s.arrivals.any fun a => a.group == g && a.exits.isNone

/-- The pending traps that a group may take at the next interrupt point (R329, R331): those that another went before wait for its handler's
return. -/
def eligible (s : State) (g : Nat) : List Pending :=
  let x := getGroup s g
  if awaitsArrival s g then [] else x.pending.filter fun p => trapEnabled s g p.num && match p.behind with
    | some d => x.serving.length ≤ d
    | none => true

/-- Whether the group stands still: its die does not run, or an asynchronous trap waits to be taken first (R331, R363). -/
def heldUp (s : State) (g : Nat) : Bool :=
  !dieRuns s (dieOf s g) || !(eligible s g).isEmpty || (blockOf s g).shadow

/-- The deadline of a blocked instruction is reached. A condition that comes to hold in the deadline's cycle wins, so a gate.twait
times out once that cycle is over (R11). -/
def evDeadlineReached (g : Nat) (s : State) : Option State :=
  if (kfind s.groups g).isNone || heldUp s g then none
  else match (getGroup s g).status with
    | .blocked (.sleep dl) => if dl ≤ s.cycle then some (advance s g 4) else none
    | .blocked (.sleepUntil dl) => if dl ≤ s.cycle then some (completeSleepUntil s g dl) else none
    | .blocked (.gateT r ph dl dst) =>
      if dl < s.cycle && !gateFlipped s g r ph then some (advance (modGroup (passBlocked s g) g fun x => x.setS dst 1) g 4) else none
    | _ => none

end Sys2Proof.Machine
end

