-- ==== Sys2Proof/Machine/Issue.lean ====
section
/-! DEFINITION. What an instruction names (R20 to R38), latch chains as the issue slot sees them (R25 to R29), and when the next
instruction of a group may issue (R10, R27, R124). -/

namespace Sys2Proof.Machine

/-! ## What an instruction reads and writes -/

/-- The registers an instruction names: lane sources as operand code and registers, lane destinations, uniform registers read and
written; its length, whether it pushes a value (R25), the engine classes that it counts on (R124), and the single lane that it writes where it writes one (R85). -/
structure Use where
  len : Nat := 4
  lanes : List (Nat × Nat) := []
  dest : List (Nat × Nat) := []
  uni : List Nat := []
  udest : List Nat := []
  push : Bool := false
  cls : List Nat := []
  only : Option (BitVec 6 × Bool) := none
  deriving DecidableEq, Repr

namespace UseOf

/-- A two-source lane instruction; with `acc` its destination is a source as well. -/
def alu (d a b : BitVec 7) (dn an bn : Nat) (acc write : Bool) : Use :=
  { lanes := [(a.toNat, an), (b.toNat, bn)] ++ (if acc then [(d.toNat, dn)] else [])
    dest := if write then [(d.toNat, dn)] else [], push := true }

/-- A one-source lane instruction. -/
def lane1 (d : BitVec 7) (dn a an : Nat) (write : Bool) : Use :=
  { lanes := [(a, an)], dest := if write then [(d.toNat, dn)] else [], push := true }

/-- A compact form: A5 as an operand code, D also a source where `acc`. -/
def compact2 (d : BitVec 6) (a : BitVec 5) (acc : Bool) : Use :=
  { len := 2, lanes := [(compactCode a, 1)] ++ (if acc then [(d.toNat, 1)] else []), dest := [(d.toNat, 1)], push := true }

/-- A uniform instruction: B6 is a register unless it is an immediate. -/
def scalar (srcs : List Nat) (b : BitVec 6) (i : Bool) (dst : List Nat) : Use :=
  { uni := srcs ++ (if i then [] else [b.toNat]), udest := dst }

/-- An access of formats M and P: the offset register, the data. -/
def access (a : BitVec 7) (data dest : List (Nat × Nat)) : Use := { lanes := (a.toNat, 1) :: data, dest := dest }

/-- The uniform registers of a code of the mask space (R38). -/
def maskUni (c : BitVec 7) : List Nat := if c.toNat ≤ 8 then [] else [c.toNat - 64]

end UseOf

open UseOf in
/-- What each instruction names; an element of an algebraic slot, whose size the word does not say, counts with one register (`slotUse`). -/
def usage (i : Instr) : Use :=
  match i with
  | .addI32 d a b w n | .subI32 d a b w n | .mulloI32 d a b w n | .mulhiI32 d a b w n | .mulhiN32 d a b w n
  | .addsatI32 d a b w n | .subsatI32 d a b w n | .minI32 d a b w n | .maxI32 d a b w n | .minN32 d a b w n | .maxN32 d a b w n
  | .and d a b w n | .or d a b w n | .xor d a b w n | .andn d a b w n | .shl d a b w n | .shr d a b w n | .sar d a b w n
  | .rot d a b w n | .orn d a b w n | .absdiffI32 d a b w n | .addF32 d a b w n | .subF32 d a b w n | .mulF32 d a b w n
  | .minF32 d a b w n | .maxF32 d a b w n | .addF16x2 d a b w n | .mulF16x2 d a b w n | .addBf16x2 d a b w n
  | .mulBf16x2 d a b w n => alu d a b (2 ^ w.toNat) (2 ^ w.toNat) (2 ^ w.toNat) false !n
  | .madI32 d a b w n | .fmaF32 d a b w n | .fmaF16x2 d a b w n | .fmaBf16x2 d a b w n =>
      alu d a b (2 ^ w.toNat) (2 ^ w.toNat) (2 ^ w.toNat) true !n
  | .addI64 d a b w n | .subI64 d a b w n | .mulI64 d a b w n | .addF64 d a b w n | .subF64 d a b w n | .mulF64 d a b w n =>
      alu d a b (2 * 2 ^ w.toNat) (2 * 2 ^ w.toNat) (2 * 2 ^ w.toNat) false !n
  | .shlI64 d a b w n | .shrI64 d a b w n | .sarI64 d a b w n =>
      alu d a b (2 * 2 ^ w.toNat) (2 * 2 ^ w.toNat) (2 ^ w.toNat) false !n
  | .divI32 d a b w n | .divN32 d a b w n | .remI32 d a b w n | .remN32 d a b w n =>
      { alu d a b (2 ^ w.toNat) (2 ^ w.toNat) (2 ^ w.toNat) false !n with push := false }
  | .fmaF64 d a b w n => alu d a b (2 * 2 ^ w.toNat) (2 * 2 ^ w.toNat) (2 * 2 ^ w.toNat) true !n
  | .set d _ n | .setiF32 d _ n | .fsrGet d n => lane1 d 1 124 1 !n
  | .addi d a _ n | .muli d a _ n | .andi d a _ n | .ori d a _ n | .xori d a _ n | .shli d a _ n | .shri d a _ n
  | .sari d a _ n | .rsbi d a _ n | .mini d a _ n | .maxi d a _ n | .addiF32 d a _ n | .muliF32 d a _ n | .fsrClr d a n =>
      lane1 d 1 a.toNat 1 !n
  | .mov d a w n | .not d a w n | .negI32 d a w n | .absI32 d a w n | .popc d a w n | .clz d a w n | .ctz d a w n
  | .brev d a w n | .bswap d a w n | .negF32 d a w n | .absF32 d a w n | .rcpF32 d a w n | .rsqrtF32 d a w n | .sqrtF32 d a w n
  | .exp2F32 d a w n | .log2F32 d a w n | .sinpiF32 d a w n | .cospiF32 d a w n | .tanhF32 d a w n | .rndF32 d a w _ n =>
      lane1 d (2 ^ w.toNat) a.toNat (2 ^ w.toNat) !n
  | .rcpF64 d a w n | .sqrtF64 d a w n => lane1 d (2 * 2 ^ w.toNat) a.toNat (2 * 2 ^ w.toNat) !n
  | .packNx d a n _ => lane1 d 1 a.toNat 4 !n
  | .unpackNx d a n _ => lane1 d 4 a.toNat 1 !n
  | .cvt d a w y z n => lane1 d (typeUnit y * 2 ^ w.toNat) a.toNat (typeUnit z * 2 ^ w.toNat) !n
  | .cmp _ a b _ t =>
      { lanes := [(a.toNat, if t.toNat == 3 then 2 else 1), (b.toNat, if t.toNat == 3 then 2 else 1)], push := true }
  | .kand d a b | .kor d a b | .kxor d a b => { uni := maskUni a ++ maskUni b, udest := maskUni d }
  | .knot d a | .kmov d a | .kpop d a | .kfirst d a => { uni := maskUni a, udest := maskUni d }
  | .sel d _ a b | .shfIdx d a b | .shfUp d a b | .shfDown d a b | .shfXor d a b | .bcast d a b => alu d a b 1 1 1 false true
  | .vote _ a => { lanes := [(a.toNat, 1)], push := true }
  | .redAddI32 d a | .redAddF32 d a | .redMinI32 d a | .redMinF32 d a | .redMaxI32 d a | .redMaxF32 d a =>
      { lanes := [(a.toNat, 1)], udest := [d.toNat] }
  | .movCompact d a => compact2 d a false
  | .addI32Compact d a | .subI32Compact d a | .mulloI32Compact d a | .andCompact d a | .orCompact d a | .xorCompact d a
  | .shlCompact d a | .shrCompact d a | .addF32Compact d a | .subF32Compact d a | .mulF32Compact d a | .maxF32Compact d a
  | .minF32Compact d a => compact2 d a true
  | .addiCompact d _ => { len := 2, lanes := [(d.toNat, 1)], dest := [(d.toNat, 1)], push := true }
  | .nop => { len := 2 }
  | .addendPrefix c => { lanes := [(c.toNat, 1)] }
  | .sadd d a b i | .ssub d a b i | .smul d a b i | .sand d a b i | .sor d a b i | .sxor d a b i | .sshl d a b i
  | .sshr d a b i | .scmpEq d a b i | .scmpNe d a b i | .scmpLtI64 d a b i | .scmpLeI64 d a b i | .scmpGtI64 d a b i
  | .scmpGeI64 d a b i | .scmpLtN64 d a b i | .scmpLeN64 d a b i | .scmpGtN64 d a b i | .scmpGeN64 d a b i | .sld d a b i =>
      scalar [a.toNat] b i [d.toNat]
  | .smov d b i | .waitOcSt d b i _ => scalar [] b i [d.toNat]
  | .sst d a b i => scalar [a.toNat, d.toNat] b i []
  | .sid d _ | .fmtGet d _ | .batch d | .sysrd d _ | .ctxSwap d | .ctxKill d | .xget d _ _ => { udest := [d.toNat] }
  | .vget d a b i => { scalar [] b i [d.toNat] with lanes := [(a.toNat, 1)] }
  | .vput d a b i => { scalar [a.toNat] b i [] with dest := [(d.toNat, 1)], only := some (b, i) }
  | .fmtSet _ a | .waitBatch a | .gateArm a | .syswr _ a | .tlbInv a | .xinval a | .xset _ a | .sleepUntil a =>
      { uni := [a.toNat] }
  | .call _ k => { udest := [56 + k.toNat] }
  | .bz _ k | .bnz _ k => { uni := [k.toNat] }
  | .ret k | .jmp _ k => { uni := [56 + k.toNat] }
  | .jmpL _ k => { uni := [56 + k.toNat], udest := [63] }
  | .ld d a _ s w | .ldAcq d a _ s w | .ldnc d a _ s w | .ldp d a s _ w | .ldpAcq d a s _ w =>
      access a [] [(d.toNat, Legal.elemUnit s * 2 ^ w.toNat)]
  | .ldv d a _ w | .ldvAcq d a _ w => access a [] [(d.toNat, 2 ^ w.toNat)]
  | .pref a _ _ | .algFlush a _ | .dflush a _ => access a [] []
  | .st d a _ s w | .stRel d a _ s w | .stnc d a _ s w | .stp d a s _ w | .stpRel d a s _ w =>
      access a [(d.toNat, Legal.elemUnit s * 2 ^ w.toNat)] []
  | .algOp d a _ w _ _ => access a [(d.toNat, 2 ^ w.toNat)] []
  | .algOpRet d a _ w _ _ => access a [(d.toNat, 2 ^ w.toNat)] [(d.toNat, 2 ^ w.toNat)]
  | .algGen d | .tlget d => { dest := [(d.toNat, 1)] }
  | .dset d a _ _ => access a [(d.toNat, 1)] []
  | .dstat d a _ => access a [] [(d.toNat, 4)]
  | .tlset d => { lanes := [(d.toNat, 1)] }
  | .waitOc b i _ | .sleep b i | .xadd _ _ b i => scalar [] b i []
  | .gateInit a b | .gateArrive a b | .gateExpect a b | .gateWait a b | .gateEnlist a b | .ampBind a b | .xsetCap _ a b =>
      { uni := [a.toNat, b.toNat] }
  | .gateTest a b | .gateTestM a b => { uni := [a.toNat, 2 * b.toNat], udest := [2 * b.toNat + 1] }
  | .gateTwait a b => { uni := [a.toNat, 2 * b.toNat, 2 * b.toNat + 1], udest := [2 * b.toNat + 1] }
  | .fyCopy a b v f g =>
      { lanes := [(v.toNat, 6)], uni := [a.toNat, b.toNat], udest := if g then [b.toNat + 1] else [], cls := if f then [0, 1] else [0] }
  | .fyMcast a b v | .fyGather a b v | .fyFill a b v => { lanes := [(v.toNat, 6)], uni := [a.toNat, b.toNat], cls := [0] }
  | .fyStat b => { udest := [b.toNat] }
  | .mxWload a b | .mxStream a b | .mxRead a b | .mxStore a b | .mxScale a b | .mxArm a b =>
      { uni := [a.toNat, b.toNat], cls := [1] }
  | .mxZero b => { uni := [b.toNat], cls := [1] }
  | .ampGate a b | .ampDiag a b | .ampProb a b | .ampNorm a b => { uni := [a.toNat, b.toNat], cls := [2] }
  | .ampSwap a => { uni := [a.toNat], cls := [2] }
  | .ampMap a b => { uni := [a.toNat], udest := [b.toNat] }
  | .rld a v g => { uni := [a.toNat], dest := [(v.toNat, if g then 2 else 1)], cls := [3] }
  | .rst a v g => { uni := [a.toNat], lanes := [(v.toNat, if g then 2 else 1)], cls := [3] }
  | .ralg a b v => { uni := [a.toNat, b.toNat], lanes := [(v.toNat, 1)], cls := [3] }
  | .ralgRet a b v => { uni := [a.toNat, b.toNat], lanes := [(v.toNat, 1)], dest := [(v.toNat, 1)], cls := [3] }
  | .rfenceFlag a b => { uni := [a.toNat, b.toNat], cls := [3] }
  | .collPut v => { lanes := [(4 * v.toNat, 4)], cls := [3] }
  | .collAcc a b => { uni := [2 * a.toNat, 2 * a.toNat + 1, b.toNat], cls := [3] }
  | .dred a b v => { uni := [a.toNat, b.toNat], lanes := [(v.toNat, 1)], cls := [3] }
  | .pgmap d a | .wfi d a | .halt d a | .dieCtlRead d a | .dieCtlStop d a | .dieCtlRequeue d a | .dieCtlQuiesce d a
  | .dieCtlWriteback d a | .dieCtlStray d a | .dieCtlReset d a | .dieCtlAdmit d a | .dieCtlFence d a | .dieCtlResume d a =>
      { uni := [a.toNat], udest := [d.toNat] }
  | .imx _ | .bra _ | .bany _ _ | .ball _ _ | .bnone _ _ | .algLoad _ | .fence | .critOn | .critOff | .sysEvtClear ..
  | .poolLeftWrite .. | .fret | .trap _ | .brk | .exit | .resultArrival .. | .waitCompletes .. | .deadlineReached ..
  | .critDeferralExpired .. | .groupHalted .. | .trapEntry .. | .blockRetire .. | .wcbDrain .. | .pageWalk .. | .frameReturn ..
  | .gateDelivery .. | .ferryStart .. | .enginePageFault .. | .ferryPageMapped .. | .mcastAcceptance .. | .ferryDelivery ..
  | .ferryLand .. | .ferryComplete .. | .mxExecute .. | .subarrayWake .. | .mxPerformed .. | .mxComplete ..
  | .subarrayIdleGating .. | .contributionArrival .. | .armTimeout .. | .ampStart .. | .ampExchangeDone ..
  | .deviceExchangeTimeout .. | .ampApplyDone .. | .ampComplete .. | .landingEntryArrival .. | .landingApply ..
  | .grantRequest .. | .grantReply .. | .refusalExpiry .. | .shareCutCall .. | .drainCall .. | .holderMessage ..
  | .ldvRequest .. | .packetIdleTimeout .. | .inboundPacket .. | .packetApplyExpiry .. | .remoteCompletion ..
  | .remoteTimeout .. | .rfenceFlagWrite .. | .dredContribution .. | .dredDeadline .. | .dredResultWrite ..
  | .launchAdmission .. | .blockPlacement .. | .launchCompletion .. | .renameCommit .. | .cancelPacket .. | .openPacket ..
  | .closePacket .. | .governorTick .. | .uncorrectableError .. | .correctableError .. | .dieLost ..
  | .operatingPointCommand .. | .operatingPointSettled .. | .powerCapWrite .. | .powerLimitThrottle .. | .thermalTrip ..
  | .currentBoundTrip .. | .hostLoadTimeout .. | .hostStoreTimeout .. | .hostAccess .. | .controlWindowWrite ..
  | .hostEvtWrite .. | .attestationNonce .. | .linkReset .. | .powerOn .. | .storeTakesEffectAtHome .. | .fabricLinkFailure ..
  | .deviceExchangeRefused .. | .powerLimitRelease .. => {}

/-- Whether it reads a latch (R27). -/
def Use.reader (u : Use) : Bool := u.lanes.any fun c => isLatchCode c.1

/-- The uniform registers read, those of lane operand codes 116 to 123 among them. -/
def Use.scalars (u : Use) : List Nat := u.uni ++ u.lanes.filterMap fun c => if 116 ≤ c.1 && c.1 ≤ 123 then some (c.1 - 116) else none

/-- The lane registers of some runs, without operand codes. -/
def laneRegs (l : List (Nat × Nat)) : List Nat := (l.filter fun c => c.1 ≤ 111).flatMap fun c => (List.range c.2).map (c.1 + ·)

/-! ## The unit at an address (R30) -/

/-- The instruction at an address, as a look ahead sees it: without effect. -/
def peek (s : State) (g va : Nat) : Option Instr := match (fetchAt s g va).2 with
  | .instr i => some i
  | _ => none

/-- The registers of one element of slot `n` of a group's table: one where the slot is not defined (R190, R204). -/
def slotRegs (s : State) (g n : Nat) : Nat :=
  let d := (getTable s (ctxOf s g).table).slot n
  if slotV d then slotSize d / 4 else 1

open UseOf in
/-- What an instruction of a group names, the elements of its algebraic slot at their size. -/
def slotUse (s : State) (g : Nat) (i : Instr) : Use :=
  match i with
  | .algOp d a _ w n _ => access a [(d.toNat, slotRegs s g n.toNat * 2 ^ w.toNat)] []
  | .algOpRet d a _ w n _ => access a [(d.toNat, slotRegs s g n.toNat * 2 ^ w.toNat)] [(d.toNat, slotRegs s g n.toNat * 2 ^ w.toNat)]
  | .ralg _ b v => { usage i with lanes := [(v.toNat, slotRegs s g ((getGroup s g).sreg b.toNat).toNat)] }
  | .ralgRet _ b v =>
    let run := [(v.toNat, slotRegs s g ((getGroup s g).sreg b.toNat).toNat)]
    { usage i with lanes := run, dest := run }
  | _ => usage i

/-- What stands at an address as one unit of issue: an instruction, a prefix with its successor, or a fy.copy with the command that
it captures (R162). With em zero a ferry command reads no operand and a fy.copy captures nothing (R149). -/
def unitAt (s : State) (g va : Nat) : Option Use :=
  match peek s g va with
  | none => none
  | some (.imx p) => some (match peek s g (va + 4) with
    | some j => { usage j with len := 8 }
    | none => usage (.imx p))
  | some (.addendPrefix c) => some (match peek s g (va + 4) with
    | some j => { usage j with len := 8, lanes := (c.toNat, ((usage j).lanes.headD (0, 1)).2) :: (usage j).lanes }
    | none => usage (.addendPrefix c))
  | some (.fyCopy a b v f n) =>
    let u := usage (.fyCopy a b v f n)
    if (getGroup s g).em == 0 then some { u with lanes := [], uni := [] }
    else some (match f, peek s g (va + 4) with
      | true, some j => { u with len := 8, uni := u.uni ++ (usage j).uni }
      | _, _ => u)
  | some (.fyMcast a b v) | some (.fyGather a b v) | some (.fyFill a b v) =>
    let u := usage (.fyMcast a b v)
    some (if (getGroup s g).em == 0 then { u with lanes := [], uni := [] } else u)
  | some i => some (slotUse s g i)

/-- Whether the group stands at a point inside a latch chain (R27): a chain has begun, and the next instruction reads a latch. -/
def insideChain (s : State) (g : Nat) : Bool :=
  let x := getGroup s g
  x.status = .ready && (x.latch.readers != 0 || !x.latch.pushes.isEmpty) && match unitAt s g x.pc.toNat with
    | some u => u.reader
    | none => false

/-- An interrupt point of a group (R335): it is resident, and not inside a chain. -/
def interruptible (s : State) (g : Nat) : Bool :=
  (match (getGroup s g).status with
    | .ready | .waiting | .blocked _ => true
    | _ => false) && !insideChain s g

/-! ## Availability (R10, R27, R124) -/

/-- Whether a result in flight is still to write a lane register: some lane that no later instruction has written (log entry 83). -/
def InFlight.writesLane (e : InFlight) (r : Nat) : Bool :=
  e.dst.1 ≤ r && r < e.dst.1 + e.dst.2 &&
    (e.passed.isEmpty || (List.range 32).any fun l => e.lanes.getLsbD l && !e.passed.contains (32 * r + l))

/-- Whether a result in flight is still to write a uniform register. -/
def InFlight.writesUniform (e : InFlight) (r : Nat) : Bool := e.sdst == some r && !e.spassed

/-- Whether no result in flight is for one of some lane or uniform registers. -/
def arrivedAll (x : Group) (lanes uni : List Nat) : Bool :=
  x.inFlight.all fun e => !(lanes.any e.2.writesLane) && !(uni.any e.2.writesUniform)

/-- The sources of every reader from an address on are available, but for the registers that the chain itself writes (R27). -/
def chainClear (s : State) (g : Nat) : Nat → Nat → List Nat → Bool
  | 0, _, _ => true
  | n + 1, va, written =>
    match unitAt s g va with
    | none => true
    | some u =>
      !u.reader || (arrivedAll (getGroup s g) ((laneRegs u.lanes).filter fun r => !written.contains r) u.scalars &&
        chainClear s g n (va + u.len) (written ++ laneRegs u.dest))

/-- Whether the sources of a group's next instruction are available, and those of a chain that it begins; inside a chain nothing waits any
more (R10, R27, R63). -/
def available (s : State) (g : Nat) : Bool :=
  let x := getGroup s g
  insideChain s g || match unitAt s g x.pc.toNat with
  | none => true
  | some u =>
    arrivedAll x (laneRegs u.lanes) u.scalars &&
      (!(u.push || u.reader) || chainClear s g 33 (x.pc.toNat + u.len) (laneRegs u.dest))

/-! ## What an issue comes after (R118, R145) -/

/-- Whether an instruction begins accesses: those of a group come after its acquires (R118, R122). -/
def beginsAccess (i : Instr) : Bool := match i with
  | .ld .. | .ldAcq .. | .ldnc .. | .ldp .. | .ldpAcq .. | .ldv .. | .ldvAcq .. | .st .. | .stRel .. | .stnc .. | .stp .. | .stpRel .. | .sld ..
  | .sst .. | .algOp .. | .algOpRet .. | .algFlush .. | .algLoad .. | .dset .. | .dstat .. | .dflush .. | .gateInit .. | .gateArrive ..
  | .gateExpect .. | .gateWait .. | .gateTwait .. | .gateTest .. | .gateTestM .. | .gateArm .. | .gateEnlist .. | .fyCopy .. | .fyMcast ..
  | .fyGather .. | .fyFill .. | .mxWload .. | .mxStream .. | .mxRead .. | .mxStore .. | .mxScale .. | .mxArm .. | .mxZero .. | .ampBind ..
  | .ampGate .. | .ampDiag .. | .ampSwap .. | .ampProb .. | .ampNorm .. | .rld .. | .rst .. | .ralg .. | .ralgRet .. | .rfenceFlag ..
  | .collPut .. | .collAcc .. | .dred .. | .xset .. | .xsetCap .. | .fence | .exit => true
  | _ => false

/-- Whether the acquires that a group has issued are performed. -/
def acquired (x : Group) : Bool := x.acquires.all fun k => (kfind x.inFlight k).all fun e => e.awaiting == 0

/-- The acquires of a group are performed, as far as their homes answer. -/
def performAcquires (s : State) (g : Nat) : State :=
  let x := getGroup s g
  if acquired x then s else applyWhere s fun e => e.ret.any fun r => match r with
    | .lane h k .. | .uniform h k _ => h == g && x.acquires.contains k

/-- Whether a group has still to wait at the issue of its next instruction, whatever its sources: for an acquire that it comes after (R118), for its
gate.arrive where trap 8 would be raised behind that (R145, log entry 88). -/
def issueHeld (s : State) (g : Nat) : Bool :=
  let x := getGroup s g
  let next := match peek s g x.pc.toNat with
    | some (.imx _) => peek s g (x.pc.toNat + 4)
    | i => i
  !insideChain s g && (awaitsArrival s g || (!acquired x && next.any beginsAccess))

/-! ## Registers written while a result for them is in flight (log entry 83) -/

/-- Whether a group has executed the instruction at its program counter `a`: it neither waits at it nor was stopped by it. -/
def executed (x : Group) (a : DWord) (depth : Nat) : Bool :=
  match x.status with
  | .waiting | .blocked _ => false
  | _ => x.serving.length ≤ depth || x.trap.pc != a

/-- After an instruction of a group: what it has written, no result in flight from before it writes again. -/
def passIssued (before after : State) (g : Nat) : State :=
  let x := getGroup before g
  match unitAt before g x.pc.toNat with
  | none => after
  | some u =>
    if x.inFlight.isEmpty || !executed (getGroup after g) x.pc x.serving.length then after
    else
      let lanes := match u.only with
        | some b => x.em &&& BitVec.ofNat 32 (2 ^ laneOperand x b.1 b.2)
        | none => x.em
      modGroup after g fun y => passResults y before.nextId lanes (laneRegs u.dest) u.udest

end Sys2Proof.Machine
end

