-- ==== Sys2Proof/Machine/Shoot.lean ====
section
/-! DEFINITION. Shootdowns (R296, R312): the accesses of a partition performed, the frames of a range of virtual addresses, what
tlb.inv and xinval do to TLBs, translation registers, drift regions and deterministic sets. -/

namespace Sys2Proof.Machine

/-! ## The accesses of a partition -/

/-- Performs every access that the groups of a partition have issued, those of exited groups too (R312 item 3, R323 step 1). -/
def performPart (s : State) (p : Nat) : State :=
  let dies := (getPart s p).dies
  let s := ((kkeys s.cores).filter fun c => dies.contains (dieOfCore c)).foldl (fun s c => drainLines s c fun _ => true) s
  let s := applyStores s fun t => t.part == p
  let s := (runningGroups s p fun _ => true).foldl performAll s
  applyWhere s fun e => e.part == p

/-- Whether an access of a partition has still to be performed, because a home holds it back. -/
def partPending (s : State) (p : Nat) : Bool :=
  (s.stores.any fun t => t.part == p) || (s.sent.any fun e => e.part == p) || (s.landing.any fun e => !e.inSet && e.part == p) ||
    (runningGroups s p fun g => outstanding s g) != []

/-! ## The frames of a range (R312 item 4) -/

/-- The physical run that a page at `va` of `size` bytes in a frame gives to the addresses from `lo` up to `hi`. -/
def frameRun (va size frame lo hi : Nat) : Option (Nat × Nat) :=
  let a := max va lo
  let b := min (va + size) hi
  if a < b then some (frame + (a - va), b - a) else none

/-- The frames of the valid leaves for a range, from a table of a level on. -/
def leavesFrom (s : State) (lo hi : Nat) : Nat → Nat → Nat → Nat → List (Nat × Nat)
  | 0, _, _, _ => []
  | fuel + 1, level, t, va0 =>
    let size := 2 ^ (56 - 10 * level)
    (List.range 1024).flatMap fun i =>
      let va := va0 + i * size
      if va + size ≤ lo || hi ≤ va then []
      else
        let e := readWord64 s (t + 8 * i)
        if !bitAt e 0 || malformed e level then []
        else if bitAt e 1 then (frameRun va size (leafFrame e (levelShift level)) lo hi).toList
        else leavesFrom s lo hi fuel (level + 1) (bitsOf e 13 33 * 8192) va

/-- The frames of the leaves of a range in the table of a root. -/
def leavesOf (s : State) (root lo hi : Nat) : List (Nat × Nat) :=
  if bitAt root 0 && inHbm (bitsOf root 13 33 * 8192) then leavesFrom s lo hi 4 1 (bitsOf root 13 33 * 8192) 0 else []

/-- Whether a TLB entry maps an address of a range. -/
def TlbEntry.meets (t : TlbEntry) (lo hi : Nat) : Bool := t.base < hi && lo < t.base + 2 ^ t.shift
def TlbEntry.run (t : TlbEntry) (lo hi : Nat) : Option (Nat × Nat) := frameRun t.base (2 ^ t.shift) (leafFrame t.leaf t.shift) lo hi

/-- Whether a translation register covers an address of a range. -/
def XReg.meets (x : XReg) (lo hi : Nat) : Bool := x.limit != 0 && x.base.toNat < hi && lo < x.base.toNat + x.limit

/-- The frames by which the launches of a partition's running context see pages of a range apart from the table (R322). -/
def renamedRuns (s : State) (p lo hi : Nat) : List (Nat × Nat) :=
  ((getPart s p).launches.filter fun l => !l.2.shadow).flatMap fun l =>
    (l.2.keep ++ l.2.ranges.flatMap (·.fresh)).filterMap fun f => frameRun (65536 * f.1) 65536 f.2 lo hi

/-- The regions for which a holder of the running context has accepted elements through pages of a range: each delta line records the
pages (R312 item 4). -/
def heldRuns (s : State) (p lo hi : Nat) : List (Nat × Nat) :=
  s.holders.filterMap fun h => match h.state with
    | .holding _ l => if l.part == p && l.ctx == (getPart s p).ctx.id && l.pages.any fun v => 65536 * v < hi && lo < 65536 * v + 65536 then
        some (512 * h.region, 512) else none
    | _ => none

/-- The frames that TLB entries, renames and translation registers hold for a range, and of the elements in delta lines. -/
def heldFrames (s : State) (p lo hi : Nat) : List (Nat × Nat) :=
  let dies := (getPart s p).dies
  let tlbs := (s.cores.filter fun c => dies.contains (dieOfCore c.1)).flatMap (fun c => c.2.tlb) ++
    (s.dies.filter fun d => dies.contains d.1).flatMap fun d => d.2.tlb
  let regs := (runningGroups s p fun _ => true).flatMap fun g => (getGroup s g).x.filterMap fun x =>
    if x.2.meets lo hi then frameRun x.2.base.toNat x.2.limit x.2.frame lo hi else none
  tlbs.filterMap (·.run lo hi) ++ regs ++ renamedRuns s p lo hi ++ heldRuns s p lo hi

/-- The frames that a shootdown of a range takes in: of the table's leaves, and those held for it. -/
def shotFrames (s : State) (p lo hi : Nat) : List (Nat × Nat) := (leavesOf s (getPart s p).ctx.ptroot lo hi ++ heldFrames s p lo hi).eraseDups

/-! ## The parts of a shootdown -/

/-- Sets the limit of the matching translation registers of some groups to 0 (R296). -/
def dropX (s : State) (gs : List Nat) (lo hi : Nat) : State :=
  gs.foldl (fun s g => modGroup s g fun x => { x with
    x := x.x.map fun r => if r.2.meets lo hi then (r.1, r.2.dropped) else r }) s

/-- Invalidates the matching TLB entries of a partition. -/
def dropTlbs (s : State) (p lo hi : Nat) : State :=
  let dies := (getPart s p).dies
  let keep := fun (l : List TlbEntry) => l.filter fun t => !t.meets lo hi
  { s with
    cores := s.cores.map fun c => if dies.contains (dieOfCore c.1) then (c.1, { c.2 with tlb := keep c.2.tlb }) else c
    dies := s.dies.map fun d => if dies.contains d.1 then (d.1, { d.2 with tlb := keep d.2.tlb }) else d }

/-- Drains and resets the drift regions of some physical runs, and flushes the deterministic sets of their words (R200, R209). -/
def resetFrames (s : State) (runs : List (Nat × Nat)) : State :=
  let hit := fun (r : Nat) => runs.any fun f => f.1 < 512 * r + 512 && 512 * r < f.1 + f.2
  let s := ((kkeys s.regions).filter hit).foldl resetRegion s
  runs.foldl (fun s f => flushRange s f.1 f.2) s

/-- Whether a page of the running context is in a range and has been unmapped from the frame by which it was touched (R101, log entry
100). -/
def unmapped (s : State) (p lo hi : Nat) (m : ScopeMark) : Bool :=
  let c := (getPart s p).ctx
  m.part == p && m.ctx == c.id && m.page < hi && lo < m.page + m.bytes && match walkRoot s c.ptroot m.page with
    | .leaf level _ e => leafFrame e (levelShift level) != m.frame
    | .stop .. => true

/-- The cached translations of the ingress table go with every translation of the running slot (R295, log entry 91). -/
def dropIngress (s : State) (p lo hi : Nat) : State :=
  if lo == 0 && hi == 2 ^ 56 then modPart s p fun pt => { pt with ingressTlb := [] } else s

/-- A shootdown of the running context's translations of a range, its accesses being performed; `held`: the frames that translations of
the range named when it began (R312). -/
def shootdown (s : State) (p lo hi : Nat) (held : List (Nat × Nat) := []) : State :=
  let frames := (held ++ shotFrames s p lo hi).eraseDups
  let s := dropTlbs (dropX s (runningGroups s p fun _ => true) lo hi) p lo hi
  forgetScopes (resetFrames (dropIngress s p lo hi) frames) (unmapped s p lo hi)

/-! ## The operand of tlb.inv and xinval (R296) -/

/-- The range of addresses an operand names, as first and end; none for a reserved kind or a nonzero must-be-zero bit. -/
def invRange (w : DWord) : Option (Nat × Nat) :=
  let kind := fld w 0 3
  if 4 ≤ kind || fld w 4 12 != 0 || fld w 56 8 != 0 then none
  else if kind == 3 then some (0, 2 ^ 56)
  else
    let size := 2 ^ (16 + 10 * kind)
    let lo := w.toNat / size * size
    some (lo, lo + size)

/-- tlb.inv of a range of the running slot (R296): the group is Blocked until every access of the partition from before is performed.
`held`: the frames that translations of the range named when it began. -/
def invalidate (s : State) (g p : Nat) (w : DWord) (held : List (Nat × Nat)) : State :=
  match invRange w with
  | none => s
  | some (lo, hi) =>
    let held := (held ++ heldFrames s p lo hi).eraseDups
    let s := performPart s p
    if partPending s p then block s g (.tlbInv w held) else advance (shootdown s p lo hi held) g 4

/-- The groups of a partition's shadow context. -/
def shadowGroups (s : State) (p : Nat) : List Nat :=
  (s.groups.filter fun e => let b := getBlock s e.2.block; b.part == p && b.shadow).map (·.1)

end Sys2Proof.Machine
end

