-- ==== Sys2Proof/Machine/Halts.lean ====
section
/-! DEFINITION. Asynchronous traps, halts and the shadow swap, blocked instructions that complete, blocks that retire
(R10 to R13, R301, R302, R330 to R340, R345). -/

namespace Sys2Proof.Machine

/-! ## Groups and blocks of the running context -/

/-- Whether a halt request may be granted now: a critical group defers it until its limit has expired (R13, R301). -/
def haltReady (x : Group) : Bool := x.haltAsked.isSome && (!x.critical || x.forced)

/-- A halted group takes up the state that it was saved in, one that waited at its instruction Waiting (R10); its operations that had not begun resume before any later command of
their class (R338). A group of a block that is being ended stays halted. -/
def resumeGroup (s : State) (g : Nat) : State :=
  if (blockOf s g).ending.isSome then s
  else
    let s := modGroup s g fun x => match x.status with
      | .halted (some w) => { x with status := .blocked w, haltAsked := none, forced := false }
      | .halted none => { x with
          status := if x.stalled then .waiting else .ready
          readySince := s.cycle, haltAsked := none, forced := false }
      | _ => { x with haltAsked := none, forced := false }
    { s with ops := s.ops.map fun (e : Nat × Op) =>
      if e.2.group == g && (e.2.state == .queued || e.2.state == .ordered) then (e.1, { e.2 with saved := true }) else e }

/-! ## Taking a pending trap (R330 to R332) -/

/-- The order among pending traps (R331): 15, 14 by die, 6, 4, 7. -/
def Pending.rank (p : Pending) : Nat := match p.num with
  | 15 => 0
  | 14 => 1 + p.code
  | 6 => 100
  | 4 => 101
  | _ => 102

/-- A pending trap that stays behind one taken while `depth` handlers run. -/
def Pending.stay (depth : Nat) (p : Pending) : Pending := { p with behind := some (min depth (p.behind.getD depth)) }

/-- The pending trap that a group takes first, and the others, which wait for its handler's return (R331). -/
def takePending (s : State) (g : Nat) : Option (Pending × List Pending) :=
  let x := getGroup s g
  match sortBy (fun a b : Pending => a.rank ≤ b.rank) (eligible s g) with
  | [] => none
  | p :: _ => some (p, (x.pending.erase p).map (Pending.stay x.serving.length))

/-- Whether a wait is one of the operations of R332, which a trap does not abandon. -/
def Wait.operation : Wait → Bool
  | .algLoad _ | .tlbInv .. | .halt _ _ | .swap _ | .dieHalt _ _ => true
  | _ => false

/-- The exception of a pending trap of a group whose next instruction is at its program counter. -/
def pendingTrap (x : Group) (p : Pending) : Trap :=
  { num := p.num, code := p.code, pc := x.pc
    addr := if p.num == 7 || p.num == 15 then p.after.getD x.pc else p.addr
    vaddr := p.vaddr, lanes := p.lanes, serves := p.op }

/-- A pending asynchronous trap is taken at an interrupt point; a halt that reaches the same point goes first (R331). -/
def evTrapEntry (g : Nat) (s : State) : Option State :=
  match kfind s.groups g with
  | none => none
  | some x =>
    if !interruptible s g || !dieRuns s (dieOf s g) || (blockOf s g).shadow || haltReady x then none
    else if (match x.status with
      | .blocked w => w.operation
      | _ => false) then none
    else match takePending s g with
      | none => none
      | some (p, rest) => some (enterTrap (modGroup s g fun x => { x with pending := rest }) g (pendingTrap x p))

/-! ## Halting (R13, R336, R337) -/

/-- A critical group's deferral has lasted sys.crit.limit cycles: the halt takes it at the end of its chain (R13, R301). -/
def evCritDeferralExpired (g : Nat) (s : State) : Option State :=
  match kfind s.groups g with
  | none => none
  | some x =>
    match x.haltAsked with
    | none => none
    | some c => if x.critical && !x.forced && c + s.critLimit ≤ s.cycle then some (modGroup s g fun x => { x with forced := true }) else none

/-- What a halt does to a group (R336, R337): its lines drain, its loads are fixed, the delta lines that hold adds of its core flush and
release (R215), captured commands behind Active copies are let fire. In a block that is being ended its checkpointed operations are
discarded (R325, R345). -/
def haltGroup (s : State) (g : Nat) : State :=
  let core := coreOf s g
  let s := markFiring s fun o => o.group == g
  let s := drainLines (fixLoads s g) core fun l => l.of g
  let s := flushHolders s (fun h => h.state.addsOf core) true
  let s := modGroup s g fun x => { x with
    stalled := x.stalled && x.status == .waiting
    status := .halted (match x.status with
      | .blocked w => some w
      | _ => none)
    haltAsked := none, latch := {} }
  let b := (getGroup s g).block
  if (getBlock s b).ending.isSome then dropOps s b (· == g) else s

/-- A halt reaches a group at an interrupt point. -/
def evGroupHalted (g : Nat) (s : State) : Option State :=
  match kfind s.groups g with
  | none => none
  | some x => if haltReady x && interruptible s g && dieRuns s (dieOf s g) && !(blockOf s g).shadow then some (haltGroup s g) else none

/-- Whether an operation of a halted group has still to complete before the halt is complete (R337). -/
def unsettled (s : State) (k : Nat) (o : Op) : Bool :=
  o.done.isNone && match o.body, o.state with
    | .ferry _, .active => true
    | .ferry f, .performed => !f.deliveries.isEmpty
    | .matrix m, .ordered => m.fires && !mxBehind s k o m
    | .matrix m, .executing => m.cmd != 6 && o.fault.isNone
    | .matrix m, .performed => !m.deliveries.isEmpty
    | _, _ => false

/-- Slots of results in flight that a class x operation will fill; they continue in the fabric. -/
def remoteSlots (s : State) (g : Nat) : List Nat := (opsOf s g 3).filterMap fun e => match e.2.body with
  | .fabric x => x.slot
  | _ => none

/-- Whether a group's lines have drained, its loads and returning entries come back, and its engine operations are settled. -/
def groupSettled (s : State) (g : Nat) : Bool :=
  let x := getGroup s g
  x.inFlight.all (fun e => (remoteSlots s g).contains e.1) &&
    !((getCore s (coreOf s g)).wcb.any fun l => l.groups.contains g) &&
    s.ops.all fun e => !(e.2.group == g && unsettled s e.1 e.2)

/-- Whether a group stands halted. -/
def isHalted (x : Group) : Bool := match x.status with
  | .halted _ => true
  | _ => false

/-- Whether the halt of some groups is complete (R336). -/
def haltComplete (s : State) (gs : List Nat) : Bool := gs.all fun g => isHalted (getGroup s g) && groupSettled s g

/-- Trap 14 for each die on which a halt of some groups had to force a critical one (R301), pending in the group that asked; a forced group
may have left with its block. -/
def raiseForced (s : State) (g : Nat) (dies gs : List Nat) : State :=
  let forced := gs.filter fun h => (getGroup s h).forced
  let dies := (forced.map (dieOf s) ++ dies.filter fun d => (getDie s d).forced).eraseDups
  let a := (getGroup s g).pc
  let s := forced.foldl (fun s h => modGroup s h fun x => { x with forced := false }) s
  let s := dies.foldl (fun s d => modDie s d fun x => { x with forced := false }) s
  modGroup s g fun x => { x with pending := x.pending ++ dies.map fun d => { num := 14, code := d, addr := a } }

/-! ## Blocks that leave (R12, R345) -/

/-- The other blocks of a block's cluster set (R96). -/
def setMates (s : State) (b : Nat) : List Nat :=
  let blk := getBlock s b
  (s.blocks.filter fun e => e.1 != b && e.2.part == blk.part && e.2.launch == blk.launch && e.2.shadow == blk.shadow &&
    e.2.number / e.2.span == blk.number / blk.span).map (·.1)

/-- Changes the launch of a block. -/
def modLaunch (s : State) (p l : Nat) (f : Launch → Launch) : State := modPart s p fun pt => { pt with launches := kmodify pt.launches l f }

/-- A block's groups, operations and open packets are gone; its stores have left its core's buffer. -/
def clearBlock (s : State) (b : Nat) : State :=
  let gs := groupsOf s b
  let core := (getBlock s b).core
  let s := drainLines s core fun l => l.groups.any gs.contains
  let s := gs.foldl discardPacketsOf s
  let s := if gs.any fun g => (getGroup s g).forced then modDie s (dieOfCore core) fun d => { d with forced := true } else s
  { s with groups := s.groups.filter fun e => e.2.block != b, ops := s.ops.filter fun e => e.2.block != b }

/-- Returns a block's resources; the window of a set is kept until its last block retires (R12, R96). -/
def freeBlock (s : State) (b : Nat) : State :=
  let blk := getBlock s b
  let mates := setMates s b
  let waits := mates.any (fun m => !(getBlock s m).retired) ||
    match kfind (getPart s blk.part).launches blk.launch with
    | some l => l.requeued.any fun n => n / blk.span == blk.number / blk.span
    | none => false
  if 1 < blk.span && waits then
    modBlock s b fun x => { x with
      retired := true, slices := [], slicePoison := [], acc := [], rowPoison := [], bindings := [], scales := [], issuedScales := [] }
  else { s with blocks := s.blocks.filter fun e => e.1 != b && !(1 < blk.span && mates.contains e.1) }

/-- A block leaves: it retires into its launch's count, or returns to its launch as unplaced (R12, R325, R345). -/
def retireBlock (s : State) (b : Nat) : State :=
  let blk := getBlock s b
  let s := clearBlock s b
  match blk.ending with
  | some .requeued =>
    let s := modLaunch s blk.part blk.launch fun l => { l with requeued := insertNat l.requeued blk.number }
    { s with blocks := s.blocks.filter fun e => e.1 != b }
  | _ =>
    let s := freeBlock s b
    modLaunch s blk.part blk.launch fun l => { l with retired := l.retired + 1, failed := l.failed || blk.ending = some .failed }

/-- Whether a packet that a group of a block closed still stands in a ring (R323). -/
def packetsWait (s : State) (b : Nat) : Bool := s.parts.any fun e => e.2.rings.any fun r => r.2.any fun q => q.block == some b

/-- Whether a block's groups have exited, or been halted and discarded, what they had in flight having come back (R325, R336). -/
def groupsGone (s : State) (b : Nat) : Bool :=
  let ended := (getBlock s b).ending.isSome
  (groupsOf s b).all fun g => (getGroup s g).status = .exited || (ended && isHalted (getGroup s g) && groupSettled s g)

/-- Whether a place is in a block's window or slices. -/
def Loc.inBlock (b : Nat) : Loc → Bool
  | .mem _ => false
  | .pad c _ | .slice c _ => c == b

/-- Whether what a block's groups have issued has still to reach its place: arrivals at gates and stores to its own pads; where it runs again,
every store, entry and packet, so that none of them lands after one of the new run (R344). -/
def effectsWait (s : State) (b : Nat) : Bool :=
  (s.arrivals.any fun a => a.block == b) || (s.stores.any fun t => t.pads.any fun w => w.1.inBlock b) ||
    ((getBlock s b).ending = some .requeued && (groupsOf s b).any fun g => outstanding s g ||
      s.outbound.any fun o => o.packet.group == g && o.packet.dev.toNat == s.dev)

/-- A block whose groups have exited and whose operations are complete retires, or goes back to its launch. -/
def evBlockRetire (b : Nat) (s : State) : Option State :=
  match kfind s.blocks b with
  | none => none
  | some blk =>
    if blk.retired || blk.shadow || !groupsGone s b || packetsWait s b || effectsWait s b ||
        (s.ops.any fun e => e.2.block == b && e.2.done.isNone && !(blk.ending.isSome && checkpoints s e.1 e.2)) then none
    else some (retireBlock s b)

/-! ## The lost or reset engines of amplitude operations (R251, R351) -/

/-- Amplitude operations with an engine on a die end with err, every shard of their records unspecified. -/
def loseAmp (s : State) (d : Nat) : State :=
  s.ops.foldl (fun s e =>
    match e.2.body with
    | .amp a => if e.2.done.isNone && e.2.state != .performed && a.dies.contains d then ampLost s e.1 e.2 a else s
    | _ => s) s

/-! ## die.ctl op 2 (R304, R345) -/

/-- The blocks of the running context on a die that have not left it. -/
def blocksOnDie (s : State) (p d : Nat) : List Nat :=
  (s.blocks.filter fun e => e.2.part == p && !e.2.shadow && !e.2.retired && dieOfCore e.2.core == d).map (·.1)

/-- Blocks that are leaving do so as soon as they can. -/
def retireEnded (s : State) : State :=
  s.blocks.foldl (fun s e => if e.2.ending.isSome then (evBlockRetire e.1 s).getD s else s) s

/-- The value that die.ctl writes: the state code, bit 8 for error replies (R304). -/
def dieStateWord (s : State) (d : Nat) : Nat := (getDie s d).state + (if (getDie s d).stray then 256 else 0)

/-- Op 2 begins: amplitude operations with an engine on the die end (R351), and its blocks begin to be re-queued or ended as failed. -/
def beginRequeue (s : State) (p d : Nat) : State := (blocksOnDie s p d).foldl requeueOrFail (loseAmp s d)

/-- Op 2 is complete: no block of the running context is left on the die, which enters state 2 (R345, R348). -/
def requeueDie (s : State) (p d : Nat) : State := setDieState (loseAmp s d) p d 2

/-! ## The shadow swap (R302, R339, R343) -/

/-- A block whose saved record holds an error is lost when it is restored (R343). -/
def loseBlock (s : State) (b : Nat) : State :=
  let blk := getBlock s b
  let s := modBlock s b fun x => { x with damaged := false }
  logAppend (retireEnded (requeueOrFail s b)) blk.part 0 6 blk.number

/-- The TLBs and sub-arrays of a partition's cores are emptied (R189, R308, R339); what stopped dispatch ends with the context that
was halted (R336). -/
def emptyCores (s : State) (dies : List Nat) : State :=
  let mine := fun (c : Nat) => dies.contains (dieOfCore c)
  { s with
    cores := s.cores.map fun e => if mine e.1 then (e.1, { e.2 with tlb := [], subs := e.2.subs.map fun q => (q.1, { q.2 with weights := [], owner := none, poisoned := false }) }) else e
    dies := s.dies.map fun e => if dies.contains e.1 then (e.1, { e.2 with tlb := [], stopped := false, forced := false }) else e }

/-- A captured command that did not fire before a halt was complete fires after the restore (R337, R338). -/
def Op.unfire (o : Op) : Op := match o.body with
  | .matrix m => { o with body := .matrix { m with fires := false } }
  | _ => o

/-- The running and the shadow context of a partition change places; the groups that come in take up their saved states, and
blocks lost in the shadow banks leave. -/
def exchangeContexts (s : State) (p : Nat) : State :=
  let dies := (getPart s p).dies
  let s := flushCaches s (fun c => dies.contains (cacheDie c)) true
  let s := emptyCores s dies
  let s := { s with blocks := s.blocks.map fun e => if e.2.part == p then (e.1, { e.2 with shadow := !e.2.shadow }) else e }
  let s := modPart s p fun pt => { pt with
    ctx := pt.sh, sh := pt.ctx
    launches := pt.launches.map fun e => (e.1, { e.2 with shadow := !e.2.shadow }) }
  let s := { s with ops := s.ops.map fun (e : Nat × Op) => if e.2.part == p then (e.1, e.2.unfire) else e }
  let lost := s.blocks.filter fun e => e.2.part == p && !e.2.shadow && e.2.damaged
  let s := lost.foldl (fun s e => loseBlock s e.1) s
  (runningGroups s p fun _ => true).foldl resumeGroup s

/-- The halt of ctx.swap is complete: its own group is halted behind the instruction with status 0, and the slots change places. -/
def completeSwap (s : State) (g dst : Nat) : State :=
  let p := partOf s g
  let others := runningGroups s p fun h => h != g
  let s := raiseForced s g (getPart s p).dies others
  let s := haltGroup (advance (modGroup s g fun x => x.setS dst 0) g 4) g
  exchangeContexts s p

/-! ## Blocked instructions whose condition holds (R10) -/

/-- The dies of a mask that are in a partition. -/
def maskDies (s : State) (p mask : Nat) : List Nat := (getPart s p).dies.filter fun d => bitAt mask d

/-- The groups that a halt of some dies names (R301): all of the running context there but the one that asks. -/
def haltNamed (s : State) (g : Nat) (dies : List Nat) : List Nat :=
  runningGroups s (partOf s g) fun h => h != g && dies.contains (dieOf s h)

/-- Whether the condition recorded by a blocked group holds. -/
def waitHolds (s : State) (g : Nat) (w : Wait) : Bool :=
  let p := partOf s g
  match w with
  | .gate r ph | .gateT r ph _ _ => gateFlipped s g r ph
  | .oc cls t _ => ocOf s g cls ≤ t
  | .batch n => batchDone s g n
  | .fence => !outstanding s g
  | .wfi mask _ => (getPart s p).ctx.evt &&& mask != 0
  | .bind h => !handleBusy s g h
  | .algLoad x => !imageHeld s g x
  | .tlbInv .. => !partPending (performPart s p) p
  | .halt dies _ => haltComplete s (haltNamed s g (maskDies s p dies))
  | .swap _ => haltComplete s (runningGroups s p fun h => h != g) && groupSettled s g
  | .dieHalt d _ => !(getPart s p).dies.contains d || blocksOnDie s p d == []
  | .sleep _ | .sleepUntil _ => false

/-- What a blocked instruction does when its condition holds. -/
def completeWait (s : State) (g : Nat) (w : Wait) : State :=
  let p := partOf s g
  let write := fun (s : State) (d v : Nat) => advance (modGroup s g fun x => x.setS d (BitVec.ofNat 64 v)) g 4
  match w with
  | .gate _ _ => advance s g 4
  | .gateT _ _ _ dst => write s dst 0
  | .oc cls t dst => completeOc s g cls t dst
  | .batch n => advance (coverOps s g (batchOps s g n)) g 4
  | .fence => advance (resetReach s g) g 4
  | .wfi _ dst => write s dst (getPart s p).ctx.evt
  | .bind _ => modGroup s g fun x => { x with status := .ready, readySince := s.cycle }
  | .algLoad x => loadImage s g x ((getGroup s g).xreg x).base.toNat
  | .tlbInv w held => invalidate s g p w held
  | .halt dies dst =>
    let ds := maskDies s p dies
    write (raiseForced s g ds (haltNamed s g ds)) dst (ds.foldl (fun n d => n + 2 ^ d) 0)
  | .swap dst => completeSwap s g dst
  | .dieHalt d dst =>
    -- a die that is fenced meanwhile ends the operation (R332)
    if !(getPart s p).dies.contains d then write s dst (dieStateWord s d + 16)
    else
      let s := requeueDie (raiseForced s g [d] []) p d
      write s dst (dieStateWord s d)
  | .sleep _ | .sleepUntil _ => s

/-- Traps that have waited for an operation keep its address (R330, R332). -/
def afterOperation (s : State) (g : Nat) (w : Wait) : State :=
  if w.operation then modGroup s g fun x => { x with pending := x.pending.map fun p => { p with after := some (p.after.getD x.pc) } } else s

/-- The condition of a blocked instruction holds, and it completes; a wait yields to a pending trap (R332), and a halt that reaches the
group saves it as Blocked (R11). -/
def evWaitCompletes (g : Nat) (s : State) : Option State :=
  match kfind s.groups g with
  | none => none
  | some x =>
    match x.status with
    | .blocked w =>
      if (if w.operation then !dieRuns s (dieOf s g) || (blockOf s g).shadow else heldUp s g) || haltReady x || !waitHolds s g w then none
      else some (completeWait (afterOperation (passBlocked s g) g w) g w)
    | _ => none

end Sys2Proof.Machine
end

