-- ==== Sys2Proof/Machine/Sched.lean ====
section
/-! DEFINITION. The dispatcher (R317 to R328): packets and their checks, admission, renaming, placement of blocks, completion of
launches and levels, cancelling, the governor. -/

namespace Sys2Proof.Machine

/-! ## Packets (R317, R318) -/

/-- Bits of doubleword `i` of a packet. -/
def pk (w : List DWord) (i lo len : Nat) : Nat := fld ((w[i]?).getD 0) lo len

def pkKind (w : List DWord) : Nat := pk w 0 0 8
def pkPri (w : List DWord) : Nat := pk w 0 8 2
def pkCoop (w : List DWord) : Bool := pk w 0 10 1 == 1
def pkDet (w : List DWord) : Bool := pk w 0 12 1 == 1
def pkFlush (w : List DWord) : Nat := pk w 0 16 3
def pkSpan (w : List DWord) : Nat := 2 ^ pk w 0 20 2
def pkTiles (w : List DWord) : Nat := pk w 0 24 5
def pkGroups (w : List DWord) : Nat := pk w 0 32 5 + 1
def pkRegs (w : List DWord) : Nat := 8 * (pk w 0 40 4 + 1)
def pkRanges (w : List DWord) : Nat := pk w 0 48 4
def pkStage (w : List DWord) : Nat := pk w 0 56 4
def pkGrid (w : List DWord) : Nat := pk w 1 0 32 + 1
def pkSlice (w : List DWord) : Nat := 16 * pk w 1 32 7
def pkPad (w : List DWord) : Nat := 256 * pk w 1 40 11
def pkEntry (w : List DWord) : Nat := pk w 2 0 64
def pkSignal (w : List DWord) : Nat := pk w 4 0 64
def pkParent (w : List DWord) : Nat := pk w 5 0 64
def pkGraph (w : List DWord) : Nat := pk w 6 0 16
def pkPhase (w : List DWord) : Nat := pk w 6 16 16
def pkJob (w : List DWord) : Nat := pk w 6 32 16
/-- LEVEL of a cancel, open or close packet. -/
def pkLevel (w : List DWord) : Nat := pk w 0 8 2

/-- An address of a signal word: a multiple of 16 below 2^56. -/
def signalOk (a : Nat) : Bool := a % 16 == 0 && a < 2 ^ 56

/-- The must-be-zero bits and field ranges of a launch packet (R317, R17). -/
def launchFieldsOk (w : List DWord) : Bool :=
  pk w 0 60 4 == 0 && pk w 0 52 4 == 0 && pk w 0 44 4 == 0 && pk w 0 37 3 == 0 && pk w 0 29 3 == 0 && pk w 0 22 2 == 0 &&
  pk w 0 19 1 == 0 && pk w 0 13 3 == 0 && pk w 1 51 13 == 0 && pk w 1 39 1 == 0 && pk w 6 48 16 == 0 &&
  pkStage w ≤ 3 && pkRanges w ≤ 8 && pk w 0 40 4 ≤ 13 && pkTiles w ≤ 16 && pk w 0 20 2 != 3 && pkFlush w ≤ 5 &&
  pk w 1 40 11 ≤ 1024 && pk w 1 32 7 ≤ 64 && pkEntry w % 2 == 0 && pkEntry w < 2 ^ 56 && signalOk (pkSignal w) &&
  pk w 7 0 4 == 0 && (pkRanges w != 0 || pk w 7 0 64 == 0) && (pkRanges w == 0 || pkGraph w != 0)

/-! ## Levels (R324) -/

/-- The key of a level: 1 graph, 2 phase, 3 job. -/
def levelKey (level id : Nat) : Nat := 65536 * level + id

/-- The nearest enclosing level of some identifiers, if any is named. -/
def nearest (graph phase job : Nat) : Option Nat :=
  if graph != 0 then some (levelKey 1 graph) else if phase != 0 then some (levelKey 2 phase) else if job != 0 then some (levelKey 3 job) else none

def launchLevel (w : List DWord) : Option Nat := nearest (pkGraph w) (pkPhase w) (pkJob w)

/-- The level that a level is counted in. -/
def outerLevel (key : Nat) (l : Level) : Option Nat :=
  if key / 65536 == 1 then nearest 0 l.phase l.job else if key / 65536 == 2 then nearest 0 0 l.job else none

/-- The levels of a context that a launch is counted in, directly and indirectly. -/
def chainOf (c : Ctx) : Nat → Option Nat → List Nat
  | 0, _ | _, none => []
  | fuel + 1, some k => k :: chainOf c fuel ((kfind c.levels k).bind (outerLevel k))

def launchChain (c : Ctx) (w : List DWord) : List Nat := chainOf c 3 (launchLevel w)

/-- Whether every named identifier is open. -/
def levelsOpen (c : Ctx) (ids : List (Nat × Nat)) : Bool := ids.all fun e => e.2 == 0 || (kfind c.levels (levelKey e.1 e.2)).isSome

/-! ## The device's own accesses for a context -/

/-- A walk that the dispatcher makes for a partition's context: the physical address and leaf of an address with a permission. -/
def dispatchWalk (s : State) (p : Nat) (shadow : Bool) (va : Nat) (store : Bool) : Option (TlbEntry × Nat) :=
  if 2 ^ 56 ≤ va then none
  else
    let pt := getPart s p
    match walkRoot s (if shadow then pt.sh.ptroot else pt.ctx.ptroot) va with
    | .stop .. => none
    | .leaf level pte e =>
      let sh := levelShift level
      let pa := leafFrame e sh + va % 2 ^ sh
      if (if store then leafW e else leafR e) && addressOk s pa store && !(store && inEndpoints pa) then
        some ({ base := va / 2 ^ sh * 2 ^ sh, shift := sh, leaf := e, pte := pte }, pa)
      else none

/-- Reads `n` bytes of a context for the dispatcher, all of one page, or none where a byte cannot be read. -/
def dispatchRead (s : State) (p va n : Nat) : Option (List Byte) :=
  match dispatchWalk s p false va false with
  | some (_, pa) => if inEndpoints pa then some (List.replicate n 0) else if isPoisoned s (.mem pa) then none
      else some (((Loc.mem pa).run n).map (readByte s))
  | none => none

/-- Writes a signal word (R323 step 2): status, blocks retired unrun, the counter; a signal that does not translate to a writable
page is logged as lost. -/
def writeSignal (s : State) (p : Nat) (shadow : Bool) (signal status unrun launch : Nat) : State :=
  if signal == 0 then s
  else
    let lost := logAppend s p signal 3 (launch % 2 ^ 32)
    if signal % 16 != 0 then lost
    else match (dispatchWalk s p shadow signal true).filter fun q => addressOk s (q.2 + 15) true with
      | none => lost
      | some (t, pa) =>
        let s := ((setLeafBits s t (accessedBit + dirtyBit)).map (·.1)).getD s
        let s := if bitAt t.leaf 13 then settleBytes s pa 16 else s
        writeBytes s (((Loc.mem pa).run 16).zip (leBytes 4 status ++ leBytes 4 unrun ++ leBytes 8 s.cycle))

/-! ## Counters of levels (R324) -/

def modLevels (s : State) (p : Nat) (shadow : Bool) (f : KMap Level → KMap Level) : State :=
  modCtx s p shadow fun c => { c with levels := f c.levels }

def levelUp (s : State) (p : Nat) (k : Option Nat) : State := match k with
  | some k => modLevels s p false fun m => kmodify m k fun l => { l with counter := l.counter + 1 }
  | none => s

/-- The worse of two statuses: 5 before 4 before 0; no other status reaches a level. -/
def worse (a b : Nat) : Nat := if a == 5 || b == 5 then 5 else if a == 4 || b == 4 then 4 else 0

/-- Decrements a level's counter by an item with a status; at 0 the level's signal is written, and its own level is decremented. -/
def levelDown (p : Nat) (shadow : Bool) : Nat → Option Nat → Nat → State → State
  | 0, _, _, s | _, none, _, s => s
  | fuel + 1, some k, status, s =>
    let c := if shadow then (getPart s p).sh else (getPart s p).ctx
    match kfind c.levels k with
    | none => s
    | some l =>
      let l := { l with counter := l.counter - 1, status := worse l.status status }
      if l.counter != 0 then modLevels s p shadow fun m => kput m k l
      else
        let s := modLevels s p shadow fun m => kerase m k
        levelDown p shadow fuel (outerLevel k l) l.status (writeSignal s p shadow l.signal l.status 0 0)

/-! ## Placement on a core (R17) -/

/-- Free bytes of the register bank, and free group places, of each issue slot of a core; free pad bytes; free tiles. -/
structure Room where
  banks : List (Nat × Nat)
  pad : Nat
  tiles : Nat
  deriving DecidableEq, Repr

def Room.empty : Room := { banks := List.replicate Config.slotsPerCore (Config.bankBytes, Config.groupsPerSlot), pad := Config.corePadBytes, tiles := Config.coreTiles }

/-- What the resident blocks of a core leave free. -/
def roomOf (s : State) (core : Nat) : Room :=
  let bs := s.blocks.filter fun e => e.2.core == core && !e.2.shadow
  let live := bs.filter fun e => !e.2.retired
  let used := fun (slot : Nat) => live.foldl (fun (u : Nat × Nat) b =>
    let n := ((groupsOf s b.1).filter fun g => (getGroup s g).place == slot).length
    (u.1 + n * 128 * b.2.regs, u.2 + n)) (0, 0)
  { banks := (List.range Config.slotsPerCore).map fun i => (Config.bankBytes - (used i).1, Config.groupsPerSlot - (used i).2)
    pad := Config.corePadBytes - bs.foldl (fun n e => n + e.2.padSize + (if e.2.retired then 0 else e.2.groups * 32 * e.2.sliceSize)) 0
    tiles := Config.coreTiles - live.foldl (fun n e => n + e.2.tiles) 0 }

/-- The slot that takes the next group: the most free bytes among those with a place, the lowest number on a tie. -/
def nextSlot (banks : List (Nat × Nat)) (need : Nat) : Option Nat :=
  banks.zipIdx.foldl (fun (m : Option Nat) e =>
    if e.1.2 == 0 || e.1.1 < need then m
    else match m with
      | some i => if ((banks[i]?).getD (0, 0)).1 < e.1.1 then some e.2 else m
      | none => some e.2) none

/-- Places `n` groups of `regs` registers: their slots, and what is left of the banks. -/
def placeGroups (regs : Nat) : Nat → List (Nat × Nat) → Option (List Nat × List (Nat × Nat))
  | 0, banks => some ([], banks)
  | n + 1, banks =>
    match nextSlot banks (128 * regs) with
    | none => none
    | some i =>
      let b := (banks[i]?).getD (0, 0)
      (placeGroups regs n (banks.set i (b.1 - 128 * regs, b.2 - 1))).map fun r => (i :: r.1, r.2)

/-- Places a block of a packet in some room: the slots of its groups, and the room that is left. -/
def placeIn (w : List DWord) (r : Room) : Option (List Nat × Room) :=
  let pad := pkPad w + pkGroups w * 32 * pkSlice w
  if r.pad < pad || r.tiles < pkTiles w then none
  else (placeGroups (pkRegs w) (pkGroups w) r.banks).map fun q => (q.1, { banks := q.2, pad := r.pad - pad, tiles := r.tiles - pkTiles w })

/-- How many blocks of a packet fit on an empty core: at most 64, one group each. -/
def blocksPerCore (w : List DWord) : Nat → Room → Nat
  | 0, _ => 0
  | fuel + 1, r => match placeIn w r with
    | some (_, r) => 1 + blocksPerCore w fuel r
    | none => 0

/-! ## Range records and conflicts (R322) -/

/-- One range record, or none where it cannot be read or breaks R322. -/
def readRange (s : State) (p va : Nat) : Option Range :=
  (dispatchRead s p va 16).bind fun bs =>
    let a := leNat (bs.take 8)
    let n := leNat (bs.drop 8)
    let r : Range := { base := bitsOf a 0 56, len := n, w := bitAt a 56, rn := bitAt a 57 }
    if bitsOf a 58 6 != 0 || n == 0 || (r.rn && (!r.w || r.base % 65536 != 0 || n % 65536 != 0)) then none else some r

/-- The range records of a packet. -/
def readRanges (s : State) (p : Nat) (w : List DWord) : Option (List Range) :=
  (List.range (pkRanges w)).foldr (fun i acc => acc.bind fun l => (readRange s p (pk w 7 0 64 + 16 * i)).map (· :: l)) (some [])

def Range.meets (a b : Range) : Bool := a.base < b.base + b.len && b.base < a.base + a.len
def Range.conflicts (a b : Range) : Bool := a.meets b && (a.w || b.w)
def Range.pages (r : Range) : List Nat := (List.range (r.len / 65536)).map (r.base / 65536 + ·)
/-- Renamed, and not yet committed. -/
def Range.renamed (r : Range) : Bool := !r.fresh.isEmpty && !r.committed

/-- The incomplete launches of the running context with a graph. -/
def graphLaunches (pt : Partition) (graph : Nat) : KMap Launch :=
  pt.launches.filter fun e => !e.2.shadow && !e.2.complete && pkGraph e.2.packet == graph

/-- Entries of the dependence table in use. -/
def tableUsed (pt : Partition) : Nat := pt.launches.foldl (fun n e => if e.2.complete then n else n + e.2.ranges.length) 0

/-- Takes a frame from the pool (R298). -/
def takeFrame (s : State) (p : Nat) : Nat × State :=
  let pt := getPart s p
  (bitsOf (readWord64 s pt.poolHead) 16 30 * 65536,
    modPart s p fun pt => { pt with poolHead := (pt.poolHead + 8) % 2 ^ 64, poolLeft := pt.poolLeft - 1 })

/-- The contents of a fresh frame are unspecified: a free value for each byte (R322). -/
def freshFrame (s : State) (frame : Nat) : State :=
  let i := s.fresh
  writeBytes { s with fresh := s.fresh + 1 } ((List.range 65536).map fun k => (.mem (frame + k), Config.freeByte (2 ^ 48 * i + k)))

/-- Whether each page of a range is mapped by a leaf of its own, so that a commit can rewrite it. -/
def renamable (s : State) (p : Nat) (r : Range) : Bool := r.pages.all fun q =>
  match walkRoot s (getPart s p).ctx.ptroot (65536 * q) with
  | .leaf level _ _ => level == 4
  | _ => false

/-- Makes the entry of one range: renamed where it conflicts and the pool has its frames, else with its conflicts as predecessors. -/
def admitRange (s : State) (p : Nat) (graph : Nat) (r : Range) : State × Range × List Nat :=
  let older := (graphLaunches (getPart s p) graph).filter fun e => e.2.ranges.any fun q => q.conflicts r
  let n := r.len / 65536
  if older.isEmpty then (s, r, [])
  else if r.rn && n ≤ (getPart s p).poolLeft && renamable s p r then
    let q := r.pages.foldl (fun (a : State × KMap Nat) page =>
      let f := takeFrame a.1 p
      (freshFrame f.2 f.1, kput a.2 page f.1)) (s, [])
    (q.1, { r with fresh := q.2 }, [])
  else (s, r, kkeys older)

/-! ## Admission (R320) -/

/-- The head packet of a queue that may be admitted: its partition formed, its queue enabled, its context running. -/
def headPacket (s : State) (p q : Nat) : Option (List DWord) :=
  let pt := getPart s p
  let base := kgetD pt.lq q 0
  if pt.formed && !pt.ctx.empty && bitAt base 63 && bitsOf base 0 12 == pt.ctx.id then ((kgetD pt.rings q [])[0]?).map (·.words) else none

def popPacket (s : State) (p q : Nat) : State := modPart s p fun pt => { pt with rings := kmodify pt.rings q (·.drop 1) }

/-- Rejects a packet: its signal word, or a record where it has none (R320 item 2). -/
def rejectPacket (s : State) (p q : Nat) (w : List DWord) (status : Nat) : State :=
  let s := popPacket s p q
  if (pkKind w == 0 || pkKind w == 2) && pkSignal w != 0 then writeSignal s p false (pkSignal w) status 0 0
  else logAppend s p 0 10 (status + 256 * pkKind w + 65536 * q)

/-- Cores of a partition. -/
def partCores (pt : Partition) : Nat := Config.clustersPerDie * Config.coresPerCluster * pt.dies.length

/-- Whether the stage of a launch is one of its graph's (R317). -/
def stageOk (c : Ctx) (w : List DWord) : Bool :=
  let n := ((kfind c.levels (levelKey 1 (pkGraph w))).map (·.stages)).getD 0
  if n == 0 then pkStage w == 0 else pkStage w < n

/-- An incomplete launch of the running context. -/
def liveLaunch (pt : Partition) (n : Nat) : Option Launch := (kfind pt.launches n).filter fun l => !l.complete && !l.shadow

/-- The status with which a launch packet is rejected, if any, in the order of R320. -/
def launchCheck (s : State) (p : Nat) (w : List DWord) (ranges : Option (List Range)) : Option Nat :=
  let pt := getPart s p
  if !launchFieldsOk w || !levelsOpen pt.ctx [(1, pkGraph w), (2, pkPhase w), (3, pkJob w)] || !stageOk pt.ctx w || ranges.isNone then some 3
  else if (placeIn w Room.empty).isNone then some 1
  else if pkCoop w && blocksPerCore w 64 Room.empty * partCores pt < pkGrid w then some 2
  else if pkParent w != 0 && (liveLaunch pt (pkParent w)).isNone then some 7
  else none

/-- Retires every block of a launch that is not placed, unrun. -/
def retireUnrun (l : Launch) : Launch :=
  { l with unrun := l.unrun + (pkGrid l.packet - l.next) + l.requeued.length, next := pkGrid l.packet, requeued := [] }

/-- Admits a launch packet that has passed its checks. -/
def admitLaunch (s : State) (p q : Nat) (w : List DWord) (ranges : List Range) : State :=
  let s := popPacket s p q
  let r := ranges.foldl (fun (a : State × List Range × List Nat) r =>
    let b := admitRange a.1 p (pkGraph w) r
    (b.1, a.2.1 ++ [b.2.1], a.2.2 ++ b.2.2)) (s, [], [])
  let s := r.1
  let pt := getPart s p
  let parent := liveLaunch pt (pkParent w)
  let cancelled := (launchChain pt.ctx w).any (fun k => ((kfind pt.ctx.levels k).map (·.cancelled)).getD false) ||
    (parent.map (·.cancelled)).getD false
  let l : Launch := { packet := w, queue := q, ctx := pt.ctx.id, ranges := r.2.1, preds := r.2.2.eraseDups, cancelled := cancelled }
  let n := pt.nextLaunch
  let s := modPart s p fun pt => { pt with nextLaunch := n + 1, launches := kput pt.launches n (if cancelled then retireUnrun l else l) }
  let s := levelUp s p (launchLevel w)
  if pkParent w != 0 then modLaunch s p (pkParent w) fun l => { l with children := l.children + 1 } else s

/-- The dispatcher admits or rejects the head launch packet of a queue; it holds it while the dependence table is full. A packet of a
reserved kind is rejected with status 3. -/
def evLaunchAdmission (p q : Nat) (s : State) : Option State :=
  match headPacket s p q with
  | none => none
  | some w =>
    if 1 ≤ pkKind w && pkKind w ≤ 3 then none
    else if pkKind w != 0 then some (rejectPacket s p q w 3)
    else
      let ranges := if launchFieldsOk w then readRanges s p w else none
      match launchCheck s p w ranges, ranges with
      | some status, _ => some (rejectPacket s p q w status)
      | none, some rs => if 4096 < tableUsed (getPart s p) + rs.length then none else some (admitLaunch s p q w rs)
      | none, none => none

/-! ## Opening, closing, cancelling levels (R318, R324, R326) -/

/-- The own identifier of a level packet. -/
def ownId (w : List DWord) : Nat := match pkLevel w with
  | 1 => pkGraph w
  | 2 => pkPhase w
  | _ => pkJob w

/-- D6 with nothing but a level's own identifier in its field. -/
def ownOnly (w : List DWord) : Bool := pk w 6 0 64 == ownId w * 2 ^ (16 * (pkLevel w - 1))

/-- The doublewords from `lo` up to `hi` are zero. -/
def zeroWords (w : List DWord) (l : List Nat) : Bool := l.all fun i => pk w i 0 64 == 0

/-- The stage fields of an open packet of a graph (R328): none at all, or quotas, occupancy offsets and bounds for each stage. -/
def stagesOk (w : List DWord) : Bool :=
  let n := pk w 0 56 2 + 1
  (n == 1 && zeroWords w [1, 2, 3]) ||
    ((List.range n).all (fun i => 1 ≤ pk w 1 (4 * i) 4 && pk w 1 (4 * i) 4 ≤ 10) && pk w 1 (4 * n) (64 - 4 * n) == 0 &&
      pk w 2 (21 * (n - 1)) (64 - 21 * (n - 1)) == 0 && pk w 3 (16 * (n - 1)) (64 - 16 * (n - 1)) == 0 &&
      (List.range (n - 1)).all fun j => pk w 3 (16 * j) 8 < pk w 3 (16 * j + 8) 8)

/-- Whether an open packet is well formed and names open levels around a level that is not open. -/
def openOk (c : Ctx) (w : List DWord) : Bool :=
  let l := pkLevel w
  l != 0 && pk w 0 10 46 == 0 && pk w 0 58 6 == 0 && zeroWords w [5, 7] && pk w 6 48 16 == 0 && signalOk (pkSignal w) && ownId w != 0 &&
    (if l == 1 then stagesOk w else pk w 0 56 2 == 0 && zeroWords w [1, 2, 3] && pkGraph w == 0 && (l == 2 || pkPhase w == 0)) &&
    (kfind c.levels (levelKey l (ownId w))).isNone &&
    levelsOpen c ((if l == 1 then [(2, pkPhase w)] else []) ++ (if l ≤ 2 then [(3, pkJob w)] else []))

/-- An open packet opens a graph, phase or job, counted in its own level (R324); a graph's stages get their quotas (R328). -/
def evOpenPacket (p q : Nat) (s : State) : Option State :=
  match headPacket s p q with
  | none => none
  | some w =>
    if pkKind w != 2 then none
    else
      let c := (getPart s p).ctx
      if !openOk c w then some (rejectPacket s p q w 3)
      else
        let n := if zeroWords w [1] then 0 else pk w 0 56 2 + 1
        let l : Level := {
          signal := pkSignal w, job := if pkLevel w ≤ 2 then pkJob w else 0, phase := if pkLevel w == 1 then pkPhase w else 0
          stages := n
          rings := (List.range (n - 1)).map fun j => (16 * pk w 2 (21 * j) 21, pk w 3 (16 * j) 8, pk w 3 (16 * j + 8) 8)
          quota := (List.range 32).filterMap fun k => if k % 4 < n then some (k, pk w 1 (4 * (k % 4)) 4) else none }
        let k := levelKey (pkLevel w) (ownId w)
        let l := { l with cancelled := (chainOf c 3 (outerLevel k l)).any fun k => ((kfind c.levels k).map (·.cancelled)).getD false }
        let s := modLevels (popPacket s p q) p false fun m => kput m k l
        some (levelUp s p (outerLevel k l))

/-- A close packet decrements a level's counter (R324). -/
def evClosePacket (p q : Nat) (s : State) : Option State :=
  match headPacket s p q with
  | none => none
  | some w =>
    if pkKind w != 3 then none
    else
      let c := (getPart s p).ctx
      let k := levelKey (pkLevel w) (ownId w)
      if pkLevel w == 0 || pk w 0 10 54 != 0 || !zeroWords w [1, 2, 3, 4, 5, 7] || !ownOnly w || ownId w == 0 || (kfind c.levels k).isNone then
        some (rejectPacket s p q w 3)
      else some (levelDown p false 3 (some k) 0 (popPacket s p q))

/-- The launches that a cancel reaches: the named ones, and their children, generation by generation. -/
def cancelSet (pt : Partition) : Nat → List Nat → List Nat
  | 0, l => l
  | fuel + 1, l =>
    let more := (pt.launches.filter fun e => !e.2.shadow && !e.2.complete && !l.contains e.1 && l.contains (pkParent e.2.packet)).map (·.1)
    if more.isEmpty then l else cancelSet pt fuel (l ++ more)

/-- Windows that are kept for a cluster set return once no block of it is placed or waits to be placed again (R12, R96). -/
def freeKept (s : State) (p n : Nat) : State :=
  let again := ((kfind (getPart s p).launches n).map (·.requeued)).getD []
  { s with blocks := s.blocks.filter fun e => !(e.2.part == p && e.2.launch == n && e.2.retired &&
      (setMates s e.1).all (fun m => (getBlock s m).retired) && again.all fun k => k / e.2.span != e.2.number / e.2.span) }

/-- A cancel packet retires the unplaced blocks of the work it names (R326). -/
def evCancelPacket (p q : Nat) (s : State) : Option State :=
  match headPacket s p q with
  | none => none
  | some w =>
    if pkKind w != 1 then none
    else
      let pt := getPart s p
      let level := pkLevel w
      let key := levelKey level (ownId w)
      let named := if level == 0 then (liveLaunch pt (pkParent w)).isSome else ownId w != 0 && (kfind pt.ctx.levels key).isSome
      let shape := pk w 0 10 54 == 0 && (if level == 0 then zeroWords w [1, 2, 3, 4, 6, 7] else zeroWords w [1, 2, 3, 4, 5, 7] && ownOnly w)
      if !shape || !named then some (rejectPacket s p q w 3)
      else
        let roots := if level == 0 then [pkParent w] else
          (pt.launches.filter fun e => !e.2.shadow && !e.2.complete && (launchChain pt.ctx e.2.packet).contains key).map (·.1)
        let all := cancelSet pt pt.launches.length roots
        let s := modLevels (popPacket s p q) p false fun m => m.map fun e =>
          if level != 0 && (chainOf pt.ctx 3 (some e.1)).contains key then (e.1, { e.2 with cancelled := true }) else e
        some (all.foldl (fun s n => freeKept (modLaunch s p n fun l => { retireUnrun l with cancelled := true }) p n) s)

/-! ## Placement of blocks (R8, R96, R321, R328) -/

/-- Whether a launch has blocks to place. -/
def unplaced (l : Launch) : Bool := l.next < pkGrid l.packet || !l.requeued.isEmpty

/-- Whether the dependences of a launch are met (R322): its predecessors are complete, and no earlier launch has a rename of bytes it
uses that is not committed. -/
def depsMet (pt : Partition) (n : Nat) (l : Launch) : Bool :=
  l.preds.all (fun m => ((kfind pt.launches m).map (·.complete)).getD true) &&
    pt.launches.all fun e => !(e.1 < n && !e.2.shadow && pkGraph e.2.packet == pkGraph l.packet && e.2.ranges.any fun a =>
      a.renamed && l.ranges.any fun b => !b.renamed && a.conflicts b)

/-- Whether no earlier launch of its queue has a block to place. -/
def queueHead (pt : Partition) (n : Nat) (l : Launch) : Bool :=
  pt.launches.all fun e => !(e.1 < n && !e.2.shadow && !e.2.complete && e.2.queue == l.queue && unplaced e.2)

/-- Whether a block that goes with the re-queued ones of a launch has still to come back: those of a cluster set, or of a cooperative launch,
are placed again together (R96, R345). -/
def matesLeaving (s : State) (p n : Nat) (l : Launch) : Bool :=
  match l.requeued with
  | [] => false
  | b :: _ => s.blocks.any fun e => e.2.part == p && e.2.launch == n && !e.2.retired && e.2.ending = some .requeued &&
      (pkCoop l.packet || e.2.number / e.2.span == b / pkSpan l.packet)

/-- Whether a launch may receive a block now. -/
def placeable (s : State) (p n : Nat) (l : Launch) : Bool :=
  let pt := getPart s p
  !l.shadow && !l.complete && unplaced l && depsMet pt n l && queueHead pt n l && !matesLeaving s p n l &&
    (!pkDet l.packet || !s.blocks.any fun e => e.2.part == p && e.2.launch == n && !e.2.retired)

/-- The numbers of the blocks that the next placement places: re-queued ones first; a cluster set together, a cooperative launch
whole. -/
def nextBlocks (l : Launch) : List Nat :=
  let span := pkSpan l.packet
  let grid := pkGrid l.packet
  match l.requeued with
  | b :: _ => if pkCoop l.packet then l.requeued else l.requeued.filter fun n => n / span == b / span
  | [] => if pkCoop l.packet then (List.range (grid - l.next)).map (l.next + ·)
    else (List.range (min span (grid - l.next))).map (l.next + ·)

/-- Whether the dispatcher may place blocks of the running context on a die (R304, R336): it runs in state 0, no halt has stopped it. -/
def dieDispatches (s : State) (p d : Nat) : Bool :=
  let x := getDie s d
  (getPart s p).dies.contains d && x.state == 0 && !x.stopped && dieRuns s d &&
    runningGroups s p (fun g => dieOf s g == d && (isHalted (getGroup s g) || (getGroup s g).haltAsked.isSome)) == []

/-- The cores of a die that hold blocks of a stage of a graph. -/
def stageCores (s : State) (p graph stage d : Nat) : List Nat :=
  ((s.blocks.filter fun e => e.2.part == p && !e.2.shadow && !e.2.retired && dieOfCore e.2.core == d &&
    match kfind (getPart s p).launches e.2.launch with
    | some l => pkGraph l.packet == graph && pkStage l.packet == stage
    | none => false).map fun e => e.2.core).eraseDups

/-- Whether the quota of a launch's stage admits a core (R328). -/
def quotaAdmits (s : State) (p : Nat) (w : List DWord) (core : Nat) : Bool :=
  match kfind (getPart s p).ctx.levels (levelKey 1 (pkGraph w)) with
  | none => true
  | some l =>
    if pkGraph w == 0 || l.stages == 0 then true
    else
      let d := dieOfCore core
      let cores := stageCores s p (pkGraph w) (pkStage w) d
      cores.contains core || cores.length < kgetD l.quota (4 * d + pkStage w) 0

/-- Whether a block of a packet fits on a core now. -/
def fitsOn (s : State) (p : Nat) (w : List DWord) (core : Nat) : Bool :=
  core < Config.coreCount && dieDispatches s p (dieOfCore core) && quotaAdmits s p w core && (placeIn w (roomOf s core)).isSome

/-- Whether launch `m` goes before launch `n` on a core (R321): sixteen passes of its queue first, then priority, then admission. -/
def goesBefore (pt : Partition) (m : Nat) (a : Launch) (n : Nat) (b : Launch) : Bool :=
  let pa := 16 ≤ kgetD pt.passes a.queue 0
  let pb := 16 ≤ kgetD pt.passes b.queue 0
  if pa != pb then pa
  else if pa && a.queue != b.queue then a.queue < b.queue
  else if pkPri a.packet != pkPri b.packet then pkPri b.packet < pkPri a.packet
  else m < n

/-- A gate as the dispatcher writes it at placement (R134). -/
def placedGate (d : GateDecl) : List Byte := leBytes 4 (d.n * 65536 + d.n) ++ leBytes 8 0 ++ leBytes 4 (if d.exit then 4 else 0)

/-- The group place that a placed group takes in its issue slot, by which R327 breaks ties: the lowest that no resident group holds (log
entry 106). -/
def freeSeat (s : State) (core slot : Nat) : Nat :=
  let taken := (s.groups.filter fun e => coreOf s e.1 == core && e.2.place == slot && !(blockOf s e.1).shadow).map fun e => e.2.seat
  ((List.range Config.groupsPerSlot).find? fun i => !taken.contains i).getD 0

/-- Puts one block of a launch on a core, with its groups in their entry state (R14). -/
def placeBlock (s : State) (p n : Nat) (l : Launch) (number core : Nat) : Option State :=
  let w := l.packet
  (placeIn w (roomOf s core)).map fun r =>
    let (b, s) := newId s
    let blk : Block := {
      part := p, launch := n, number := number, core := core, span := pkSpan w, regs := pkRegs w, groups := pkGroups w
      padSize := pkPad w, sliceSize := pkSlice w, tiles := pkTiles w }
    let s := { s with blocks := kput s.blocks b blk }
    let gates := kgetD (getPart s p).ctx.gates (pkEntry w) []
    let s := gates.foldl (fun s d => writeBytes s (((Loc.pad b d.off).run 16).zip (placedGate d))) s
    r.1.zipIdx.foldl (fun s e =>
      let (g, s) := newId s
      let x : Group := {
        block := b, index := e.2, place := e.1, seat := freeSeat s core e.1, pc := BitVec.ofNat 64 (pkEntry w)
        s := kstore [] 0 (BitVec.ofNat 64 (pk w 3 0 64)) 0, latch := { atEntry := true }, lastIssue := s.cycle, readySince := s.cycle }
      { s with groups := kput s.groups g x }) s

/-- Places blocks on cores one after another; none where one does not fit or may not go there. -/
def placeAll (s : State) (p n : Nat) (l : Launch) : List (Nat × Nat) → Option State
  | [] => some s
  | (number, core) :: rest =>
    if fitsOn s p l.packet core then (placeBlock s p n l number core).bind fun s => placeAll s p n l rest else none

/-- Whether the blocks of each cluster set stand on distinct cores of one cluster (R96). -/
def setsTogether (span : Nat) (l : List (Nat × Nat)) : Bool :=
  l.all fun a => l.all fun b => a.1 == b.1 || a.1 / span != b.1 / span || (a.2 != b.2 && clusterOfCore a.2 == clusterOfCore b.2)

/-- The retired blocks of a launch whose windows are kept, with their cores: what is placed again of their sets joins them (R12, R96). -/
def keptMates (s : State) (p n : Nat) : List (Nat × Nat) :=
  (s.blocks.filter fun e => e.2.part == p && e.2.launch == n && e.2.retired && 1 < e.2.span).map fun e => (e.2.number, e.2.core)

/-- The cores of a partition; those that hold blocks of the launch's stage come first, since its quota counts cores (R328). -/
def coresFor (s : State) (p : Nat) (l : Launch) : List Nat :=
  (getPart s p).dies.flatMap fun d =>
    let held := if pkGraph l.packet == 0 then [] else stageCores s p (pkGraph l.packet) (pkStage l.packet) d
    held ++ ((List.range 40).map (40 * d + ·)).filter fun c => !held.contains c

/-- Places blocks one after another, each on the first of some cores where it may go; what has been chosen before, and what is placed. -/
def chooseCores (p n : Nat) (l : Launch) (cores : List Nat) : List Nat → State → List (Nat × Nat) → List (Nat × Nat)
  | [], _, chosen => chosen
  | number :: rest, s, chosen =>
    let ok := fun (c : Nat) => fitsOn s p l.packet c && setsTogether (pkSpan l.packet) (keptMates s p n ++ chosen ++ [(number, c)])
    match cores.find? ok with
    | none => chosen
    | some c => match placeBlock s p n l number c with
      | none => chosen
      | some s => chooseCores p n l cores rest s (chosen ++ [(number, c)])

/-- Whether the next placement of a launch could use a core: one block, or a whole set or cooperative launch with a block there. -/
def couldPlace (s : State) (p n : Nat) (l : Launch) (core : Nat) : Bool :=
  match nextBlocks l with
  | [] => false
  | number :: rest =>
    match chooseCores p n l [core] [number] s [] with
    | [] => false
    | first => rest.isEmpty || (match placeBlock s p n l number core with
      | none => false
      | some s => (chooseCores p n l (coresFor s p l) rest s first).length == rest.length + 1)

/-- The dispatcher places the next block of a launch, a cluster set, or a whole cooperative launch, on the given cores: where no other
launch that could use one of them goes before it. The head launch of another queue that could have used a place counts a pass (R321, log
entry 99). -/
def evBlockPlacement (p n : Nat) (cores : List Nat) (s : State) : Option State :=
  let pt := getPart s p
  match kfind pt.launches n with
  | none => none
  | some l =>
    let numbers := nextBlocks l
    let pairs := numbers.zip cores
    let rivals := pt.launches.filter fun e => e.1 != n && placeable s p e.1 e.2
    let could := fun (e : Nat × Launch) (c : Nat) => couldPlace s p e.1 e.2 c
    if !pt.formed || !placeable s p n l || cores.length != numbers.length || !setsTogether (pkSpan l.packet) (keptMates s p n ++ pairs) ||
        rivals.any (fun e => goesBefore pt e.1 e.2 n l && cores.any (could e)) then none
    else (placeAll s p n l pairs).map fun s' =>
      let passes := fun (e : Nat × Launch) => (cores.filter (could e)).length
      let s' := modPart s' p fun pt => { pt with
        passes := kput ((rivals.filter fun e => e.2.queue != l.queue).foldl (fun m e =>
          kput m e.2.queue (kgetD m e.2.queue 0 + passes e)) pt.passes) l.queue 0 }
      modLaunch s' p n fun l => { l with
        next := if l.requeued.isEmpty then l.next + numbers.length else l.next, requeued := l.requeued.filter fun b => !numbers.contains b }

/-! ## Completion (R323) -/

/-- Whether every block of a launch has retired or been retired unrun, and it has no child. -/
def launchOver (l : Launch) : Bool := !l.complete && l.children == 0 && l.retired + l.unrun == pkGrid l.packet

/-- The status of a launch that is over (R320, R325, R326): a failure goes before a cancel, and a cancelled launch whose blocks had all been
placed ends well; the successor of a cancelled launch ends as that of a failed one does. -/
def launchStatus (pt : Partition) (l : Launch) : Nat :=
  let predFailed := l.predFailed || l.preds.any fun m => ((kfind pt.launches m).map fun q => q.failed || q.predFailed).getD false
  if l.killed then 6 else if l.failed || predFailed then 5 else if l.cancelled then (if l.unrun != 0 then 4 else 0)
  else if l.predGone then 5 else 0

/-- Drops a complete launch once no rename of it is left. -/
def tidyLaunch (s : State) (p n : Nat) : State :=
  match kfind (getPart s p).launches n with
  | some l => if l.complete && !l.ranges.any Range.renamed && l.oldFrames.isEmpty then
      modPart s p fun pt => { pt with launches := kerase pt.launches n } else s
  | none => s

/-- The launches that wait for one that failed or was cancelled: they retire unrun (R325). -/
def failSuccessors (n : Nat) (failed : Bool) (ls : KMap Launch) : KMap Launch := ls.map fun e =>
  if e.2.preds.contains n && !e.2.complete then (e.1, { retireUnrun e.2 with predGone := true, predFailed := e.2.predFailed || failed }) else e

/-- Steps 2 and 3 of R323: the signal, then the counters; successors of a failed or cancelled launch retire unrun. -/
def finishLaunch (s : State) (p n : Nat) (l : Launch) : State :=
  let status := launchStatus (getPart s p) l
  let s := writeSignal s p l.shadow (pkSignal l.packet) status l.unrun n
  let s := modLaunch s p n fun l => { l with complete := true, preds := [] }
  let s := if status == 0 && !l.cancelled then s
    else modPart s p fun pt => { pt with launches := failSuccessors n (status == 5) pt.launches }
  let s := if pkParent l.packet != 0 then modLaunch s p (pkParent l.packet) fun x => { x with children := x.children - 1 } else s
  tidyLaunch (levelDown p l.shadow 3 (launchLevel l.packet) status s) p n

/-- A launch completes: its writes are performed, every delta line of the partition is flushed, its signal is written (R323). -/
def evLaunchCompletion (p n : Nat) (s : State) : Option State :=
  match kfind (getPart s p).launches n with
  | none => none
  | some l =>
    if !launchOver l || l.shadow then none
    else
      let dies := (getPart s p).dies
      let s := applyWhere (flushCaches (performPart s p) (fun c => dies.contains (cacheDie c)) false) fun e => e.part == p
      if partPending s p then none else some (finishLaunch s p n l)

/-! ## Renames (R298, R322) -/

/-- Rewrites the leaf of a page under a root to a frame: its old frame, and the state; none where the page has no leaf of its own. -/
def rewriteLeaf (s : State) (root page frame : Nat) : Option (Nat × State) :=
  match walkRoot s root (65536 * page) with
  | .leaf 4 pte e => some (leafFrame e 16, writeWord64 s pte (e - bitsOf e 16 30 * 65536 + frame))
  | _ => none

/-- The launches admitted before that still read a page keep its old frame. -/
def keepFrame (l : Launch) (page frame : Nat) : Launch :=
  if l.ranges.any (fun q => q.renamed && (kfind q.fresh page).isSome) || (kfind l.keep page).isSome then l
  else { l with keep := kput l.keep page frame }

/-- Commits the rename of a page. -/
def commitPage (s : State) (p n : Nat) (users : List Nat) (page frame : Nat) : State :=
  match rewriteLeaf s (getPart s p).ctx.ptroot page frame with
  | none => s
  | some (old, s) =>
    let s := users.foldl (fun s m => modLaunch s p m fun l => keepFrame l page old) s
    let s := modLaunch s p n fun l => { l with oldFrames := l.oldFrames ++ [old] }
    shootdown s p (65536 * page) (65536 * page + 65536)

/-- The earlier launches, of whichever graph, that meet a range of a launch. -/
def earlierUsers (pt : Partition) (n : Nat) (r : Range) : KMap Launch :=
  pt.launches.filter fun e => e.1 < n && !e.2.shadow && e.2.ranges.any fun q => q.meets r

/-- The incomplete launches that may still read or write the old frames of a range when its rename is committed: earlier ones of the graph,
and those of other graphs that declare bytes of it (R322 item 4). -/
def frameUsers (pt : Partition) (n : Nat) (l : Launch) (r : Range) : List Nat :=
  (pt.launches.filter fun e => e.1 != n && !e.2.shadow && !e.2.complete && (e.1 < n || pkGraph e.2.packet != pkGraph l.packet) &&
    e.2.ranges.any fun q => q.meets r).map (·.1)

/-- A renamed range of a launch that has retired is committed, once every earlier writer of it has; earlier readers of its graph keep the
old frames (R322). -/
def evRenameCommit (p n : Nat) (s : State) : Option State :=
  let pt := getPart s p
  match kfind pt.launches n with
  | none => none
  | some l =>
    match l.ranges.find? Range.renamed with
    | none => none
    | some r =>
      let before := earlierUsers pt n r
      let waits := before.any (fun e => e.2.ranges.any (fun q => q.meets r && q.w && (!e.2.complete || q.renamed)))
      if !l.complete || l.shadow || waits then none
      else
        let s := performPart s p
        if partPending s p then none
        else
          let users := (before.filter fun e => !e.2.complete && pkGraph e.2.packet == pkGraph l.packet).map (·.1)
          let s := r.fresh.foldl (fun s e => commitPage s p n users e.1 e.2) s
          some (modLaunch s p n fun l => { l with
            users := (l.users ++ frameUsers pt n l r).eraseDups
            ranges := l.ranges.map fun q => if q == r then { q with committed := true } else q })

/-- Returns a frame to the pool (R298); a pool that was empty is refilled (R315). -/
def returnFrame (s : State) (p frame : Nat) : State :=
  let pt := getPart s p
  let head := (pt.poolHead + 2 ^ 64 - 8) % 2 ^ 64
  let s := writeWord64 s head frame
  let s := modPart s p fun pt => { pt with poolHead := head, poolLeft := pt.poolLeft + 1, poolSignalled := false }
  if pt.poolLeft == 0 then raiseEvt s p 4 else s

/-- The old frames of a committed rename return once the launches admitted before that use them have retired (R322). -/
def evFrameReturn (p n : Nat) (s : State) : Option State :=
  let pt := getPart s p
  match kfind pt.launches n with
  | none => none
  | some l =>
    if l.oldFrames.isEmpty || l.ranges.any Range.renamed || l.users.any (fun m => ((kfind pt.launches m).map (!·.complete)).getD false) then none
    else
      let s := l.oldFrames.foldl (fun s f => returnFrame s p f) s
      some (tidyLaunch (modLaunch s p n fun l => { l with oldFrames := [] }) p n)

/-! ## The governor (R328) -/

/-- The partition of a die, if it is in one. -/
def partOfDie (s : State) (d : Nat) : Option Nat := (s.parts.find? fun e => e.2.formed && e.2.dies.contains d).map (·.1)

/-- One ring: a core of quota moves forward at HIGH or more, backward at LOW or less; no stage falls below 1. -/
def moveQuota (s : State) (p d key : Nat) (l : Level) (j : Nat) (ring : Nat × Nat × Nat) : Level :=
  let sh := share (getPart s p).ctx
  if sh.2 < ring.1 + 4 then l
  else
    let place := Loc.mem (Config.diePadBase + d * Config.diePadSize + sh.1 + ring.1)
    let n := readLE s place 4
    let move := fun (a b : Nat) => if 1 < kgetD l.quota (4 * d + a) 0 then
        { l with quota := kput (kput l.quota (4 * d + a) (kgetD l.quota (4 * d + a) 0 - 1)) (4 * d + b) (kgetD l.quota (4 * d + b) 0 + 1) }
      else l
    if key / 65536 != 1 || isPoisoned s place then l
    else if ring.2.2 ≤ n then move j (j + 1)
    else if n ≤ ring.2.1 then move (j + 1) j
    else l

/-- Every 4,096 cycles the governor of a die moves quota between the stages of each open graph; periods that come due together are served
one after another, and while the die stands still nothing moves. -/
def evGovernorTick (d : Nat) (s : State) : Option State :=
  let tick := (getDie s d).govTick
  if Config.dieCount ≤ d || s.cycle / Config.governorPeriod == tick then none
  else
    let s' := modDie s d fun x => { x with govTick := (tick + 1) % (2 ^ 64 / Config.governorPeriod) }
    match partOfDie s d with
    | none => some (modDie s d fun x => { x with govTick := s.cycle / Config.governorPeriod })
    | some p =>
      if !dieRuns s d then some s'
      else some (modLevels s' p false fun m => m.map fun e =>
        (e.1, e.2.rings.zipIdx.foldl (fun l r => moveQuota s p d e.1 l r.2 r.1) e.2))

end Sys2Proof.Machine
end

