-- ==== Sys2Proof/Machine/Privileged.lean ====
section
/-! DEFINITION. Major 0x1D (R290 to R304, R315, R347 to R351): the system registers, translation maintenance, pgmap, fret, wfi,
halts, the context slots, die control. -/

namespace Sys2Proof.Machine

/-- An instruction of major 0x1D: trap 5 in user mode (R39). -/
def privileged (s : State) (f : Nat → State → State) : Outcome :=
  withGroup s fun g =>
    let s := endChain s g
    if (getGroup s g).sup then f g s else raise s g 5

/-- Writes a status into a uniform register and goes on behind the instruction. -/
def writeStatus (s : State) (g d v : Nat) : State := advance (modGroup s g fun x => x.setS d (BitVec.ofNat 64 v)) g 4

/-! ## The register map (R292, R293, R368) -/

/-- sys.mode of a group. -/
def modeWord (x : Group) : Nat := (if x.sup then 1 else 0) + (if x.critical then 2 else 0)

/-- A group register, by number. -/
def readGroupReg (x : Group) (n : Nat) : DWord :=
  match n with
  | 0x000 => BitVec.ofNat 64 (modeWord x)
  | 0x001 => x.trap.pc
  | 0x002 => x.trap.cause
  | 0x003 => x.trap.addr
  | 0x004 => x.trap.vaddr
  | 0x005 => x.trap.lanes
  | 0x006 => x.trap.em
  | _ => kgetD x.scratch (n - 8) 0

/-- A register of a context slot, by its number in the running slot. -/
def readCtxReg (c : Ctx) (n : Nat) : DWord :=
  match n with
  | 0x040 => BitVec.ofNat 64 c.id
  | 0x041 => BitVec.ofNat 64 c.ptroot
  | 0x042 => BitVec.ofNat 64 c.dpad
  | 0x043 => BitVec.ofNat 64 c.trapVec
  | 0x044 => BitVec.ofNat 64 c.trapEn
  | 0x045 => BitVec.ofNat 64 c.evt
  | 0x048 => c.gateStale
  | 0x049 => c.algSpill
  | 0x04A => c.driftFull
  | _ => 0

/-- A mask of numbers. -/
def maskBits (l : List Nat) : Nat := l.foldl (fun n d => n + 2 ^ d) 0

/-- sys.die.state(d) as a partition reads it (R293). -/
def readDieState (s : State) (p d : Nat) : Nat := if (getPart s p).dies.contains d then dieStateWord s d else 0xF

/-- The dies that answer a test, as a mask. -/
def diesWhere (s : State) (f : Die → Bool) : Nat := maskBits ((List.range Config.dieCount).filter fun d => f (getDie s d))

/-- A partition or module register, by number. -/
def readPartReg (s : State) (p n : Nat) : Nat :=
  let pt := getPart s p
  if n == 0x0C0 then maskBits pt.dies + 256 * p
  else if n == 0x0C1 then pt.ingress
  else if n == 0x0C2 then pt.logBase
  else if n == 0x0C3 then pt.logLost.toNat
  else if n == 0x0C4 then pt.poolHead
  else if n == 0x0C5 then pt.poolLeft
  else if n == 0x0C6 then pt.badPkt.toNat
  else if n == 0x0C7 then pt.drop.toNat
  else if 0x0E0 ≤ n && n ≤ 0x0E7 then kgetD pt.l3ways (n - 0x0E0) 0xFFFF
  else if 0x0F0 ≤ n && n ≤ 0x0F7 then readDieState s p (n - 0x0F0)
  else if 0x100 ≤ n && n ≤ 0x13F then kgetD pt.lq (n - 0x100) 0
  else if 0x200 ≤ n && n ≤ 0x21F then kgetD pt.mp (n - 0x200) 0
  else if n == 0x300 then s.critLimit
  else if n == 0x301 then s.mxIdle
  else if n == 0x302 then s.powerCap
  else if n == 0x303 then s.powerNow
  else if n == 0x304 then diesWhere s (·.throttled)
  else if n == 0x305 then diesWhere s (·.tripped)
  else if n == 0x306 then s.ceCount
  else if 0x308 ≤ n && n ≤ 0x30F then (getDie s (n - 0x308)).point
  else if n == 0x3C1 then s.dev
  else if 0x3C0 ≤ n && n ≤ 0x3C3 then match kfind s.caps n with
    | some v => v.toNat
    | none => if n == 0x3C0 then Config.capId.toNat else if n == 0x3C2 then diesWhere s fun d => d.state != 7 else Config.wakeCycles
  else if n == 0x3C4 then s.firmware.version + 2 ^ 32 * s.firmware.rollback + 2 ^ 48 * s.firmware.keySlot
  else if n == 0x3C5 then Config.hbmEnd / 2 ^ 30 + 2 ^ 16 * Config.l3GiB
  else if 0x3C8 ≤ n && n ≤ 0x3CF then (Config.operatingPoint (n - 0x3C8)).1 + 2 ^ 16 * (Config.operatingPoint (n - 0x3C8)).2
  else 0

/-- A system register as a group reads it. -/
def sysRead (s : State) (g n : Nat) : DWord :=
  let p := partOf s g
  if n ≤ 0x00F then readGroupReg (getGroup s g) n
  else if n ≤ 0x04A then readCtxReg (ctxOf s g) n
  else if n ≤ 0x08A then readCtxReg (getPart s p).sh (n - 0x40)
  else BitVec.ofNat 64 (readPartReg s p n)

/-- Writes a group register; sys.mode is RO. -/
def writeGroupReg (x : Group) (n : Nat) (v : DWord) : Group :=
  match n with
  | 0x000 => x
  | 0x001 => { x with trap := { x.trap with pc := v } }
  | 0x002 => { x with trap := { x.trap with cause := v &&& 0x13F1F } }
  | 0x003 => { x with trap := { x.trap with addr := v } }
  | 0x004 => { x with trap := { x.trap with vaddr := v } }
  | 0x005 => { x with trap := { x.trap with lanes := v &&& 0xFFFFFFFF } }
  | 0x006 => { x with trap := { x.trap with em := v &&& 0xFFFFFFFF } }
  | _ => { x with scratch := kstore x.scratch (n - 8) v 0 }

/-- A root as sys.ctx.ptroot lays it out: [45:13] and [0]. -/
def rootBits (v : DWord) : Nat := (v &&& 0x3FFFFFFFE001).toNat

/-- Writes a register of a context slot, by its number in the running slot; events are written elsewhere. -/
def writeCtxReg (c : Ctx) (n : Nat) (v : DWord) : Ctx :=
  match n with
  | 0x040 => { c with id := fld v 0 12 }
  | 0x041 => { c with ptroot := rootBits v }
  | 0x042 => { c with dpad := (v &&& 0x1FF03FF).toNat }
  | 0x043 => { c with trapVec := (v &&& 0xFFFFFFFFFFFFC0).toNat }
  | 0x044 => { c with trapEn := (v &&& 0x580).toNat }
  | 0x048 => { c with gateStale := v }
  | 0x049 => { c with algSpill := v }
  | 0x04A => { c with driftFull := v }
  | _ => c

/-- A write of sys.pool.left: one that leaves it nonzero sets event bit 2, and the next empty pool signals anew (R315). -/
def evPoolLeftWrite (p : Nat) (v : DWord) (s : State) : Option State :=
  let s := modPart s p fun pt => { pt with poolLeft := v.toNat }
  some (if v == 0 then s else raiseEvt (modPart s p fun pt => { pt with poolSignalled := false }) p 4)

/-- Writes a register of a partition that software may write; the others keep what they report. -/
def writePartReg (s : State) (p n : Nat) (v : DWord) : State :=
  let set := fun (f : Partition → Partition) => modPart s p f
  if n == 0x0C1 then set fun pt => { pt with ingress := rootBits v }
  else if n == 0x0C2 then set fun pt => { pt with logBase := (v &&& 0x3FFFFFFFF00F).toNat }
  else if n == 0x0C3 then set fun pt => { pt with logLost := v }
  else if n == 0x0C4 then set fun pt => { pt with poolHead := v.toNat }
  else if n == 0x0C5 then (evPoolLeftWrite p v s).getD s
  else if n == 0x0C6 then set fun pt => { pt with badPkt := v }
  else if n == 0x0C7 then set fun pt => { pt with drop := v }
  else if 0x0E0 ≤ n && n ≤ 0x0E7 then set fun pt => { pt with l3ways := kstore pt.l3ways (n - 0x0E0) (fld v 0 16) 0xFFFF }
  else if 0x100 ≤ n && n ≤ 0x13F then set fun pt => { pt with lq := kstore pt.lq (n - 0x100) (v &&& 0x8F003FFFFFFFFFFF).toNat 0 }
  else if 0x200 ≤ n && n ≤ 0x21F then set fun pt => { pt with mp := kstore pt.mp (n - 0x200) (v &&& 0x8F003FFFFFFFF000).toNat 0 }
  else s

/-- Clears the bits of the events of a slot that are written as 1 (R293, R300). -/
def clearEvents (s : State) (p : Nat) (shadow : Bool) (v : DWord) : State :=
  modCtx s p shadow fun c => { c with evt := (BitVec.ofNat 4 c.evt &&& ~~~(v.setWidth 4)).toNat }

/-- A syswr to sys.evt clears the bits written as 1 (R300). -/
def evSysEvtClear (p : Nat) (v : DWord) (s : State) : Option State := some (clearEvents s p false v)

/-- A context or partition register written by syswr. -/
def sysWriteShared (s : State) (p n : Nat) (v : DWord) : State :=
  if n == 0x045 then (evSysEvtClear p v s).getD s
  else if n == 0x085 then clearEvents s p true v
  else if n ≤ 0x04A then modCtx s p false fun c => writeCtxReg c n v
  else if n ≤ 0x08A then modCtx s p true fun c => writeCtxReg c (n - 0x40) v
  else writePartReg s p n v

/-- Reads a system register into a uniform register (R292); an unlisted number is no register (R40). -/
def execSysrd (d : BitVec 6) (r : BitVec 12) (s : State) : Outcome :=
  privileged s fun g s =>
    if Legal.sysListed r then advance (modGroup s g fun x => x.setS d.toNat (sysRead s g r.toNat)) g 4 else raise s g 0

/-- Writes a uniform register into a system register (R292); an RO one takes no write (R40). -/
def execSyswr (r : BitVec 12) (a : BitVec 6) (s : State) : Outcome :=
  privileged s fun g s =>
    let v := (getGroup s g).sreg a.toNat
    if !Legal.sysListed r || Legal.sysReadOnly r then raise s g 0
    else advance (if r.toNat ≤ 0x00F then modGroup s g fun x => writeGroupReg x r.toNat v
      else sysWriteShared s (partOf s g) r.toNat v) g 4

/-! ## Translation maintenance (R296, R312) -/

/-- Invalidates translations of a range of a slot (R296). -/
def execTlbInv (a : BitVec 6) (s : State) : Outcome :=
  privileged s fun g s =>
    let w := (getGroup s g).sreg a.toNat
    let p := partOf s g
    match invRange w with
    | none => raise s g 0
    | some (lo, hi) =>
      if bitAt w.toNat 3 then advance (dropX s (shadowGroups s p) lo hi) g 4 else invalidate s g p w []

/-- The translation-register part of a shootdown alone (R296). -/
def execXinval (a : BitVec 6) (s : State) : Outcome :=
  privileged s fun g s =>
    let w := (getGroup s g).sreg a.toNat
    let p := partOf s g
    match invRange w with
    | none => raise s g 0
    | some (lo, hi) => advance (dropX s (if bitAt w.toNat 3 then shadowGroups s p else runningGroups s p fun _ => true) lo hi) g 4

/-! ## pgmap (R297, R315) -/

/-- Memory in a range reads as unlisted, without poison. -/
def zeroRange (s : State) (a n : Nat) : State :=
  { s with
    mem := s.mem.filter fun c => !(a ≤ c.1 && c.1 < a + n)
    poison := s.poison.filter fun k => !(a ≤ 64 * k && 64 * k < a + n) }

/-- An empty pool is logged, and signalled once to mailbox 0 until it is refilled (R315, R357). -/
def poolEmpty (s : State) (p va : Nat) : State :=
  let s := logAppend s p va 2 p
  if (getPart s p).poolSignalled then s
  else
    let s := modPart s p fun pt => { pt with poolSignalled := true }
    if (kgetD s.mailboxes 0 {}).on then mailHost s 0 (leBytes 8 1 ++ leBytes 8 p) else countDrop s p

/-- Maps a first-touch page: status and state (R297). -/
def mapPage (s : State) (g p va : Nat) : Nat × State :=
  if 2 ^ 56 ≤ va then (3, s)
  else
    let root := (getPart s p).ctx.ptroot
    let s := settleRoot s (some g) root va
    match walkRoot s root va with
    | .leaf .. => (2, s)
    | .stop kind level pte e =>
      if kind != 1 || level != 4 then (3, s)
      else if (getPart s p).poolLeft == 0 then (1, poolEmpty s p va)
      else
        let (f, s) := takeFrame s p
        let s := zeroRange s f 65536
        (0, writeWord64 s pte (e - bitsOf e 16 30 * 65536 - bitsOf e 15 1 * 32768 + f + (1 - bitsOf e 0 1)))

/-- Maps a first-touch page with a zeroed frame from the pool (R297). -/
def execPgmap (d : BitVec 6) (a : BitVec 6) (s : State) : Outcome :=
  privileged s fun g s =>
    let r := mapPage s g (partOf s g) ((getGroup s g).sreg a.toNat).toNat
    writeStatus r.2 g d.toNat r.1

/-! ## fret and wfi (R299, R300) -/

/-- Returns from a trap (R299). -/
def execFret (s : State) : Outcome := privileged s fun g s => returnFromTrap s g

/-- Blocks until an event of a mask is set, then reads the events (R300). -/
def execWfi (d : BitVec 6) (a : BitVec 6) (s : State) : Outcome :=
  privileged s fun g s =>
    let mask := fld ((getGroup s g).sreg a.toNat) 0 16
    let w : Wait := .wfi mask d.toNat
    if waitHolds s g w then completeWait s g w else block s g w

/-! ## halt and the context slots (R301 to R303) -/

/-- Dispatch to some dies stops for the running context (R336). -/
def stopDispatch (s : State) (dies : List Nat) : State := dies.foldl (fun s d => modDie s d fun x => { x with stopped := true, forced := false }) s

/-- Completes an operation whose condition already holds, else blocks on it. -/
def awaitOp (s : State) (g : Nat) (w : Wait) : State := if waitHolds s g w then completeWait s g w else block s g w

/-- Halts the groups of the running context on the dies of a mask, but for the issuing group (R301). -/
def execHalt (d : BitVec 6) (a : BitVec 6) (s : State) : Outcome :=
  privileged s fun g s =>
    let mask := fld ((getGroup s g).sreg a.toNat) 0 8
    let dies := maskDies s (partOf s g) mask
    awaitOp ((haltNamed s g dies).foldl askHalt (stopDispatch s dies)) g (.halt mask d.toNat)

/-- Whether the die-pad shares of two contexts overlap. -/
def sharesMeet (a b : Ctx) : Bool :=
  let x := share a
  let y := share b
  x.2 != 0 && y.2 != 0 && x.1 < y.1 + y.2 && y.1 < x.1 + x.2

/-- Exchanges the two context slots once every group of the running context has halted (R302). -/
def execCtxSwap (d : BitVec 6) (s : State) : Outcome :=
  privileged s fun g s =>
    let p := partOf s g
    let pt := getPart s p
    if pt.sh.empty then writeStatus s g d.toNat 1
    else if sharesMeet pt.ctx pt.sh then writeStatus s g d.toNat 2
    else
      let s := (runningGroups s p fun h => h != g).foldl askHalt (stopDispatch s pt.dies)
      let s := drainLines (fixLoads (markFiring s fun o => o.group == g) g) (coreOf s g) fun l => l.of g
      awaitOp s g (.swap d.toNat)

/-- The shadow launches of a partition end with status 6, children before their parents; renames are committed, since their launches
retire with the context (R303, R322). -/
def killLaunches (s : State) (p : Nat) : State :=
  let mine := (getPart s p).launches.filter fun e => e.2.shadow
  let s := (mine.filter fun e => !e.2.complete).reverse.foldl (fun s e =>
    match kfind (getPart s p).launches e.1 with
    | some l =>
      let l := { retireUnrun l with killed := true }
      finishLaunch (modLaunch s p e.1 fun _ => l) p e.1 l
    | none => s) s
  let root := (getPart s p).sh.ptroot
  let s := mine.foldl (fun s e => (e.2.ranges.filter Range.renamed).foldl (fun s r => r.fresh.foldl (fun s f =>
    match rewriteLeaf s root f.1 f.2 with
    | some (old, s) => returnFrame s p old
    | none => s) s) s) s
  let s := mine.foldl (fun s e => e.2.oldFrames.foldl (fun s f => returnFrame s p f) s) s
  modPart s p fun pt => { pt with launches := pt.launches.filter fun e => !e.2.shadow }

/-- Amplitude operations of a killed context that had begun leave the shards they may change unspecified. -/
def killAmp (s : State) (bs : List Nat) : State :=
  s.ops.foldl (fun s e =>
    match e.2.body with
    | .amp a =>
      if bs.contains e.2.block && (e.2.state == .exchanging || e.2.state == .applying) then
        let o := { e.2 with fault := none }
        let r := ampLocate s o (a.pages (List.range (2 ^ recD a.raw))) .write
        ampUnspecified r.1 o a r.2.places a.here
      else s
    | _ => s) s

/-- What the killed context has already issued to the fabric leaves its cores: coll.acc tiles that wait for matrix commands which are
now discarded, contributions to die reductions. -/
def killFabric (s : State) (gs bs : List Nat) : State :=
  let s := { s with ops := s.ops.filter fun e => !(bs.contains e.2.block && e.2.cls == 1) }
  let s := gs.foldl readTiles s
  s.ops.foldl (fun s e => if bs.contains e.2.block then (evDredContribution e.1 s).getD s else s) s

/-- Class x operations of a killed context that go on in the fabric. -/
def keepRemote (o : Op) : Bool := o.done.isNone && match o.body with
  | .fabric x => o.state != .queued || x.cmd == 3
  | _ => false

/-- Ends the context in the shadow slot (R303): status 1 where the slot is empty. -/
def killContext (s : State) (p : Nat) : State :=
  let bs := (s.blocks.filter fun e => e.2.part == p && e.2.shadow).map (·.1)
  let gs := (s.groups.filter fun e => bs.contains e.2.block).map (·.1)
  let s := killFabric (killAmp s bs) gs bs
  let s := gs.foldl discardPacketsOf s
  let s := killLaunches s p
  let s := { s with
    blocks := s.blocks.filter fun e => !bs.contains e.1
    groups := s.groups.filter fun e => !bs.contains e.2.block
    ops := s.ops.filter fun e => !bs.contains e.2.block || keepRemote e.2 }
  modPart (forgetScopes s fun m => m.part == p && m.ctx == (getPart s p).sh.id) p fun pt => { pt with sh := {} }

/-- Ends the context in the shadow slot (R303). -/
def execCtxKill (d : BitVec 6) (s : State) : Outcome :=
  privileged s fun g s =>
    let p := partOf s g
    if (getPart s p).sh.empty then writeStatus s g d.toNat 1 else writeStatus (killContext s p) g d.toNat 0

/-! ## Die control (R304, R347 to R351) -/

/-- Pending entries at the landings that a die serves (R351). -/
def atDie (d : Nat) (e : Entry) : Bool := servingDie e.addr e.scope (dieOfCore e.core) == some d

/-- Op 4: the drift holders of a die flush and release, the entries at its landings are applied although the die holds requests, its dirty
lines are written home. -/
def writeBack (s : State) (d : Nat) : State :=
  let s := applyWhere (flushCaches s (fun c => cacheDie c == d) true) (atDie d) true
  let s := ((s.landing.filter fun e => e.inSet && atDie d e).map fun e => (e.addr, e.size)).eraseDups.foldl (fun s w => flushRange s w.1 w.2) s
  let s := (getDie s d).dirty.foldl (fun s k => flushRange s (128 * k) 128) s
  modDie s d fun x => { x with dirty := [] }

/-- The loads on their way to a die's homes are performed: it answers with errors from now on (R329, log entry 25). -/
def answerLoads (s : State) (d : Nat) : State := fixLanded s (atDie d)

/-- The granules of some 128-byte lines are poisoned at their homes (R341, R352). -/
def poisonLines (s : State) (ls : List Nat) : State := ls.foldl (fun s k => strikeGranule (strikeGranule s (.mem (2 * k))) (.mem (2 * k + 1))) s

/-- What a die holds in its cores and caches is gone (R350); the windows kept there of retired blocks are gone with their core pads. -/
def clearCores (s : State) (d : Nat) : State :=
  let s := { s with
    cores := s.cores.filter fun e => dieOfCore e.1 != d
    blocks := s.blocks.filter fun e => !(e.2.retired && dieOfCore e.2.core == d) }
  modDie s d fun x => { x with tlb := [], dirty := [] }

/-- Op 6: the cores, caches and die pad of a die are as a module reset leaves them (R350), what its amplitude engine takes part in ends with err
(R251), and it leaves reset at operating point 7 (R2). -/
def resetDie (s : State) (d : Nat) : State :=
  let s := clearCores (zeroRange (loseAmp s d) (Config.diePadBase + d * Config.diePadSize) Config.diePadSize) d
  modDie s d fun x => { x with point := 7, change := none }

/-- The blocks of a die that is lost stop where they stand: its operations are discarded without completing, what its groups had in flight is
gone (R352). -/
def stopBlocks (s : State) (bs : List Nat) : State :=
  { s with
    ops := s.ops.filter fun e => !bs.contains e.2.block
    arrivals := s.arrivals.filter fun a => !bs.contains a.block
    stores := s.stores.filter fun t => !t.pads.any fun w => bs.any fun b => w.1.inBlock b
    groups := s.groups.map fun e => if bs.contains e.2.block then
        (e.1, { e.2 with status := .exited, pending := [], haltAsked := none, inFlight := [], critical := false }) else e }

/-- What a die held is lost: dirty granules are poisoned at their homes, holders discarded, amplitude work ends with err, its operations are
discarded, its blocks re-queued or failed (R304, R352). -/
def dropDie (s : State) (d : Nat) : State :=
  let s := answerLoads s d
  let s := loseAmp (loseHolders s d) d
  let s := poisonLines s (getDie s d).dirty
  let bs := (s.blocks.filter fun e => !e.2.retired && dieOfCore e.2.core == d).map (·.1)
  let s := clearCores (stopBlocks s bs) d
  retireEnded (bs.foldl requeueOrFail s)

/-- A die is fenced: what it held is lost, it enters state 7 and leaves its partition (R304, R352). -/
def fenceDie (s : State) (p d : Nat) : State :=
  let s := setDieState (dropDie s d) p d 7
  modPart s p fun pt => { pt with dies := pt.dies.filter (· != d) }

/-- Whether a die's state accepts an operation of die.ctl (R304, R347). -/
def dieAccepts (s : State) (g d op : Nat) : Bool :=
  let st := (getDie s d).state
  let own := dieOf s g == d
  match op with
  | 0 => true
  | 1 => st == 0
  | 2 => (st == 1 || st == 2) && !own
  | 3 => st == 2 && !own
  | 4 => st == 3 && !own
  | 5 => st == 4 && !own
  | 6 => st == 4 && !own && (getPart s (partOf s g)).sh.empty
  | 7 => st == 6 && !own
  | 8 => st != 0 && !own
  | _ => st == 1 || st == 2

/-- The effect of an accepted operation that completes at once. -/
def dieAct (s : State) (p d op : Nat) : State :=
  match op with
  | 1 => setDieState s p d 1
  | 3 => setDieState s p d 3
  | 4 => setDieState (writeBack s d) p d 4
  | 5 => modDie (answerLoads s d) d fun x => { x with stray := true }
  | 6 => setDieState (resetDie s d) p d 6
  | 7 => setDieState (modDie s d fun x => { x with stray := false, stopped := false }) p d 0
  | 8 => fenceDie s p d
  | 9 =>
    let s := (runningGroups s p fun h => dieOf s h == d).foldl resumeGroup s
    setDieState (modDie s d fun x => { x with stopped := false }) p d 0
  | _ => s

/-- die.ctl (R304): trap 0 for a reserved operation or a nonzero must-be-zero bit, trap 5 for a die outside the partition; an
operation that is not accepted writes the state with bit 4 set. -/
def dieCtl (s : State) (dst a : BitVec 6) : Outcome :=
  privileged s fun g s =>
    let w := (getGroup s g).sreg a.toNat
    let d := fld w 0 3
    let op := fld w 8 4
    let p := partOf s g
    if w.toNat != d + 256 * op || 9 < op then raise s g 0
    else if !(getPart s p).dies.contains d then raise s g 5
    else if !dieAccepts s g d op then writeStatus s g dst.toNat (dieStateWord s d + 16)
    else if op == 2 then
      let s := (runningGroups s p fun h => dieOf s h == d).foldl askHalt (stopDispatch s [d])
      awaitOp (beginRequeue s p d) g (.dieHalt d dst.toNat)
    else
      let s := dieAct s p d op
      writeStatus s g dst.toNat (dieStateWord s d)

/-- die.ctl, whose operand's operation field is 0: reads a die's state (R304). The operation is taken from the operand. -/
def execDieCtlRead (d : BitVec 6) (a : BitVec 6) (s : State) : Outcome := dieCtl s d a
/-- die.ctl op 1: stops dispatch to a die (R304). -/
def execDieCtlStop (d : BitVec 6) (a : BitVec 6) (s : State) : Outcome := dieCtl s d a
/-- die.ctl op 2: halts a die's groups and re-queues or fails their blocks (R304, R345). -/
def execDieCtlRequeue (d : BitVec 6) (a : BitVec 6) (s : State) : Outcome := dieCtl s d a
/-- die.ctl op 3: idles a die's links and holds requests for it (R304, R349). -/
def execDieCtlQuiesce (d : BitVec 6) (a : BitVec 6) (s : State) : Outcome := dieCtl s d a
/-- die.ctl op 4: writes back dirty lines and flushes drift holders (R351). -/
def execDieCtlWriteback (d : BitVec 6) (a : BitVec 6) (s : State) : Outcome := dieCtl s d a
/-- die.ctl op 5: turns on error replies (R349). -/
def execDieCtlStray (d : BitVec 6) (a : BitVec 6) (s : State) : Outcome := dieCtl s d a
/-- die.ctl op 6: resets a die (R350). -/
def execDieCtlReset (d : BitVec 6) (a : BitVec 6) (s : State) : Outcome := dieCtl s d a
/-- die.ctl op 7: re-admits a die whose links are trained (R348). -/
def execDieCtlAdmit (d : BitVec 6) (a : BitVec 6) (s : State) : Outcome := dieCtl s d a
/-- die.ctl op 8: fences a die out of the partition (R304). -/
def execDieCtlFence (d : BitVec 6) (a : BitVec 6) (s : State) : Outcome := dieCtl s d a
/-- die.ctl op 9: resumes halted groups and dispatch on a die (R304). -/
def execDieCtlResume (d : BitVec 6) (a : BitVec 6) (s : State) : Outcome := dieCtl s d a

/-! ## The two events that are effects of syswr and of host writes -/

/-- A syswr to sys.evt clears the event bits written as 1 (R300). -/
def execSysEvtClear (part : Nat) (value : DWord) (s : State) : Outcome := .next ((evSysEvtClear part value s).getD s)
/-- A write to sys.pool.left (R315). -/
def execPoolLeftWrite (part : Nat) (value : DWord) (s : State) : Outcome := .next ((evPoolLeftWrite part value s).getD s)

end Sys2Proof.Machine
end

