-- ==== Sys2Proof/Machine/Reliability.lean ====
section
/-! DEFINITION. Storage errors, the loss of a die, failing fabric links (R230, R271, R333, R341 to R343, R352). -/

namespace Sys2Proof.Machine

/-! ## Where an error strikes (R341) -/

/-- The array code of a site (R294). -/
def ErrSite.array : ErrSite → Nat
  | .registerFile _ => 0
  | .groupState _ => 1
  | .corePad _ _ | .laneSlice _ _ => 2
  | .diePad _ => 3
  | .l1 _ _ => 4
  | .l2 _ _ => 5
  | .icache _ _ => 6
  | .tlb _ _ => 7
  | .accumulator _ _ _ => 8
  | .deltaLine _ _ => 9
  | .shadowBank _ => 10
  | .landing _ => 11
  | .l3 _ => 12
  | .hbm _ => 13

/-- The address of a site in a log record: a physical address, a pad offset, or 0 (R294). -/
def ErrSite.addr : ErrSite → Nat
  | .corePad _ g | .laneSlice _ g => 64 * g
  | .diePad g => (64 * g - Config.diePadBase) % Config.diePadSize
  | .l1 _ line | .l2 _ line | .icache _ line => 128 * line
  | .deltaLine _ r => 512 * r
  | .landing a => a
  | .l3 g | .hbm g => 64 * g
  | _ => 0

/-- The partition whose log takes a record about memory that no partition owns: the lowest-numbered one. -/
def lowestPart (s : State) : Nat := ((s.parts.find? fun e => e.2.formed).map (·.1)).getD 0

/-- The partition whose log takes the record of a site. -/
def sitePart (s : State) : ErrSite → Nat
  | .registerFile b | .groupState b | .corePad b _ | .laneSlice b _ | .accumulator b _ _ | .shadowBank b => (getBlock s b).part
  | .diePad g => (partOfDie s (diePadOf (64 * g))).getD (lowestPart s)
  | .l1 c _ | .icache c _ | .tlb c _ => (partOfDie s (dieOfCore c)).getD (lowestPart s)
  | .l2 d _ => (partOfDie s d).getD (lowestPart s)
  | .deltaLine c _ => (partOfDie s (cacheDie c)).getD (lowestPart s)
  | .landing _ | .l3 _ | .hbm _ => lowestPart s

/-- A block whose state is kept on its core. -/
def onCore (s : State) (b : Nat) : Bool := match kfind s.blocks b with
  | some x => !x.shadow && !x.retired
  | none => false

/-- Whether a site exists now. -/
def siteExists (s : State) : ErrSite → Bool
  | .registerFile b | .groupState b => onCore s b
  | .corePad b g => (kfind s.blocks b).isSome && !(getBlock s b).shadow && 64 * g < (getBlock s b).padSize
  | .laneSlice b g => onCore s b && 64 * g < (getBlock s b).groups * 32 * (getBlock s b).sliceSize
  | .diePad g => inDiePads (64 * g)
  | .l1 c line | .icache c line => c < Config.coreCount && (inHbm (128 * line) || inDiePads (128 * line))
  | .tlb c va => c < Config.coreCount && va < 2 ^ 56
  | .l2 d line => d < Config.dieCount && inHbm (128 * line)
  | .accumulator b t row => onCore s b && t < (getBlock s b).tiles && row < 32
  | .deltaLine c r => match findHolder s c r with
    | some { state := .holding _ _, .. } => true
    | _ => false
  | .shadowBank b => (kfind s.blocks b).isSome && (getBlock s b).shadow && !(getBlock s b).retired
  | .landing a => inHbm a || inDiePads a
  | .l3 g | .hbm g => inHbm (64 * g)

/-! ## What an uncorrectable error does (R341, R343) -/

/-- A dirty line of an L2 is lost, both its granules poisoned at their home; a clean one is fetched again. -/
def loseLine (s : State) (d line : Nat) : State :=
  if (getDie s d).dirty.contains line then modDie (poisonLines s [line]) d fun x => { x with dirty := x.dirty.erase line } else s

/-- The entries for a word that wait in a home directory, emptied: they keep their places, and do nothing. -/
def DirRequest.strike (here : Entry) : DirRequest → DirRequest
  | .entry e => .entry (if e.overlaps here then { e with op := 16, ret := [], asks := [] } else e)
  | .ldv es tol => .ldv (es.map fun e => if e.overlaps here then { e with ret := [] } else e) tol
  | .grant c => .grant c

/-- The entries of a request to a home directory. -/
def DirRequest.held : DirRequest → List Entry
  | .entry e => [e]
  | .ldv es _ => es
  | .grant _ => []

/-- The requests that a home directory keeps: those in its queue, and the one for which it drains. -/
def Region.held (x : Region) : List DirRequest := x.queue ++ match x.state with
  | .draining _ q => [q]
  | _ => []

/-- The entries of a word at its landing and its home directory are discarded, behind the loads of it that are on their way (log entry 25),
returning ones come back poisoned, and its granule is poisoned. -/
def loseLanding (s : State) (a : Nat) : State :=
  let here : Entry := { addr := a, size := 1, op := 0 }
  let r := regionOf a
  let s := fixLanded s fun e => e.overlaps here
  let gone := (s.landing ++ (getRegion s r).held.flatMap DirRequest.held).filter fun e => e.overlaps here
  let s := { s with landing := s.landing.filter fun e => !e.overlaps here }
  let s := if (kfind s.regions r).isNone then s
    else modRegion s r fun x => { x with
      queue := x.queue.map (DirRequest.strike here)
      state := match x.state with
        | .draining called q => .draining called (q.strike here)
        | st => st }
  let s := gone.foldl (fun s e => e.ret.foldl (fun s r => returnValue s r e.size 0 true) s) s
  strikeGranule s (Loc.granule (.mem a))

/-- A delta line flushes entries that poison the granules of their words (R230), behind the loads of its region that are on their way (log entry
25); where those have drained it, its words are poisoned in place. -/
def loseDelta (s : State) (c : CacheId) (r : Nat) : State :=
  match findHolder s c r with
  | some { state := .holding _ line, .. } =>
    let s := fixLanded s fun e => regionOf e.addr == r
    match findHolder s c r with
    | some { state := .holding k line, .. } => flushAt (setHolder s { cache := c, region := r, state := .holding k { line with bad := true } }) c r
    | _ => (((line.entries r 0 []).map fun e => Loc.granule (.mem e.addr)).eraseDups).foldl strikeGranule s
  | _ => s

/-- The effect of an uncorrectable error at a site. -/
def strike (s : State) : ErrSite → State
  | .registerFile b | .groupState b => loseBlock s b
  | .corePad b g => poisonAt s (.pad b (64 * g))
  | .laneSlice b g => poisonAt s (.slice b (64 * g))
  | .diePad g | .l3 g | .hbm g => strikeGranule s (.mem g)
  | .l1 _ _ | .icache _ _ => s
  | .l2 d line => loseLine s d line
  | .tlb c va => tlbDiscard s c va
  | .accumulator b t row => modBlock s b fun x => { x with rowPoison := insertNat x.rowPoison (32 * t + row) }
  | .deltaLine c r => loseDelta s c r
  | .shadowBank b => modBlock s b fun x => { x with damaged := true }
  | .landing a => loseLanding s a

/-- An uncorrectable storage error: one record names the array and the address, and the error does what R341 says. -/
def evUncorrectableError (site : ErrSite) (s : State) : Option State :=
  if siteExists s site then some (strike (logAppend s (sitePart s site) (ErrSite.addr site) 5 (ErrSite.array site)) site) else none

/-- A correctable error is corrected and counted (R341). -/
def evCorrectableError (site : ErrSite) (s : State) : Option State :=
  let _ := site
  some { s with ceCount := s.ceCount + 1 }

/-! ## The loss of a die (R333, R352) -/

/-- Trap 15 becomes pending in the supervisor groups of the running context on the other dies. -/
def raiseDieLost (s : State) (p d : Nat) : State :=
  (runningGroups s p fun g => (getGroup s g).sup && dieOf s g != d).foldl (fun s g =>
    modGroup s g fun x => { x with pending := x.pending ++ [{ num := 15, code := d }] }) s

/-- The device fences a die that has failed beyond correction. -/
def evDieLost (d : Nat) (s : State) : Option State :=
  if Config.dieCount ≤ d || (getDie s d).state == 7 then none
  else match partOfDie s d with
    | some p => some (raiseDieLost (fenceDie s p d) p d)
    | none => some (modDie (dropDie s d) d fun x => { x with state := 7 })

/-! ## A fabric link (R271) -/

/-- A fabric link fails: traffic takes the ports that are left. -/
def evFabricLinkFailure (port : Nat) (s : State) : Option State :=
  if 24 ≤ port || (kgetD s.ports port {}).failed then none
  else some { s with ports := kput s.ports port { kgetD s.ports port {} with failed := true } }

end Sys2Proof.Machine
end

