-- ==== Sys2Proof/Machine/Platform.lean ====
section
/-! DEFINITION. The host's side (R346, R354 to R367): operating points, power and temperature, grants, the control window, firmware,
attestation, the reset of the link, bring-up; a walk that replaces a translation (R309). -/

namespace Sys2Proof.Machine

/-! ## Operating points, power, temperature (R360 to R363, R366) -/

/-- The host commands a die's operating point through a controller that runs its firmware (R360, R364). A die that a trip has stopped
restarts at it once the temperature has fallen below 100 °C; a trip of the same cycle takes effect, and the die keeps the commanded point for its
restart (R363). -/
def evOperatingPointCommand (d point : Nat) (s : State) : Option State :=
  if !s.firmware.running || !s.linkUp || Config.dieCount ≤ d || 7 < point then none
  else some (modDie s d fun x => { x with
    change := some (point, s.cycle + Config.pointChangeCycles), tripped := x.tripped && (x.hot || x.trippedAt == s.cycle) })

/-- The temperature of a die is below 100 °C (R363). -/
def coolDie (s : State) (d : Nat) : State := if (getDie s d).hot then modDie s d fun x => { x with hot := false } else s

/-- A commanded operating point takes effect. -/
def evOperatingPointSettled (d : Nat) (s : State) : Option State :=
  match (getDie s d).change with
  | some (point, _) => some (modDie s d fun x => { x with point := point, change := none })
  | none => none

/-- The host sets the module cap through running firmware: 300 W to 2,800 W (R362, R364). -/
def evPowerCapWrite (watts : Nat) (s : State) : Option State :=
  if !s.firmware.running || !s.linkUp then none else some { s with powerCap := max 300 (min 2800 watts) }

/-- Sets which dies are throttled. -/
def throttle (s : State) (f : Nat → Bool) : State :=
  (List.range Config.dieCount).foldl (fun s d => if (getDie s d).throttled == f d then s else modDie s d fun x => { x with throttled := f d }) s

/-- The average power exceeds the cap: the limiter skips some issue cycles of four, at most three, on every die, and reports them. How many
it skips affects timing only. -/
def evPowerLimitThrottle (watts skips : Nat) (s : State) : Option State :=
  if s.powerCap < watts && 1 ≤ skips && skips ≤ 3 then some (throttle { s with powerNow := watts } fun _ => true) else none

/-- The average power is back under the cap. -/
def evPowerLimitRelease (watts : Nat) (s : State) : Option State :=
  if watts ≤ s.powerCap then some (throttle { s with powerNow := watts } fun _ => false) else none

/-- A die's clock stops, and the host is interrupted. -/
def stopDie (s : State) (d : Nat) : Option State :=
  if Config.dieCount ≤ d || (getDie s d).tripped then none
  else some { modDie s d fun x => { x with tripped := true, trippedAt := s.cycle, hot := true } with hostInterrupts := s.hostInterrupts ++ [d] }

/-- A die reaches 110 °C (R363). -/
def evThermalTrip (d : Nat) (s : State) : Option State := stopDie s d
/-- A die draws more than 420 A: it stops as in a thermal trip (R366). -/
def evCurrentBoundTrip (d : Nat) (s : State) : Option State := stopDie s d

/-! ## Host accesses (R272, R357) -/

/-- Answers the host. -/
def hostAnswer (s : State) (r : HostReply) : State := { s with hostReplies := s.hostReplies ++ [r] }

/-- Refuses a host access: an error response, and a record of its address and of 0 for a read or 1 for a write in the management
controller. -/
def hostRefuse (s : State) (addr kind : Nat) (r : HostReply) : State := hostAnswer { s with hostLog := s.hostLog ++ [(addr, kind)] } r

/-- Whether a grant with a permission covers a range. -/
def granted (s : State) (addr n : Nat) (write : Bool) : Bool :=
  s.grants.any fun e => (if write then e.2.w else e.2.r) && e.2.base ≤ addr && addr + n ≤ e.2.base + e.2.size

/-- How the die of a range answers the host. -/
def hostDie (s : State) (addr : Nat) : DieAnswer := if inDiePads addr then dieAnswer s (diePadOf addr) else .served

/-- Whether a range lies in launch-queue windows. -/
def inQueues (addr n : Nat) : Bool := Config.endpointBase ≤ addr && addr + n ≤ Config.endpointBase + 512 * 65536

/-- A host read. -/
def hostRead (s : State) (addr n : Nat) : Option State :=
  let run := (Loc.mem addr).run n
  if !granted s addr n false || !(run.all fun l => match l with
      | .mem a => inHbm a || inDiePads a
      | _ => false) || hostDie s addr = .error then some (hostRefuse s addr 0 .error)
  else if hostDie s addr = .held then none
  else
    let s := settleBytes s addr n
    if run.any (isPoisoned s) then some (hostRefuse s addr 0 .poisoned)
    else
      let free := { s with fresh := s.fresh + 1 }
      some (hostAnswer free (.data ((List.range n).map fun i =>
        if mixed s (addr + i) then Config.freeByte (2 ^ 48 * s.fresh + addr + i) else memRead s.mem (addr + i))))

/-- A host write: into a launch queue's window its bytes are gathered (R272), else they go to memory. -/
def hostWrite (s : State) (addr : Nat) (bytes : List Byte) : Option State :=
  let n := bytes.length
  if !granted s addr n true then some (hostRefuse s addr 1 .error)
  else if inQueues addr n then
    if bitAt addr 12 && ringFull s (windowOf (addr / 65536)) then none
    else some (hostAnswer (enqueue s .host none 0 s.dev [(addr, bytes)]).1 .done)
  else if !((List.range n).all fun i => inHbm (addr + i) || inDiePads (addr + i)) || hostDie s addr = .error then some (hostRefuse s addr 1 .error)
  else if hostDie s addr = .held then none
  else some (hostAnswer (writeBytes (settleBytes s addr n) (((Loc.mem addr).run n).zip bytes)) .done)

/-- The host reads or writes module memory through a grant (R357). -/
def evHostAccess (op : HostOp) (s : State) : Option State :=
  if !s.firmware.running || !s.linkUp then none
  else match op with
    | .read addr n => if n == 0 then none else hostRead s addr n
    | .write addr bytes => if bytes.isEmpty then none else hostWrite s addr bytes

/-! ## The control window (R346, R358) -/

/-- A host write to sys.evt sets the bits written as 1 (R358). -/
def evHostEvtWrite (p : Nat) (v : DWord) (s : State) : Option State :=
  if !s.firmware.running || !s.linkUp || !(getPart s p).formed then none else some (raiseEvt s p (fld v 0 4))

/-- Whether a partition holds no resident group, and its shadow slot is empty. -/
def partIdle (s : State) (p : Nat) : Bool :=
  (getPart s p).sh.empty && !s.groups.any fun e => (getBlock s e.2.block).part == p

/-- The dies of a mask. -/
def diesOfMask (v : DWord) : List Nat := (List.range Config.dieCount).filter fun d => v.getLsbD d

/-- The dies of partition `p` of `n` dies, where there is such a partition (R346). -/
def partDies (p n : Nat) : Option (List Nat) :=
  if (n == 1 || n == 2 || n == 4 || n == 8) && n * (p + 1) ≤ Config.dieCount then some ((List.range n).map (n * p + ·)) else none

/-- The dies of a list that are not fenced: a fenced die returns only through a module reset (R346, R353). -/
def unfenced (s : State) (l : List Nat) : List Nat := l.filter fun d => (getDie s d).state != 7

/-- A host write of sys.part: the dies of the mask are the partition's, but for fenced ones, which stay outside (R346, R353, log entry
96). -/
def writePart (s : State) (p : Nat) (v : DWord) : State := modPart s p fun pt => { pt with dies := unfenced s (diesOfMask v) }

/-- A host write of sys.die.state(d): state 7 fences the die; the register of a die outside the partition holds nothing to store (log entry
96). -/
def writeDieState (s : State) (p d : Nat) (v : DWord) : State :=
  if !(getPart s p).dies.contains d then s
  else if fld v 0 4 == 7 then fenceDie s p d
  else
    let s := if bitAt v.toNat 8 && !(getDie s d).stray then answerLoads s d else s
    modDie (setDieState s p d (fld v 0 4)) d fun x => { x with stray := bitAt v.toNat 8 }

/-- Whether a number is one of the registers that a partition has in the control window: those of R293 but for the group registers. -/
def windowReg (n : Nat) : Bool := Legal.sysListed (BitVec.ofNat 12 n) && (0x010 ≤ n && n ≤ 0x301 || 0x3C0 ≤ n && n ≤ 0x3C3)

/-- A host write of a partition's register stores the written value whatever its Access; only in sys.evt it sets bits (R358). -/
def hostSetReg (s : State) (p n : Nat) (v : DWord) : State :=
  if n == 0x045 then raiseEvt s p (fld v 0 4)
  else if n == 0x085 then modCtx s p true fun c => { c with evt := fld v 0 4 }
  else if n == 0x0C0 then writePart s p v
  else if 0x0F0 ≤ n && n ≤ 0x0F7 then writeDieState s p (n - 0x0F0) v
  else if n == 0x300 then { s with critLimit := v.toNat }
  else if n == 0x301 then { s with mxIdle := v.toNat }
  else if n == 0x3C1 then { s with dev := fld v 0 18 }
  else if 0x3C0 ≤ n then { s with caps := kput s.caps n v }
  else sysWriteShared s p n v

/-- A host write of a partition's register takes effect while the partition is idle, those of the pool and of the events always. -/
def hostReg (s : State) (p n : Nat) (v : DWord) : Option State :=
  if (getPart s p).formed && windowReg n && (n == 0x0C4 || n == 0x0C5 || n == 0x045 || partIdle s p) then some (hostSetReg s p n v) else none

/-- The host forms partition `p` of `n` dies, while both slots of the dies concerned are empty (R346); fenced dies stay outside. A
partition that is formed anew starts as after a reset of the partition: its launch numbers begin at 1 again (R16, log entry 97). -/
def formPartition (s : State) (p n : Nat) : Option State :=
  (partDies p n).bind fun dies =>
    let old := s.parts.filter fun e => e.2.formed && (e.1 == p || e.2.dies.any dies.contains)
    if old.any fun e => !e.2.ctx.empty || !partIdle s e.1 then none
    else
      let s := { s with parts := s.parts.filter fun e => !old.any fun o => o.1 == e.1 }
      some { s with parts := kput s.parts p { formed := true, dies := unfenced s dies } }

/-- Cells from `from_` up to `to_`, moved to `at_`, over the cells of another memory there. -/
def moveCells (src dst : List Host.Cell) (from_ at_ n : Nat) : List Host.Cell :=
  (src.filter fun c => from_ ≤ c.1 && c.1 < from_ + n).foldl (fun m c => memWrite m (at_ + (c.1 - from_)) c.2)
    (dst.filter fun c => !(at_ ≤ c.1 && c.1 < at_ + n))

/-- The host moves aperture `j` (R354): what stood behind it stays in host memory at the old base, and it shows what host memory holds
at the new one. -/
def setAperture (s : State) (j : Nat) (a : Aperture) : State :=
  let old := kgetD s.apertures j {}
  let lo := Config.apertureBase + j * Config.apertureSize
  let s := { s with apertures := kstore s.apertures j a {} }
  if old.hostBase == a.hostBase && old.size == a.size then s
  else
    let host := moveCells s.mem s.hostMem lo old.hostBase old.size
    { s with hostMem := host, mem := moveCells host (s.mem.filter fun c => !(lo ≤ c.1 && c.1 < lo + Config.apertureSize)) a.hostBase lo a.size }

/-- What a host write to the control window does, or none where it gets an error response. -/
def controlWrite (s : State) (t : ControlTarget) (v : DWord) : Option State :=
  match t with
  | .sysReg p n => hostReg s p n v
  | .formPartition p n => formPartition s p n
  | .aperture j base size perm =>
    if 16 ≤ j || Config.apertureSize < size then none
    else some (setAperture s j { on := bitAt perm 0, hostBase := base, size := size, r := bitAt perm 1, w := bitAt perm 2 })
  | .grant i base size perm =>
    if 16 ≤ i then none
    else some { s with grants := if bitAt perm 0 then kput s.grants i { base := base, size := size, r := bitAt perm 1, w := bitAt perm 2 } else kerase s.grants i }
  | .mailbox h base size on =>
    if 64 ≤ h then none else some { s with mailboxes := kstore s.mailboxes h { on := on, hostBase := base, size := size } {} }
  | .portFilter i lo hi => if 24 ≤ i then none else some { s with ports := kput s.ports i { kgetD s.ports i {} with lo := lo, hi := hi } }
  | .deviceNumber => some { s with dev := fld v 0 18 }
  | .critLimit => some { s with critLimit := v.toNat }
  | .mxIdle => some { s with mxIdle := v.toNat }

/-- A host write to the control window (R358). -/
def evControlWindowWrite (t : ControlTarget) (v : DWord) (s : State) : Option State :=
  if !s.firmware.running || !s.linkUp then none
  else match controlWrite s t v with
    | some s => some (hostAnswer s .done)
    | none => some (hostAnswer s .error)

/-- A register of a partition as the host reads it. -/
def hostGetReg (s : State) (p n : Nat) : Nat :=
  if n ≤ 0x04A then (readCtxReg (getPart s p).ctx n).toNat
  else if n ≤ 0x08A then (readCtxReg (getPart s p).sh (n - 0x40)).toNat
  else readPartReg s p n % 2 ^ 64

/-- What a read of the control window shows, or none where it gets an error response: the firmware status even while the controller stays in its
ROM (R364), all else through running firmware. -/
def controlView (s : State) (v : ControlView) : Option (List Nat) :=
  let f := s.firmware
  if !s.linkUp then none
  else match v with
    | .firmware => some [bit f.running, f.version, f.rollback, f.keySlot, f.digest]
    | v => if !f.running then none else match v with
      | .sysReg p n => if (getPart s p).formed && (windowReg n || 0x302 ≤ n && Legal.sysListed (BitVec.ofNat 12 n)) then some [hostGetReg s p n] else none
      | .aperture j => if 16 ≤ j then none else
          let a := kgetD s.apertures j {}
          some [a.hostBase, a.size, bit a.on + 2 * bit a.r + 4 * bit a.w]
      | .grant i => if 16 ≤ i then none else match kfind s.grants i with
        | some g => some [g.base, g.size, 1 + 2 * bit g.r + 4 * bit g.w]
        | none => some [0, 0, 0]
      | .mailbox h => if 64 ≤ h then none else
          let m := kgetD s.mailboxes h {}
          some [m.hostBase, m.size, bit m.on]
      | .portFilter i => if 24 ≤ i then none else some [(kgetD s.ports i {}).lo, (kgetD s.ports i {}).hi]
      | .deviceNumber => some [s.dev]
      | .attestation => some (match s.attestation with
        | some a => a.nonce.toNat :: a.sig.toNat :: a.contents
        | none => [])
      | .firmware => none

/-- The host reads the control window (R358, R367). -/
def viewControl (s : State) (v : ControlView) : State :=
  hostAnswer s (match controlView s v with
    | some w => .view w
    | none => .error)

/-! ## Firmware, attestation, bring-up (R359, R364, R365, R367) -/

/-- The running firmware advances the rollback counter, which never falls (R364). -/
def advanceRollback (s : State) (n : Nat) : State :=
  if s.firmware.running then { s with firmware := { s.firmware with rollback := max s.firmware.rollback (n % 65536) } } else s

/-- Whether the boot ROM loads an image: its signature verifies against a fused key whose revocation fuse is intact, and its version is at
least the rollback counter (R364). -/
def bootable (f : Firmware) (key : Option (BitVec 2)) (i : FirmwareImage) : Bool :=
  key.any (fun k => !f.revoked.getLsbD k.toNat) && f.rollback ≤ i.version.toNat

/-- The contents of an attestation report, in the order of R365. -/
def reportContents (s : State) (nonce : BitVec 256) : List Nat :=
  [Config.capId.toNat, s.dev, s.firmware.digest, s.firmware.rollback, s.firmware.keySlot, Config.fuseWord] ++
    (s.parts.filter fun e => e.2.formed).flatMap (fun e => [e.1, maskBits e.2.dies]) ++ [nonce.toNat]

/-- A nonce makes the controller write a signed report (R365). -/
def evAttestationNonce (nonce : BitVec 256) (s : State) : Option State :=
  if !s.firmware.running || !s.linkUp then none
  else
    let c := reportContents s nonce
    some { s with attestation := some { nonce := nonce, contents := c, sig := Config.reportSignature c } }

/-- The fenced dies of a module. -/
def fencedDies (s : State) : KMap Die := (s.dies.filter fun e => e.2.state == 7).map fun e => (e.1, { state := 7 })

/-- What host memory holds of the module's writes, behind the apertures and elsewhere (R354). -/
def hostMemory (s : State) : List Host.Cell :=
  s.apertures.foldl (fun m e => moveCells s.mem m (Config.apertureBase + e.1 * Config.apertureSize) e.2.hostBase e.2.size) s.hostMem

/-- The module in reset: the fuses, those of the revoked keys among them, and the rollback counter are kept, and so is what has left the
module. It waits for its bring-up. -/
def moduleReset (s : State) (dies : KMap Die) : State := { State.reset with
  dies := dies
  firmware := { running := false, rollback := s.firmware.rollback, revoked := s.firmware.revoked }
  supplied := false, linkUp := false
  mailed := s.mailed, replies := s.replies, outbound := s.outbound.filter fun o => o.dest != s.dev, contributions := s.contributions.filter fun c => c.1 != s.dev
  transfers := s.transfers, hostMem := hostMemory s
  hostReplies := s.hostReplies, hostLog := s.hostLog, hostInterrupts := s.hostInterrupts
  schedule := s.schedule, fresh := s.fresh, nextId := s.nextId }

/-- A reset of the Adeton Link resets the module (R359), and fenced dies are kept. -/
def evLinkReset (s : State) : Option State := some (moduleReset s (fencedDies s))

/-- Bring-up from power-on, which resets a module that runs and returns its fenced dies (R346, R353, log entry 98), or after a link reset, up
to the training of the links, both interfaces together (R364, R367, log entry 94): an image that the boot ROM may load runs, dies that fail to
train are fenced; otherwise the controller stays in its ROM. -/
def evPowerOn (trained : BitVec 8) (key : Option (BitVec 2)) (image : FirmwareImage) (s : State) : Option State :=
  let s := { (if s.supplied then moduleReset s [] else s) with supplied := true, linkUp := true }
  if !bootable s.firmware key image then some { s with firmware := { s.firmware with running := false } }
  else
    let s := (List.range Config.dieCount).foldl (fun s d =>
      if trained.getLsbD d then s else modDie s d fun x => { x with state := 7 }) s
    some { s with firmware := { s.firmware with
      running := true, version := image.version.toNat, keySlot := (key.map (·.toNat)).getD 0, digest := image.digest.toNat } }

/-! ## A page walk (R309, R310) -/

/-- A walker reads the page table for a core's address, and the TLBs take what it finds. -/
def evPageWalk (core va : Nat) (s : State) : Option State :=
  match partOfDie s (dieOfCore core) with
  | none => none
  | some p =>
    if Config.coreCount ≤ core || 2 ^ 56 ≤ va || !dieRuns s (dieOfCore core) then none
    else some (walkFill s { core := core, part := p, root := (getPart s p).ctx.ptroot, launch := 0 } va).1

end Sys2Proof.Machine
end

