-- ==== Sys2Proof/Machine/Events.lean ====
section
/-! DEFINITION. The rows without words as instructions: each event happens where it can, and leaves the machine as it is where it
cannot (log entry 1). The event that the outside world or time brings next is run by `runEvent?`. -/

namespace Sys2Proof.Machine

/-- An in-flight result (load, division, returned value) arrives and a Waiting group may become Ready (R10). -/
def execResultArrival (group slot : Nat) (late : Word) (s : State) : Outcome := .next ((evResultArrival group slot late s).getD s)
/-- A Blocked group's recorded condition comes to hold and its instruction completes (R10). -/
def execWaitCompletes (group : Nat) (s : State) : Outcome := .next ((evWaitCompletes group s).getD s)
/-- The counter reaches a blocked instruction's deadline and the instruction completes (R11). -/
def execDeadlineReached (group : Nat) (s : State) : Outcome := .next ((evDeadlineReached group s).getD s)
/-- The critical-deferral limit expires and the critical group is halted with trap 14 (R13). -/
def execCritDeferralExpired (group : Nat) (s : State) : Outcome := .next ((evCritDeferralExpired group s).getD s)
/-- A pre-emption halt reaches a group at an interrupt point; buffers drain and engine work is quiesced (R336). -/
def execGroupHalted (group : Nat) (s : State) : Outcome := .next ((evGroupHalted group s).getD s)
/-- A pending asynchronous trap is taken at an interrupt point and the group vectors to its handler (R330). -/
def execTrapEntry (group : Nat) (s : State) : Outcome := .next ((evTrapEntry group s).getD s)
/-- A block whose groups have exited and whose engine operations completed returns its resources (R12). -/
def execBlockRetire (block : Nat) (s : State) : Outcome := .next ((evBlockRetire block s).getD s)
/-- A write-combining line drains towards its home within 1,024 cycles of its last write (R103). -/
def execWcbDrain (core line : Nat) (s : State) : Outcome := .next ((evWcbDrain core line s).getD s)
/-- A walker reads the page table for a translation once a walker is free (R309). -/
def execPageWalk (core va : Nat) (s : State) : Outcome := .next ((evPageWalk core va s).getD s)
/-- The old frames of a committed rename return to the pool once their readers retire (R298). -/
def execFrameReturn (part launch : Nat) (s : State) : Outcome := .next ((evFrameReturn part launch s).getD s)
/-- An engine delivery is applied to a gate as an arrival of bytes once its bytes are performed (R137). -/
def execGateDelivery (op i : Nat) (s : State) : Outcome := .next ((evGateDelivery op i s).getD s)
/-- The core's ferry takes a queued operation and begins moving its elements (R166). -/
def execFerryStart (op : Nat) (s : State) : Outcome := .next ((evFerryStart op s).getD s)
/-- An engine access meets an unmapped page, holds its operation and raises trap 4 in a group (R316). -/
def execEnginePageFault (op : Nat) (s : State) : Outcome := .next ((evEnginePageFault op s).getD s)
/-- A held ferry operation resumes once its page is mapped (R166). -/
def execFerryPageMapped (op : Nat) (s : State) : Outcome := .next ((evFerryPageMapped op s).getD s)
/-- At a receiver's acceptance point the armed bit decides acceptance or refusal (R160). -/
def execMcastAcceptance (op rank : Nat) (s : State) : Outcome := .next ((evMcastAcceptance op rank s).getD s)
/-- A span of destination bytes is performed and delivered to the gate (R156). -/
def execFerryDelivery (op first count : Nat) (s : State) : Outcome := .next ((evFerryDelivery op first count s).getD s)
/-- The last byte is performed and a captured matrix command is handed to the engine (R156). -/
def execFerryLand (op : Nat) (s : State) : Outcome := .next ((evFerryLand op s).getD s)
/-- A landed ferry operation with all deliveries applied completes in issue order and decrements oc.f (R166). -/
def execFerryComplete (op : Nat) (s : State) : Outcome := .next ((evFerryComplete op s).getD s)
/-- An ordered matrix command begins executing once earlier commands on its tile or sub-array are performed (R188). -/
def execMxExecute (op : Nat) (s : State) : Outcome := .next ((evMxExecute op s).getD s)
/-- A gated sub-array finishes its wake latency and its command proceeds (R187). -/
def execSubarrayWake (core sub : Nat) (s : State) : Outcome := .next ((evSubarrayWake core sub s).getD s)
/-- Every access of a matrix command is performed and its flags and status recorded (R188). -/
def execMxPerformed (op rows : Nat) (s : State) : Outcome := .next ((evMxPerformed op rows s).getD s)
/-- A performed matrix command completes in issue order and decrements oc.m (R188). -/
def execMxComplete (op : Nat) (s : State) : Outcome := .next ((evMxComplete op s).getD s)
/-- A sub-array idle for sys.mx.idle cycles is gated and loses its weights (R187). -/
def execSubarrayIdleGating (core sub : Nat) (s : State) : Outcome := .next ((evSubarrayIdleGating core sub s).getD s)
/-- A coll.acc contribution reaches a tile and is added, deferred or refused (R182). -/
def execContributionArrival (c : Contribution) (s : State) : Outcome := .next ((evContributionArrival c s).getD s)
/-- An armed tile completes with tmo after 110,000 cycles without N contributions (R182). -/
def execArmTimeout (op : Nat) (s : State) : Outcome := .next ((evArmTimeout op s).getD s)
/-- A queued amplitude operation starts its participating engines once earlier handle operations are performed (R252). -/
def execAmpStart (op : Nat) (s : State) : Outcome := .next ((evAmpStart op s).getD s)
/-- Every half and shard of an exchange has moved and the map is written (R252). -/
def execAmpExchangeDone (op : Nat) (incoming : Option Transfer) (s : State) : Outcome := .next ((evAmpExchangeDone op incoming s).getD s)
/-- A device exchange not completed within 110,000 cycles completes with tmo (R247). -/
def execDeviceExchangeTimeout (op : Nat) (s : State) : Outcome := .next ((evDeviceExchangeTimeout op s).getD s)
/-- Every amplitude and result of the operation is written (R252). -/
def execAmpApplyDone (op : Nat) (s : State) : Outcome := .next ((evAmpApplyDone op s).getD s)
/-- A performed amplitude operation completes in issue order and decrements oc.a (R252). -/
def execAmpComplete (op : Nat) (s : State) : Outcome := .next ((evAmpComplete op s).getD s)
/-- An algebraic, load or store entry arrives at the landing of its word (R195). -/
def execLandingEntryArrival (i : Nat) (s : State) : Outcome := .next ((evLandingEntryArrival i s).getD s)
/-- The landing applies the front entry of a word, possibly after a permitted swap, merge or drop (R197). -/
def execLandingApply (addr size : Nat) (steps : List LandStep) (s : State) : Outcome := .next ((evLandingApply addr size steps s).getD s)
/-- The home answers a cache's grant request with a share, a cut, or a refusal (R212). -/
def execGrantRequest (region : Nat) (s : State) : Outcome := .next ((evGrantRequest region s).getD s)
/-- A holder receives a grant or a refusal for its waiting element (R222). -/
def execGrantReply (cache : CacheId) (region : Nat) (s : State) : Outcome := .next ((evGrantReply cache region s).getD s)
/-- 4,096 cycles after a refusal the cache may ask again (R212). -/
def execRefusalExpiry (cache : CacheId) (region : Nat) (s : State) : Outcome := .next ((evRefusalExpiry cache region s).getD s)
/-- A holder receives a cut call, flushes if over the new share, and answers (R214). -/
def execShareCutCall (cache : CacheId) (region : Nat) (s : State) : Outcome := .next ((evShareCutCall cache region s).getD s)
/-- A holder receives a drain call, flushes, releases and answers (R215). -/
def execDrainCall (cache : CacheId) (region : Nat) (s : State) : Outcome := .next ((evDrainCall cache region s).getD s)
/-- The home receives a holder's flush or answer and may leave Cutting or Draining (R221). -/
def execHolderMessage (cache : CacheId) (region : Nat) (s : State) : Outcome := .next ((evHolderMessage cache region s).getD s)
/-- The home serves a tolerant load, draining holders until the rest fit the tolerance (R219). -/
def execLdvRequest (region : Nat) (s : State) : Outcome := .next ((evLdvRequest region s).getD s)
/-- An open packet with no byte for 220,000 cycles is discarded (R258). -/
def execPacketIdleTimeout (i : Nat) (s : State) : Outcome := .next ((evPacketIdleTimeout i s).getD s)
/-- A fabric packet arrives, is checked against the ingress tables and applied whole or rejected (R255). -/
def execInboundPacket (p : FabPacket) (s : State) : Outcome := .next ((evInboundPacket p s).getD s)
/-- A packet not applied within 220,000 cycles of issue is never applied (R255). -/
def execPacketApplyExpiry (i : Nat) (s : State) : Outcome := .next ((evPacketApplyExpiry i s).getD s)
/-- A remote operation's completion returns with status ok or err (R260). -/
def execRemoteCompletion (packet : PacketOf) (status : OpStatus) (data : List Byte) (s : State) : Outcome :=
  .next ((evRemoteCompletion packet.op packet.dev status data s).getD s)
/-- A remote operation not completed within 110,000 cycles completes with tmo (R260). -/
def execRemoteTimeout (op : Nat) (s : State) : Outcome := .next ((evRemoteTimeout op s).getD s)
/-- The flag is written at the target once the covered operations have completed, or the fence fails (R264). -/
def execRfenceFlagWrite (op : Nat) (s : State) : Outcome := .next ((evRfenceFlagWrite op s).getD s)
/-- A contribution reaches a die-reduction slot and is kept or refused (R269). -/
def execDredContribution (op : Nat) (s : State) : Outcome := .next ((evDredContribution op s).getD s)
/-- A collecting slot reaches its deadline and proceeds to write with TIMED set (R269). -/
def execDredDeadline (slot : Nat) (s : State) : Outcome := .next ((evDredDeadline slot s).getD s)
/-- The slot writes the combined result to every kept contributor and completes their commands (R270). -/
def execDredResultWrite (slot : Nat) (s : State) : Outcome := .next ((evDredResultWrite slot s).getD s)
/-- The dispatcher checks and admits or rejects the head packet of a queue (R320). -/
def execLaunchAdmission (part queue : Nat) (s : State) : Outcome := .next ((evLaunchAdmission part queue s).getD s)
/-- The dispatcher places the next block of a chosen launch on a core where it fits (R321). -/
def execBlockPlacement (part launch : Nat) (cores : List Nat) (s : State) : Outcome := .next ((evBlockPlacement part launch cores s).getD s)
/-- A launch whose blocks retired and children completed flushes, writes its signal and decrements counters (R323). -/
def execLaunchCompletion (part launch : Nat) (s : State) : Outcome := .next ((evLaunchCompletion part launch s).getD s)
/-- A renamed range's leaf entries are rewritten to the fresh frames after earlier writers commit (R322). -/
def execRenameCommit (part launch : Nat) (s : State) : Outcome := .next ((evRenameCommit part launch s).getD s)
/-- A cancel packet retires unplaced blocks of the named work unrun (R326). -/
def execCancelPacket (part queue : Nat) (s : State) : Outcome := .next ((evCancelPacket part queue s).getD s)
/-- An open packet opens a graph, phase or job counter (R324). -/
def execOpenPacket (part queue : Nat) (s : State) : Outcome := .next ((evOpenPacket part queue s).getD s)
/-- A close packet decrements a level's counter (R324). -/
def execClosePacket (part queue : Nat) (s : State) : Outcome := .next ((evClosePacket part queue s).getD s)
/-- Every 4,096 cycles the governor moves core quota between graph stages by ring occupancy (R328). -/
def execGovernorTick (die : Nat) (s : State) : Outcome := .next ((evGovernorTick die s).getD s)
/-- An uncorrectable storage error poisons, discards or loses data and is logged (R341). -/
def execUncorrectableError (site : ErrSite) (s : State) : Outcome := .next ((evUncorrectableError site s).getD s)
/-- A correctable error is corrected and counted (R341). -/
def execCorrectableError (site : ErrSite) (s : State) : Outcome := .next ((evCorrectableError site s).getD s)
/-- The device fences a failed die, discarding its work and raising trap 15 (R352). -/
def execDieLost (die : Nat) (s : State) : Outcome := .next ((evDieLost die s).getD s)
/-- The host commands a die's operating point (R360). -/
def execOperatingPointCommand (die point : Nat) (s : State) : Outcome := .next ((evOperatingPointCommand die point s).getD s)
/-- An operating-point change takes effect within 20 µs (R360). -/
def execOperatingPointSettled (die : Nat) (s : State) : Outcome := .next ((evOperatingPointSettled die s).getD s)
/-- The host sets the module power cap, clamped to 2,800 W (R362). -/
def execPowerCapWrite (watts : Nat) (s : State) : Outcome := .next ((evPowerCapWrite watts s).getD s)
/-- The 1 ms average power exceeds the cap and the limiter skips issue cycles (R362). -/
def execPowerLimitThrottle (watts skips : Nat) (s : State) : Outcome := .next ((evPowerLimitThrottle watts skips s).getD s)
/-- A die reaching 110 °C has its clock stopped and the host is interrupted (R363). -/
def execThermalTrip (die : Nat) (s : State) : Outcome := .next ((evThermalTrip die s).getD s)
/-- A die exceeding 420 A stops as in a thermal trip (R366). -/
def execCurrentBoundTrip (die : Nat) (s : State) : Outcome := .next ((evCurrentBoundTrip die s).getD s)
/-- A host-scope load unanswered after 110,000 cycles returns poison (R355). -/
def execHostLoadTimeout (group slot : Nat) (s : State) : Outcome := .next ((evHostLoadTimeout group slot s).getD s)
/-- A host-scope store unperformed after 110,000 cycles is discarded and logged (R355). -/
def execHostStoreTimeout (i : Nat) (s : State) : Outcome := .next ((evHostStoreTimeout i s).getD s)
/-- The host reads or writes module memory through a grant, or gets an error response (R357). -/
def execHostAccess (op : HostOp) (s : State) : Outcome := .next ((evHostAccess op s).getD s)
/-- A host write to the control window for a register without a row of its own (R358). -/
def execControlWindowWrite (target : ControlTarget) (value : DWord) (s : State) : Outcome := .next ((evControlWindowWrite target value s).getD s)
/-- A host write to sys.evt sets the bits written as 1 (R358). -/
def execHostEvtWrite (part : Nat) (value : DWord) (s : State) : Outcome := .next ((evHostEvtWrite part value s).getD s)
/-- A nonce written by the host produces a signed attestation report (R365). -/
def execAttestationNonce (nonce : BitVec 256) (s : State) : Outcome := .next ((evAttestationNonce nonce s).getD s)
/-- A reset of the Adeton Link resets the whole module (R359). -/
def execLinkReset (s : State) : Outcome := .next ((evLinkReset s).getD s)
/-- Power-on brings the module up through supply settling, firmware verification and training (R367). -/
def execPowerOn (trained : BitVec 8) (key : Option (BitVec 2)) (image : FirmwareImage) (s : State) : Outcome := .next ((evPowerOn trained key image s).getD s)
/-- A drained store takes effect at its home up to 4,096 cycles after draining, and its invalidations are delivered (R125). -/
def execStoreTakesEffectAtHome (i : Nat) (s : State) : Outcome := .next ((evStoreTakesEffectAtHome i s).getD s)
/-- A fabric link fails and the fabric reroutes traffic around it (R271). -/
def execFabricLinkFailure (port : Nat) (s : State) : Outcome := .next ((evFabricLinkFailure port s).getD s)
/-- A partner module refuses an amplitude exchange transfer whose positions differ, and both sides record err (R247). -/
def execDeviceExchangeRefused (op : Nat) (s : State) : Outcome := .next ((evDeviceExchangeRefused op s).getD s)
/-- The 1 ms average power falls back under the cap, so the limiter stops skipping issue cycles and sys.pwr.thr clears (R362). -/
def execPowerLimitRelease (watts : Nat) (s : State) : Outcome := .next ((evPowerLimitRelease watts s).getD s)

/-- Runs an event where it can happen. The first two are effects of syswr and of host writes and do not happen by themselves. -/
def runEvent? (e : Event) : State → Option State :=
  match e with
  | .sysEvtClear _ _ => fun _ => none
  | .poolLeftWrite _ _ => fun _ => none
  | .resultArrival group slot late => evResultArrival group slot late
  | .waitCompletes group => evWaitCompletes group
  | .deadlineReached group => evDeadlineReached group
  | .critDeferralExpired group => evCritDeferralExpired group
  | .groupHalted group => evGroupHalted group
  | .trapEntry group => evTrapEntry group
  | .blockRetire block => evBlockRetire block
  | .wcbDrain core line => evWcbDrain core line
  | .pageWalk core va => evPageWalk core va
  | .frameReturn part launch => evFrameReturn part launch
  | .gateDelivery op i => evGateDelivery op i
  | .ferryStart op => evFerryStart op
  | .enginePageFault op => evEnginePageFault op
  | .ferryPageMapped op => evFerryPageMapped op
  | .mcastAcceptance op rank => evMcastAcceptance op rank
  | .ferryDelivery op first count => evFerryDelivery op first count
  | .ferryLand op => evFerryLand op
  | .ferryComplete op => evFerryComplete op
  | .mxExecute op => evMxExecute op
  | .subarrayWake core sub => evSubarrayWake core sub
  | .mxPerformed op rows => evMxPerformed op rows
  | .mxComplete op => evMxComplete op
  | .subarrayIdleGating core sub => evSubarrayIdleGating core sub
  | .contributionArrival c => evContributionArrival c
  | .armTimeout op => evArmTimeout op
  | .ampStart op => evAmpStart op
  | .ampExchangeDone op incoming => evAmpExchangeDone op incoming
  | .deviceExchangeTimeout op => evDeviceExchangeTimeout op
  | .ampApplyDone op => evAmpApplyDone op
  | .ampComplete op => evAmpComplete op
  | .landingEntryArrival i => evLandingEntryArrival i
  | .landingApply addr size steps => evLandingApply addr size steps
  | .grantRequest region => evGrantRequest region
  | .grantReply cache region => evGrantReply cache region
  | .refusalExpiry cache region => evRefusalExpiry cache region
  | .shareCutCall cache region => evShareCutCall cache region
  | .drainCall cache region => evDrainCall cache region
  | .holderMessage cache region => evHolderMessage cache region
  | .ldvRequest region => evLdvRequest region
  | .packetIdleTimeout i => evPacketIdleTimeout i
  | .inboundPacket p => evInboundPacket p
  | .packetApplyExpiry i => evPacketApplyExpiry i
  | .remoteCompletion packet status data => evRemoteCompletion packet.op packet.dev status data
  | .remoteTimeout op => evRemoteTimeout op
  | .rfenceFlagWrite op => evRfenceFlagWrite op
  | .dredContribution op => evDredContribution op
  | .dredDeadline slot => evDredDeadline slot
  | .dredResultWrite slot => evDredResultWrite slot
  | .launchAdmission part queue => evLaunchAdmission part queue
  | .blockPlacement part launch cores => evBlockPlacement part launch cores
  | .launchCompletion part launch => evLaunchCompletion part launch
  | .renameCommit part launch => evRenameCommit part launch
  | .cancelPacket part queue => evCancelPacket part queue
  | .openPacket part queue => evOpenPacket part queue
  | .closePacket part queue => evClosePacket part queue
  | .governorTick die => evGovernorTick die
  | .uncorrectableError site => evUncorrectableError site
  | .correctableError site => evCorrectableError site
  | .dieLost die => evDieLost die
  | .operatingPointCommand die point => evOperatingPointCommand die point
  | .operatingPointSettled die => evOperatingPointSettled die
  | .powerCapWrite watts => evPowerCapWrite watts
  | .powerLimitThrottle watts skips => evPowerLimitThrottle watts skips
  | .thermalTrip die => evThermalTrip die
  | .currentBoundTrip die => evCurrentBoundTrip die
  | .hostLoadTimeout group slot => evHostLoadTimeout group slot
  | .hostStoreTimeout i => evHostStoreTimeout i
  | .hostAccess op => evHostAccess op
  | .controlWindowWrite target value => evControlWindowWrite target value
  | .hostEvtWrite part value => evHostEvtWrite part value
  | .attestationNonce nonce => evAttestationNonce nonce
  | .linkReset => evLinkReset
  | .powerOn trained key image => evPowerOn trained key image
  | .storeTakesEffectAtHome i => evStoreTakesEffectAtHome i
  | .fabricLinkFailure port => evFabricLinkFailure port
  | .deviceExchangeRefused op => evDeviceExchangeRefused op
  | .powerLimitRelease watts => evPowerLimitRelease watts

end Sys2Proof.Machine
end

