-- ==== Sys2Proof/Machine/Dispatch.lean ====
section
/-! DEFINITION. Executing one instruction or event: one arm for each constructor of Instr. -/

namespace Sys2Proof.Machine

def exec (i : Instr) (s : State) : Host.Outcome State Fault Refusal :=
  match i with
  | .addI32 d a b w n => Sys2Proof.Machine.execAddI32 d a b w n s
  | .subI32 d a b w n => Sys2Proof.Machine.execSubI32 d a b w n s
  | .mulloI32 d a b w n => Sys2Proof.Machine.execMulloI32 d a b w n s
  | .madI32 d a b w n => Sys2Proof.Machine.execMadI32 d a b w n s
  | .mulhiI32 d a b w n => Sys2Proof.Machine.execMulhiI32 d a b w n s
  | .mulhiN32 d a b w n => Sys2Proof.Machine.execMulhiN32 d a b w n s
  | .addsatI32 d a b w n => Sys2Proof.Machine.execAddsatI32 d a b w n s
  | .subsatI32 d a b w n => Sys2Proof.Machine.execSubsatI32 d a b w n s
  | .minI32 d a b w n => Sys2Proof.Machine.execMinI32 d a b w n s
  | .maxI32 d a b w n => Sys2Proof.Machine.execMaxI32 d a b w n s
  | .minN32 d a b w n => Sys2Proof.Machine.execMinN32 d a b w n s
  | .maxN32 d a b w n => Sys2Proof.Machine.execMaxN32 d a b w n s
  | .and d a b w n => Sys2Proof.Machine.execAnd d a b w n s
  | .or d a b w n => Sys2Proof.Machine.execOr d a b w n s
  | .xor d a b w n => Sys2Proof.Machine.execXor d a b w n s
  | .andn d a b w n => Sys2Proof.Machine.execAndn d a b w n s
  | .shl d a b w n => Sys2Proof.Machine.execShl d a b w n s
  | .shr d a b w n => Sys2Proof.Machine.execShr d a b w n s
  | .sar d a b w n => Sys2Proof.Machine.execSar d a b w n s
  | .rot d a b w n => Sys2Proof.Machine.execRot d a b w n s
  | .orn d a b w n => Sys2Proof.Machine.execOrn d a b w n s
  | .absdiffI32 d a b w n => Sys2Proof.Machine.execAbsdiffI32 d a b w n s
  | .addI64 d a b w n => Sys2Proof.Machine.execAddI64 d a b w n s
  | .subI64 d a b w n => Sys2Proof.Machine.execSubI64 d a b w n s
  | .mulI64 d a b w n => Sys2Proof.Machine.execMulI64 d a b w n s
  | .shlI64 d a b w n => Sys2Proof.Machine.execShlI64 d a b w n s
  | .shrI64 d a b w n => Sys2Proof.Machine.execShrI64 d a b w n s
  | .sarI64 d a b w n => Sys2Proof.Machine.execSarI64 d a b w n s
  | .divI32 d a b w n => Sys2Proof.Machine.execDivI32 d a b w n s
  | .divN32 d a b w n => Sys2Proof.Machine.execDivN32 d a b w n s
  | .remI32 d a b w n => Sys2Proof.Machine.execRemI32 d a b w n s
  | .remN32 d a b w n => Sys2Proof.Machine.execRemN32 d a b w n s
  | .addF32 d a b w n => Sys2Proof.Machine.execAddF32 d a b w n s
  | .subF32 d a b w n => Sys2Proof.Machine.execSubF32 d a b w n s
  | .mulF32 d a b w n => Sys2Proof.Machine.execMulF32 d a b w n s
  | .fmaF32 d a b w n => Sys2Proof.Machine.execFmaF32 d a b w n s
  | .minF32 d a b w n => Sys2Proof.Machine.execMinF32 d a b w n s
  | .maxF32 d a b w n => Sys2Proof.Machine.execMaxF32 d a b w n s
  | .addF16x2 d a b w n => Sys2Proof.Machine.execAddF16x2 d a b w n s
  | .mulF16x2 d a b w n => Sys2Proof.Machine.execMulF16x2 d a b w n s
  | .addF64 d a b w n => Sys2Proof.Machine.execAddF64 d a b w n s
  | .subF64 d a b w n => Sys2Proof.Machine.execSubF64 d a b w n s
  | .mulF64 d a b w n => Sys2Proof.Machine.execMulF64 d a b w n s
  | .fmaF64 d a b w n => Sys2Proof.Machine.execFmaF64 d a b w n s
  | .fmaF16x2 d a b w n => Sys2Proof.Machine.execFmaF16x2 d a b w n s
  | .addBf16x2 d a b w n => Sys2Proof.Machine.execAddBf16x2 d a b w n s
  | .mulBf16x2 d a b w n => Sys2Proof.Machine.execMulBf16x2 d a b w n s
  | .fmaBf16x2 d a b w n => Sys2Proof.Machine.execFmaBf16x2 d a b w n s
  | .set d imm n => Sys2Proof.Machine.execSet d imm n s
  | .addi d a imm n => Sys2Proof.Machine.execAddi d a imm n s
  | .muli d a imm n => Sys2Proof.Machine.execMuli d a imm n s
  | .andi d a imm n => Sys2Proof.Machine.execAndi d a imm n s
  | .ori d a imm n => Sys2Proof.Machine.execOri d a imm n s
  | .xori d a imm n => Sys2Proof.Machine.execXori d a imm n s
  | .shli d a imm n => Sys2Proof.Machine.execShli d a imm n s
  | .shri d a imm n => Sys2Proof.Machine.execShri d a imm n s
  | .sari d a imm n => Sys2Proof.Machine.execSari d a imm n s
  | .rsbi d a imm n => Sys2Proof.Machine.execRsbi d a imm n s
  | .mini d a imm n => Sys2Proof.Machine.execMini d a imm n s
  | .maxi d a imm n => Sys2Proof.Machine.execMaxi d a imm n s
  | .setiF32 d imm n => Sys2Proof.Machine.execSetiF32 d imm n s
  | .addiF32 d a imm n => Sys2Proof.Machine.execAddiF32 d a imm n s
  | .muliF32 d a imm n => Sys2Proof.Machine.execMuliF32 d a imm n s
  | .mov d a w n => Sys2Proof.Machine.execMov d a w n s
  | .not d a w n => Sys2Proof.Machine.execNot d a w n s
  | .negI32 d a w n => Sys2Proof.Machine.execNegI32 d a w n s
  | .absI32 d a w n => Sys2Proof.Machine.execAbsI32 d a w n s
  | .popc d a w n => Sys2Proof.Machine.execPopc d a w n s
  | .clz d a w n => Sys2Proof.Machine.execClz d a w n s
  | .ctz d a w n => Sys2Proof.Machine.execCtz d a w n s
  | .brev d a w n => Sys2Proof.Machine.execBrev d a w n s
  | .bswap d a w n => Sys2Proof.Machine.execBswap d a w n s
  | .negF32 d a w n => Sys2Proof.Machine.execNegF32 d a w n s
  | .absF32 d a w n => Sys2Proof.Machine.execAbsF32 d a w n s
  | .rcpF32 d a w n => Sys2Proof.Machine.execRcpF32 d a w n s
  | .rsqrtF32 d a w n => Sys2Proof.Machine.execRsqrtF32 d a w n s
  | .sqrtF32 d a w n => Sys2Proof.Machine.execSqrtF32 d a w n s
  | .exp2F32 d a w n => Sys2Proof.Machine.execExp2F32 d a w n s
  | .log2F32 d a w n => Sys2Proof.Machine.execLog2F32 d a w n s
  | .sinpiF32 d a w n => Sys2Proof.Machine.execSinpiF32 d a w n s
  | .cospiF32 d a w n => Sys2Proof.Machine.execCospiF32 d a w n s
  | .tanhF32 d a w n => Sys2Proof.Machine.execTanhF32 d a w n s
  | .rcpF64 d a w n => Sys2Proof.Machine.execRcpF64 d a w n s
  | .sqrtF64 d a w n => Sys2Proof.Machine.execSqrtF64 d a w n s
  | .rndF32 d a w m n => Sys2Proof.Machine.execRndF32 d a w m n s
  | .fsrGet d n => Sys2Proof.Machine.execFsrGet d n s
  | .fsrClr d a n => Sys2Proof.Machine.execFsrClr d a n s
  | .packNx d a n f => Sys2Proof.Machine.execPackNx d a n f s
  | .unpackNx d a n f => Sys2Proof.Machine.execUnpackNx d a n f s
  | .cvt d a w y z n => Sys2Proof.Machine.execCvt d a w y z n s
  | .cmp k a b c t => Sys2Proof.Machine.execCmp k a b c t s
  | .kand d a b => Sys2Proof.Machine.execKand d a b s
  | .kor d a b => Sys2Proof.Machine.execKor d a b s
  | .kxor d a b => Sys2Proof.Machine.execKxor d a b s
  | .knot d a => Sys2Proof.Machine.execKnot d a s
  | .kmov d a => Sys2Proof.Machine.execKmov d a s
  | .kpop d a => Sys2Proof.Machine.execKpop d a s
  | .kfirst d a => Sys2Proof.Machine.execKfirst d a s
  | .sel d k a b => Sys2Proof.Machine.execSel d k a b s
  | .shfIdx d a b => Sys2Proof.Machine.execShfIdx d a b s
  | .shfUp d a b => Sys2Proof.Machine.execShfUp d a b s
  | .shfDown d a b => Sys2Proof.Machine.execShfDown d a b s
  | .shfXor d a b => Sys2Proof.Machine.execShfXor d a b s
  | .bcast d a b => Sys2Proof.Machine.execBcast d a b s
  | .vote d a => Sys2Proof.Machine.execVote d a s
  | .redAddI32 d a => Sys2Proof.Machine.execRedAddI32 d a s
  | .redAddF32 d a => Sys2Proof.Machine.execRedAddF32 d a s
  | .redMinI32 d a => Sys2Proof.Machine.execRedMinI32 d a s
  | .redMinF32 d a => Sys2Proof.Machine.execRedMinF32 d a s
  | .redMaxI32 d a => Sys2Proof.Machine.execRedMaxI32 d a s
  | .redMaxF32 d a => Sys2Proof.Machine.execRedMaxF32 d a s
  | .movCompact d a => Sys2Proof.Machine.execMovCompact d a s
  | .addI32Compact d a => Sys2Proof.Machine.execAddI32Compact d a s
  | .subI32Compact d a => Sys2Proof.Machine.execSubI32Compact d a s
  | .mulloI32Compact d a => Sys2Proof.Machine.execMulloI32Compact d a s
  | .andCompact d a => Sys2Proof.Machine.execAndCompact d a s
  | .orCompact d a => Sys2Proof.Machine.execOrCompact d a s
  | .xorCompact d a => Sys2Proof.Machine.execXorCompact d a s
  | .shlCompact d a => Sys2Proof.Machine.execShlCompact d a s
  | .shrCompact d a => Sys2Proof.Machine.execShrCompact d a s
  | .addF32Compact d a => Sys2Proof.Machine.execAddF32Compact d a s
  | .subF32Compact d a => Sys2Proof.Machine.execSubF32Compact d a s
  | .mulF32Compact d a => Sys2Proof.Machine.execMulF32Compact d a s
  | .maxF32Compact d a => Sys2Proof.Machine.execMaxF32Compact d a s
  | .minF32Compact d a => Sys2Proof.Machine.execMinF32Compact d a s
  | .addiCompact d imm => Sys2Proof.Machine.execAddiCompact d imm s
  | .imx p => Sys2Proof.Machine.execImx p s
  | .addendPrefix c => Sys2Proof.Machine.execAddendPrefix c s
  | .sadd d a b imm => Sys2Proof.Machine.execSadd d a b imm s
  | .ssub d a b imm => Sys2Proof.Machine.execSsub d a b imm s
  | .smul d a b imm => Sys2Proof.Machine.execSmul d a b imm s
  | .sand d a b imm => Sys2Proof.Machine.execSand d a b imm s
  | .sor d a b imm => Sys2Proof.Machine.execSor d a b imm s
  | .sxor d a b imm => Sys2Proof.Machine.execSxor d a b imm s
  | .sshl d a b imm => Sys2Proof.Machine.execSshl d a b imm s
  | .sshr d a b imm => Sys2Proof.Machine.execSshr d a b imm s
  | .smov d b imm => Sys2Proof.Machine.execSmov d b imm s
  | .scmpEq d a b imm => Sys2Proof.Machine.execScmpEq d a b imm s
  | .scmpNe d a b imm => Sys2Proof.Machine.execScmpNe d a b imm s
  | .scmpLtI64 d a b imm => Sys2Proof.Machine.execScmpLtI64 d a b imm s
  | .scmpLeI64 d a b imm => Sys2Proof.Machine.execScmpLeI64 d a b imm s
  | .scmpGtI64 d a b imm => Sys2Proof.Machine.execScmpGtI64 d a b imm s
  | .scmpGeI64 d a b imm => Sys2Proof.Machine.execScmpGeI64 d a b imm s
  | .scmpLtN64 d a b imm => Sys2Proof.Machine.execScmpLtN64 d a b imm s
  | .scmpLeN64 d a b imm => Sys2Proof.Machine.execScmpLeN64 d a b imm s
  | .scmpGtN64 d a b imm => Sys2Proof.Machine.execScmpGtN64 d a b imm s
  | .scmpGeN64 d a b imm => Sys2Proof.Machine.execScmpGeN64 d a b imm s
  | .sld d a b imm => Sys2Proof.Machine.execSld d a b imm s
  | .sst d a b imm => Sys2Proof.Machine.execSst d a b imm s
  | .sid d c => Sys2Proof.Machine.execSid d c s
  | .vget d a b imm => Sys2Proof.Machine.execVget d a b imm s
  | .vput d a b imm => Sys2Proof.Machine.execVput d a b imm s
  | .fmtSet d a => Sys2Proof.Machine.execFmtSet d a s
  | .fmtGet d a => Sys2Proof.Machine.execFmtGet d a s
  | .bra d => Sys2Proof.Machine.execBra d s
  | .call d k => Sys2Proof.Machine.execCall d k s
  | .bany d k => Sys2Proof.Machine.execBany d k s
  | .ball d k => Sys2Proof.Machine.execBall d k s
  | .bnone d k => Sys2Proof.Machine.execBnone d k s
  | .bz d k => Sys2Proof.Machine.execBz d k s
  | .bnz d k => Sys2Proof.Machine.execBnz d k s
  | .ret k => Sys2Proof.Machine.execRet k s
  | .jmp d k => Sys2Proof.Machine.execJmp d k s
  | .jmpL d k => Sys2Proof.Machine.execJmpL d k s
  | .ld d a x q w => Sys2Proof.Machine.execLd d a x q w s
  | .ldAcq d a x q w => Sys2Proof.Machine.execLdAcq d a x q w s
  | .ldnc d a x q w => Sys2Proof.Machine.execLdnc d a x q w s
  | .ldv d a x w => Sys2Proof.Machine.execLdv d a x w s
  | .ldvAcq d a x w => Sys2Proof.Machine.execLdvAcq d a x w s
  | .pref a x q => Sys2Proof.Machine.execPref a x q s
  | .st d a x q w => Sys2Proof.Machine.execSt d a x q w s
  | .stRel d a x q w => Sys2Proof.Machine.execStRel d a x q w s
  | .stnc d a x q w => Sys2Proof.Machine.execStnc d a x q w s
  | .ldp d a q l w => Sys2Proof.Machine.execLdp d a q l w s
  | .ldpAcq d a q l w => Sys2Proof.Machine.execLdpAcq d a q l w s
  | .stp d a q l w => Sys2Proof.Machine.execStp d a q l w s
  | .stpRel d a q l w => Sys2Proof.Machine.execStpRel d a q l w s
  | .algOp d a x w n o => Sys2Proof.Machine.execAlgOp d a x w n o s
  | .algOpRet d a x w n o => Sys2Proof.Machine.execAlgOpRet d a x w n o s
  | .algLoad x => Sys2Proof.Machine.execAlgLoad x s
  | .algFlush a x => Sys2Proof.Machine.execAlgFlush a x s
  | .algGen d => Sys2Proof.Machine.execAlgGen d s
  | .dset d a x g => Sys2Proof.Machine.execDset d a x g s
  | .dflush a x => Sys2Proof.Machine.execDflush a x s
  | .dstat d a x => Sys2Proof.Machine.execDstat d a x s
  | .tlset d => Sys2Proof.Machine.execTlset d s
  | .tlget d => Sys2Proof.Machine.execTlget d s
  | .waitOc b imm c => Sys2Proof.Machine.execWaitOc b imm c s
  | .waitOcSt d b imm c => Sys2Proof.Machine.execWaitOcSt d b imm c s
  | .batch d => Sys2Proof.Machine.execBatch d s
  | .waitBatch a => Sys2Proof.Machine.execWaitBatch a s
  | .sleep b imm => Sys2Proof.Machine.execSleep b imm s
  | .gateInit a b => Sys2Proof.Machine.execGateInit a b s
  | .gateArm a => Sys2Proof.Machine.execGateArm a s
  | .gateArrive a b => Sys2Proof.Machine.execGateArrive a b s
  | .gateExpect a b => Sys2Proof.Machine.execGateExpect a b s
  | .gateWait a b => Sys2Proof.Machine.execGateWait a b s
  | .gateTest a b => Sys2Proof.Machine.execGateTest a b s
  | .gateTestM a b => Sys2Proof.Machine.execGateTestM a b s
  | .gateTwait a b => Sys2Proof.Machine.execGateTwait a b s
  | .gateEnlist a b => Sys2Proof.Machine.execGateEnlist a b s
  | .fyCopy a b v f g => Sys2Proof.Machine.execFyCopy a b v f g s
  | .fyMcast a b v => Sys2Proof.Machine.execFyMcast a b v s
  | .fyGather a b v => Sys2Proof.Machine.execFyGather a b v s
  | .fyFill a b v => Sys2Proof.Machine.execFyFill a b v s
  | .fyStat b => Sys2Proof.Machine.execFyStat b s
  | .mxWload a b => Sys2Proof.Machine.execMxWload a b s
  | .mxStream a b => Sys2Proof.Machine.execMxStream a b s
  | .mxZero b => Sys2Proof.Machine.execMxZero b s
  | .mxRead a b => Sys2Proof.Machine.execMxRead a b s
  | .mxStore a b => Sys2Proof.Machine.execMxStore a b s
  | .mxScale a b => Sys2Proof.Machine.execMxScale a b s
  | .mxArm a b => Sys2Proof.Machine.execMxArm a b s
  | .ampBind a b => Sys2Proof.Machine.execAmpBind a b s
  | .ampGate a b => Sys2Proof.Machine.execAmpGate a b s
  | .ampDiag a b => Sys2Proof.Machine.execAmpDiag a b s
  | .ampSwap a => Sys2Proof.Machine.execAmpSwap a s
  | .ampProb a b => Sys2Proof.Machine.execAmpProb a b s
  | .ampNorm a b => Sys2Proof.Machine.execAmpNorm a b s
  | .ampMap a b => Sys2Proof.Machine.execAmpMap a b s
  | .rld a v g => Sys2Proof.Machine.execRld a v g s
  | .rst a v g => Sys2Proof.Machine.execRst a v g s
  | .ralg a b v => Sys2Proof.Machine.execRalg a b v s
  | .ralgRet a b v => Sys2Proof.Machine.execRalgRet a b v s
  | .rfenceFlag a b => Sys2Proof.Machine.execRfenceFlag a b s
  | .collPut v => Sys2Proof.Machine.execCollPut v s
  | .collAcc a b => Sys2Proof.Machine.execCollAcc a b s
  | .dred a b v => Sys2Proof.Machine.execDred a b v s
  | .sysrd d r => Sys2Proof.Machine.execSysrd d r s
  | .syswr r a => Sys2Proof.Machine.execSyswr r a s
  | .tlbInv a => Sys2Proof.Machine.execTlbInv a s
  | .xinval a => Sys2Proof.Machine.execXinval a s
  | .pgmap d a => Sys2Proof.Machine.execPgmap d a s
  | .wfi d a => Sys2Proof.Machine.execWfi d a s
  | .halt d a => Sys2Proof.Machine.execHalt d a s
  | .ctxSwap d => Sys2Proof.Machine.execCtxSwap d s
  | .ctxKill d => Sys2Proof.Machine.execCtxKill d s
  | .dieCtlRead d a => Sys2Proof.Machine.execDieCtlRead d a s
  | .xset d a => Sys2Proof.Machine.execXset d a s
  | .xsetCap d a b => Sys2Proof.Machine.execXsetCap d a b s
  | .xadd d a b imm => Sys2Proof.Machine.execXadd d a b imm s
  | .xget d a f => Sys2Proof.Machine.execXget d a f s
  | .trap n => Sys2Proof.Machine.execTrap n s
  | .sleepUntil a => Sys2Proof.Machine.execSleepUntil a s
  | .nop => Sys2Proof.Machine.execNop s
  | .fence => Sys2Proof.Machine.execFence s
  | .critOn => Sys2Proof.Machine.execCritOn s
  | .critOff => Sys2Proof.Machine.execCritOff s
  | .fret => Sys2Proof.Machine.execFret s
  | .brk => Sys2Proof.Machine.execBrk s
  | .exit => Sys2Proof.Machine.execExit s
  | .dieCtlStop d a => Sys2Proof.Machine.execDieCtlStop d a s
  | .dieCtlRequeue d a => Sys2Proof.Machine.execDieCtlRequeue d a s
  | .dieCtlQuiesce d a => Sys2Proof.Machine.execDieCtlQuiesce d a s
  | .dieCtlWriteback d a => Sys2Proof.Machine.execDieCtlWriteback d a s
  | .dieCtlStray d a => Sys2Proof.Machine.execDieCtlStray d a s
  | .dieCtlReset d a => Sys2Proof.Machine.execDieCtlReset d a s
  | .dieCtlAdmit d a => Sys2Proof.Machine.execDieCtlAdmit d a s
  | .dieCtlFence d a => Sys2Proof.Machine.execDieCtlFence d a s
  | .dieCtlResume d a => Sys2Proof.Machine.execDieCtlResume d a s
  | .sysEvtClear part value => Sys2Proof.Machine.execSysEvtClear part value s
  | .poolLeftWrite part value => Sys2Proof.Machine.execPoolLeftWrite part value s
  | .resultArrival group slot late => Sys2Proof.Machine.execResultArrival group slot late s
  | .waitCompletes group => Sys2Proof.Machine.execWaitCompletes group s
  | .deadlineReached group => Sys2Proof.Machine.execDeadlineReached group s
  | .critDeferralExpired group => Sys2Proof.Machine.execCritDeferralExpired group s
  | .groupHalted group => Sys2Proof.Machine.execGroupHalted group s
  | .trapEntry group => Sys2Proof.Machine.execTrapEntry group s
  | .blockRetire block => Sys2Proof.Machine.execBlockRetire block s
  | .wcbDrain core line => Sys2Proof.Machine.execWcbDrain core line s
  | .pageWalk core va => Sys2Proof.Machine.execPageWalk core va s
  | .frameReturn part launch => Sys2Proof.Machine.execFrameReturn part launch s
  | .gateDelivery op imm => Sys2Proof.Machine.execGateDelivery op imm s
  | .ferryStart op => Sys2Proof.Machine.execFerryStart op s
  | .enginePageFault op => Sys2Proof.Machine.execEnginePageFault op s
  | .ferryPageMapped op => Sys2Proof.Machine.execFerryPageMapped op s
  | .mcastAcceptance op rank => Sys2Proof.Machine.execMcastAcceptance op rank s
  | .ferryDelivery op first count => Sys2Proof.Machine.execFerryDelivery op first count s
  | .ferryLand op => Sys2Proof.Machine.execFerryLand op s
  | .ferryComplete op => Sys2Proof.Machine.execFerryComplete op s
  | .mxExecute op => Sys2Proof.Machine.execMxExecute op s
  | .subarrayWake core sub => Sys2Proof.Machine.execSubarrayWake core sub s
  | .mxPerformed op rows => Sys2Proof.Machine.execMxPerformed op rows s
  | .mxComplete op => Sys2Proof.Machine.execMxComplete op s
  | .subarrayIdleGating core sub => Sys2Proof.Machine.execSubarrayIdleGating core sub s
  | .contributionArrival c => Sys2Proof.Machine.execContributionArrival c s
  | .armTimeout op => Sys2Proof.Machine.execArmTimeout op s
  | .ampStart op => Sys2Proof.Machine.execAmpStart op s
  | .ampExchangeDone op incoming => Sys2Proof.Machine.execAmpExchangeDone op incoming s
  | .deviceExchangeTimeout op => Sys2Proof.Machine.execDeviceExchangeTimeout op s
  | .ampApplyDone op => Sys2Proof.Machine.execAmpApplyDone op s
  | .ampComplete op => Sys2Proof.Machine.execAmpComplete op s
  | .landingEntryArrival imm => Sys2Proof.Machine.execLandingEntryArrival imm s
  | .landingApply addr size steps => Sys2Proof.Machine.execLandingApply addr size steps s
  | .grantRequest region => Sys2Proof.Machine.execGrantRequest region s
  | .grantReply cache region => Sys2Proof.Machine.execGrantReply cache region s
  | .refusalExpiry cache region => Sys2Proof.Machine.execRefusalExpiry cache region s
  | .shareCutCall cache region => Sys2Proof.Machine.execShareCutCall cache region s
  | .drainCall cache region => Sys2Proof.Machine.execDrainCall cache region s
  | .holderMessage cache region => Sys2Proof.Machine.execHolderMessage cache region s
  | .ldvRequest region => Sys2Proof.Machine.execLdvRequest region s
  | .packetIdleTimeout imm => Sys2Proof.Machine.execPacketIdleTimeout imm s
  | .inboundPacket p => Sys2Proof.Machine.execInboundPacket p s
  | .packetApplyExpiry imm => Sys2Proof.Machine.execPacketApplyExpiry imm s
  | .remoteCompletion packet status data => Sys2Proof.Machine.execRemoteCompletion packet status data s
  | .remoteTimeout op => Sys2Proof.Machine.execRemoteTimeout op s
  | .rfenceFlagWrite op => Sys2Proof.Machine.execRfenceFlagWrite op s
  | .dredContribution op => Sys2Proof.Machine.execDredContribution op s
  | .dredDeadline slot => Sys2Proof.Machine.execDredDeadline slot s
  | .dredResultWrite slot => Sys2Proof.Machine.execDredResultWrite slot s
  | .launchAdmission part queue => Sys2Proof.Machine.execLaunchAdmission part queue s
  | .blockPlacement part launch cores => Sys2Proof.Machine.execBlockPlacement part launch cores s
  | .launchCompletion part launch => Sys2Proof.Machine.execLaunchCompletion part launch s
  | .renameCommit part launch => Sys2Proof.Machine.execRenameCommit part launch s
  | .cancelPacket part queue => Sys2Proof.Machine.execCancelPacket part queue s
  | .openPacket part queue => Sys2Proof.Machine.execOpenPacket part queue s
  | .closePacket part queue => Sys2Proof.Machine.execClosePacket part queue s
  | .governorTick die => Sys2Proof.Machine.execGovernorTick die s
  | .uncorrectableError site => Sys2Proof.Machine.execUncorrectableError site s
  | .correctableError site => Sys2Proof.Machine.execCorrectableError site s
  | .dieLost die => Sys2Proof.Machine.execDieLost die s
  | .operatingPointCommand die point => Sys2Proof.Machine.execOperatingPointCommand die point s
  | .operatingPointSettled die => Sys2Proof.Machine.execOperatingPointSettled die s
  | .powerCapWrite watts => Sys2Proof.Machine.execPowerCapWrite watts s
  | .powerLimitThrottle watts skips => Sys2Proof.Machine.execPowerLimitThrottle watts skips s
  | .thermalTrip die => Sys2Proof.Machine.execThermalTrip die s
  | .currentBoundTrip die => Sys2Proof.Machine.execCurrentBoundTrip die s
  | .hostLoadTimeout group slot => Sys2Proof.Machine.execHostLoadTimeout group slot s
  | .hostStoreTimeout imm => Sys2Proof.Machine.execHostStoreTimeout imm s
  | .hostAccess op => Sys2Proof.Machine.execHostAccess op s
  | .controlWindowWrite target value => Sys2Proof.Machine.execControlWindowWrite target value s
  | .hostEvtWrite part value => Sys2Proof.Machine.execHostEvtWrite part value s
  | .attestationNonce nonce => Sys2Proof.Machine.execAttestationNonce nonce s
  | .linkReset => Sys2Proof.Machine.execLinkReset s
  | .powerOn trained key image => Sys2Proof.Machine.execPowerOn trained key image s
  | .storeTakesEffectAtHome imm => Sys2Proof.Machine.execStoreTakesEffectAtHome imm s
  | .fabricLinkFailure port => Sys2Proof.Machine.execFabricLinkFailure port s
  | .deviceExchangeRefused op => Sys2Proof.Machine.execDeviceExchangeRefused op s
  | .powerLimitRelease watts => Sys2Proof.Machine.execPowerLimitRelease watts s

end Sys2Proof.Machine
end

