-- ==== Sys2Proof/Machine/Turns.lean ====
section
/-! DEFINITION. What moves next: the choice of an issue slot (R10, R18, R27, R327, R331), the events that are due, and one turn of
the machine. A turn is named by the schedule, which stands for the outside world and for time (log entry 2); with none named, what
is due goes first, then a group issues, then time passes. -/

namespace Sys2Proof.Machine

/-! ## Issue (R10, R327) -/

/-- Whether a group may be selected: it is Ready, and resident on a die that runs. -/
def selectable (s : State) (g : Nat) : Bool :=
  (kfind s.groups g).isSome && dieRuns s (dieOf s g) && !(blockOf s g).shadow && (getGroup s g).status == .ready

/-- How long a group has waited (R327): since its last issue, or since it last became Ready. -/
def waitOf (s : State) (g : Nat) : Nat := s.cycle - max (getGroup s g).lastIssue (getGroup s g).readySince

/-- The groups of an issue slot that may be selected, by group place. -/
def slotGroups (s : State) (core place : Nat) : List Nat :=
  let here := s.groups.filter fun e => coreOf s e.1 == core && e.2.place == place && selectable s e.1
  (sortBy (fun a b : Nat × Group => a.2.seat ≤ b.2.seat) here).map (·.1)

/-- The group that has waited longest, the first of several. -/
def longest (s : State) (gs : List Nat) : Option Nat :=
  gs.foldl (fun m g => match m with
    | some h => if waitOf s h < waitOf s g then some g else some h
    | none => some g) none

/-- The group that a slot selects among those that may be (R327). -/
def selectGroup (s : State) (gs : List Nat) : Option Nat :=
  match gs.find? (insideChain s) with
  | some g => some g
  | none =>
    match longest s (gs.filter fun g => 128 ≤ waitOf s g) with
    | some g => some g
    | none =>
      match longest s (gs.filter fun g => (getGroup s g).critical) with
      | some g => some g
      | none => longest s gs

/-- A group fetches the instruction at its program counter and executes it (R18, R40, R369). -/
def fetchRun (s : State) (g : Nat) : Outcome :=
  match fetchAt s g (getGroup s g).pc.toNat with
  | (s, .instr i) => exec i s
  | (s, .illegal) => .next (raise s g 0)
  | (s, .trap num code va) => .next (raiseFetch s g (getGroup s g).pc num code va)

/-- A selected group issues; where its sources are not available it waits (R10). A halt or a pending trap that has reached this point
goes first (R331). -/
def issueGroup (s : State) (g : Nat) : Outcome :=
  match evGroupHalted g s with
  | some s => .next s
  | none =>
    match evTrapEntry g s with
    | some s => .next s
    | none =>
      if !available s g then .next (modGroup s g fun x => { x with status := .waiting, stalled := false })
      else
        let s := if issueHeld s g then performAcquires s g else s
        if issueHeld s g then .next (waitHere s g)
        else match fetchRun (modGroup { s with current := some g } g fun x => { x with lastIssue := s.cycle }) g with
          | .next s' => .next (passIssued s s' g)
          | o => o

/-! ## What is due without the outside world -/

/-- Events of a group. -/
def groupEvents (e : Nat × Group) : List Event :=
  [Event.groupHalted e.1, Event.trapEntry e.1, Event.waitCompletes e.1, Event.deadlineReached e.1, Event.critDeferralExpired e.1] ++
    e.2.inFlight.map (fun f => Event.resultArrival e.1 f.1 0) ++ e.2.hostWait.toList.map fun _ => Event.hostLoadTimeout e.1 0

/-- The first span of elements of a ferry operation that has not been performed. -/
def nextSpan (f : FerryOp) : Nat × Nat :=
  let first := f.done.foldl (fun n p => if p.1 ≤ n then max n (p.1 + p.2) else n) 0
  (first, f.total - first)

/-- Events of an engine operation. -/
def opEvents (e : Nat × Op) : List Event :=
  match e.2.body with
  | .ferry f =>
    f.ranks.map (Event.mcastAcceptance e.1) ++ f.deliveries.zipIdx.map (fun d => Event.gateDelivery e.1 d.2) ++
      [Event.ferryPageMapped e.1, Event.enginePageFault e.1, Event.ferryLand e.1, Event.ferryDelivery e.1 (nextSpan f).1 (nextSpan f).2,
        Event.ferryStart e.1, Event.ferryComplete e.1]
  | .matrix m =>
    m.deliveries.zipIdx.map (fun d => Event.gateDelivery e.1 d.2) ++
      [Event.enginePageFault e.1, Event.mxPerformed e.1 64, Event.mxExecute e.1, Event.mxComplete e.1, Event.armTimeout e.1]
  | .amp _ => [Event.enginePageFault e.1, Event.ampExchangeDone e.1 none, Event.ampApplyDone e.1, Event.ampComplete e.1,
      Event.ampStart e.1, Event.deviceExchangeTimeout e.1]
  | .fabric _ => [Event.rfenceFlagWrite e.1, Event.dredContribution e.1, Event.remoteTimeout e.1]

/-- Traffic of the fabric that this module sends to itself, and its completions. -/
def ownTraffic (s : State) : List Event :=
  (s.outbound.filter fun o => o.dest == s.dev).map (fun o => Event.inboundPacket o.packet) ++
    s.completions.map (fun c => Event.remoteCompletion { op := c.op, dev := s.dev } c.status c.data) ++
    (s.contributions.filter fun c => c.1 == s.dev).map fun c => Event.contributionArrival c.2

/-- Traffic at the landings and of the drift regions. -/
def homeEvents (s : State) : List Event :=
  s.stores.zipIdx.map (fun t => Event.storeTakesEffectAtHome t.2) ++ s.sent.zipIdx.map (fun e => Event.landingEntryArrival e.2) ++
    s.messages.map (fun m => Event.holderMessage m.cache m.region) ++
    s.calls.flatMap (fun c => [Event.shareCutCall c.cache c.region, Event.drainCall c.cache c.region, Event.grantReply c.cache c.region]) ++
    s.regions.flatMap (fun r => [Event.grantRequest r.1, Event.ldvRequest r.1]) ++
    (s.landing.filter fun e => !e.inSet).map fun e => Event.landingApply e.addr e.size []

/-- Events of the dispatcher. -/
def dispatchEvents (s : State) (e : Nat × Partition) : List Event :=
  e.2.rings.flatMap (fun q => if q.2.isEmpty then [] else
      [Event.launchAdmission e.1 q.1, Event.openPacket e.1 q.1, Event.closePacket e.1 q.1, Event.cancelPacket e.1 q.1]) ++
    e.2.launches.flatMap fun l =>
      [Event.renameCommit e.1 l.1, Event.frameReturn e.1 l.1, Event.launchCompletion e.1 l.1] ++
        (if placeable s e.1 l.1 l.2 then [Event.blockPlacement e.1 l.1 ((chooseCores e.1 l.1 l.2 (coresFor s e.1 l.2) (nextBlocks l.2) s []).map (·.2))] else [])

/-- Events of cores and dies that time brings. -/
def timedEvents (s : State) : List Event :=
  s.cores.flatMap (fun c => c.2.subs.flatMap fun q => [Event.subarrayWake c.1 q.1, Event.subarrayIdleGating c.1 q.1]) ++
    s.dieSlots.flatMap (fun d => [Event.dredResultWrite d.1, Event.dredDeadline d.1]) ++
    s.holders.map (fun h => Event.refusalExpiry h.cache h.region) ++ s.openPackets.zipIdx.map (fun p => Event.packetIdleTimeout p.2) ++
    (s.dies.filter fun d => d.2.change.isSome).map (fun d => Event.operatingPointSettled d.1) ++
    (List.range Config.dieCount).map (fun d => Event.governorTick d) ++
    (List.range (s.stores.length + s.sent.length)).map (fun i => Event.hostStoreTimeout i) ++
    (List.range (s.outbound.length + s.contributions.length)).map fun i => Event.packetApplyExpiry i

/-- Lines of the write-combining buffers. -/
def drainEvents (s : State) : List Event := s.cores.flatMap fun c => c.2.wcb.zipIdx.map fun l => Event.wcbDrain c.1 l.2

/-- The events that may be due, in the order in which they are tried. -/
def dueEvents (s : State) : List Event :=
  s.groups.flatMap groupEvents ++ s.ops.flatMap opEvents ++ ownTraffic s ++ homeEvents s ++ s.blocks.map (fun b => Event.blockRetire b.1) ++
    s.parts.flatMap (dispatchEvents s) ++ timedEvents s ++ drainEvents s

/-- The first event of a list that can happen, and the state after it. -/
def firstDue (s : State) (es : List Event) : Option State := es.findSome? fun e => runEvent? e s

/-! ## One turn -/

/-- Whether the clock of a die stands still: a trip has stopped it, or its operating point is 0 (R360, R363). -/
def clockStands (s : State) (d : Nat) : Bool := (getDie s d).tripped || (getDie s d).point == 0

/-- The latencies of cores whose clock stands still do not run: what they have still to wait for comes `n` cycles later (R361). -/
def holdLatencies (s : State) (n : Nat) : State :=
  if !((List.range Config.dieCount).any (clockStands s)) then s
  else
    let late := fun (c : Nat) => if s.cycle < c then c + n else c
    { s with
      groups := s.groups.map fun e => if clockStands s (dieOf s e.1) then
          (e.1, { e.2 with inFlight := e.2.inFlight.map fun f => (f.1, { f.2 with due := late f.2.due }) }) else e
      cores := s.cores.map fun c => if clockStands s (dieOfCore c.1) then
          (c.1, { c.2 with subs := c.2.subs.map fun q => (q.1, { q.2 with wakeAt := q.2.wakeAt.map late }) }) else c }

/-- Time passes on the 64-bit counter (log entry 84). A gate.twait whose deadline lies before the cycle that begins has waited in vain: a flip in the
deadline's own cycle would have won (R11, R143). -/
def passTime (s : State) (n : Nat) : State :=
  let s := { holdLatencies s n with cycle := (s.cycle + n) % 2 ^ 64 }
  s.groups.foldl (fun s e => match e.2.status with
    | .blocked (.gateT ..) => (evDeadlineReached e.1 s).getD s
    | _ => s) s

/-- Whether the instruction at which a group waits for a place or an answer would have to wait for it once more. -/
def stalls (s : State) (g : Nat) : Bool :=
  let s := if issueHeld s g then performAcquires s g else s
  issueHeld s g || match fetchRun { s with current := some g } g with
  | .next t => (getGroup t g).status == .waiting
  | _ => false

/-- Ready and Waiting (R10): a group whose next instruction reads a result in flight waits; one whose sources have all come, and the place or
the answer that it waits for, is Ready from now on. -/
def refreshReady (s : State) : State :=
  let here := fun (x : Group) => !(getBlock s x.block).shadow
  { s with groups := s.groups.map fun e => match e.2.status with
    | .ready => if here e.2 && !available s e.1 then (e.1, { e.2 with status := .waiting, stalled := false }) else e
    | .waiting => if here e.2 && !haltReady e.2 && available s e.1 && !(e.2.stalled && stalls s e.1) then
        (e.1, { e.2 with status := .ready, readySince := s.cycle })
      else e
    | _ => e }

/-- The Adeton Link regains its training or loses it: the loads of host pages that are on their way have come by then (R355, log entry 25). -/
def setLink (s : State) (up : Bool) : State :=
  if up || !s.linkUp then { s with linkUp := up }
  else { fixLanded s (fun e => inApertures e.addr) with linkUp := false, linkLost := s.cycle }

/-- One turn of the machine. A turn that names a group lets its issue slot select. -/
def runTurn (t : Turn) (s : State) : Outcome :=
  match t with
  | .issue g dt =>
    let s := passTime s dt
    match selectGroup s (slotGroups s (coreOf s g) (getGroup s g).place) with
    | some g => issueGroup s g
    | none => .next s
  | .event e => .next ((runEvent? e s).getD s)
  | .tick n => .next (passTime s n)
  | .link up => .next (setLink s up)
  | .load p entry gates => .next (modCtx s p false fun c => { c with gates := kput c.gates entry gates })
  | .view v => .next (viewControl s v)
  | .cool d => .next (coolDie s d)
  | .rollback n => .next (advanceRollback s n)

/-- The turn that follows when the schedule names none, the machine as it is. -/
def defaultTurn (s : State) : Outcome :=
  match firstDue s (dueEvents s) with
  | some s => .next s
  | none =>
    match longest s ((kkeys s.groups).filter (selectable s)) with
    | some g => runTurn (.issue g 1) s
    | none => .next (passTime s 1)

/-- After a turn: arrivals whose earlier accesses are performed are applied (R141), and Ready and Waiting are told apart anew (R10). -/
def afterTurn (s : State) : State := refreshReady (applyArrivals s)

/-- One step: the turn at the head of the schedule, which it leaves, else what is due; then what follows from it. -/
def advanceMachine (s : State) : Outcome :=
  match (match s.schedule with
    | t :: rest => runTurn t { s with schedule := rest }
    | [] => defaultTurn s) with
  | .next s => .next (afterTurn s)
  | o => o

/-! ## A program placed from outside (log entry 2) -/

/-- Bytes of an instruction of `nbits` bits, zeros above them up to the longest pair of words. -/
def wordBytes (nbits w : Nat) : List Byte := leBytes 8 (w % 2 ^ nbits)

/-- Physical bytes written one after another. -/
def placeBytes (s : State) (pa : Nat) (bs : List Byte) : State := writeBytes s (((Loc.mem pa).run bs.length).zip bs)

/-- A module in which partition 0 of die 0 runs context 1 with one group whose program lies at virtual address 0x10000, in a page
mapped with R, W and X at module scope. -/
def bootState (s : State) (code : List Byte) : State :=
  let s := writeWord64 (writeWord64 (writeWord64 (writeWord64 s 0x2000 0x4001) 0x4000 0x6001) 0x6000 0x8001) 0x8008 0x1007F
  let s := placeBytes s 0x10000 code
  let s := modPart s 0 fun pt => { pt with formed := true, dies := [0], ctx := { pt.ctx with id := 1, ptroot := 0x2001 } }
  let (b, s) := newId s
  let (g, s) := newId s
  { s with
    blocks := kput s.blocks b { regs := 112, padSize := 4096, tiles := 1 }
    groups := kput s.groups g { block := b, pc := 0x10000 }
    schedule := [.issue g 1] }

/-- The instruction's bytes where the current group fetches next, else a program of its own. -/
def placeInstr (s : State) (nbits w : Nat) : State :=
  match s.current with
  | some g =>
    match fetchHalf s g (getGroup s g).pc.toNat, translate s (spaceOf s g) (getGroup s g).pc.toNat .fetch with
    | (_, .ok _), (_, .ok p) => { placeBytes s p.pa (wordBytes nbits w) with schedule := [.issue g 1] }
    | _, _ => bootState s (wordBytes nbits w)
  | none => bootState s (wordBytes nbits w)

end Sys2Proof.Machine
end

