-- ==== Sys2Proof/Safety.lean ====
section
/-! DEFINITION. What counts as a safe run, in the terms statements use: a step that stops nowhere, what an instruction leaves
unchanged, the record that an exception leaves. -/

namespace Sys2Proof.Machine

/-- A step stops nowhere: it answers a next state. -/
def Goes (o : Outcome) : Prop := ∃ t, o = .next t

/-- Two lists of one length, each item related to the one in its place. -/
def Pairwise2 {α β : Type} (R : α → β → Prop) : List α → List β → Prop
  | [], [] => True
  | a :: as, b :: bs => R a b ∧ Pairwise2 R as bs
  | _, _ => False

/-- A line of a buffer holds only its own bytes, and entries instead of bytes where its page is algebra-enabled (R98, R103). -/
def LineOk (l : WcbLine) : Prop := (∀ b ∈ l.bytes, lineOf b.1 = l.line) ∧ (l.ae = true → l.bytes = []) ∧ (l.ae = false → l.entries = [])

/-- The write-combining buffers hold each line once, in its form (R103). -/
def WcbOk (s : State) : Prop := ∀ c, ((getCore s c).wcb.map (·.line)).Nodup ∧ ∀ l ∈ (getCore s c).wcb, LineOk l

/-- What every step keeps: local memory stays in its canonical form, the write-combining buffers in theirs. -/
def Inv (s : State) : Prop := Memory.wf s.mem = true ∧ WcbOk s

/-- The group that issues its instruction, with its record. -/
def Issues (s : State) (g : Nat) (x : Group) : Prop := s.current = some g ∧ kfind s.groups g = some x

/-- `t` is `s` with the record `y` for group `g`: every byte of memory and of the pads, every other group and everything else that
the module holds is unchanged, but for the model's own counters of free values and keys. -/
structure OnlyGroup (s t : State) (g : Nat) (y : Group) : Prop where
  group : kfind t.groups g = some y
  others : ∀ h, h ≠ g → kfind t.groups h = kfind s.groups h
  bytes : ∀ p, readByte t p = readByte s p
  rest : t = { s with groups := t.groups, fresh := t.fresh, nextId := t.nextId }

/-- Instruction `i`, run in `s`, leaves `s1`, the state in which it acts, as it is, but for the record `y` of group `g`. -/
def LeavesFrom (i : Instr) (s s1 : State) (g : Nat) (y : Group) : Prop := ∃ t, exec i s = .next t ∧ OnlyGroup s1 t g y

/-- Instruction `i` leaves the machine as it is, but for the record `y` of group `g`. -/
def Leaves (i : Instr) (s : State) (g : Nat) (y : Group) : Prop := LeavesFrom i s s g y

/-- The record of a group behind an instruction of `len` bytes that is no member of a latch chain and changes nothing else. -/
def Behind (s : State) (x : Group) (len : Nat) : Group :=
  { x with
    pc := x.pc + BitVec.ofNat 64 len, latch := {}, status := .ready, hostWait := none
    readySince := if x.status = .ready then x.readySince else s.cycle }

/-- The record of a group whose program counter has passed an instruction of `len` bytes, and nothing else. -/
def Past (s : State) (x : Group) (len : Nat) : Group :=
  { x with
    pc := x.pc + BitVec.ofNat 64 len, status := .ready, hostWait := none
    readySince := if x.status = .ready then x.readySince else s.cycle }

/-- An instruction of `len` bytes whose one effect is `v` in uniform register `d`. -/
def SetsUniform (s : State) (x y : Group) (len d : Nat) (v : DWord) : Prop :=
  y.sreg d = v ∧ (∀ r, r ≠ d → y.sreg r = x.sreg r) ∧ y = { Behind s x len with s := y.s }

/-- The vector of the context of a group, in units of 64 bytes (R293). -/
def vectorOf (s : State) (g : Nat) : Nat := bitsOf (ctxOf s g).trapVec 6 50

/-- What taking an exception in `s` leaves in a group's record (R330): the trap record, em, the mode, the chain, the program counter. -/
structure Entered (s : State) (g : Nat) (x y : Group) (num code : Nat) (pc addr vaddr : DWord) (lanes em : Word) : Prop where
  target : y.pc = BitVec.ofNat 64 (64 * vectorOf s g + 64 * num)
  saved : y.trap = {
    pc := pc, addr := addr, vaddr := vaddr, lanes := lanes.setWidth 64, em := x.em.setWidth 64
    cause := BitVec.ofNat 64 (num + 256 * code + (if x.sup then 65536 else 0)) }
  mask : y.em = em
  mode : y.sup = true
  chain : y.latch = {}
  ready : y.status = .ready
  rest : y = { x with
    trap := y.trap, em := y.em, sup := y.sup, latch := y.latch, status := y.status, pc := y.pc
    serving := none :: x.serving, hostWait := none
    readySince := if x.status = .ready then x.readySince else s.cycle }

/-- Instruction `i`, run in `s`, raises an exception before any effect (R329) in the state `s1`, where the group's record is `x`: the
saved program counter is the instruction's own address. -/
def TrapsFrom (i : Instr) (s s1 : State) (g : Nat) (x : Group) (num code : Nat) (vaddr : DWord) (lanes em : Word) : Prop :=
  ∃ y, LeavesFrom i s s1 g y ∧ Entered s1 g x y num code x.pc x.pc vaddr lanes em

/-- The same where nothing else has changed before. -/
def Traps (i : Instr) (s : State) (g : Nat) (x : Group) (num : Nat) (vaddr : DWord) (lanes em : Word) : Prop :=
  TrapsFrom i s s g x num 0 vaddr lanes em

end Sys2Proof.Machine
end

