-- ==== Sys2Proof/Safety/Lanes.lean ====
section
/-! DEFINITION. What the lane instructions compute (R57 to R78), as tables of constructors beside their results, and the common
form of their effect. -/

namespace Sys2Proof.Machine

/-- What a lane instruction names and computes: its length, its destination run of `cnt` units of `unit` registers from `d` on, N, its
lane operands as code and registers, and the result of element `i` in lane `l` from the group's record and the index of the
free values. -/
structure LaneSpec where
  len : Nat := 4
  d : Nat
  unit : Nat := 1
  cnt : Nat := 1
  n : Bool := false
  srcs : List (Nat × Nat)
  result : Group → Nat → Nat → Nat → Res

/-- Whether it reads a latch (R26). -/
def LaneSpec.reads (L : LaneSpec) : Bool := L.srcs.any fun c => isLatchCode c.1

/-- Every register it names lies below the declared count, and its chain has room for another reader (R22, R29). -/
def LaneSpec.Fits (L : LaneSpec) (s : State) (g : Nat) (x : Group) : Prop :=
  declared (blockOf s g).regs (L.d, L.unit * L.cnt) = true ∧ (∀ r ∈ L.srcs, declared (blockOf s g).regs r = true) ∧
    (L.reads = true → x.latch.readers ≠ 32)

/-- The effect of R57 on a group's record: the run in the active lanes, the flags, the latches, the program counter. -/
structure LaneEffect (s : State) (L : LaneSpec) (x y : Group) : Prop where
  low : L.n = false → ∀ i l, i < L.cnt → l < 32 → x.active l = true →
    y.vreg (L.d + L.unit * i) l = (L.result x s.fresh i l).1.setWidth 32
  high : L.n = false → L.unit = 2 → ∀ i l, i < L.cnt → l < 32 → x.active l = true →
    y.vreg (L.d + L.unit * i + 1) l = ((L.result x s.fresh i l).1 >>> 32).setWidth 32
  kept : ∀ r l, l < 32 → (L.n = true ∨ x.active l = false ∨ r < L.d ∨ L.d + L.unit * L.cnt ≤ r) → y.vreg r l = x.vreg r l
  flags : ∀ l b, l < 32 → ((y.flags l).getLsbD b = true ↔ (x.flags l).getLsbD b = true ∨
    x.active l = true ∧ ∃ i < L.cnt, (L.result x s.fresh i l).2.getLsbD b = true)
  chain : y.latch = {
    pushes := (((List.range 32).filter x.active).map (fun l => (l, (L.result x s.fresh 0 l).1.setWidth 32)) ::
      (if L.reads then x.latch.pushes else [])).take 4
    readers := if L.reads then x.latch.readers + 1 else 0
    atEntry := L.reads && x.latch.atEntry }
  rest : y = { Behind s x L.len with v := y.v, fsr := y.fsr, latch := y.latch }

/-- From every state in which it issues with its registers declared, instruction `i` has the effect of `L` and no other. -/
def LaneRuns (i : Instr) (L : LaneSpec) : Prop :=
  ∀ s g x, Issues s g x → L.Fits s g x → ∃ y, Leaves i s g y ∧ LaneEffect s L x y

/-! ## Format A on 32-bit sources -/

abbrev AluCtor := BitVec 7 → BitVec 7 → BitVec 7 → BitVec 2 → Bool → Instr

/-- Two runs of 32-bit sources. -/
def aluSpec (d a b : BitVec 7) (w : BitVec 2) (n : Bool) (op : Word → Word → Res) : LaneSpec :=
  { d := d.toNat, cnt := 2 ^ w.toNat, n := n, srcs := [(a.toNat, 2 ^ w.toNat), (b.toNat, 2 ^ w.toNat)]
    result := fun x fr i l => op (src x fr a.toNat i l) (src x fr b.toNat i l) }

/-- R60, without mad.i32. -/
def intOps : List (AluCtor × (Word → Word → Word)) := [
  (.addI32, fun a b => a + b),
  (.subI32, fun a b => a - b),
  (.mulloI32, fun a b => BitVec.ofNat 32 (a.toNat * b.toNat)),
  (.mulhiI32, fun a b => BitVec.ofInt 32 (a.toInt * b.toInt / 2 ^ 32)),
  (.mulhiN32, fun a b => BitVec.ofNat 32 (a.toNat * b.toNat / 2 ^ 32)),
  (.addsatI32, fun a b => BitVec.ofInt 32 (max (-2 ^ 31) (min (2 ^ 31 - 1) (a.toInt + b.toInt)))),
  (.subsatI32, fun a b => BitVec.ofInt 32 (max (-2 ^ 31) (min (2 ^ 31 - 1) (a.toInt - b.toInt)))),
  (.minI32, fun a b => BitVec.ofInt 32 (min a.toInt b.toInt)),
  (.maxI32, fun a b => BitVec.ofInt 32 (max a.toInt b.toInt)),
  (.minN32, fun a b => BitVec.ofNat 32 (min a.toNat b.toNat)),
  (.maxN32, fun a b => BitVec.ofNat 32 (max a.toNat b.toNat)),
  (.and, fun a b => a &&& b),
  (.or, fun a b => a ||| b),
  (.xor, fun a b => a ^^^ b),
  (.andn, fun a b => a &&& ~~~b),
  (.orn, fun a b => a ||| ~~~b),
  (.absdiffI32, fun a b => BitVec.ofNat 32 (a.toInt - b.toInt).natAbs),
  (.shl, fun a b => if 32 ≤ b.toNat then 0 else a <<< b.toNat),
  (.shr, fun a b => if 32 ≤ b.toNat then 0 else a >>> b.toNat),
  (.sar, fun a b => if 32 ≤ b.toNat then (if a.toInt < 0 then 0xFFFFFFFF else 0) else BitVec.ofInt 32 (a.toInt / 2 ^ b.toNat)),
  (.rot, fun a b => a <<< (b.toNat % 32) ||| a >>> (32 - b.toNat % 32))]

/-- R65 on 32-bit sources, without fma; each operation rounds once. -/
def floatOps : List (AluCtor × (Word → Word → Res)) := [
  (.addF32, fun a b => ofFp (Fp.add Fp.f32 .ne a.toNat b.toNat)),
  (.subF32, fun a b => ofFp (Fp.sub Fp.f32 .ne a.toNat b.toNat)),
  (.mulF32, fun a b => ofFp (Fp.mul Fp.f32 .ne a.toNat b.toNat)),
  (.minF32, fun a b => ofFp (Fp.minMax Fp.f32 false a.toNat b.toNat)),
  (.maxF32, fun a b => ofFp (Fp.minMax Fp.f32 true a.toNat b.toNat)),
  (.addF16x2, fun a b => ofPacked (Fp.packed2 (Fp.add Fp.f16) a b)),
  (.mulF16x2, fun a b => ofPacked (Fp.packed2 (Fp.mul Fp.f16) a b)),
  (.addBf16x2, fun a b => ofPacked (Fp.packed2 (Fp.add Fp.bf16) a b)),
  (.mulBf16x2, fun a b => ofPacked (Fp.packed2 (Fp.mul Fp.bf16) a b))]

/-! ## 64-bit sources (R61, R65) -/

def alu64Spec (d a b : BitVec 7) (w : BitVec 2) (n : Bool) (op : DWord → DWord → Res) : LaneSpec :=
  { d := d.toNat, unit := 2, cnt := 2 ^ w.toNat, n := n, srcs := [(a.toNat, 2 * 2 ^ w.toNat), (b.toNat, 2 * 2 ^ w.toNat)]
    result := fun x _ i l => op (src64 x a.toNat i l) (src64 x b.toNat i l) }

/-- A 64-bit source and a 32-bit count. -/
def shiftSpec (d a b : BitVec 7) (w : BitVec 2) (n : Bool) (op : DWord → Nat → DWord) : LaneSpec :=
  { d := d.toNat, unit := 2, cnt := 2 ^ w.toNat, n := n, srcs := [(a.toNat, 2 * 2 ^ w.toNat), (b.toNat, 2 ^ w.toNat)]
    result := fun x fr i l => (op (src64 x a.toNat i l) (src x fr b.toNat i l).toNat, 0) }

def int64Ops : List (AluCtor × (DWord → DWord → DWord)) := [
  (.addI64, fun a b => a + b),
  (.subI64, fun a b => a - b),
  (.mulI64, fun a b => BitVec.ofNat 64 (a.toNat * b.toNat))]

def shift64Ops : List (AluCtor × (DWord → Nat → DWord)) := [
  (.shlI64, fun a n => if 64 ≤ n then 0 else a <<< n),
  (.shrI64, fun a n => if 64 ≤ n then 0 else a >>> n),
  (.sarI64, fun a n => if 64 ≤ n then (if a.toInt < 0 then -1 else 0) else BitVec.ofInt 64 (a.toInt / 2 ^ n))]

def float64Ops : List (AluCtor × (DWord → DWord → Res)) := [
  (.addF64, fun a b => ofFp (Fp.add Fp.f64 .ne a.toNat b.toNat)),
  (.subF64, fun a b => ofFp (Fp.sub Fp.f64 .ne a.toNat b.toNat)),
  (.mulF64, fun a b => ofFp (Fp.mul Fp.f64 .ne a.toNat b.toNat))]

/-! ## Multiply-add (R32, R60, R65): the addend is D, or C under the addend prefix -/

/-- Three runs of 32-bit sources; under the prefix the pair is 8 bytes long. -/
def maddSpec (c : Option (BitVec 7)) (d a b : BitVec 7) (w : BitVec 2) (n : Bool) (op : Word → Word → Word → Res) : LaneSpec :=
  let e := (c.getD d).toNat
  { len := if c.isSome then 8 else 4, d := d.toNat, cnt := 2 ^ w.toNat, n := n
    srcs := [(a.toNat, 2 ^ w.toNat), (b.toNat, 2 ^ w.toNat), (e, 2 ^ w.toNat)]
    result := fun x fr i l => op (src x fr a.toNat i l) (src x fr b.toNat i l) (src x fr e i l) }

def madd64Spec (c : Option (BitVec 7)) (d a b : BitVec 7) (w : BitVec 2) (n : Bool) (op : DWord → DWord → DWord → Res) : LaneSpec :=
  let e := (c.getD d).toNat
  { len := if c.isSome then 8 else 4, d := d.toNat, unit := 2, cnt := 2 ^ w.toNat, n := n
    srcs := [(a.toNat, 2 * 2 ^ w.toNat), (b.toNat, 2 * 2 ^ w.toNat), (e, 2 * 2 ^ w.toNat)]
    result := fun x _ i l => op (src64 x a.toNat i l) (src64 x b.toNat i l) (src64 x e i l) }

/-- a × b + addend. -/
def maddOps : List (AluCtor × (Word → Word → Word → Res)) := [
  (.madI32, fun a b c => (BitVec.setWidth 64 (BitVec.ofNat 32 (a.toNat * b.toNat + c.toNat)), 0)),
  (.fmaF32, fun a b c => ofFp (Fp.fma Fp.f32 a.toNat b.toNat c.toNat)),
  (.fmaF16x2, fun a b c => ofPacked (Fp.packed3 (Fp.fma Fp.f16) a b c)),
  (.fmaBf16x2, fun a b c => ofPacked (Fp.packed3 (Fp.fma Fp.bf16) a b c))]

def fma64 (a b c : DWord) : Res := ofFp (Fp.fma Fp.f64 a.toNat b.toNat c.toNat)

/-! ## Immediates (R66) -/

/-- A source and a 32-bit immediate. -/
def immSpec (len : Nat) (d a : BitVec 7) (imm : Word) (n : Bool) (op : Word → Word → Res) : LaneSpec :=
  { len := len, d := d.toNat, n := n, srcs := [(a.toNat, 1)], result := fun x fr _ l => op (src x fr a.toNat 0 l) imm }

/-- An integer result in 32 bits, without flags. -/
def word (x : Word) : Res := (x.setWidth 64, 0)

abbrev ImmCtor := BitVec 7 → BitVec 7 → BitVec 8 → Bool → Instr

def immOps : List (ImmCtor × (Word → Word → Res)) := [
  (.addi, fun a i => word (a + i)),
  (.rsbi, fun a i => word (i - a)),
  (.muli, fun a i => word (BitVec.ofNat 32 (a.toNat * i.toNat))),
  (.andi, fun a i => word (a &&& i)),
  (.ori, fun a i => word (a ||| i)),
  (.xori, fun a i => word (a ^^^ i)),
  (.shli, fun a i => word (if 32 ≤ i.toNat then 0 else a <<< i.toNat)),
  (.shri, fun a i => word (if 32 ≤ i.toNat then 0 else a >>> i.toNat)),
  (.sari, fun a i => word (if 32 ≤ i.toNat then (if a.toInt < 0 then 0xFFFFFFFF else 0) else BitVec.ofInt 32 (a.toInt / 2 ^ i.toNat))),
  (.mini, fun a i => word (BitVec.ofInt 32 (min a.toInt i.toInt))),
  (.maxi, fun a i => word (BitVec.ofInt 32 (max a.toInt i.toInt))),
  (.addiF32, fun a i => ofFp (Fp.add Fp.f32 .ne a.toNat i.toNat)),
  (.muliF32, fun a i => ofFp (Fp.mul Fp.f32 .ne a.toNat i.toNat))]

/-- The forms without an A operand: their result is the immediate. -/
def setOps : List (BitVec 7 → BitVec 8 → Bool → Instr) := [.set, .setiF32]

/-! ## One source (R67 to R70) -/

abbrev UnCtor := BitVec 7 → BitVec 7 → BitVec 2 → Bool → Instr

def unSpec (len : Nat) (d : Nat) (a : Nat) (w : Nat) (n : Bool) (op : Word → Res) : LaneSpec :=
  { len := len, d := d, cnt := 2 ^ w, n := n, srcs := [(a, 2 ^ w)], result := fun x fr i l => op (src x fr a i l) }

def un64Spec (d a : BitVec 7) (w : BitVec 2) (n : Bool) (op : DWord → Res) : LaneSpec :=
  { d := d.toNat, unit := 2, cnt := 2 ^ w.toNat, n := n, srcs := [(a.toNat, 2 * 2 ^ w.toNat)]
    result := fun x _ i l => op (src64 x a.toNat i l) }

/-- R67: each result by its definition, bit by bit where the rule gives bits. -/
def unaryIntOps : List (UnCtor × (Word → Word → Prop)) := [
  (.mov, fun a r => r = a),
  (.not, fun a r => ∀ i < 32, r.getLsbD i = !a.getLsbD i),
  (.negI32, fun a r => r = 0 - a),
  (.absI32, fun a r => r = if 0 ≤ a.toInt then a else 0 - a),
  (.popc, fun a r => r.toNat = ((List.range 32).filter fun i => a.getLsbD i).length),
  (.clz, fun a r => r.toNat ≤ 32 ∧ a.toNat < 2 ^ (32 - r.toNat) ∧ (r.toNat < 32 → 2 ^ (31 - r.toNat) ≤ a.toNat)),
  (.ctz, fun a r => r.toNat ≤ 32 ∧ 2 ^ r.toNat ∣ a.toNat ∧ (r.toNat < 32 → a.getLsbD r.toNat = true) ∧ (r.toNat = 32 → a = 0)),
  (.brev, fun a r => ∀ i < 32, r.getLsbD i = a.getLsbD (31 - i)),
  (.bswap, fun a r => ∀ i < 4, r.extractLsb' (8 * i) 8 = a.extractLsb' (8 * (3 - i)) 8)]

/-- The sign operation of R68 on f32 bits: a NaN gives the canonical one, invalid where it signals. -/
def signRes (f : Word → Word) (a : Word) : Res :=
  if a.toNat % 2 ^ 31 ≤ 0x7F800000 then word (f a)
  else (0x7FC00000, if a.getLsbD 22 then 0 else Fp.invalid)

/-- R68 to R70 on f32. -/
def unaryFloatOps : List (UnCtor × (Word → Res)) := [
  (.negF32, signRes fun a => a ^^^ 0x80000000),
  (.absF32, signRes fun a => a &&& 0x7FFFFFFF),
  (.rcpF32, fun a => ofFp (Fp.rcp Fp.f32 a.toNat)),
  (.rsqrtF32, fun a => ofFp (Fp.rsqrt32 a.toNat)),
  (.sqrtF32, fun a => ofFp (Fp.sqrt Fp.f32 a.toNat)),
  (.exp2F32, fun a => ofFp (Fp.exp2f32 a.toNat)),
  (.log2F32, fun a => ofFp (Fp.log2f32 a.toNat)),
  (.sinpiF32, fun a => ofFp (Fp.sinpif32 a.toNat)),
  (.cospiF32, fun a => ofFp (Fp.cospif32 a.toNat)),
  (.tanhF32, fun a => ofFp (Fp.tanhf32 a.toNat)),
  (fun d a w n => .rndF32 d a w 0 n, fun a => ofFp (Fp.roundIntegral Fp.f32 .ne a.toNat)),
  (fun d a w n => .rndF32 d a w 1 n, fun a => ofFp (Fp.roundIntegral Fp.f32 .tz a.toNat)),
  (fun d a w n => .rndF32 d a w 2 n, fun a => ofFp (Fp.roundIntegral Fp.f32 .up a.toNat)),
  (fun d a w n => .rndF32 d a w 3 n, fun a => ofFp (Fp.roundIntegral Fp.f32 .dn a.toNat))]

def unary64Ops : List (UnCtor × (DWord → Res)) := [
  (.rcpF64, fun a => ofFp (Fp.rcp Fp.f64 a.toNat)),
  (.sqrtF64, fun a => ofFp (Fp.sqrt Fp.f64 a.toNat))]

/-! ## Flags, narrow formats, conversion (R54, R71, R72) -/

def fsrGetSpec (d : BitVec 7) (n : Bool) : LaneSpec :=
  { d := d.toNat, n := n, srcs := [], result := fun x _ _ l => word ((x.flags l).setWidth 32) }

/-- Four f32 values into one word. -/
def packSpec (d a : BitVec 7) (n : Bool) (f : BitVec 3) : LaneSpec :=
  { d := d.toNat, n := n, srcs := [(a.toNat, 4)]
    result := fun x fr _ l => ofPacked (Narrow.pack (x.fmtReg f.toNat)
      [src x fr a.toNat 0 l, src x fr a.toNat 1 l, src x fr a.toNat 2 l, src x fr a.toNat 3 l]) }

/-- One word into four f32 values. -/
def unpackSpec (d a : BitVec 7) (n : Bool) (f : BitVec 3) : LaneSpec :=
  { d := d.toNat, cnt := 4, n := n, srcs := [(a.toNat, 1)]
    result := fun x fr i l => ofPacked (Narrow.unpack (x.fmtReg f.toNat) (src x fr a.toNat 0 l) i) }

/-- The 64-bit types of R54: i64, n64, f64. -/
def isWide (t : BitVec 4) : Bool := t == 3 || t == 7 || t == 11

def cvtSpec (d a : BitVec 7) (w : BitVec 2) (y z : BitVec 4) (n : Bool) : LaneSpec :=
  { d := d.toNat, unit := if isWide y then 2 else 1, cnt := 2 ^ w.toNat, n := n
    srcs := [(a.toNat, (if isWide z then 2 else 1) * 2 ^ w.toNat)]
    result := fun x fr i l => convert z.toNat y.toNat
      (if isWide z then src64 x a.toNat i l else (src x fr a.toNat i l).setWidth 64) }

/-! ## Select and exchange (R75, R76) -/

def selSpec (d : BitVec 7) (k : BitVec 3) (a b : BitVec 7) : LaneSpec :=
  { d := d.toNat, srcs := [(a.toNat, 1), (b.toNat, 1)]
    result := fun x fr _ l => word (if (x.kreg k.toNat).getLsbD l then src x fr a.toNat 0 l else src x fr b.toNat 0 l) }

/-- A lane's value of A from the lane that `source` names by the lane and the value of B, its own where that is out of range. -/
def exchangeSpec (d a b : BitVec 7) (source : Nat → Nat → Nat) (inRange : Nat → Nat → Bool) : LaneSpec :=
  { d := d.toNat, srcs := [(a.toNat, 1), (b.toNat, 1)]
    result := fun x fr _ l =>
      let v := (src x fr b.toNat 0 l).toNat
      word (src x fr a.toNat 0 (if inRange l v then source l v else l)) }

def exchangeOps : List ((BitVec 7 → BitVec 7 → BitVec 7 → Instr) × (Nat → Nat → Nat) × (Nat → Nat → Bool)) := [
  (.shfIdx, fun _ b => b, fun _ b => decide (b ≤ 31)),
  (.shfUp, fun l b => l - b, fun l b => decide (b ≤ l)),
  (.shfDown, fun l b => l + b, fun l b => decide (l + b ≤ 31)),
  (.shfXor, fun l b => l ^^^ b, fun _ b => decide (b ≤ 31)),
  (.bcast, fun _ b => b, fun _ b => decide (b ≤ 31))]

/-! ## Compact forms (R33) -/

/-- Each two-address form with its 32-bit equivalent. -/
def compactOps : List ((BitVec 6 → BitVec 5 → Instr) × (Word → Word → Res)) := [
  (.addI32Compact, fun a b => word (a + b)),
  (.subI32Compact, fun a b => word (a - b)),
  (.mulloI32Compact, fun a b => word (BitVec.ofNat 32 (a.toNat * b.toNat))),
  (.andCompact, fun a b => word (a &&& b)),
  (.orCompact, fun a b => word (a ||| b)),
  (.xorCompact, fun a b => word (a ^^^ b)),
  (.shlCompact, fun a b => word (if 32 ≤ b.toNat then 0 else a <<< b.toNat)),
  (.shrCompact, fun a b => word (if 32 ≤ b.toNat then 0 else a >>> b.toNat)),
  (.addF32Compact, fun a b => ofFp (Fp.add Fp.f32 .ne a.toNat b.toNat)),
  (.subF32Compact, fun a b => ofFp (Fp.sub Fp.f32 .ne a.toNat b.toNat)),
  (.mulF32Compact, fun a b => ofFp (Fp.mul Fp.f32 .ne a.toNat b.toNat)),
  (.maxF32Compact, fun a b => ofFp (Fp.minMax Fp.f32 true a.toNat b.toNat)),
  (.minF32Compact, fun a b => ofFp (Fp.minMax Fp.f32 false a.toNat b.toNat))]

/-- A register code of the compact forms: v0 to v27, then h0 to h3. -/
def compactReg (a : BitVec 5) : Nat := if a.toNat < 28 then a.toNat else 112 + (a.toNat - 28)

def compactSpec (d : BitVec 6) (a : BitVec 5) (op : Word → Word → Res) : LaneSpec :=
  { len := 2, d := d.toNat, srcs := [(d.toNat, 1), (compactReg a, 1)]
    result := fun x fr _ l => op (src x fr d.toNat 0 l) (src x fr (compactReg a) 0 l) }

/-! ## Mask results (R73, R77), reductions (R56, R78): no lane register is written -/

/-- A lane instruction that writes the mask register `k` with the lanes of a test, and pushes 1 or 0 (R73, R77). -/
structure MaskEffect (s : State) (srcs : List (Nat × Nat)) (k : Nat) (test : Nat → Bool) (fl : Nat → Fp.Flags) (x y : Group) : Prop where
  bits : ∀ l, l < 32 → (y.kreg k).getLsbD l = (x.active l && test l)
  others : ∀ j, j ≠ k → y.kreg j = x.kreg j
  flags : ∀ l, l < 32 → y.flags l = if x.active l then x.flags l ||| fl l else x.flags l
  chain : y.latch = {
    pushes := (((List.range 32).filter x.active).map (fun l => (l, if test l then (1 : Word) else 0)) ::
      (if srcs.any (fun c => isLatchCode c.1) then x.latch.pushes else [])).take 4
    readers := if srcs.any (fun c => isLatchCode c.1) then x.latch.readers + 1 else 0
    atEntry := srcs.any (fun c => isLatchCode c.1) && x.latch.atEntry }
  rest : y = { Behind s x 4 with k := y.k, fsr := y.fsr, latch := y.latch }

/-- The conditions of R73 on the order of two numbers: less, equal, greater, unordered. -/
def floatCond (c : Nat) (lt eq gt uno : Bool) : Bool :=
  [eq, lt || gt, lt, lt || eq, gt, gt || eq, !uno, uno, uno || eq, uno || lt || gt, uno || lt, uno || lt || eq, uno || gt,
    uno || gt || eq, lt, lt || eq].getD c false

def intCond (c : Nat) (a b : Int) : Bool :=
  [decide (a = b), decide (a ≠ b), decide (a < b), decide (a ≤ b), decide (a > b), decide (a ≥ b)].getD c false

/-- cmp by type code: i32, n32, f32, f64. -/
def cmpTest (t c : Nat) (a b : DWord) : Bool :=
  match t with
  | 0 => intCond c (a.setWidth 32).toInt (b.setWidth 32).toInt
  | 1 => intCond c ((a.setWidth 32).toNat : Int) ((b.setWidth 32).toNat : Int)
  | 2 => float (Fp.decode Fp.f32 (a.toNat % 2 ^ 32)) (Fp.decode Fp.f32 (b.toNat % 2 ^ 32))
  | _ => float (Fp.decode Fp.f64 a.toNat) (Fp.decode Fp.f64 b.toNat)
where float (a b : Fp.Val) : Bool := floatCond c (Fp.ltV a b) (Fp.eqV a b) (Fp.ltV b a) (Fp.isNan a || Fp.isNan b)

/-- The flag of a compare: invalid for a signalling NaN, for lts and les for any NaN. -/
def cmpFlags (t c : Nat) (a b : DWord) : Fp.Flags :=
  match t with
  | 0 | 1 => 0
  | 2 => float (Fp.decode Fp.f32 (a.toNat % 2 ^ 32)) (Fp.decode Fp.f32 (b.toNat % 2 ^ 32))
  | _ => float (Fp.decode Fp.f64 a.toNat) (Fp.decode Fp.f64 b.toNat)
where float (a b : Fp.Val) : Fp.Flags :=
  if (if 14 ≤ c then Fp.isNan a || Fp.isNan b else Fp.isSignalling a || Fp.isSignalling b) then Fp.invalid else 0

/-- The operands of a compare in a lane, in 64 bits. -/
def cmpOperand (x : Group) (fr : Nat) (t : BitVec 2) (a : BitVec 7) (l : Nat) : DWord :=
  if t == 3 then src64 x a.toNat 0 l else (src x fr a.toNat 0 l).setWidth 64

/-- The tree of R56 as a value with its flags: at height `h` from lane `lo` on, both halves combined, an empty half passing the other
through. -/
def laneTree (op : Word → Word → Res) (leaf : Nat → Option Word) : Nat → Nat → Option Word × Fp.Flags
  | 0, lo => (leaf lo, 0)
  | h + 1, lo =>
    let a := laneTree op leaf h lo
    let b := laneTree op leaf h (lo + 2 ^ h)
    match a.1, b.1 with
    | some x, some y => (some ((op x y).1.setWidth 32), a.2 ||| b.2 ||| (op x y).2)
    | some x, none => (some x, a.2 ||| b.2)
    | none, r => (r, a.2 ||| b.2)

/-- The reductions with their combination and the value of no active lane. -/
def reduceOps : List ((BitVec 6 → BitVec 7 → Instr) × (Word → Word → Res) × Word) := [
  (.redAddI32, fun a b => word (a + b), 0),
  (.redAddF32, fun a b => ofFp (Fp.add Fp.f32 .ne a.toNat b.toNat), 0),
  (.redMinI32, fun a b => word (BitVec.ofInt 32 (min a.toInt b.toInt)), 0x7FFFFFFF),
  (.redMinF32, fun a b => ofFp (Fp.minMax Fp.f32 false a.toNat b.toNat), 0x7F800000),
  (.redMaxI32, fun a b => word (BitVec.ofInt 32 (max a.toInt b.toInt)), 0x80000000),
  (.redMaxF32, fun a b => ofFp (Fp.minMax Fp.f32 true a.toNat b.toNat), 0xFF800000)]

/-! ## Divisions (R62) -/

def divOps : List (AluCtor × (Word → Word → Word)) := [
  (.divI32, fun a b => if b = 0 then 0xFFFFFFFF else BitVec.ofInt 32 (a.toInt.tdiv b.toInt)),
  (.divN32, fun a b => if b = 0 then 0xFFFFFFFF else BitVec.ofNat 32 (a.toNat / b.toNat)),
  (.remI32, fun a b => if b = 0 then a else BitVec.ofInt 32 (a.toInt.tmod b.toInt)),
  (.remN32, fun a b => if b = 0 then a else BitVec.ofNat 32 (a.toNat % b.toNat))]

/-! ## The registers that a lane instruction names (R22, R29) -/

/-- A lane instruction with its destination run and its lane operands, each as a code and a count of registers. -/
inductive NamesRegs : Instr → Nat × Nat → List (Nat × Nat) → Prop where
  | two (p : AluCtor) (_ : p ∈ intOps.map Prod.fst ++ floatOps.map Prod.fst) (d a b w n) :
      NamesRegs (p d a b w n) (d.toNat, 2 ^ w.toNat) [(a.toNat, 2 ^ w.toNat), (b.toNat, 2 ^ w.toNat)]
  | two64 (p : AluCtor) (_ : p ∈ int64Ops.map Prod.fst ++ float64Ops.map Prod.fst) (d a b w n) :
      NamesRegs (p d a b w n) (d.toNat, 2 * 2 ^ w.toNat) [(a.toNat, 2 * 2 ^ w.toNat), (b.toNat, 2 * 2 ^ w.toNat)]
  | shift64 (p : AluCtor) (_ : p ∈ shift64Ops.map Prod.fst) (d a b w n) :
      NamesRegs (p d a b w n) (d.toNat, 2 * 2 ^ w.toNat) [(a.toNat, 2 * 2 ^ w.toNat), (b.toNat, 2 ^ w.toNat)]
  | madd (p : AluCtor) (_ : p ∈ maddOps.map Prod.fst) (d a b w n) :
      NamesRegs (p d a b w n) (d.toNat, 2 ^ w.toNat) [(a.toNat, 2 ^ w.toNat), (b.toNat, 2 ^ w.toNat), (d.toNat, 2 ^ w.toNat)]
  | madd64 (d a b w n) : NamesRegs (.fmaF64 d a b w n) (d.toNat, 2 * 2 ^ w.toNat)
      [(a.toNat, 2 * 2 ^ w.toNat), (b.toNat, 2 * 2 ^ w.toNat), (d.toNat, 2 * 2 ^ w.toNat)]
  | division (p : AluCtor) (_ : p ∈ divOps.map Prod.fst) (d a b w n) (_ : isLatchCode a.toNat = false) (_ : isLatchCode b.toNat = false) :
      NamesRegs (p d a b w n) (d.toNat, 2 ^ w.toNat) [(a.toNat, 2 ^ w.toNat), (b.toNat, 2 ^ w.toNat)]
  | imm (p : ImmCtor) (_ : p ∈ immOps.map Prod.fst) (d a i n) : NamesRegs (p d a i n) (d.toNat, 1) [(a.toNat, 1)]
  | set (c) (_ : c ∈ setOps) (d i n) : NamesRegs (c d i n) (d.toNat, 1) []
  | unary (p : UnCtor) (_ : p ∈ unaryIntOps.map Prod.fst ++ unaryFloatOps.map Prod.fst) (d a w n) :
      NamesRegs (p d a w n) (d.toNat, 2 ^ w.toNat) [(a.toNat, 2 ^ w.toNat)]
  | unary64 (p : UnCtor) (_ : p ∈ unary64Ops.map Prod.fst) (d a w n) : NamesRegs (p d a w n) (d.toNat, 2 * 2 ^ w.toNat) [(a.toNat, 2 * 2 ^ w.toNat)]
  | compact (p) (_ : p ∈ compactOps.map Prod.fst) (d : BitVec 6) (a) : NamesRegs (p d a) (d.toNat, 1) [(d.toNat, 1), (compactReg a, 1)]
  | movCompact (d a) : NamesRegs (.movCompact d a) (d.toNat, 1) [(compactReg a, 1)]
  | addiCompact (d i) : NamesRegs (.addiCompact d i) (d.toNat, 1) [(d.toNat, 1)]
  | fsrGet (d n) : NamesRegs (.fsrGet d n) (d.toNat, 1) []
  | fsrClr (d a n) : NamesRegs (.fsrClr d a n) (d.toNat, 1) [(a.toNat, 1)]
  | pack (d a n f) : NamesRegs (.packNx d a n f) (d.toNat, 1) [(a.toNat, 4)]
  | unpack (d a n f) : NamesRegs (.unpackNx d a n f) (d.toNat, 4) [(a.toNat, 1)]
  | cvt (d a w y z n) (_ : y.toNat ≤ 11) (_ : z.toNat ≤ 11) : NamesRegs (.cvt d a w y z n)
      (d.toNat, (if isWide y then 2 else 1) * 2 ^ w.toNat) [(a.toNat, (if isWide z then 2 else 1) * 2 ^ w.toNat)]
  | sel (d k a b) : NamesRegs (.sel d k a b) (d.toNat, 1) [(a.toNat, 1), (b.toNat, 1)]
  | exchange (p) (_ : p ∈ exchangeOps.map Prod.fst) (d a b) : NamesRegs (p d a b) (d.toNat, 1) [(a.toNat, 1), (b.toNat, 1)]
  /-- forms without a lane destination: 124 names no register -/
  | cmp (k a b c t) : NamesRegs (.cmp k a b c t) (124, 1) [(a.toNat, if t == 3 then 2 else 1), (b.toNat, if t == 3 then 2 else 1)]
  | vote (k a) : NamesRegs (.vote k a) (124, 1) [(a.toNat, 1)]
  | reduce (p) (_ : p ∈ reduceOps.map Prod.fst) (d a) : NamesRegs (p d a) (124, 1) [(a.toNat, 1)]

/-! ## Masks (R74) -/

def maskOps2 : List ((BitVec 7 → BitVec 7 → BitVec 7 → Instr) × (Word → Word → Word)) := [
  (.kand, fun a b => a &&& b),
  (.kor, fun a b => a ||| b),
  (.kxor, fun a b => a ^^^ b)]

/-- One source: the result in terms of the source. -/
def maskOps1 : List ((BitVec 7 → BitVec 7 → Instr) × (Word → Word → Prop)) := [
  (.knot, fun a r => ∀ i < 32, r.getLsbD i = !a.getLsbD i),
  (.kmov, fun a r => r = a),
  (.kpop, fun a r => r.toNat = ((List.range 32).filter fun i => a.getLsbD i).length),
  (.kfirst, fun a r => r.toNat ≤ 32 ∧ (∀ i < r.toNat, a.getLsbD i = false) ∧ (r.toNat < 32 → a.getLsbD r.toNat = true))]

/-- A code of the mask space: k0 to k7, em, or the low word of an s register. -/
def maskCode (c : BitVec 7) : Prop := c.toNat ≤ 8 ∨ 64 ≤ c.toNat

def maskValue (x : Group) (c : BitVec 7) : Word :=
  if c.toNat ≤ 7 then x.kreg c.toNat else if c.toNat = 8 then x.em else (x.sreg (c.toNat - 64)).setWidth 32

/-- The one effect of a mask operation: `v` at the place that `d` names. -/
structure MaskWritten (s : State) (x y : Group) (d : BitVec 7) (v : Word) : Prop where
  toMask : d.toNat ≤ 7 → y.kreg d.toNat = v ∧ (∀ j, j ≠ d.toNat → y.kreg j = x.kreg j) ∧ y = { Behind s x 4 with k := y.k }
  toEm : d.toNat = 8 → y = { Behind s x 4 with em := v }
  toUniform : 64 ≤ d.toNat → SetsUniform s x y 4 (d.toNat - 64) (v.setWidth 64)

end Sys2Proof.Machine
end

