-- ==== Sys2Proof/Safety/Memory.lean ====
section
/-! DEFINITION. What the memory instructions do (R83, R94 to R113, R204): conditions on the elements of an access, and what is
unchanged. -/

namespace Sys2Proof.Machine

/-- Every register run lies below the declared count (R22). -/
def MemFits (s : State) (g : Nat) (runs : List (Nat × Nat)) : Prop := ∀ r ∈ runs, declared (blockOf s g).regs r = true

/-- Element `i` of lane `l` of a run of `size`-byte elements from the offset in operand A (R107, R108). -/
def elemOffset (x : Group) (a size i l : Nat) : Nat := (src x 0 a 0 l).toNat + i * size

/-- Register `j` of an element of `size` bytes whose little-endian value is `n` (R107). -/
def loadedReg (size : Nat) (sgn : Bool) (n j : Nat) : Word :=
  if sgn && decide (2 ^ (8 * size - 1) ≤ n) then BitVec.ofNat 32 (2 ^ 32 + n - 2 ^ (8 * size)) else BitVec.ofNat 32 (n / 2 ^ (32 * j))

/-- A size code whose loads extend the sign (R107). -/
def signedSize (sz : BitVec 3) : Bool := sz.toNat = 1 ∨ sz.toNat = 3

/-- Byte `k` of element `i` of a lane's data run: byte k mod 4 of register D + unit × i + k / 4 (R107, R108). -/
def storedByte (x : Group) (d unit i l k : Nat) : Byte := (x.vreg (d + unit * i + k / 4) l).extractLsb' (8 * (k % 4)) 8

/-! ## The failing elements of a check (R109, R330) -/

/-- The lanes of a list of failing elements. -/
def LanesOf (bad : List Elem) (lanes : Word) : Prop := ∀ l < 32, (lanes.getLsbD l = true ↔ ∃ e ∈ bad, e.lane = l)

/-- The lowest failing address of the lowest failing lane. -/
def Lowest (bad : List Elem) (e : Elem) : Prop := e ∈ bad ∧ ∀ f ∈ bad, e.lane < f.lane ∨ (e.lane = f.lane ∧ e.va ≤ f.va)

/-- The trap of a check that some elements fail: those lanes, the lowest address of the lowest of them; em becomes those lanes. -/
def TrapsFor (i : Instr) (s : State) (g : Nat) (x : Group) (num : Nat) (bad : List Elem) : Prop :=
  ∃ e lanes, Lowest bad e ∧ LanesOf bad lanes ∧ Traps i s g x num (BitVec.ofNat 64 e.va) lanes lanes

/-! ## Pads (R94, R108, R109) -/

/-- The elements of a pad access in the active lanes. -/
def padRun (x : Group) (a cnt size : Nat) : List Elem :=
  ((List.range 32).filter x.active).flatMap fun l => (List.range cnt).map fun i =>
    { lane := l, idx := i, va := elemOffset x a size i l, off := elemOffset x a size i l }

/-- Every element is aligned and inside its level, at the places given. -/
structure PadFits (s : State) (x : Group) (lv size : Nat) (es : List Elem) (places : Elem → List Loc) : Prop where
  aligned : ∀ e ∈ es, e.va % size = 0
  inside : ∀ e ∈ es, padPlaces s x.block x.index e.lane lv e.off size = some (places e)

/-- A load of a group meets nothing at some places that stops it: their dies answer, and it sees no poison there. -/
def Readable (s : State) (g : Nat) (ps : List Loc) : Prop := ∀ p ∈ ps, locAnswer s p = .served ∧ poisonSeen s g p = false

/-- A block without the bytes of its pad and slices. -/
def Block.bare (b : Block) : Block := { b with pad := [], padPoison := [], slices := [], slicePoison := [] }

/-- `t` is `s` but for bytes, their poison and the record of group `g`, now `y`. -/
structure OnlyBytes (s t : State) (g : Nat) (y : Group) : Prop where
  group : kfind t.groups g = some y
  others : ∀ h, h ≠ g → kfind t.groups h = kfind s.groups h
  blocks : ∀ b, (kfind t.blocks b).map Block.bare = (kfind s.blocks b).map Block.bare
  rest : t = { s with groups := t.groups, blocks := t.blocks, mem := t.mem, poison := t.poison }

/-- The last byte that a list of writes puts at a place, else what stood there. -/
def lastWrite {α : Type} [DecidableEq α] (ws : List (α × Byte)) (old : α → Byte) (p : α) : Byte :=
  ((ws.reverse.find? fun w => w.1 = p).map (·.2)).getD (old p)

/-- `t` is `s` but for the record of `g`, now `y`, and stores to scratch levels on their way, `new` behind those of before: no byte of
memory and no byte of a pad has changed. -/
structure OnlyPadStores (s t : State) (g : Nat) (y : Group) (new : List Store) : Prop where
  group : kfind t.groups g = some y
  others : ∀ h, h ≠ g → kfind t.groups h = kfind s.groups h
  sends : t.stores = s.stores ++ new
  cores : ∀ c, getCore t c = getCore s c
  rest : t = { s with groups := t.groups, cores := t.cores, stores := t.stores, nextId := t.nextId }

/-- The store of one element to a scratch level, with the bytes `bs` for its places `ps` (R108, R117). -/
structure IsPadStore (s : State) (g : Nat) (ps : List Loc) (bs : List Byte) (n : Store) : Prop where
  bytes : n.pads = ps.zip bs ∧ n.bytes = []
  source : n.core = coreOf s g ∧ n.part = partOf s g ∧ n.groups = [g] ∧ n.since = s.cycle

/-- The writes of a store of elements with their places, lane by lane (R108, R110). -/
def padWrites (x : Group) (d unit size : Nat) (es : List Elem) (places : Elem → List Loc) : List (Loc × Byte) :=
  es.flatMap fun e => (places e).zip ((List.range size).map (storedByte x d unit e.idx e.lane))

/-! ## Global accesses (R83, R105, R108, R109) -/

/-- The elements of a global access in the active lanes. -/
def globalRun (x : Group) (xr a cnt size : Nat) : List Elem :=
  ((List.range 32).filter x.active).flatMap fun l => (List.range cnt).map fun i =>
    { lane := l, idx := i, va := (x.xreg xr).base.toNat + elemOffset x a size i l, off := elemOffset x a size i l }

/-- Items 1 and 2 of R109 hold of every element, every element is located, and `allowed` holds of every page: `s1` is the state
behind the translations. -/
structure Located (s : State) (g xr size : Nat) (acc : Access) (allowed : Phys → Bool) (es : List Elem) (s1 : State)
    (les : List (Elem × Phys)) : Prop where
  aligned : ∀ e ∈ es, e.va % size = 0
  bound : ∀ e ∈ es, e.va + size ≤ 2 ^ 56
  located : locateAll (endChain s g) g xr size acc es = (s1, les.map fun e => (e.1, .ok e.2))
  allow : ∀ e ∈ les, allowed e.2 = true

/-- The state in which a load of some elements is checked: adds that will poison their bytes have reached the landings (R216, R230); where
none is on its way nothing has happened. -/
def metPoison (s : State) (size : Nat) (ps : List Phys) : State := ps.foldl (fun s p => if attrAE p.attr then meetPoison s p.pa size else s) s

/-- The home of every element answers now, and the link where one lies in an aperture. -/
def Answered (s : State) (g : Nat) (ps : List Phys) : Prop :=
  ∀ p ∈ ps, answerFor s p.pa (attrScope p.attr) (dieOf s g) = .served ∧ (inApertures p.pa = true → s.linkUp = true)

/-- No element meets poison. -/
def Clean (s : State) (g size : Nat) (ps : List Phys) : Prop :=
  ∀ p ∈ ps, inEndpoints p.pa = false → ∀ k < size, poisonSeen s g (.mem (p.pa + k)) = false

/-- No entry that a group has sent for some places has still to be applied. -/
def NothingSent (s : State) (g : Nat) (ps : List Loc) : Prop := ∀ e ∈ entriesUnderWay s, e.of g = true → ∀ p ∈ ps, e.covers p = false

/-- Nothing that a group has stored to some places stands in its core's buffer or is on its way, but for entries. -/
def NothingStored (s : State) (g : Nat) (ps : List Loc) : Prop :=
  (∀ l ∈ (getCore s (coreOf s g)).wcb, l.ae = false → l.of g = true → ∀ p ∈ ps, l.holds p = false) ∧
    ∀ t ∈ s.stores, g ∈ t.groups → ∀ p ∈ ps, p ∉ t.places

/-- Nothing that a group has outstanding bears on a store of bytes to some places and of entries to others. -/
structure Apart (s : State) (g : Nat) (plain landed : List Loc) : Prop where
  sent : NothingSent s g plain
  stored : NothingStored s g landed
  disjoint : ∀ p ∈ plain, p ∉ landed
  arrivals : arrivalAt s g (plain ++ landed) = false

/-- An access whose page hands it to a landing (R195). -/
def toLanding (p : Phys) : Bool := attrAE p.attr && !inEndpoints p.pa

/-- The reach behind accesses of a list of pages (R121). -/
def reachOver (r : Nat) (ps : List Phys) : Nat := ps.foldl (fun n p => max n (attrScope p.attr)) r

/-- The results in flight of `y` are those of `x`, but for which of their values may be read anew. -/
def SameFlights (x y : Group) (but : Option Nat) : Prop :=
  ∀ k, some k ≠ but → (kfind y.inFlight k).map (fun e => { e with elems := [] }) = (kfind x.inFlight k).map (fun e => { e with elems := [] })

/-- A store without the groups that made or have seen it; a buffer's line without them. -/
def Store.bare (t : Store) : Store := { t with groups := [] }
def WcbLine.bare (l : WcbLine) : WcbLine := { l with groups := [] }
def CoreSt.bare (c : CoreSt) : CoreSt := { c with wcb := c.wcb.map WcbLine.bare }

/-- `t` is `s` but for the record of `g`, now `y`, what it knows of pages of narrow scope, which stores under way `g` has seen, and the
entries in `sent`. -/
structure OnlyLoads (s t : State) (g : Nat) (y : Group) (sent : List Entry) : Prop where
  group : kfind t.groups g = some y
  others : ∀ h, h ≠ g → kfind t.groups h = kfind s.groups h
  sends : t.sent = s.sent ++ sent
  stores : t.stores.map Store.bare = s.stores.map Store.bare
  cores : ∀ c, (getCore t c).bare = (getCore s c).bare
  rest : t = { s with
    groups := t.groups, fresh := t.fresh, nextId := t.nextId, scopes := t.scopes, sent := t.sent
    stores := t.stores, cores := t.cores }

/-- A group has seen the stores under way to some places: its releases perform them too (R118). -/
def HasSeen (t : State) (g : Nat) (ps : List Loc) : Prop :=
  (∀ l ∈ (getCore t (coreOf t g)).wcb, l.ae = false → (∃ p ∈ ps, l.holds p = true) → l.of g = true) ∧
    ∀ u ∈ t.stores, u.seenBy (coreOf t g) g = true → (∃ p ∈ ps, (u.byteAt p).isSome = true) → g ∈ u.groups

/-- The entry by which an element reaches a landing (R195): its place, size and operator, its context's table, its group. -/
structure IsEntry (s : State) (g : Nat) (p : Phys) (size op : Nat) (e : Entry) : Prop where
  place : e.addr = p.pa ∧ e.size = size
  operator : e.op = op
  context : e.part = partOf s g ∧ e.ctx = (ctxOf s g).id ∧ e.gen = (ctxOf s g).gen ∧ e.table = (ctxOf s g).table
  source : e.groups = [g] ∧ e.core = coreOf s g ∧ e.scope = attrScope p.attr ∧ e.remote = false
  drift : e.drift = isDrift p

/-- The L entries of the elements of a load: one for each word, which brings its value to every element of that word (R110, R195). -/
structure LoadEntries (s : State) (g size : Nat) (les : List (Elem × Phys)) (ret : Elem → Return) (sent : List Entry) : Prop where
  words : (sent.map (·.addr)).Nodup
  each : ∀ n ∈ sent, ∃ e ∈ les, IsEntry s g e.2 size 16 n ∧ n.ret = (les.filter fun f => f.2.pa == n.addr).map fun f => ret f.1
  all : ∀ e ∈ les, ∃ n ∈ sent, n.addr = e.2.pa

/-- The places of some elements. -/
def placesOf (size : Nat) (les : List (Elem × Phys)) : List Loc := les.flatMap fun e => (Loc.mem e.2.pa).run size

/-- The writes of a global store of located elements, lane by lane. -/
def globalWrites (x : Group) (d unit size : Nat) (les : List (Elem × Phys)) : List (Loc × Byte) :=
  les.flatMap fun e => (List.range size).map fun k => (.mem (e.2.pa + k), storedByte x d unit e.1.idx e.1.lane k)

/-- The entries in a core's buffer and on their way to the landings, whenever they left. -/
def towardsLandings (s : State) (core : Nat) : List Entry :=
  ((getCore s core).wcb.flatMap (·.entries) ++ s.sent).map fun e => { e with since := 0 }

/-- `t` is `s` but for the record of `g`, now `y`, stores on their way, the pages of narrow scope, and the entries in `new`, which are in
the buffer of its core or on their way: local memory is as before. -/
structure OnlyStores (s t : State) (g : Nat) (y : Group) (new : List Entry) : Prop where
  group : kfind t.groups g = some y
  others : ∀ h, h ≠ g → kfind t.groups h = kfind s.groups h
  entries : (towardsLandings t (coreOf s g)).Perm (towardsLandings s (coreOf s g) ++ new)
  cores : ∀ c, { getCore t c with wcb := [] } = { getCore s c with wcb := [] } ∧ (c ≠ coreOf s g → (getCore t c).wcb = (getCore s c).wcb)
  stores : ∃ more, t.stores = s.stores ++ more
  rest : t = { s with
    groups := t.groups, cores := t.cores, stores := t.stores, scopes := t.scopes, sent := t.sent
    fresh := t.fresh, nextId := t.nextId }

/-! ## Tables of forms -/

/-- ld, ld.acq, ldnc and the forms of ldv, which loads words: their constructor, whether they acquire (R107, R111, R119). -/
def loadForms : List ((BitVec 7 → BitVec 7 → BitVec 3 → BitVec 3 → BitVec 2 → Instr) × Bool × Bool) := [
  (.ld, false, false), (.ldAcq, true, false), (.ldnc, false, false),
  (fun d a x _ w => .ldv d a x w, false, true), (fun d a x _ w => .ldvAcq d a x w, true, true)]

/-- st and stnc (R107, R111). -/
def storeForms : List (BitVec 7 → BitVec 7 → BitVec 3 → BitVec 3 → BitVec 2 → Instr) := [.st, .stnc]

/-- Every global load and store with the access that its checks make. -/
def globalForms : List ((BitVec 7 → BitVec 7 → BitVec 3 → BitVec 3 → BitVec 2 → Instr) × Access × Bool) :=
  loadForms.map (fun c => (c.1, Access.read, c.2.2)) ++ [(Instr.st, Access.write, false), (Instr.stRel, Access.write, false), (Instr.stnc, Access.write, false)]

/-- The trap of a check that comes after translation (R109): in the state `s1` behind the translations, with the record `x1`. -/
def TrapsBehind (i : Instr) (s s1 : State) (g : Nat) (x1 : Group) (num code : Nat) (bad : List Elem) (e : Elem) : Prop :=
  ∃ lanes, Lowest bad e ∧ LanesOf bad lanes ∧ TrapsFrom i s s1 g x1 num code (BitVec.ofNat 64 e.va) lanes lanes

/-- Why an element was not located: the trap and its code. -/
def failedWith (r : Elem × Except (Nat × Nat) Phys) : Option (Nat × Nat) := match r.2 with
  | .error k => some k
  | .ok _ => none

/-- The value that element `p` of a load gives: the bytes that the group sees, zero from a window (R103, R108, R370). -/
def loadedValue (s : State) (g size : Nat) (p : Phys) : Nat :=
  if inEndpoints p.pa then 0 else leNat ((List.range size).map fun k => seenByte s g (.mem (p.pa + k)))

end Sys2Proof.Machine
end

