-- ==== Sys2Proof/Safety/Algebra.lean ====
section
/-! DEFINITION. What the algebra, drift, gate and wait instructions leave (R128 to R148, R192 to R208, R226 to R229). -/

namespace Sys2Proof.Machine

/-- Nibble (i, j) of an image's crossing table (R192). -/
def imageNibble (bs : List Byte) (i j : Nat) : Nat :=
  let b := ((bs[64 + 9 * i + j / 2]?).getD 0).toNat
  if j % 2 = 0 then b % 16 else b / 16

/-- Descriptor `n` of an image, little-endian (R192). -/
def imageSlot (bs : List Byte) (n : Nat) : Nat :=
  ((bs[4 * n]?).getD 0).toNat + 2 ^ 8 * ((bs[4 * n + 1]?).getD 0).toNat + 2 ^ 16 * ((bs[4 * n + 2]?).getD 0).toNat +
    2 ^ 24 * ((bs[4 * n + 3]?).getD 0).toNat

/-- The checks of R194, item by item. -/
structure ImageOk (bs : List Byte) : Prop where
  slots : ∀ n < 16, slotLegal (BitVec.ofNat 32 (imageSlot bs n)) = true
  zero : ∀ b ∈ bs.drop 226, b = 0
  defined : ∀ i < 18, ∀ j < 18, imageNibble bs i j ≠ 0 → ∀ k, (k = i ∨ k = j) → k < 16 →
    slotV (BitVec.ofNat 32 (imageSlot bs k)) = true
  symmetric : ∀ i < 18, ∀ j < 18, bitAt (imageNibble bs i j) 0 = bitAt (imageNibble bs j i) 0
  merges : ∀ i < 18, ∀ j < 18, bitAt (imageNibble bs i j) 1 = true →
    i = j ∧ i < 16 ∧ slotFn (BitVec.ofNat 32 (imageSlot bs i)) ≠ 1 ∧ slotFn (BitVec.ofNat 32 (imageSlot bs i)) ≠ 9
  absorbs : ∀ i < 18, ∀ j < 18, bitAt (imageNibble bs i j) 2 = true → i ≠ 16 ∧ j ≠ 16
  cancels : ∀ i < 18, ∀ j < 18, bitAt (imageNibble bs i j) 3 = true →
    i = j ∧ i < 16 ∧ slotInv (BitVec.ofNat 32 (imageSlot bs i)) ≠ 0
  det : ∀ i < 16, slotDet (BitVec.ofNat 32 (imageSlot bs i)) = true → bitAt (imageNibble bs i i) 0 = true

/-- The places of the 64-byte parts of an image. -/
def placesOf64 (ps : List Phys) : List Loc := ps.flatMap fun p => (Loc.mem p.pa).run 64

/-- The bytes that a group sees of some pages, 64 from each. -/
def imageBytes (s : State) (g : Nat) (ps : List Phys) : List Byte :=
  ps.flatMap fun p => (List.range 64).map fun k => seenByte s g (.mem (p.pa + k))

/-- A magnitude that dset accepts and the bound it stores: −0 as +0 (R226). -/
def boundStored (b : Word) : Word := if b = 0x80000000 then 0 else b
def boundFits (b : Word) : Prop := b.toNat < 0x7F800000 ∨ b = 0x80000000

/-- tl from a value: its magnitude, a NaN as zero (R229). -/
def toleranceOf (v : Word) : Word := if 0x7F800000 < (v &&& 0x7FFFFFFF).toNat then 0 else v &&& 0x7FFFFFFF

/-- The lowest active lane of a group. -/
def LowestLane (x : Group) (l : Nat) : Prop := l < 32 ∧ x.active l = true ∧ ∀ j < l, x.active j = false

/-- No cache of a core is asking for a grant of a region. -/
def NotAsking (s : State) (core r : Nat) : Prop :=
  ∀ c, (c = CacheId.l1 core ∨ c = CacheId.l2 (dieOfCore core)) → ∀ h, findHolder s c r = some h → ∀ ws, h.state ≠ .asking ws

/-! ## Gates (R132, R133, R136) -/

/-- A gate instruction reaches a gate: its reference names an aligned record inside a pad of the block, not poisoned, on a die that does
not answer with errors. -/
structure GateAt (s : State) (g : Nat) (x : Group) (r : DWord) (p : List Loc) : Prop where
  level : refLvl r ≠ 4 ∧ fld r 34 30 = 0
  aligned : refOff r % 16 = 0
  inside : padPlaces s x.block 0 0 (refLvl r) (refOff r) 16 = some p
  clean : ∀ l ∈ p, isPoisoned s l = false
  answers : ∀ l ∈ p, locAnswer s l ≠ .error

/-- The record of a group behind a gate instruction that changes nothing else. -/
def gatePast (s : State) (x : Group) (r : DWord) : Group := { Past s x 4 with reach := max x.reach (padScope (refLvl r)) }

/-- An arrival is kept for later (R92, R141): behind those of before, at gate `r`, with what it brings; what was outstanding of its group
bears its tag. -/
structure ArrivalKept (s t : State) (g : Nat) (x : Group) (r : DWord) (c bytes : Nat) (exits : Option Nat) (n : Arrival) : Prop where
  last : t.arrivals.getLast? = some n ∧ t.arrivals.length = s.arrivals.length + 1
  source : n.group = g ∧ n.block = x.block ∧ n.groups = [g]
  effect : n.ref = r ∧ n.c = c ∧ n.n = bytes ∧ n.exits = exits
  behind : outstanding s g = true → outstanding t n.tag = true
  bytes : t.mem = s.mem ∧ t.blocks = s.blocks

/-- `t` is `s` but for the 16 bytes of a gate, now `gt`, and the record of group `g`, now `y`. -/
structure GateBecomes (s t : State) (g : Nat) (y : Group) (p : List Loc) (gt : Gate) : Prop where
  only : OnlyBytes s t g y
  gate : readGate t p = gt
  bytes : ∀ l, l ∉ p → readByte t l = readByte s l

/-- The effect of an arrival of `c` participants and `n` bytes on a gate (R136). -/
def arrivedGate (x : Gate) (c n : Nat) : Gate :=
  let u := { x with
    pendArr := x.pendArr - c, pendBytes := x.pendBytes - n
    underflow := x.underflow || decide (x.pendArr < c) || decide (x.pendBytes < n) }
  if u.pendArr = 0 ∧ u.pendBytes = 0 then { u with pendArr := x.expArr, pendBytes := x.expBytes, phase := !x.phase, armed := false } else u

/-! ## Operations of engines (R124) -/

/-- `t` is `s` but for the record of `g`, now `y`, its operations and the model's counters. -/
structure OnlyOps (s t : State) (g : Nat) (y : Group) : Prop where
  group : kfind t.groups g = some y
  others : ∀ h, h ≠ g → kfind t.groups h = kfind s.groups h
  rest : t = { s with groups := t.groups, ops := t.ops, nextId := t.nextId, fresh := t.fresh }

/-- The operations of a class of a group that a wait with threshold `n` covers: all but the `n` youngest (R124). -/
def coveredOps (s : State) (g cls n : Nat) : KMap Op :=
  let os := s.ops.filter fun e => e.2.group == g && e.2.cls == cls
  os.take (os.length - n)

/-- The flags that a group's record holds after a wait covered operations: theirs, in every lane (R53). -/
def FlagsOf (x y : Group) (ops : KMap Op) : Prop :=
  ∀ l < 32, ∀ b, ((y.flags l).getLsbD b = true ↔ (x.flags l).getLsbD b = true ∨ ∃ e ∈ ops, e.2.flags.getLsbD b = true)

end Sys2Proof.Machine
end

