-- ==== Sys2Proof/Safety/Engines.lean ====
section
/-! DEFINITION. What issuing an engine command leaves (R123, R124, R149 to R173, R231 to R239, R258 to R268). -/

namespace Sys2Proof.Machine

/-- The release that the issue of a command is (R118, R123): every earlier access of the group is performed, in state `s2`. -/
def Released (s : State) (g : Nat) (s2 : State) (x2 : Group) : Prop :=
  performAll s g = s2 ∧ outstanding s2 g = false ∧ kfind s2.groups g = some x2

/-- A command of a class may issue: no access of its group is outstanding and the class counts fewer than 63 (R123, R124). -/
def MayIssue (s : State) (g cls : Nat) : Prop := outstanding s g = false ∧ ocOf s g cls < 63

/-- The record of a group that waits to try its instruction again (R10, R124). -/
def Stalled (x : Group) : Group := { x with status := .waiting, stalled := true }

/-- A new operation of a group: its class, whose it is, when it was issued, its state; it is open in every other respect. -/
structure NewOp (s : State) (g : Nat) (x : Group) (o : Op) (cls : Nat) (st : OpState) : Prop where
  cls : o.cls = cls
  owner : o.group = g ∧ o.block = x.block ∧ o.part = partOf s g ∧ o.issued = s.cycle
  state : o.state = st
  context : o.ctx = (ctxOf s g).id ∧ o.gen = (ctxOf s g).gen ∧ o.table = (ctxOf s g).table ∧ o.since = s.cycle
  open_ : o.done = none ∧ o.batch = 0 ∧ o.flags = 0 ∧ o.err = false ∧ o.tmo = false ∧ o.fault = none ∧ o.unmappable = [] ∧ o.saved = false

/-- The operations of `t` are those of `s` and one more, `o` under key `k`. -/
def AddsOp (s t : State) (k : Nat) (o : Op) : Prop :=
  kfind t.ops k = some o ∧ ∀ j, j ≠ k → kfind t.ops j = kfind s.ops j

/-- The record of a group whose ferry command writes its promise (R161, R163). -/
def Promised (x y : Group) (d k n : Nat) : Prop :=
  y = { x with s := y.s, promise := some { op := k, cycle := n }, ferryCount := x.ferryCount + 1 } ∧
    y.sreg d = BitVec.ofNat 64 n ∧ ∀ r, r ≠ d → y.sreg r = x.sreg r

/-- The ferry commands without capture: constructor, kind, and the register of the promise (R155, R158 to R160, R163). -/
def ferryForms : List ((BitVec 6 → BitVec 6 → BitVec 7 → Instr) × FerryKind × (BitVec 6 → Option Nat)) := [
  (fun a b v => .fyCopy a b v false false, .copy, fun _ => none),
  (fun a b v => .fyCopy a b v false true, .copy, fun b => some (b.toNat + 1)),
  (.fyMcast, .mcast, fun _ => none), (.fyGather, .gather, fun _ => none), (.fyFill, .fill, fun _ => none)]

/-- A checked ferry command as it is queued: the generations of its gates are read, an fy.mcast without a gate is accepted by every
rank it names (R137, R160). -/
structure FerryQueued (s : State) (b : Nat) (f q : FerryOp) (captured : Option Nat) : Prop where
  rest : q = { f with tags := q.tags, accepted := q.accepted, captured := captured }
  accepted : q.accepted = if f.kind = .mcast ∧ f.gate = none then f.ranks else []
  tag : f.kind ≠ .mcast → ∀ r, f.gate = some r → ∀ p, gatePlaces s b r = .ok p → kfind q.tags 0 = some (readGate s p).gen
  ungated : f.gate = none → q.tags = []

/-- The promised cycle: the counter, and the clock's factor times 96 and one for each 64 bytes that the core's ferry has to move
(R163). -/
def promisedAt (s : State) (g : Nat) (f : FerryOp) : Nat :=
  s.cycle + clockFactor s (dieOf s g) * (96 + (ferryQueue s (coreOf s g) + f.bytes + 63) / 64)

/-- The matrix commands: constructor and SUB5 (R171). -/
def matrixForms : List ((BitVec 6 → BitVec 6 → Instr) × Nat) := [
  (.mxWload, 0), (.mxStream, 1), (fun _ b => .mxZero b, 2), (.mxRead, 3), (.mxStore, 4), (.mxScale, 5), (.mxArm, 6)]

/-- The amplitude commands that are queued: constructor and SUB5 (R235). -/
def ampForms : List ((BitVec 6 → BitVec 6 → Instr) × Nat) := [
  (.ampGate, 1), (.ampDiag, 2), (fun a _ => .ampSwap a, 3), (.ampProb, 4), (.ampNorm, 5)]

/-- What the issue of a class x command leaves: its operation, and the packets in `out` behind those on their way (R260). -/
structure FabricIssued (s t : State) (g : Nat) (y : Group) (out : List Outbound) : Prop where
  group : kfind t.groups g = some y
  others : ∀ h, h ≠ g → kfind t.groups h = kfind s.groups h
  sends : t.outbound = s.outbound ++ out
  rest : t = { s with groups := t.groups, ops := t.ops, nextId := t.nextId, outbound := t.outbound }

/-- A packet of an operation (R255, R260). -/
def packetOf (s : State) (g k dev : Nat) (body : FabBody) : Outbound :=
  { dest := dev, packet := {
      dev := BitVec.ofNat 18 s.dev, group := g, op := k, issued := s.cycle, context := (ctxOf s g).id
      generation := (ctxOf s g).gen.toNat, body := body } }

/-- The active lanes of a group with their ranks among them, lowest first. -/
def rankedLanes (x : Group) : List (Nat × Nat) := ((List.range 32).filter x.active).zipIdx

end Sys2Proof.Machine
end

