-- ==== Sys2Proof/Safety/Privileged.lean ====
section
/-! DEFINITION. What the privileged instructions read, write and leave (R39, R292 to R304, R312, R347). -/

namespace Sys2Proof.Machine

/-- The instructions that act on a die, any of them with any operation in its operand (R304). -/
inductive IsDieCtl : Instr → BitVec 6 → BitVec 6 → Prop
  | read (d a) : IsDieCtl (.dieCtlRead d a) d a
  | stop (d a) : IsDieCtl (.dieCtlStop d a) d a
  | requeue (d a) : IsDieCtl (.dieCtlRequeue d a) d a
  | quiesce (d a) : IsDieCtl (.dieCtlQuiesce d a) d a
  | writeback (d a) : IsDieCtl (.dieCtlWriteback d a) d a
  | stray (d a) : IsDieCtl (.dieCtlStray d a) d a
  | reset (d a) : IsDieCtl (.dieCtlReset d a) d a
  | readmit (d a) : IsDieCtl (.dieCtlAdmit d a) d a
  | fence (d a) : IsDieCtl (.dieCtlFence d a) d a
  | resume (d a) : IsDieCtl (.dieCtlResume d a) d a

/-- The privileged instructions: major 0x1D, with any operands (R39). -/
inductive IsPrivileged : Instr → Prop
  | sysrd (d r) : IsPrivileged (.sysrd d r)
  | syswr (r a) : IsPrivileged (.syswr r a)
  | tlbInv (a) : IsPrivileged (.tlbInv a)
  | xinval (a) : IsPrivileged (.xinval a)
  | pgmap (d a) : IsPrivileged (.pgmap d a)
  | fret : IsPrivileged .fret
  | wfi (d a) : IsPrivileged (.wfi d a)
  | halt (d a) : IsPrivileged (.halt d a)
  | ctxSwap (d) : IsPrivileged (.ctxSwap d)
  | ctxKill (d) : IsPrivileged (.ctxKill d)
  | dieCtl (i d a) : IsDieCtl i d a → IsPrivileged i

/-- The bits of a register that a write of software stores and a later read gives back (R293). -/
def sysMask (n : Nat) : DWord :=
  if n = 0x002 then 0x13F1F
  else if n = 0x005 ∨ n = 0x006 then 0xFFFFFFFF
  else if n = 0x080 then 0xFFF
  else if n = 0x081 ∨ n = 0x0C1 then 0x3FFFFFFFE001
  else if n = 0x082 then 0x1FF03FF
  else if n = 0x043 ∨ n = 0x083 then 0xFFFFFFFFFFFFC0
  else if n = 0x044 ∨ n = 0x084 then 0x580
  else if n = 0x0C2 then 0x3FFFFFFFF00F
  else if 0x0E0 ≤ n ∧ n ≤ 0x0E7 then 0xFFFF
  else if 0x100 ≤ n ∧ n ≤ 0x13F then 0x8F003FFFFFFFFFFF
  else if 0x200 ≤ n ∧ n ≤ 0x21F then 0x8F003FFFFFFFF000
  else 0xFFFFFFFFFFFFFFFF

/-- What some registers read as (R293): sys.mode, the trap record, the running context, the partition's dies, the module's. -/
def sysReads (s : State) (g : Nat) (x : Group) : List (Nat × DWord) := [
  (0x000, (if x.sup then 1 else 0) + (if x.critical then 2 else 0)),
  (0x001, x.trap.pc), (0x002, x.trap.cause), (0x003, x.trap.addr), (0x004, x.trap.vaddr), (0x005, x.trap.lanes), (0x006, x.trap.em),
  (0x040, BitVec.ofNat 64 (ctxOf s g).id), (0x041, BitVec.ofNat 64 (ctxOf s g).ptroot), (0x042, BitVec.ofNat 64 (ctxOf s g).dpad),
  (0x043, BitVec.ofNat 64 (ctxOf s g).trapVec), (0x045, BitVec.ofNat 64 (ctxOf s g).evt), (0x048, (ctxOf s g).gateStale),
  (0x080, BitVec.ofNat 64 (getPart s (partOf s g)).sh.id),
  (0x0C5, BitVec.ofNat 64 (getPart s (partOf s g)).poolLeft), (0x0C7, (getPart s (partOf s g)).drop),
  (0x300, BitVec.ofNat 64 s.critLimit), (0x302, BitVec.ofNat 64 s.powerCap), (0x3C1, BitVec.ofNat 64 s.dev)]

/-- The state code that an accepted operation leaves, where it sets one (R304, R347). -/
def dieCode : Nat → Option Nat
  | 1 => some 1 | 3 => some 3 | 4 => some 4 | 6 => some 6 | 7 => some 0 | 8 => some 7 | 9 => some 0 | _ => none

/-- The states in which an operation is accepted (R347), `own` where the group runs on the die itself, `empty` where the partition's
shadow slot is empty. -/
def DieTakes (op st : Nat) (own empty : Bool) : Prop :=
  (op = 0) ∨ (op = 1 ∧ st = 0) ∨ (op = 2 ∧ (st = 1 ∨ st = 2) ∧ own = false) ∨ (op = 3 ∧ st = 2 ∧ own = false) ∨
    (op = 4 ∧ st = 3 ∧ own = false) ∨ (op = 5 ∧ st = 4 ∧ own = false) ∨ (op = 6 ∧ st = 4 ∧ own = false ∧ empty = true) ∨
    (op = 7 ∧ st = 6 ∧ own = false) ∨ (op = 8 ∧ st ≠ 0 ∧ own = false) ∨ (op = 9 ∧ (st = 1 ∨ st = 2))

/-- A halt request has reached a group that has neither halted nor exited (R336). -/
def Asked (t : State) (h : Nat) : Prop :=
  ∃ y, kfind t.groups h = some y ∧ (y.haltAsked ≠ none ∨ y.status = .exited ∨ isHalted y = true)

/-- Two context slots hold the same context: its number, its page table, its die-pad share and its vector. -/
def SameSlot (a b : Ctx) : Prop := a.id = b.id ∧ a.ptroot = b.ptroot ∧ a.dpad = b.dpad ∧ a.trapVec = b.trapVec ∧ a.trapEn = b.trapEn

end Sys2Proof.Machine
end

