-- ==== Sys2Proof/Safety/Events.lean ====
section
/-! DEFINITION. What the events without words leave: groups and blocks, memory, engines, the module (R10 to R13, R103, R125, R195,
R255, R304 to R370). -/

namespace Sys2Proof.Machine

/-- An event's row happens: the step answers the state `t`. -/
def Happens (i : Instr) (s t : State) : Prop := exec i s = .next t

/-- Results in flight for uniform register `d` no longer write it (log entry 83). -/
def Overtakes (s : State) (x y : Group) (d : Nat) : Prop :=
  ∀ k, kfind y.inFlight k = (kfind x.inFlight k).map fun e => if k < s.nextId ∧ e.sdst = some d then { e with spassed := true } else e

/-- The record of a blocked group whose instruction completes and writes `v` into uniform register `d`. -/
def CompletesWith (s : State) (x y : Group) (d : Nat) (v : DWord) : Prop :=
  y.sreg d = v ∧ (∀ r, r ≠ d → y.sreg r = x.sreg r) ∧ y = { Past s x 4 with s := y.s, inFlight := y.inFlight } ∧ Overtakes s x y d

/-- Pending traps that have waited for an operation of R332 keep its address `a`. -/
def WaitedAt (a : DWord) (ps qs : List Pending) : Prop := Pairwise2 (fun p q => q = { p with after := some (p.after.getD a) }) ps qs

/-- The event changes nothing but the record of group `g`, now `y`. -/
def EventLeaves (i : Instr) (s : State) (g : Nat) (y : Group) : Prop := ∃ t, Happens i s t ∧ OnlyGroup s t g y

/-- No amplitude operation that may still be performed has some of these bytes in its shards or its record (R250). -/
def Unclaimed (s : State) (l : List Nat) : Prop := ∀ o ∈ s.ops, o.2.claims s l = false

/-- The same whatever the page tables hold meanwhile, for a run of writes. -/
def NeverClaimed (s : State) (l : List Nat) : Prop := ∀ o ∈ s.ops, ∀ m, o.2.claims { s with mem := m } l = false

/-- The last value that a list of writes gives a key. -/
def lastValue {α : Type} (ws : List (Nat × α)) (k : Nat) : Option α := (ws.reverse.find? fun w => w.1 = k).map (·.2)

/-- A group that an asynchronous trap may enter, and a pending trap that is taken first (R331, R335). -/
structure TakesTrap (s : State) (g : Nat) (x : Group) (p : Pending) : Prop where
  found : kfind s.groups g = some x
  point : interruptible s g = true
  runs : dieRuns s (dieOf s g) = true ∧ (blockOf s g).shadow = false
  halts : haltReady x = false
  waits : ∀ w, x.status = .blocked w → w.operation = false
  taken : ∃ rest, takePending s g = some (p, rest)

/-- A block that may leave (R12, R323, R344): its groups have exited, its operations are complete, no packet of it waits, nothing that it
has issued has still to reach its place; where it is being ended a group may stand halted, with what it had in flight come back, and
operations that the halt checkpointed are discarded. -/
structure MayRetire (s : State) (b : Nat) (blk : Block) : Prop where
  found : kfind s.blocks b = some blk
  there : blk.retired = false ∧ blk.shadow = false
  exited : ∀ e ∈ s.groups, e.2.block = b → (getGroup s e.1).status = .exited ∨
    (blk.ending ≠ none ∧ isHalted (getGroup s e.1) = true ∧ groupSettled s e.1 = true)
  done : ∀ e ∈ s.ops, e.2.block = b → e.2.done ≠ none ∨ (blk.ending ≠ none ∧ checkpoints s e.1 e.2 = true)
  packets : packetsWait s b = false
  effects : (∀ a ∈ s.arrivals, a.block ≠ b) ∧ (∀ t ∈ s.stores, ∀ w ∈ t.pads, w.1.inBlock b = false) ∧
    (blk.ending = some .requeued → ∀ e ∈ s.groups, e.2.block = b → outstanding s e.1 = false ∧
      ∀ o ∈ s.outbound, ¬ (o.packet.group = e.1 ∧ o.packet.dev.toNat = s.dev))

/-! ## Memory, landings and drift -/

/-- A record in a partition's error log, or its loss where the log is absent or full (R340). -/
def Logged (s t : State) (p dev addr kind cause : Nat) : Prop :=
  let base := bitsOf (getPart s p).logBase 12 34 * 4096
  let cap := 2 ^ (bitsOf (getPart s p).logBase 0 4 + 7)
  let tail := readWord64 s base
  let full := base = 0 ∨ (tail + 2 ^ 64 - readWord64 s (base + 8)) % 2 ^ 64 = cap
  let words := leBytes 8 dev ++ leBytes 8 addr ++ leBytes 4 kind ++ leBytes 4 cause ++ leBytes 8 s.cycle
  (full → (getPart t p).logLost = (getPart s p).logLost + 1 ∧ t.mem = s.mem) ∧
    (¬ full → (∀ k < 32, some (memRead t.mem (base + 64 + 32 * (tail % cap) + k)) = words[k]?) ∧
      readWord64 t base = (tail + 1) % 2 ^ 64 ∧ bitAt (getPart t p).ctx.evt 1 = true ∧
      ∀ b, (b < base ∨ base + 8 ≤ b) → (b < base + 64 + 32 * (tail % cap) ∨ base + 64 + 32 * (tail % cap) + 32 ≤ b) →
        memRead t.mem b = memRead s.mem b)

/-- No deterministic set is pending at the bytes of an entry, so that it takes its place with nothing else (R202). -/
def NoSetAt (s : State) (e : Entry) : Prop := 0 < e.size ∧ ∀ x ∈ s.landing, x.inSet = true → x.overlaps e = false

/-- An entry as it stands at its landing: in the set of its slot where the slot is DET (R201). -/
def placed (s : State) (e : Entry) : Entry :=
  { e with since := s.cycle, inSet := decide (e.op < 16) && slotDet e.desc && !e.remote }

/-- The first pending entry of a word outside the sets, with its index: nothing older overlaps it, and its home answers. -/
structure FrontEntry (s : State) (addr size i : Nat) (e : Entry) : Prop where
  at_ : s.landing[i]? = some e ∧ e.inSet = false ∧ e.addr = addr ∧ e.size = size
  first : ∀ j < i, ∀ f, s.landing[j]? = some f → f.inSet = false → f.overlaps e = false
  served : answerFor s e.addr e.scope (dieOfCore e.core) = .served

/-- Two entries may take part in a step of R193 (R196): neither in a set nor remote, of one context and one generation tag (R206). -/
structure MayStep (s : State) (i j : Nat) (e f : Entry) : Prop where
  at_ : s.landing[i]? = some e ∧ s.landing[j]? = some f
  step : e.mayStep = true ∧ f.mayStep = true
  context : e.part = f.part ∧ e.ctx = f.ctx ∧ e.gen = f.gen

/-- The block of a place in a core pad or a lane slice is there. -/
def Reachable (s : State) : Loc → Prop
  | .mem _ => True
  | .pad b _ | .slice b _ => (kfind s.blocks b).isSome = true

/-- What one step leaves of the pending entries, where the table of the context permits it (R193, R196). -/
def StepOf (t : AlgTable) (l l' : List Entry) (i j : Nat) (e f : Entry) : LandStep → Prop
  | .swap _ => t.commutes e.op f.op = true ∧ l' = (l.set i f).set j e
  | .merge _ => e.op = f.op ∧ t.composes e.op f.op = true ∧ e.returning = false ∧ f.returning = false ∧
      l' = (l.set i { e with
        operand := (slotMerge e.desc e.operand e.wide f.operand f.wide).1, wide := (slotMerge e.desc e.operand e.wide f.operand f.wide).2
        groups := e.groups ++ f.groups }).eraseIdx j
  | .absorb _ => t.absorbs e.op f.op = true ∧ e.returning = false ∧ l' = l.eraseIdx i
  | .cancel _ => e.op = f.op ∧ t.cancels e.op f.op = true ∧ e.returning = false ∧ f.returning = false ∧ e.wide = f.wide ∧
      f.operand = slotInverse e.desc e.operand e.wide ∧ l' = (l.eraseIdx j).eraseIdx i

/-- A share of B × 2^−k fits beside the shares that a region has granted (R211, R212). -/
def ShareFits (x : Region) (k : Nat) : Prop :=
  magLt (shareVal x.bound 0) (magAdd (magSum (x.slots.map fun e => shareVal x.bound e.2.2)) (shareVal x.bound k)) = false

/-- The largest share of a region: its slot and exponent, the lowest slot on a tie (R212). -/
def LargestShare (x : Region) (slot k : Nat) : Prop :=
  (∃ c, (slot, (c, k)) ∈ x.slots) ∧ ∀ e ∈ x.slots, k ≤ e.2.2

/-- `t` is `s` but for the directory entry of a region, now `x`, and the calls in `out`. -/
def OnlyRegion (s t : State) (r : Nat) (x : Region) (out : List CallTo) : Prop :=
  t = { s with regions := t.regions, calls := s.calls ++ out } ∧ getRegion t r = x ∧ ∀ q, q ≠ r → getRegion t q = getRegion s q

/-- The one call of a sort that is on its way to a cache for a region. -/
def CallAt (s : State) (c : CacheId) (r : Nat) (k : Call) : Prop :=
  ∃ l m, s.calls = l ++ { cache := c, region := r, call := k } :: m ∧ ∀ x ∈ l, ¬ (x.cache = c ∧ x.region = r)

/-- A cache holds a share of a region. -/
def Holds (s : State) (c : CacheId) (r k : Nat) (l : DeltaLine) : Prop :=
  findHolder s c r = some { cache := c, region := r, state := .holding k l }

end Sys2Proof.Machine
end

