-- ==== Sys2Proof/Safety/EngineEvents.lean ====
section
/-! DEFINITION. What the events of the engines leave (R137, R156 to R166, R174 to R189, R238 to R252, R255 to R271). -/

namespace Sys2Proof.Machine

/-- An operation in a state, not complete, with no page fault that holds it, whose engine runs; its block's context is resident, or
the engine goes on without it (R337); it bears the mark of a checkpoint only until it starts (R338). -/
structure Live (s : State) (k : Nat) (o : Op) (st : OpState) : Prop where
  found : kfind s.ops k = some o
  open_ : o.done = none ∧ o.state = st ∧ o.fault = none
  resident : (getBlock s o.block).shadow = false ∨ 2 ≤ o.cls
  runs : engineRuns s (coreOfBlock s o.block) = true
  resumed : st = .queued ∨ st = .ordered ∨ o.saved = false

/-- An operation as it enters a state: how long the link has kept it waiting counts from now on (R355). -/
def Op.enters (o : Op) (s : State) (st : OpState) : Op := { o with state := st, saved := false, since := s.cycle }

/-- Operation `k` becomes `o`, and the others stay. -/
def OpBecomes (s t : State) (k : Nat) (o : Op) : Prop := kfind t.ops k = some o ∧ ∀ j, j ≠ k → kfind t.ops j = kfind s.ops j

/-- Only operation `k` changes: it becomes `o`. -/
def OnlyOp (s t : State) (k : Nat) (o : Op) : Prop := OpBecomes s t k o ∧ t = { s with ops := t.ops }

/-- The status that an operation records (R124). -/
def statusOf (o : Op) : OpStatus := if o.err then .err else if o.tmo then .tmo else .ok

/-- An operation completes with the status it recorded, which its group's class bits take up: both where it recorded both (R124, R186). -/
structure Completes (s t : State) (k : Nat) (o : Op) : Prop where
  op : OpBecomes s t k { o with done := some (statusOf o) }
  status : ∀ x, kfind s.groups o.group = some x → x.status ≠ .exited → ∃ y, kfind t.groups o.group = some y ∧
    y = { x with err := y.err, tmo := y.tmo } ∧ ∀ c < 4,
      (y.err.getLsbD c = (x.err.getLsbD c || (o.err && c == o.cls))) ∧
      (y.tmo.getLsbD c = (x.tmo.getLsbD c || (o.tmo && c == o.cls)))
  others : ∀ h, h ≠ o.group → kfind t.groups h = kfind s.groups h
  rest : t = { s with ops := t.ops, groups := t.groups }

/-- No coll.acc of a group has still to read its tile. -/
def NoUnread (s : State) (g : Nat) : Prop := ∀ e ∈ s.ops, e.2.group = g → e.2.unread = none

/-- A completion goes back to the device that asked, this module or another (R255, R260). -/
def RepliedTo (s t : State) (dev op : Nat) (st : OpStatus) (data : List Byte) : Prop :=
  let c : Completion := { dev := dev, op := op, status := st, data := data }
  t.completions = s.completions ++ (if dev = s.dev then [c] else []) ∧ t.replies = s.replies ++ (if dev = s.dev then [] else [c])

/-! ## The ferry -/

/-- A span of a ferry operation whose destination is a pad or a slice of its own: its elements are read as `v` with the flags `fl`,
and go to the places `pl` (R153, R156). -/
structure Span (s : State) (o : Op) (f : FerryOp) (first n : Nat) (v : Nat → Nat) (fl : Nat → BitVec 5) (pl : Nat → List Loc) : Prop where
  kind : f.kind ≠ .mcast ∧ f.lay.dir ≠ 1 ∧ f.carry = [] ∧ 8 ≤ f.lay.dstBits
  free : f.spanFree first n = true
  pages : ∃ ps, locatePages s o (f.needs first n) f.access = (s, ps, false) ∧ ∀ i, first ≤ i → i < first + n →
    readElement s o f (getGroup s o.group).index ps i = (s, { idx := i, value := v i }, fl i)
  source : f.kind ≠ .fill → f.lay.dir ≠ 0 → ∀ p, padPlaces s o.block (getGroup s o.group).index f.lane (bitsOf f.lay.gb 32 2)
    (bitsOf f.lay.gb 0 32) 1 = some p → placeHeld s p = false
  here : ∀ p, f.padRun s o.block (getGroup s o.group).index 0 f.lay.po 1 = some p → placeHeld s p = false
  places : ∀ i, first ≤ i → i < first + n →
    f.padRun s o.block (getGroup s o.group).index 0 (f.padAt i).1 (cellBytes f.lay.dstBits) = some (pl i)
  clean : ∀ i, first ≤ i → i < first + n → ∀ l ∈ pl i, isPoisoned s l = false ∧ locAnswer s l = .served ∧ ∀ a, l ≠ .mem a ∨ inDiePads a = true
  unclaimed : ∀ i, first ≤ i → i < first + n → NeverClaimed s ((pl i).filterMap Loc.pa)

/-- The bytes of a span, element by element. -/
def spanWrites (f : FerryOp) (first n : Nat) (v : Nat → Nat) (pl : Nat → List Loc) : List (Loc × Byte) :=
  (List.range n).flatMap fun i => (pl (first + i)).zip (leBytes (f.lay.dstBits / 8) (v (first + i)))

/-! ## The matrix engine -/

/-- No other command is at work on the sub-array of a command. -/
def SubFree (s : State) (k : Nat) (o : Op) (m : MatrixOp) : Prop :=
  ∀ i, m.sub = some i → subBusy s (coreOfBlock s o.block) i (fun k' q => k' != k && q.rows != 0) = false

/-- A matrix command that is at work and may perform rows now. -/
structure AtWork (s : State) (k : Nat) (o : Op) (m : MatrixOp) (cmd : Nat) : Prop where
  live : Live s k o .executing
  body : o.body = .matrix m ∧ m.cmd = cmd
  free : SubFree s k o m
  tiles : NoUnread s o.group

/-- Element `c` of row `t` of a tile (R167). -/
def accElem (b : Block) (tile t c : Nat) : Word := kgetD b.acc (2048 * tile + 64 * t + c) 0

/-- Every element of the tiles of a block but those of some rows of one tile is as before. -/
def OtherRows (b b' : Block) (tile lo hi : Nat) : Prop :=
  (∀ i, ¬ (2048 * tile + 64 * lo ≤ i ∧ i < 2048 * tile + 64 * hi) → kgetD b'.acc i 0 = kgetD b.acc i 0) ∧
    ∀ i, ¬ (32 * tile + lo ≤ i ∧ i < 32 * tile + hi) → (i ∈ b'.rowPoison ↔ i ∈ b.rowPoison)

/-- The state of an operation that has performed `n` more of its rows. -/
def rowsOn (s : State) (o : Op) (m : MatrixOp) (n : Nat) (fl : BitVec 5) : Op :=
  let q := { o with flags := o.flags ||| fl, body := .matrix { m with rows := m.rows + n } }
  if m.rows + n = m.count then q.enters s .performed else q

/-- The writes of a store of a tile whose pages lie at `pl` (R180, R181). -/
def tileWrites (s : State) (o : Op) (m : MatrixOp) (pl : Nat → Phys) : List (Nat × Byte) :=
  (List.range m.count).flatMap fun i => (List.range m.outRow).map fun k =>
    let a := m.ref.toNat + i * m.pitch + k
    ((pl (a / 65536)).pa + a % 65536, ((readOutRow s o m i).1[k]?).getD 0)

/-! ## The amplitude engine -/

/-- Where an amplitude stands, its pages lying at `pl` (R233). -/
def ampSite (a : AmpOp) (pl : Nat → Phys) (j : Nat) : Nat := (pl (a.addr j / 65536)).pa + a.addr j % 65536

/-- The bytes of an amplitude as one number, and its two parts (R233). -/
def ampWord (s : State) (a : AmpOp) (pl : Nat → Phys) (j : Nat) : Nat :=
  leNat ((List.range (recSize a.raw)).map fun i => memRead s.mem (ampSite a pl j + i))
def ampPair (s : State) (a : AmpOp) (pl : Nat → Phys) (j : Nat) : Nat × Nat :=
  (ampWord s a pl j % 2 ^ (4 * recSize a.raw), ampWord s a pl j / 2 ^ (4 * recSize a.raw))

/-- Two parts as they are written. -/
def ampCell (a : AmpOp) (v : Nat × Nat) : Nat := (v.1 + v.2 * 2 ^ (4 * recSize a.raw)) % 2 ^ (8 * recSize a.raw)

/-- A page of local memory of module scope, neither algebra-enabled nor touched outside its scope. -/
def PlainPage (s : State) (p : Phys) : Prop :=
  attrR p.attr = true ∧ attrAE p.attr = false ∧ 3 ≤ attrScope p.attr ∧ p.pa % 65536 = 0 ∧
    ∀ i < 65536, inDiePads (p.pa + i) = false ∧ inApertures (p.pa + i) = false ∧ mixed s (p.pa + i) = false

/-- The indices `js` of an operation are mapped at `pl`, in plain pages without poison; amplitudes stand apart from one another, its
engines run, and nothing has stored or is on its way to its shards, wherever its pages lie meanwhile (R250). -/
structure AmpSited (s : State) (o : Op) (a : AmpOp) (js : List Nat) (acc : Access) (pl : Nat → Phys) : Prop where
  pages : ∀ q ∈ a.pagesAt js, ∃ p, engineLocate s o q.1 acc = (s, .at_ p) ∧ p.attr = (pl (q.1 / 65536)).attr ∧
    p.pa = (pl (q.1 / 65536)).pa + q.1 % 65536
  plain : ∀ q ∈ a.pagesAt js, PlainPage s (pl (q.1 / 65536))
  kept : a.spoilt = false
  quiet : ∀ m, storesComing s (o.claimed { s with mem := m } a) = false
  apart : ∀ i ∈ a.here, ∀ j ∈ a.here, i ≠ j → ampSite a pl i + recSize a.raw ≤ ampSite a pl j ∨ ampSite a pl j + recSize a.raw ≤ ampSite a pl i
  aligned : ∀ j ∈ a.here, a.addr j % recSize a.raw = 0
  clean : ∀ j ∈ js, ∀ i < recSize a.raw, isPoisoned s (.mem (ampSite a pl j + i)) = false
  engines : ampEnginesRun s a = true

/-- An exchange of an operation whose shards are sited, the map of its record at `pm`. -/
structure Exchanging (s : State) (k : Nat) (o : Op) (a : AmpOp) (pl : Nat → Phys) (pm : Phys) : Prop where
  live : Live s k o .exchanging
  sited : AmpSited s o a (a.touched true) .write pl
  map : engineLocate s o (a.record.toNat + 80) .write = (s, .at_ pm)
  plain : PlainPage s { pm with pa := pm.pa - (a.record.toNat + 80) % 65536 }
  within : (a.record.toNat + 80) % 65536 ≤ pm.pa
  aligned : a.record.toNat % 64 = 0

/-- An exchange of two bits of the index within this module. -/
def LocalBits (a : AmpOp) (e : Nat × Nat) : Prop := e.1 ≠ e.2 ∧ e.1 < recL a.raw + recD a.raw ∧ e.2 < recL a.raw + recD a.raw

/-- The index at which an amplitude stood before the exchanges of its operation, all of them within this module. -/
def ampFrom (a : AmpOp) (j : Nat) : Nat := a.swaps.foldr (fun e i => swapBits i e.1 e.2) j

/-- An operation that has lost its partner has done its work, with the status that `f` records; what it has begun to exchange is
unspecified (R247). -/
def Loses (s t : State) (k : Nat) (o : Op) (f : Op → Op) : Prop := OpBecomes s t k ((f o).enters s .performed) ∧ t.groups = s.groups

/-- Every byte that belongs to no amplitude of this module is as before. -/
def AmpRest (s t : State) (a : AmpOp) (pl : Nat → Phys) (also : Nat → Prop) : Prop :=
  ∀ b, (∀ j ∈ a.here, b < ampSite a pl j ∨ ampSite a pl j + recSize a.raw ≤ b) → ¬ also b → memRead t.mem b = memRead s.mem b

/-- The targets of a gate lie on bits of a shard, apart from one another and from the controls (R240, R241). -/
structure GateFits (a : AmpOp) : Prop where
  low : ∀ q ∈ a.targets, a.pos q < recL a.raw ∧ ∀ c ∈ controlBits a.controls, a.pos c ≠ a.pos q
  apart : (a.targets.map a.pos).Nodup

/-- An operation that has done its work in place: performed, with more flags. -/
def Worked (s t : State) (k : Nat) (o : Op) : Prop :=
  ∃ fl, OpBecomes s t k ({ o with flags := o.flags ||| fl }.enters s .performed) ∧ t.groups = s.groups

/-! ## The fabric -/

/-- Nothing is pending at the bytes of an access, and no drift region lies there. -/
def Undisturbed (s : State) (a n : Nat) : Prop :=
  (∀ e ∈ s.landing, e.addr + e.size ≤ a ∨ a + n ≤ e.addr) ∧ ∀ r, a / 512 ≤ r → r ≤ max (a / 512) ((a + n - 1) / 512) → kfind s.regions r = none

/-- Nothing of the drift traffic of the region of an address is on its way. -/
def Quiet (s : State) (a : Nat) : Prop := (∀ m ∈ s.messages, m.region ≠ regionOf a) ∧ ∀ c ∈ s.calls, c.region ≠ regionOf a

/-- No byte of a run is one of a page touched outside its scope (R101). -/
def Unmixed (s : State) (a n : Nat) : Prop := ∀ i < n, mixed s (a + i) = false

/-- A packet of another module that is judged now, of 256 bytes at most, in time and for the first time: it closes no packet at a full ring, and no die that
it needs holds requests. -/
def Arrives (s : State) (p : FabPacket) : Prop :=
  p.dev.toNat ≠ s.dev ∧ fabBytes p.body ≤ 256 ∧ packetWaits s p.body = false ∧ s.cycle < p.issued + Config.packetLimit ∧ (p.dev.toNat, p.op, p.issued) ∉ s.handled ∧
    ksorted s.parts = true

/-- A class x operation that waits for one other module. -/
structure AwaitsOne (s : State) (k : Nat) (o : Op) (x : FabricOp) (dev : Nat) : Prop where
  found : kfind s.ops k = some o
  body : o.body = .fabric x ∧ x.waiting = [dev] ∧ x.cmd ≠ 6
  open_ : o.done = none
  other : dev ≠ s.dev

/-- A class x operation has completed at its one device with `st`: the operation is complete, its group's class bits and its results
in flight show it, and a failure is kept for the next rfence.flag (R124, R260, R264). -/
def RemoteDone (s t : State) (k : Nat) (o : Op) (x : FabricOp) (dev : Nat) (st : OpStatus) : Prop :=
  let o' := { o with err := o.err || st == .err, tmo := o.tmo || st == .tmo, body := OpBody.fabric { x with waiting := [] } }
  OpBecomes s t k { o' with done := some (statusOf o') } ∧
    ∀ y, kfind s.groups o.group = some y → y.status ≠ .exited → ∃ z, kfind t.groups o.group = some z ∧
      z = { y with err := z.err, tmo := z.tmo, xFailed := z.xFailed, inFlight := z.inFlight } ∧
      z.xFailed = y.xFailed ++ (if st = .ok then [] else [(dev, k)]) ∧
      (statusOf o' = .err → z.err.getLsbD o.cls = true ∨ 4 ≤ o.cls) ∧ (statusOf o' = .tmo → z.tmo.getLsbD o.cls = true ∨ 4 ≤ o.cls) ∧
      ∀ i, x.slot = some i → ∀ e, kfind z.inFlight i = some e → e.awaiting = 0

end Sys2Proof.Machine
end

