-- ==== Sys2Proof/Safety/SchedEvents.lean ====
section
/-! DEFINITION. What the events of the dispatcher and of the host's side leave (R317 to R328, R341, R346, R354 to R367). -/

namespace Sys2Proof.Machine

/-- A record of a running context of a partition, its launches and its levels. -/
def levelAt (s : State) (p k : Nat) : Option Level := kfind (getPart s p).ctx.levels k
def launchAt (s : State) (p n : Nat) : Option Launch := kfind (getPart s p).launches n

/-- The pages of a signal's address are not algebra-enabled, so that its write lets nothing else happen. -/
def PlainSignal (s : State) (p signal : Nat) : Prop := ∀ e pa, dispatchWalk s p false signal true = some (e, pa) → bitAt e.leaf 13 = false

/-- A signal is written (R323 step 2): one aligned 16-byte access at the page that its address translates to, and no other byte but the
leaf's own word changes; where it translates to no writable page, a record of its loss is appended. -/
def Signalled (s t : State) (p signal status unrun cause : Nat) : Prop :=
  let words := leBytes 4 status ++ leBytes 4 unrun ++ leBytes 8 s.cycle
  (∀ e pa, dispatchWalk s p false signal true = some (e, pa) → bitAt e.leaf 13 = false → addressOk s (pa + 15) true = true →
    (∀ i < 16, some (memRead t.mem (pa + i)) = words[i]?) ∧
      ∀ b, (b < pa ∨ pa + 16 ≤ b) → (b < e.pte ∨ e.pte + 8 ≤ b) → memRead t.mem b = memRead s.mem b) ∧
  ((∀ e pa, dispatchWalk s p false signal true = some (e, pa) → addressOk s (pa + 15) true = false) →
    Logged s t p s.dev signal 3 cause)

/-- A packet leaves its ring, its head. -/
def Popped (s t : State) (p q : Nat) : Prop := kgetD (getPart t p).rings q [] = (kgetD (getPart s p).rings q []).drop 1

/-- A packet is rejected with a status (R320 item 2): by its signal, or by a record where it has none. -/
structure Rejected (s t : State) (p q : Nat) (w : List DWord) (status : Nat) : Prop where
  popped : Popped s t p q
  signal : pkKind w = 0 ∨ pkKind w = 2 → pkSignal w ≠ 0 → pkSignal w % 16 = 0 → Signalled s t p (pkSignal w) status 0 0
  record : ¬ ((pkKind w = 0 ∨ pkKind w = 2) ∧ pkSignal w ≠ 0) → Logged s t p s.dev 0 10 (status + 256 * pkKind w + 65536 * q)
  groups : PlainSignal s p (pkSignal w) → t.groups = s.groups ∧ t.blocks = s.blocks
  launches : (getPart t p).launches = (getPart s p).launches ∧ (getPart t p).ctx.levels = (getPart s p).ctx.levels

/-- Whether a launch packet is admitted as cancelled: a level it is counted in, or its parent, has been (R326). -/
def FromCancelled (s : State) (p : Nat) (w : List DWord) : Prop :=
  (∃ k ∈ launchChain (getPart s p).ctx w, ∃ l, levelAt s p k = some l ∧ l.cancelled = true) ∨
    ∃ m, liveLaunch (getPart s p) (pkParent w) = some m ∧ m.cancelled = true

/-- A launch packet is admitted, with ranges and predecessors (R320 item 3): the next launch number, the counts around it. -/
structure Admitted (s t : State) (p q : Nat) (w : List DWord) (ranges : List Range) (preds : List Nat → Prop) : Prop where
  popped : Popped s t p q
  number : (getPart t p).nextLaunch = (getPart s p).nextLaunch + 1
  launch : ∃ l, l = { packet := w, queue := q, ctx := (getPart s p).ctx.id, ranges := ranges, preds := l.preds, cancelled := l.cancelled } ∧
    preds l.preds ∧ (l.cancelled = true ↔ FromCancelled s p w) ∧
    launchAt t p (getPart s p).nextLaunch = some (if l.cancelled then retireUnrun l else l)
  level : ∀ k l, launchLevel w = some k → levelAt s p k = some l → levelAt t p k = some { l with counter := l.counter + 1 }
  parent : ∀ m, pkParent w ≠ 0 → launchAt s p (pkParent w) = some m → launchAt t p (pkParent w) = some { m with children := m.children + 1 }
  groups : t.groups = s.groups ∧ t.blocks = s.blocks

/-- An incomplete launch of the graph of a packet with a range that meets `r`, one of the two being written (R322). -/
def ConflictsWith (s : State) (p graph : Nat) (r : Range) (m : Nat) : Prop :=
  ∃ l, (m, l) ∈ (getPart s p).launches ∧ l.shadow = false ∧ l.complete = false ∧ pkGraph l.packet = graph ∧
    ∃ q ∈ l.ranges, q.base < r.base + r.len ∧ r.base < q.base + q.len ∧ (q.w = true ∨ r.w = true)

/-- A block that the dispatcher has placed for a packet, and its groups in their entry state (R14, R17, R321). -/
structure PlacedAs (s t : State) (p n number core : Nat) (w : List DWord) (slots : List Nat) : Prop where
  block : ∃ b, kfind t.blocks s.nextId = some b ∧ b = {
    part := p, launch := n, number := number, core := core, span := pkSpan w, regs := pkRegs w, groups := pkGroups w
    padSize := pkPad w, sliceSize := pkSlice w, tiles := pkTiles w, pad := b.pad }
  gates : ∀ d, kgetD (getPart s p).ctx.gates (pkEntry w) [] = [d] → ∀ i < 16,
    some (readByte t (.pad s.nextId (d.off + i))) = (leBytes 4 (d.n * 65536 + d.n) ++ leBytes 8 0 ++ leBytes 4 (if d.exit then 4 else 0))[i]?
  groups : slots.length = pkGroups w ∧ ∀ i < pkGroups w, ∃ x, kfind t.groups (s.nextId + 1 + i) = some x ∧ x.block = s.nextId ∧ x.index = i ∧
    slots[i]? = some x.place ∧ x.pc = BitVec.ofNat 64 (pkEntry w) ∧ x.em = 0xFFFFFFFF ∧ x.sup = false ∧ x.status = .ready ∧
    x.sreg 0 = BitVec.ofNat 64 (pk w 3 0 64) ∧ (∀ r, r ≠ 0 → x.sreg r = 0) ∧
    x.latch = { atEntry := true } ∧ x.seat < 16 ∧
    x = { block := s.nextId, index := i, place := x.place, seat := x.seat, pc := x.pc, s := x.s, latch := x.latch
          lastIssue := s.cycle, readySince := s.cycle }
  others : ∀ k, k < s.nextId → kfind t.blocks k = kfind s.blocks k ∧ kfind t.groups k = kfind s.groups k
  rest : t.mem = s.mem ∧ t.nextId = s.nextId + 1 + pkGroups w

/-- The status of a launch that is over (R320, R325, R326): a kill goes first, then a failure, its own or a predecessor's, then a cancel
that left blocks unrun; a launch whose predecessor was cancelled ends as after a failure. -/
def StatusOf (s : State) (p : Nat) (l : Launch) (st : Nat) : Prop :=
  let failed := l.failed = true ∨ l.predFailed = true ∨ ∃ m ∈ l.preds, ∃ q, launchAt s p m = some q ∧ (q.failed = true ∨ q.predFailed = true)
  (l.killed = true → st = 6) ∧ (l.killed = false → failed → st = 5) ∧
    (l.killed = false → ¬ failed → (l.cancelled = true → st = if l.unrun = 0 then 0 else 4) ∧
      (l.cancelled = false → st = if l.predGone then 5 else 0))

/-- No launch that could place a block on one of some cores goes before launch `n` (R321). -/
def NoRival (s : State) (p n : Nat) (l : Launch) (cores : List Nat) : Prop :=
  ∀ m x, (m, x) ∈ (getPart s p).launches → m ≠ n → placeable s p m x = true → (∃ c ∈ cores, couldPlace s p m x c = true) →
    goesBefore (getPart s p) m x n l = false

/-! ## The host's side -/

/-- `t` is `s` but for the record of die `d`, now `x`. -/
def OnlyDie (s t : State) (d : Nat) (x : Die) : Prop :=
  t = { s with dies := t.dies } ∧ getDie t d = x ∧ ∀ e, e ≠ d → getDie t e = getDie s e

/-- The host is answered, and nothing else changes but the model's own counter of free values. -/
def HostAnswered (s t : State) (r : HostReply) : Prop := t = { s with hostReplies := s.hostReplies ++ [r], fresh := t.fresh }

/-- A host access is refused: an error response, and a record in the management controller (R357). -/
def HostRefused (s t : State) (addr kind : Nat) : Prop :=
  t = { s with hostReplies := s.hostReplies ++ [.error], hostLog := s.hostLog ++ [(addr, kind)] }

/-- A host access that one grant covers with its permission. -/
def Granted (s : State) (addr n : Nat) (write : Bool) : Prop :=
  ∃ e ∈ s.grants, (if write then e.2.w else e.2.r) = true ∧ e.2.base ≤ addr ∧ addr + n ≤ e.2.base + e.2.size

/-- An address that the host may read and write through a grant. -/
def HostReaches (a n : Nat) : Prop := ∀ i < n, inHbm (a + i) = true ∨ inDiePads (a + i) = true

/-- A partition without a resident group and with an empty shadow slot (R358). -/
def HostIdle (s : State) (p : Nat) : Prop :=
  (getPart s p).sh.empty = true ∧ ∀ e ∈ s.groups, (getBlock s e.2.block).part ≠ p

/-- What the host's write of a register leaves in it, for some registers of a partition (R293, R358). -/
def HostSets (t : State) (p : Nat) (v : DWord) : List (Nat × Prop) :=
  let pt := getPart t p
  [(0x040, pt.ctx.id = v.toNat % 4096), (0x041, pt.ctx.ptroot = (v &&& 0x3FFFFFFFE001).toNat),
    (0x042, pt.ctx.dpad = (v &&& 0x1FF03FF).toNat), (0x043, pt.ctx.trapVec = (v &&& 0xFFFFFFFFFFFFC0).toNat),
    (0x0C1, pt.ingress = (v &&& 0x3FFFFFFFE001).toNat), (0x0C2, pt.logBase = (v &&& 0x3FFFFFFFF00F).toNat),
    (0x0C4, pt.poolHead = v.toNat), (0x0C5, pt.poolLeft = v.toNat),
    (0x100, kgetD pt.lq 0 0 = (v &&& 0x8F003FFFFFFFFFFF).toNat), (0x200, kgetD pt.mp 0 0 = (v &&& 0x8F003FFFFFFFF000).toNat)]

/-- A registered write of a setting of the module answers the host, and changes what `f` names alone. -/
def Sets (i : Instr) (s : State) (f : State → State) : Prop := ∃ t, Happens i s t ∧ t = f { s with hostReplies := s.hostReplies ++ [.done] }

/-- The record of an uncorrectable error (R341), and the state behind it. -/
def ErrorLogged (s s1 : State) (site : ErrSite) : Prop :=
  Logged s s1 (sitePart s site) s.dev (ErrSite.addr site) 5 (ErrSite.array site) ∧
    s1 = { s with mem := s1.mem, poison := s1.poison, parts := s1.parts }

end Sys2Proof.Machine
end

