-- ==== Sys2Proof/Safety/Runs.lean ====
section
/-! DEFINITION. What a turn that issues fetches and runs (R18, R327, R369), and words of instructions (R19, R20). -/

namespace Sys2Proof.Machine

/-- A turn of the schedule by which the slot of group `g` selects group `h`, now `x`, in `s0`, the state in which its cycles have
passed: no halt and no trap goes first, what it reads is available, and it waits for no acquire and no arrival; `s1` is the state in which it fetches. -/
structure Selected (s : State) (g dt : Nat) (rest : List Turn) (h : Nat) (x : Group) (s0 s1 : State) : Prop where
  turn : s.schedule = .issue g dt :: rest
  passed : passTime { s with schedule := rest } dt = s0
  chosen : selectGroup s0 (slotGroups s0 (coreOf s0 g) (getGroup s0 g).place) = some h
  found : kfind s0.groups h = some x
  quiet : haltReady x = false ∧ takePending s0 h = none
  ready : available s0 h = true ∧ issueHeld s0 h = false
  fetching : s1 = { s0 with current := some h, groups := kmodify s0.groups h fun y => { y with lastIssue := s0.cycle } }

/-- What a step adds behind the instruction that group `h` issues in `s0`: results in flight leave alone what it has written (log entry
83), arrivals that have waited are applied (R141), and the groups are Ready or Waiting anew (R10). -/
def issued (s0 : State) (h : Nat) : Outcome → Outcome
  | .next t => .next (afterTurn (passIssued s0 t h))
  | o => o

/-- The byte at a place of instruction memory. -/
def codeByte (s : State) (p : Phys) (i : Nat) : Byte := memRead s.mem (p.pa + i)

/-- A page from which two bytes at `va` are fetched, its translation known and without poison. -/
structure Fetches (s : State) (h va : Nat) (p : Phys) : Prop where
  translated : translate s (spaceOf s h) va .fetch 2 = (s, .ok p)
  clean : isPoisoned s (.mem p.pa) = false
  wide : 3 ≤ attrScope p.attr

/-- Some instructions beside the words that the encoding tables give them. -/
def knownWords : List (Nat × Instr) := [
  (0x3A810201, .addI32 1 1 117 0 false), (0x035F4099, .muli 1 125 3 false), (0x0281221F, .cmp 1 1 5 2 0), (0xFE029261, .redAddF32 9 2),
  (0x00088921, .kmov 68 8), (0x0902061D, .rcpF32 3 2 0 false), (0xFFFF56A5, .bnz (-6) 5), (0x000803E5, .call 64 7), (0x00001BA5, .ret 7),
  (0xA014003D, .trap 5), (0x2100003D, .brk), (0x2300703D, .sleepUntil 7), (0xA8000063, .sid 1 0), (0x2B00C0A3, .fmtSet 2 12),
  (0x80000023, .sadd 0 0 0 true), (0x0000037F, .addendPrefix 3), (0x8000607D, .xset 1 6), (0x10820627, .ld 3 2 1 4 0),
  (0x10820629, .st 3 2 1 4 0), (0x3082022B, .stp 1 2 4 1 0), (0x00308031, .gateInit 8 12), (0x00288131, .gateArrive 8 10),
  (0x802882B1, .gateTestM 8 5), (0x00000431, .critOn)]

end Sys2Proof.Machine
end

