-- ==== Sys2Proof/Safety/Transcendentals.lean ====
section
/-! DEFINITION. Roots and transcendental functions (R69): special operands, exact results, error bounds. -/

namespace Sys2Proof.Machine

/-- The value of a finite f32. -/
def f32Value (w : Word) : Option ℚ := match Fp.decode Fp.f32 w.toNat with
  | .fin s m e => some ((if s then -1 else 1) * m * 2 ^ e)
  | _ => none

/-- Operands of R69 with the result and the flags that the table gives them. -/
def specialOperands : List ((Nat → Nat × Fp.Flags) × Nat × Nat × Fp.Flags) := [
  (Fp.rcp Fp.f32, 0, 0x7F800000, Fp.divByZero), (Fp.rcp Fp.f32, 0x80000000, 0xFF800000, Fp.divByZero),
  (Fp.rcp Fp.f32, 0x7F800000, 0, 0), (Fp.rcp Fp.f32, 0xFF800000, 0x80000000, 0),
  (Fp.rcp Fp.f64, 0, 0x7FF0000000000000, Fp.divByZero), (Fp.rcp Fp.f64, 0x8000000000000000, 0xFFF0000000000000, Fp.divByZero),
  (Fp.rcp Fp.f64, 0x7FF0000000000000, 0, 0), (Fp.rcp Fp.f64, 0xFFF0000000000000, 0x8000000000000000, 0),
  (Fp.rsqrt32, 0, 0x7F800000, Fp.divByZero), (Fp.rsqrt32, 0x80000000, 0xFF800000, Fp.divByZero),
  (Fp.rsqrt32, 0x7F800000, 0, 0), (Fp.rsqrt32, 0xFF800000, 0x7FC00000, Fp.invalid),
  (Fp.sqrt Fp.f32, 0x80000000, 0x80000000, 0), (Fp.sqrt Fp.f32, 0x7F800000, 0x7F800000, 0), (Fp.sqrt Fp.f32, 0xFF800000, 0x7FC00000, Fp.invalid),
  (Fp.sqrt Fp.f64, 0x8000000000000000, 0x8000000000000000, 0), (Fp.sqrt Fp.f64, 0x7FF0000000000000, 0x7FF0000000000000, 0),
  (Fp.sqrt Fp.f64, 0xFFF0000000000000, 0x7FF8000000000000, Fp.invalid),
  (Fp.exp2f32, 0xFF800000, 0, 0), (Fp.exp2f32, 0x7F800000, 0x7F800000, 0),
  (Fp.log2f32, 0, 0xFF800000, Fp.divByZero), (Fp.log2f32, 0x80000000, 0xFF800000, Fp.divByZero),
  (Fp.log2f32, 0x7F800000, 0x7F800000, 0), (Fp.log2f32, 0xFF800000, 0x7FC00000, Fp.invalid),
  (Fp.sinpif32, 0x7F800000, 0x7FC00000, Fp.invalid), (Fp.sinpif32, 0xFF800000, 0x7FC00000, Fp.invalid),
  (Fp.cospif32, 0x7F800000, 0x7FC00000, Fp.invalid), (Fp.cospif32, 0xFF800000, 0x7FC00000, Fp.invalid),
  (Fp.tanhf32, 0, 0, 0), (Fp.tanhf32, 0x80000000, 0x80000000, 0), (Fp.tanhf32, 0x7F800000, 0x3F800000, 0), (Fp.tanhf32, 0xFF800000, 0xBF800000, 0)]

/-- The functions of R69 on f32. -/
def tableFunctions : List (Nat → Nat × Fp.Flags) :=
  [Fp.rcp Fp.f32, Fp.rsqrt32, Fp.sqrt Fp.f32, Fp.exp2f32, Fp.log2f32, Fp.sinpif32, Fp.cospif32, Fp.tanhf32]

/-- A result is the value `v`, without flags. -/
def ExactResult (r : Nat × Fp.Flags) (v : ℚ) : Prop := f32Value (BitVec.ofNat 32 r.1) = some v ∧ r.2 = 0
/-- A result differs from the exact one (R69): inexact is set. -/
def InexactResult (r : Nat × Fp.Flags) : Prop := r.2 &&& Fp.inexact ≠ 0

/-- −1 to the power of an integer. -/
def signOf (n : ℤ) : ℚ := if n % 2 = 0 then 1 else -1

/-- The finite operands of R69 whose results the table gives exactly, and that all others are inexact; those without a value are NaN. -/
structure ExactCases (x : Nat) (v : ℚ) : Prop where
  negative : v < 0 → ∀ f ∈ [Fp.rsqrt32, Fp.sqrt Fp.f32, Fp.log2f32], f x = (0x7FC00000, Fp.invalid)
  rsqrt : ∀ k : ℤ, v = 2 ^ (2 * k) → ExactResult (Fp.rsqrt32 x) (2 ^ (-k))
  rsqrtElse : 0 < v → (∀ k : ℤ, v ≠ 2 ^ (2 * k)) → InexactResult (Fp.rsqrt32 x)
  exp2Over : 128 ≤ v → Fp.exp2f32 x = (0x7F800000, Fp.overflow ||| Fp.inexact)
  exp2 : ∀ k : ℤ, v = k → -149 ≤ k → k ≤ 127 → ExactResult (Fp.exp2f32 x) (2 ^ k)
  exp2Else : v < 128 → (∀ k : ℤ, -149 ≤ k → v ≠ k) → InexactResult (Fp.exp2f32 x)
  log2 : ∀ k : ℤ, v = 2 ^ k → ExactResult (Fp.log2f32 x) k
  log2Else : 0 < v → (∀ k : ℤ, v ≠ 2 ^ k) → InexactResult (Fp.log2f32 x)
  sinpi : ∀ n : ℤ, v = n → Fp.sinpif32 x = (if 2 ^ 31 ≤ x then 2 ^ 31 else 0, 0)
  sinpiHalf : ∀ n : ℤ, v = n + 1 / 2 → ExactResult (Fp.sinpif32 x) (signOf n)
  sinpiElse : (∀ n : ℤ, 2 * v ≠ n) → InexactResult (Fp.sinpif32 x)
  cospi : ∀ n : ℤ, v = n → ExactResult (Fp.cospif32 x) (signOf n)
  cospiHalf : ∀ n : ℤ, v = n + 1 / 2 → Fp.cospif32 x = (0, 0)
  cospiElse : (∀ n : ℤ, 2 * v ≠ n) → InexactResult (Fp.cospif32 x)
  tanhElse : v ≠ 0 → InexactResult (Fp.tanhf32 x)

/-- The spacing of f32 values at a real number (R69). -/
def UlpAt (y u : ℝ) : Prop := ∃ k : ℤ, u = 2 ^ k ∧
  ((k = -149 ∧ |y| < 2 ^ (-126 : ℤ)) ∨ (-149 ≤ k ∧ 2 ^ (k + 23) ≤ |y| ∧ |y| < 2 ^ (k + 24)))

/-- A result is finite and no further than `n` ulp from the exact value. -/
def Near (r : Nat × Fp.Flags) (y : ℝ) (n : ℝ) : Prop :=
  ∃ v u, f32Value (BitVec.ofNat 32 r.1) = some v ∧ UlpAt y u ∧ |(v : ℝ) - y| ≤ n * u

/-- The error bounds of R69 at a finite operand. -/
structure WithinBounds (x : Nat) (v : ℚ) : Prop where
  rsqrt : 0 < v → Near (Fp.rsqrt32 x) (1 / √(v : ℝ)) 1
  exp2 : v < 128 → Near (Fp.exp2f32 x) ((2 : ℝ) ^ (v : ℝ)) 2
  log2 : 0 < v → (v < 1 / 2 ∨ 2 < v) → Near (Fp.log2f32 x) (Real.logb 2 v) 2
  log2Near : 1 / 2 ≤ v → v ≤ 2 → ∃ w, f32Value (BitVec.ofNat 32 (Fp.log2f32 x).1) = some w ∧ |(w : ℝ) - Real.logb 2 v| ≤ 2 ^ (-22 : ℤ)
  sinpi : Near (Fp.sinpif32 x) (Real.sin (Real.pi * v)) 2
  cospi : Near (Fp.cospif32 x) (Real.cos (Real.pi * v)) 2
  tanh : Near (Fp.tanhf32 x) (Real.tanh v) 2

end Sys2Proof.Machine
end

