-- ==== Sys2Proof/Safety/Translation.lean ====
section
/-! DEFINITION. Where a translated address lies, and what translating it changes (R104 to R106, R305 to R310). -/

namespace Sys2Proof.Machine

/-- What a walk of the page table gives for an address, behind what the group has sent to the entries (R309): a leaf with log2 of its
page, or why there is none (R313). -/
def walkedLeaf (s : State) (sp : Space) (va : Nat) : Except Nat (Nat × Nat) :=
  match walkRoot (settleRoot s sp.group sp.root va) sp.root va with
  | .leaf level _ e => .ok (e, levelShift level)
  | .stop kind _ _ _ => .error kind

/-- The entry word of a held leaf still has V, LF and the same FRAME (R310). -/
def Standing (s : State) (sp : Space) (t : TlbEntry) : Prop :=
  let w := readWord64 (settleWord s sp.group t.pte) t.pte
  w.testBit 0 = true ∧ w.testBit 1 = true ∧ w / 2 ^ 16 % 2 ^ 30 = t.leaf / 2 ^ 16 % 2 ^ 30

/-- The leaf that a translation of `va` uses, with log2 of its page, or the fault kind (R308 to R310): the one that the core's L1 TLB holds,
else its die's L2 TLB, else the table gives. Where a bit of its entry is to be set, as `sets` says of a leaf in the L1 TLB, a leaf that no
longer stands in the table is discarded, and the table gives another. -/
inductive LeafOf (s : State) (sp : Space) (va : Nat) (sets : Nat → Bool) : Except Nat (Nat × Nat) → Prop where
  | held (t : TlbEntry) : tlbFind (getCore s sp.core).tlb va = some t → (sets t.leaf = true → Standing s sp t) →
      LeafOf s sp va sets (.ok (t.leaf, t.shift))
  | taken (t : TlbEntry) : tlbFind (getCore s sp.core).tlb va = none → tlbFind (getDie s (dieOfCore sp.core)).tlb va = some t →
      Standing s sp t → LeafOf s sp va sets (.ok (t.leaf, t.shift))
  | stale (t : TlbEntry) : (tlbFind (getCore s sp.core).tlb va = some t ∧ sets t.leaf = true) ∨
        (tlbFind (getCore s sp.core).tlb va = none ∧ tlbFind (getDie s (dieOfCore sp.core)).tlb va = some t) →
      ¬ Standing s sp t → LeafOf s sp va sets (walkedLeaf (tlbDiscard (settleWord s sp.group t.pte) sp.core va) sp va)
  | walked : tlbFind (getCore s sp.core).tlb va = none → tlbFind (getDie s (dieOfCore sp.core)).tlb va = none →
      LeafOf s sp va sets (walkedLeaf s sp va)

/-- The word of a page table entry that a translation of `va` may change: of a leaf that a TLB holds for it, or that a walk finds. -/
def LeafWord (s : State) (sp : Space) (va pte : Nat) : Prop :=
  (∃ t, (tlbFind (getCore s sp.core).tlb va = some t ∨ tlbFind (getDie s (dieOfCore sp.core)).tlb va = some t) ∧ t.pte = pte) ∨
    ∃ level e, walkRoot s sp.root va = .leaf level pte e

/-- A byte of memory before and behind a translation of `va`: it is as before, or it is the one that holds A and D in the word of the leaf,
with A set, or D too for a write (R310). -/
def BitsSet (s : State) (sp : Space) (va : Nat) (acc : Access) (a : Nat) (old new : Byte) : Prop :=
  new = old ∨ ((∃ pte, a = pte + 5 ∧ LeafWord s sp va pte) ∧
    (new = old ||| 0x40 ∨ (acc = .write ∧ (new = old ||| 0x80 ∨ new = old ||| 0xC0))))

/-- Bit `b` of a number as 0 or 1. -/
def bitNum (n b : Nat) : Nat := n / 2 ^ b % 2

/-- The attributes of a leaf entry as xget gives them (R106, R306): scope, policy, R, W, D, AE, DE, WAY. -/
def attributesOf (e : Nat) : Nat :=
  e / 2 ^ 5 % 8 + 2 ^ 3 * (e / 2 ^ 8 % 4) + 2 ^ 5 * bitNum e 2 + 2 ^ 6 * bitNum e 3 + 2 ^ 7 * bitNum e 47 + 2 ^ 8 * bitNum e 13 +
    2 ^ 9 * bitNum e 14 + 2 ^ 10 * (e / 2 ^ 10 % 8)

/-- The address of the frame of a leaf of a page of 2^sh bytes: FRAME, with the bits below the page size zero (R306). -/
def frameOf (e sh : Nat) : Nat := e % 2 ^ 46 / 2 ^ sh * 2 ^ sh

/-- set_x of R106 for a base, a cap that is not 0 and the leaf that was found: a launch that sees the page in a frame of its own uses that
(R322). -/
def registerFor (v : DWord) (cap : Nat) (renamed : Option Nat) : Except Nat (Nat × Nat) → XReg
  | .error _ => { base := v }
  | .ok (e, sh) =>
    if e.testBit 2 = true ∨ e.testBit 3 = true then
      let shift := if renamed.isSome then 16 else sh
      let off := v.toNat % 2 ^ shift
      { base := v, frame := renamed.getD (frameOf e sh) + off, limit := min cap (min (2 ^ 32) (2 ^ shift - off)), attr := attributesOf e
        shift := shift }
    else { base := v }

/-- What a leaf permits (R109, R306). -/
def permits (acc : Access) (e : Nat) : Bool := match acc with
  | .read => e.testBit 2
  | .write => e.testBit 3
  | .fetch => e.testBit 4

/-- Where a translated address lies (R105, R305, R322), with the attributes of its leaf, D set by a write. -/
def physFor (va : Nat) (acc : Access) (renamed : Option Nat) (e sh : Nat) : Phys :=
  let shift := if renamed.isSome then 16 else sh
  { pa := renamed.getD (frameOf e sh) + va % 2 ^ shift, attr := attributesOf (if acc = .write then e ||| 2 ^ 47 else e), shift := shift
    page := va / 2 ^ shift * 2 ^ shift }

/-- Where a translation register puts the element at an offset (R105). -/
def registerPlace (r : XReg) (va off : Nat) : Phys :=
  { pa := r.frame + off, attr := r.attr, shift := r.shift, page := va / 2 ^ r.shift * 2 ^ r.shift }

end Sys2Proof.Machine
end

