-- ==== Sys2Proof/Safety/Uniform.lean ====
section
/-! DEFINITION. What the uniform instructions and branches compute (R81 to R88), as tables of constructors beside their results. -/

namespace Sys2Proof.Machine

/-- R81: the operation on s[A6] and b. -/
def uniformOps : List ((BitVec 6 → BitVec 6 → BitVec 6 → Bool → Instr) × (DWord → DWord → DWord)) := [
  (.sadd, fun a b => a + b),
  (.ssub, fun a b => a - b),
  (.smul, fun a b => BitVec.ofNat 64 (a.toNat * b.toNat)),
  (.sand, fun a b => a &&& b),
  (.sor, fun a b => a ||| b),
  (.sxor, fun a b => a ^^^ b),
  (.sshl, fun a b => if 64 ≤ b.toNat then 0 else a <<< b.toNat),
  (.sshr, fun a b => if 64 ≤ b.toNat then 0 else a >>> b.toNat),
  (.scmpEq, fun a b => if a = b then 1 else 0),
  (.scmpNe, fun a b => if a = b then 0 else 1),
  (.scmpLtI64, fun a b => if a.toInt < b.toInt then 1 else 0),
  (.scmpLeI64, fun a b => if a.toInt ≤ b.toInt then 1 else 0),
  (.scmpGtI64, fun a b => if b.toInt < a.toInt then 1 else 0),
  (.scmpGeI64, fun a b => if b.toInt ≤ a.toInt then 1 else 0),
  (.scmpLtN64, fun a b => if a.toNat < b.toNat then 1 else 0),
  (.scmpLeN64, fun a b => if a.toNat ≤ b.toNat then 1 else 0),
  (.scmpGtN64, fun a b => if b.toNat < a.toNat then 1 else 0),
  (.scmpGeN64, fun a b => if b.toNat ≤ a.toNat then 1 else 0)]

/-- IMM6 sign-extended, or s[B6] (R20). -/
def secondOf (x : Group) (b : BitVec 6) (i : Bool) : DWord := if i then b.signExtend 64 else x.sreg b.toNat

/-- R88: each branch of format C with its condition on the group. -/
def branchOps : List ((BitVec 19 → BitVec 3 → Instr) × (Group → Nat → Prop)) := [
  (.bany, fun x k => ∃ l < 32, x.active l = true ∧ (x.kreg k).getLsbD l = true),
  (.ball, fun x k => ∀ l < 32, x.active l = true → (x.kreg k).getLsbD l = true),
  (.bnone, fun x k => ∀ l < 32, x.active l = true → (x.kreg k).getLsbD l = false),
  (.bz, fun x k => x.sreg k = 0),
  (.bnz, fun x k => x.sreg k ≠ 0)]

/-- The address of a target within reach: the branch's own address and twice DISP19 (R20). -/
def branchTarget (x : Group) (d : BitVec 19) : DWord := x.pc + BitVec.ofInt 64 (2 * d.toInt)

/-- The target of ret, jmp and jmp with link, with the register that takes the return address (R88). -/
def jumpOps : List ((BitVec 19 → BitVec 3 → Instr) × (Group → BitVec 19 → Nat → DWord) × Bool) := [
  (fun _ k => .ret k, fun x _ k => x.sreg (56 + k), false),
  (.jmp, fun x d k => x.sreg (56 + k) + BitVec.ofInt 64 (2 * d.toInt), false),
  (.jmpL, fun x d k => x.sreg (56 + k) + BitVec.ofInt 64 (2 * d.toInt), true)]

/-- A target that a jump may take: even, below 2^56 (R88). -/
def JumpOk (t : DWord) : Prop := t.toNat % 2 = 0 ∧ t.toNat < 2 ^ 56

end Sys2Proof.Machine
end

