-- ==== Sys2Proof/Certificates/Slice0/Obligations.lean ====
section
/-! DEFINITION. The statements about the machine, for proof. -/

open Sys2Proof Sys2Proof.Machine

/-! ## Lane instructions -/

/-- R60, R61: from every state in which it issues, each integer operation writes, element by element in the active lanes, the result of
the rule's table, raises no flag, pushes element 0 and changes nothing else; the 64-bit ones take register pairs, their shifts a count
from a 32-bit operand. -/
def Obligations.IntegerOperations : Prop :=
  (∀ p ∈ intOps, ∀ d a b w n, LaneRuns (p.1 d a b w n) (aluSpec d a b w n fun x y => word (p.2 x y))) ∧
  (∀ p ∈ int64Ops, ∀ d a b w n, LaneRuns (p.1 d a b w n) (alu64Spec d a b w n fun x y => (p.2 x y, 0))) ∧
    ∀ p ∈ shift64Ops, ∀ d a b w n, LaneRuns (p.1 d a b w n) (shiftSpec d a b w n p.2)

/-- R65: the floating-point operations round the exact result once; the flags of every element are ORed into the lane's fsr. -/
def Obligations.FloatOperations : Prop :=
  (∀ p ∈ floatOps, ∀ d a b w n, LaneRuns (p.1 d a b w n) (aluSpec d a b w n p.2)) ∧
    ∀ p ∈ float64Ops, ∀ d a b w n, LaneRuns (p.1 d a b w n) (alu64Spec d a b w n p.2)

/-- R60, R65: the multiply-adds without a prefix add to the old value of their destination. -/
def Obligations.MultiplyAdd : Prop :=
  (∀ p ∈ maddOps, ∀ d a b w n, LaneRuns (p.1 d a b w n) (maddSpec none d a b w n p.2)) ∧
    ∀ d a b w n, LaneRuns (.fmaF64 d a b w n) (madd64Spec none d a b w n fma64)

/-- R57, R66: the immediate forms take IMM8 sign-extended to 32 bits. -/
def Obligations.Immediates : Prop :=
  (∀ p ∈ immOps, ∀ d a i n, LaneRuns (p.1 d a i n) (immSpec 4 d a (i.signExtend 32) n p.2)) ∧
    ∀ c ∈ setOps, ∀ d i n, LaneRuns (c d i n) (immSpec 4 d 124 (i.signExtend 32) n fun _ y => word y)

/-- R67: each integer unary operation writes the value that the rule defines. -/
def Obligations.IntegerUnary : Prop :=
  ∀ p ∈ unaryIntOps, ∃ f : Word → Word, (∀ x, p.2 x (f x)) ∧
    ∀ d a w n, LaneRuns (p.1 d a w n) (unSpec 4 d.toNat a.toNat w.toNat n fun x => word (f x))

/-- R68 to R70: signs, roots, transcendentals and rounding to integral values, with R69's special operands, its exact results, NaN for a
NaN operand, and inexact where the result is not exact.
Which value within R69's bounds an inexact transcendental result takes is the model's free choice (log entry 9). -/
def Obligations.FloatUnary : Prop :=
  (∀ p ∈ unaryFloatOps, ∀ d a w n, LaneRuns (p.1 d a w n) (unSpec 4 d.toNat a.toNat w.toNat n p.2)) ∧
    (∀ p ∈ unary64Ops, ∀ d a w n, LaneRuns (p.1 d a w n) (un64Spec d a w n p.2)) ∧
    (∀ e ∈ specialOperands, e.1 e.2.1 = e.2.2) ∧
    (∀ f ∈ tableFunctions, ∀ a : Word, 0x7F800000 < a.toNat % 2 ^ 31 → f a.toNat = (0x7FC00000, if a.getLsbD 22 then 0 else Fp.invalid)) ∧
    ∀ (a : Word) v, f32Value a = some v → ExactCases a.toNat v

/-- R33: a compact form has the effect of its 32-bit equivalent, and is 2 bytes long. -/
def Obligations.CompactForms : Prop :=
  (∀ p ∈ compactOps, ∀ d a, LaneRuns (p.1 d a) (compactSpec d a p.2)) ∧
    (∀ d a, LaneRuns (.movCompact d a) (unSpec 2 d.toNat (compactReg a) 0 false word)) ∧
    ∀ d i, LaneRuns (.addiCompact d i) (immSpec 2 (d.setWidth 7) (d.setWidth 7) (i.signExtend 32) false fun x y => word (x + y))

/-- R54, R71, R72, R75, R76: flag reads, narrow packing, conversion, select and exchange; fsr.clr writes the old flags of each active lane
and then clears those that are set in a[4:0]. -/
def Obligations.MovesAndConversions : Prop :=
  (∀ d n, LaneRuns (.fsrGet d n) (fsrGetSpec d n)) ∧
    (∀ d a n f, LaneRuns (.packNx d a n f) (packSpec d a n f)) ∧
    (∀ d a n f, LaneRuns (.unpackNx d a n f) (unpackSpec d a n f)) ∧
    (∀ d a w y z n, y.toNat ≤ 11 → z.toNat ≤ 11 → LaneRuns (.cvt d a w y z n) (cvtSpec d a w y z n)) ∧
    (∀ d k a b, LaneRuns (.sel d k a b) (selSpec d k a b)) ∧
    (∀ p ∈ exchangeOps, ∀ d a b, LaneRuns (p.1 d a b) (exchangeSpec d a b p.2.1 p.2.2)) ∧
    ∀ (d a : BitVec 7) (n : Bool) s g x, Issues s g x →
      let L : LaneSpec := { fsrGetSpec d n with srcs := [(a.toNat, 1)] }
      L.Fits s g x → ∃ y z, Leaves (.fsrClr d a n) s g y ∧ LaneEffect s L x z ∧ y = { z with fsr := y.fsr } ∧
        ∀ l < 32, y.flags l =
          if x.active l then x.flags l &&& ~~~((src x s.fresh a.toNat 0 l).setWidth 5) else x.flags l

/-- R69: at every finite operand that has a value, the results of rsqrt.f32, exp2.f32, log2.f32, sinpi.f32, cospi.f32 and tanh.f32 lie
within the error bounds of the table, in ulp at the exact result, log2.f32 within 2^−22 of it between 1/2 and 2.
Which value within the bounds they take is the model's free choice (log entry 9). -/
def Obligations.TranscendentalBounds : Prop := ∀ (a : Word) v, f32Value a = some v → WithinBounds a.toNat v

/-- R62: a division reads its operands at issue and pushes nothing; its result is in flight, in the active lanes, until 32 cycles
have passed at the point of the highest clock; N suppresses the write. -/
def Obligations.Divisions : Prop :=
  ∀ p ∈ divOps, ∀ (d a b : BitVec 7) (w : BitVec 2) (n : Bool) s g x, Issues s g x →
    isLatchCode a.toNat = false → isLatchCode b.toNat = false →
    declared (blockOf s g).regs (d.toNat, 2 ^ w.toNat) = true →
    declared (blockOf s g).regs (a.toNat, 2 ^ w.toNat) = true →
    declared (blockOf s g).regs (b.toNat, 2 ^ w.toNat) = true →
    ∃ y, Leaves (p.1 d a b w n) s g y ∧ (n = true → y = Behind s x 4) ∧
      (n = false → ∃ e, y = { Behind s x 4 with inFlight := kput x.inFlight s.nextId e } ∧
        e.dst = (d.toNat, 2 ^ w.toNat) ∧ e.due = s.cycle + 32 * slowdown s (dieOf s g) ∧
        e.elems = [] ∧ e.awaiting = 0 ∧ e.gen = none ∧ e.s = none ∧
        ∀ i l, i < 2 ^ w.toNat → l < 32 → kfind e.v (32 * (d.toNat + i) + l) =
          if x.active l then some (p.2 (src x 0 a.toNat i l) (src x 0 b.toNat i l)) else none)

/-- R73, R77: a compare writes the mask register with the active lanes in which its condition holds, raises invalid as the table
says and pushes 1 or 0; a vote does so for a value that is not 0, and raises no flag. -/
def Obligations.Compares : Prop :=
  (∀ (k : BitVec 3) (a b : BitVec 7) (c : BitVec 4) (t : BitVec 2) s g x, Issues s g x → (2 ≤ t.toNat ∨ c.toNat ≤ 5) →
    let unit := if t == 3 then 2 else 1
    declared (blockOf s g).regs (a.toNat, unit) = true → declared (blockOf s g).regs (b.toNat, unit) = true →
    ((isLatchCode a.toNat || isLatchCode b.toNat) = true → x.latch.readers ≠ 32) →
    ∃ y, Leaves (.cmp k a b c t) s g y ∧ MaskEffect s [(a.toNat, unit), (b.toNat, unit)] k.toNat
      (fun l => cmpTest t.toNat c.toNat (cmpOperand x s.fresh t a l) (cmpOperand x s.fresh t b l))
      (fun l => cmpFlags t.toNat c.toNat (cmpOperand x s.fresh t a l) (cmpOperand x s.fresh t b l)) x y) ∧
  ∀ (k : BitVec 3) (a : BitVec 7) s g x, Issues s g x → declared (blockOf s g).regs (a.toNat, 1) = true →
    (isLatchCode a.toNat = true → x.latch.readers ≠ 32) →
    ∃ y, Leaves (.vote k a) s g y ∧
      MaskEffect s [(a.toNat, 1)] k.toNat (fun l => decide (src x s.fresh a.toNat 0 l ≠ 0)) (fun _ => 0) x y

/-- R56, R78: a reduction combines the active lanes by the fixed tree over the lane index and writes the root, zero-extended, into a
uniform register; the flags of every combination are ORed into every active lane; it pushes nothing. -/
def Obligations.Reductions : Prop :=
  ∀ p ∈ reduceOps, ∀ (d : BitVec 6) (a : BitVec 7) s g x, Issues s g x → declared (blockOf s g).regs (a.toNat, 1) = true →
    (isLatchCode a.toNat = true → x.latch.readers ≠ 32) →
    let r := laneTree p.2.1 (fun l => if x.active l then some (src x s.fresh a.toNat 0 l) else none) 5 0
    ∃ y, Leaves (p.1 d a) s g y ∧ y.sreg d.toNat = (r.1.getD p.2.2).setWidth 64 ∧ (∀ j, j ≠ d.toNat → y.sreg j = x.sreg j) ∧
      (∀ l < 32, y.flags l = if x.active l then x.flags l ||| r.2 else x.flags l) ∧
      y = { Behind s x 4 with
        s := y.s, fsr := y.fsr
        latch := if isLatchCode a.toNat then { x.latch with readers := x.latch.readers + 1 } else {} }

/-- R74: the mask operations read the mask space and write one place of it, and nothing else. -/
def Obligations.MaskOperations : Prop :=
  (∀ p ∈ maskOps2, ∀ (d a b : BitVec 7) s g x, Issues s g x → maskCode d → maskCode a → maskCode b →
    ∃ y, Leaves (p.1 d a b) s g y ∧ MaskWritten s x y d (p.2 (maskValue x a) (maskValue x b))) ∧
  ∀ p ∈ maskOps1, ∀ (d a : BitVec 7) s g x, Issues s g x → maskCode d → maskCode a →
    ∃ y r, Leaves (p.1 d a) s g y ∧ p.2 (maskValue x a) r ∧ MaskWritten s x y d r

/-- R30 to R32: a prefix and its successor run as one instruction of 8 bytes; imx gives the successor a 32-bit immediate, the addend
prefix a third source. A successor that the prefix does not admit raises trap 0 at the prefix. -/
def Obligations.Prefixes : Prop :=
  ∀ s s1 g x0 x i, Issues s g x0 → fetchAt s g (x0.pc + 4).toNat = (s1, .instr i) → Issues s1 g x →
    (∀ (q : BitVec 24), ∀ p ∈ immOps, ∀ d a m n, i = p.1 d a m n → (immSpec 8 d a (q ++ m) n p.2).Fits s1 g x →
      ∃ t y, exec (.imx q) s = .next t ∧ OnlyGroup s1 t g y ∧ LaneEffect s1 (immSpec 8 d a (q ++ m) n p.2) x y) ∧
    (∀ (q : BitVec 24), ∀ c ∈ setOps, ∀ d m n, i = c d m n → (immSpec 8 d 124 (q ++ m) n fun _ v => word v).Fits s1 g x →
      ∃ t y, exec (.imx q) s = .next t ∧ OnlyGroup s1 t g y ∧ LaneEffect s1 (immSpec 8 d 124 (q ++ m) n fun _ v => word v) x y) ∧
    (∀ (c : BitVec 7), ∀ p ∈ maddOps, ∀ d a b w n, i = p.1 d a b w n → Legal.src w c = true →
      (maddSpec (some c) d a b w n p.2).Fits s1 g x →
      ∃ t y, exec (.addendPrefix c) s = .next t ∧ OnlyGroup s1 t g y ∧ LaneEffect s1 (maddSpec (some c) d a b w n p.2) x y) ∧
    (∀ (c d a b : BitVec 7) (w : BitVec 2) (n : Bool), i = .fmaF64 d a b w n → Legal.src64 w c = true →
      (madd64Spec (some c) d a b w n fma64).Fits s1 g x →
      ∃ t y, exec (.addendPrefix c) s = .next t ∧ OnlyGroup s1 t g y ∧ LaneEffect s1 (madd64Spec (some c) d a b w n fma64) x y) ∧
    (vectorOf s1 g ≠ 0 → (∀ p ∈ immOps, ∀ d a m n, i ≠ p.1 d a m n) → (∀ c ∈ setOps, ∀ d m n, i ≠ c d m n) → ∀ q : BitVec 24,
      ∃ t y, exec (.imx q) s = .next t ∧ OnlyGroup s1 t g y ∧ Entered s1 g x y 0 0 x.pc x.pc 0 0 x.em) ∧
    (vectorOf s1 g ≠ 0 → (∀ p ∈ maddOps, ∀ d a b w n, i ≠ p.1 d a b w n) → (∀ d a b w n, i ≠ .fmaF64 d a b w n) → ∀ c : BitVec 7,
      ∃ t y, exec (.addendPrefix c) s = .next t ∧ OnlyGroup s1 t g y ∧ Entered s1 g x y 0 0 x.pc x.pc 0 0 x.em)

/-- R22, R29: a lane instruction that names a register at or beyond the declared count raises trap 0 at its own address, the 33rd
reader of a chain trap 1; neither writes a register. -/
def Obligations.LaneTraps : Prop :=
  ∀ i d rs, NamesRegs i d rs → ∀ s g x, Issues s g x → vectorOf s g ≠ 0 →
    let legal := ∀ r ∈ d :: rs, declared (blockOf s g).regs r = true
    (¬ legal → Traps i s g x 0 0 0 x.em) ∧
    (legal → (∃ r ∈ rs, isLatchCode r.1 = true) → x.latch.readers = 32 → Traps i s g x 1 0 0 x.em)

/-! ## Uniform instructions and control flow -/

/-- R81: the uniform operations write one uniform register and nothing else. -/
def Obligations.UniformOperations : Prop :=
  (∀ p ∈ uniformOps, ∀ d a b i s g x, Issues s g x →
    ∃ y, Leaves (p.1 d a b i) s g y ∧ SetsUniform s x y 4 d.toNat (p.2 (x.sreg a.toNat) (secondOf x b i))) ∧
  ∀ (d b : BitVec 6) i s g x, Issues s g x → ∃ y, Leaves (.smov d b i) s g y ∧ SetsUniform s x y 4 d.toNat (secondOf x b i)

/-- R16, R84 to R86: identifiers, single lane values and format registers. -/
def Obligations.UniformMoves : Prop :=
  ∀ s g x, Issues s g x →
    (∀ d c : BitVec 6, c.toNat ≤ 5 → ∃ y, Leaves (.sid d c) s g y ∧ SetsUniform s x y 4 d.toNat (BitVec.ofNat 64
      ([(blockOf s g).number, x.index, (blockOf s g).launch, (blockOf s g).core, (blockOf s g).core / 40, s.cycle].getD c.toNat 0))) ∧
    (∀ (d a b : BitVec 6) (i : Bool), a.toNat < (blockOf s g).regs →
      ∃ y, Leaves (.vget d a b i) s g y ∧ SetsUniform s x y 4 d.toNat
        ((x.vreg a.toNat (if i then b.toNat else (x.sreg b.toNat).toNat % 32)).setWidth 64)) ∧
    (∀ (d a b : BitVec 6) (i : Bool), d.toNat < (blockOf s g).regs → (i = true → b.toNat < 32) →
      let l := if i then b.toNat else (x.sreg b.toNat).toNat % 32
      ∃ y, Leaves (.vput d a b i) s g y ∧ y = { Behind s x 4 with v := y.v } ∧
        (∀ r j, j < 32 → (r ≠ d.toNat ∨ j ≠ l ∨ x.active l = false) → y.vreg r j = x.vreg r j) ∧
        (x.active l = true → y.vreg d.toNat l = (x.sreg a.toNat).setWidth 32)) ∧
    (∀ (d : BitVec 3) (a : BitVec 6), ∃ y, Leaves (.fmtSet d a) s g y ∧ y = { Behind s x 4 with fmt := y.fmt } ∧
      y.fmtReg d.toNat = (x.sreg a.toNat).setWidth 16 ∧ ∀ r, r ≠ d.toNat → y.fmtReg r = x.fmtReg r) ∧
    (∀ (d : BitVec 6) (a : BitVec 3), ∃ y, Leaves (.fmtGet d a) s g y ∧ SetsUniform s x y 4 d.toNat ((x.fmtReg a.toNat).setWidth 64)) ∧
    ∃ y, Leaves .nop s g y ∧ y = Behind s x 2

/-- R20, R87, R88: a branch goes to its own address and twice its displacement where its condition holds, else to the next
instruction; a call also writes its return address; neither changes another register. A taken target with any of bits [63:56] set
raises trap 2 at the branch, with no register changed. -/
def Obligations.Branches : Prop :=
  ∀ s g x, Issues s g x →
    (∀ d, JumpOk (branchTarget x d) → Leaves (.bra d) s g { x with pc := branchTarget x d, latch := {} }) ∧
    (∀ p ∈ branchOps, ∀ d k,
      (p.2 x k.toNat → JumpOk (branchTarget x d) → Leaves (p.1 d k) s g { x with pc := branchTarget x d, latch := {} }) ∧
      (p.2 x k.toNat → ¬ JumpOk (branchTarget x d) → vectorOf s g ≠ 0 → Traps (p.1 d k) s g x 2 (branchTarget x d) 0 0) ∧
      (¬ p.2 x k.toNat → Leaves (p.1 d k) s g { x with pc := x.pc + 4, latch := {} })) ∧
    (∀ (d : BitVec 19) (k : BitVec 3), JumpOk (branchTarget x d) → ∃ y, Leaves (.call d k) s g y ∧
      y = { x with s := y.s, pc := branchTarget x d, latch := {} } ∧ y.sreg (56 + k.toNat) = x.pc + 4 ∧
      ∀ r, r ≠ 56 + k.toNat → y.sreg r = x.sreg r) ∧
    ∀ d, ¬ JumpOk (branchTarget x d) → vectorOf s g ≠ 0 →
      Traps (.bra d) s g x 2 (branchTarget x d) 0 0 ∧ ∀ k : BitVec 3, Traps (.call d k) s g x 2 (branchTarget x d) 0 0

/-- R87, R88: ret, jmp and jmp.l go to the target that their register gives, jmp.l with the return address in s63; a target that is odd
or has any of bits [63:56] set raises trap 2 at the jump, with no register changed. -/
def Obligations.Jumps : Prop :=
  ∀ p ∈ jumpOps, ∀ d k s g x, Issues s g x →
    let t := p.2.1 x d k.toNat
    (JumpOk t → ∃ y, Leaves (p.1 d k) s g y ∧ y = { x with s := y.s, pc := t, latch := {} } ∧
      (p.2.2 = true → y.sreg 63 = x.pc + 4) ∧ ∀ r, (p.2.2 = true → r ≠ 63) → y.sreg r = x.sreg r) ∧
    (¬ JumpOk t → vectorOf s g ≠ 0 → Traps (p.1 d k) s g x 2 t 0 0)

/-- R91, R330: trap n and brk enter the handler of traps 13 and 12 with the address of the next instruction saved. -/
def Obligations.UserTraps : Prop :=
  ∀ s g x, Issues s g x → vectorOf s g ≠ 0 →
    (∀ n, ∃ y, Leaves (.trap n) s g y ∧ Entered s g x y 13 n.toNat (x.pc + 4) x.pc 0 0 x.em) ∧
    ∃ y, Leaves .brk s g y ∧ Entered s g x y 12 0 (x.pc + 4) x.pc 0 0 x.em

/-! ## Pads and translation registers -/

/-- R94, R107, R108, R121: a pad load leaves its elements in flight, as its group sees them at issue, with the extension of its size
code, and widens the reach to its level; it comes behind what its group has sent to those places. With em zero it accesses nothing. A
value may be read anew until it arrives (R117), but not an acquire's. Behind an access of its own that a home holds it waits (log entry 16). -/
def Obligations.PadLoads : Prop :=
  ∀ c ∈ [(Instr.ldp, false), (Instr.ldpAcq, true)], ∀ (d a : BitVec 7) (sz lv : BitVec 3) (w : BitVec 2) s g x places, Issues s g x →
    let size := Legal.elemSize sz
    let unit := Legal.elemUnit sz
    let cnt := 2 ^ w.toNat
    let es := padRun x a.toNat cnt size
    let ps := es.flatMap places
    let s1 := endChain s g
    Legal.loadOk sz d a w = true → MemFits s g [(d.toNat, unit * cnt), (a.toNat, 1)] → PadFits s x lv.toNat size es places →
    Readable s g ps →
    (x.em = 0 → Leaves (c.1 d a sz lv w) s g (Behind s x 4)) ∧
    (x.em ≠ 0 → ∀ s2 x2, settleEntries s1 g ps = s2 → kfind s2.groups g = some x2 →
      (behindOwn s2 g ps [] = true → LeavesFrom (c.1 d a sz lv w) s s2 g (Stalled x2)) ∧
      (behindOwn s2 g ps [] = false → ∃ t y f, exec (c.1 d a sz lv w) s = .next t ∧ 
        OnlyLoads s2 t g y [] ∧ HasSeen t g ps ∧
      y = { Past s2 x2 4 with reach := max x2.reach (padScope lv.toNat), inFlight := y.inFlight } ∧
      SameFlights x2 y (some s2.nextId) ∧ kfind y.inFlight s2.nextId = some f ∧
      f.dst = (d.toNat, unit * cnt) ∧ f.lanes = x2.em ∧ f.addr = x2.pc ∧ f.due = 0 ∧ f.awaiting = 0 ∧ f.s = none ∧ f.gen = none ∧
      (∀ e ∈ es, (∀ p ∈ places e, ∀ q, p.pa = some q → inEndpoints q = false ∧ mixed t q = false) → ∀ j < unit,
        kfind f.v (32 * (d.toNat + unit * e.idx + j) + e.lane) =
          some (loadedReg size (signedSize sz) (leNat ((places e).map (seenByte s2 g))) j)) ∧
      (∀ l ∈ f.elems, c.2 = false ∧ ∃ e ∈ es, l = {
        lane := e.lane, reg := d.toNat + unit * e.idx, places := places e, sgn := signedSize sz }) ∧
      ∀ r l, l < 32 → x.active l = false → kfind f.v (32 * r + l) = none))

/-- R108, R110, R117, R119, R121: a pad store sends the low bytes of its registers to their places, lane by lane: from then on its
group sees them there, the highest lane's last, and every other byte as before. It widens the reach; as a release it comes after every
earlier access of the group and leaves the reach at core.
That no byte of a pad has changed yet is the model's choice (log entry 17), and so is that the earlier accesses are performed at once and
that it waits behind one that a home holds (log entry 16). -/
def Obligations.PadStores : Prop :=
  ∀ (d a : BitVec 7) (sz lv : BitVec 3) (w : BitVec 2) s g x places, Issues s g x →
    let size := Legal.elemSize sz
    let unit := Legal.elemUnit sz
    let cnt := 2 ^ w.toNat
    let es := padRun x a.toNat cnt size
    let ps := es.flatMap places
    Legal.storeOk sz d a w = true → MemFits s g [(d.toNat, unit * cnt), (a.toNat, 1)] → PadFits s x lv.toNat size es places →
    let Clear := fun (s1 : State) => NothingSent s1 g ps ∧ arrivalAt s1 g ps = false ∧
      ∀ l ∈ (getCore s1 (coreOf s1 g)).wcb, l.ae = false → ∀ p ∈ ps, l.holds p = false
    let Stored := fun (s1 t : State) (x1 y : Group) => SameFlights x1 y none ∧ ∃ new, OnlyPadStores s1 t g y new ∧
      Pairwise2 (fun e n => IsPadStore s1 g (places e) ((List.range size).map (storedByte x1 d.toNat unit e.idx e.lane)) n) es new ∧
      ∀ p, seenByte t g p = lastWrite (padWrites x1 d.toNat unit size es places) (seenByte s1 g) p
    (Clear s → ∃ t y, exec (.stp d a sz lv w) s = .next t ∧ Stored s t x y ∧
      y = { Behind s x 4 with inFlight := y.inFlight, reach := if x.em = 0 then x.reach else max x.reach (padScope lv.toNat) }) ∧
    (∀ s1 x1, settleEntries (endChain s g) g ps = s1 → behindOwn s1 g ps [] = true → kfind s1.groups g = some x1 →
      LeavesFrom (.stp d a sz lv w) s s1 g (Stalled x1)) ∧
    ∀ s1 x1, performAll (endChain s g) g = s1 → kfind s1.groups g = some x1 →
      (outstanding s1 g = true → LeavesFrom (.stpRel d a sz lv w) s s1 g (Stalled x1)) ∧
      (outstanding s1 g = false → Clear s1 → ∃ t y, exec (.stpRel d a sz lv w) s = .next t ∧ Stored s1 t x1 y ∧
        y = { Past s1 x1 4 with inFlight := y.inFlight, reach := 0 })

/-- R109, R330: the checks of a pad access come in their order; the first that fails raises its trap with the failing lanes in em
and the lowest failing offset of the lowest of them, and no byte and no register changes. -/
def Obligations.PadTraps : Prop :=
  ∀ c ∈ [Instr.ldp, .ldpAcq, .stp, .stpRel], ∀ (d a : BitVec 7) (sz lv : BitVec 3) (w : BitVec 2) s g x, Issues s g x →
    vectorOf s g ≠ 0 →
    let size := Legal.elemSize sz
    let cnt := 2 ^ w.toNat
    let es := padRun x a.toNat cnt size
    let place := fun (e : Elem) => padPlaces s x.block x.index e.lane lv.toNat e.off size
    Legal.offsetOk a = true →
    (¬ MemFits s g [(d.toNat, Legal.elemUnit sz * cnt), (a.toNat, 1)] → Traps (c d a sz lv w) s g x 0 0 0 x.em) ∧
    (MemFits s g [(d.toNat, Legal.elemUnit sz * cnt), (a.toNat, 1)] →
      let odd := es.filter fun e => e.va % size != 0
      let beyond := es.filter fun e => (place e).isNone
      let bad := es.filter fun e => ((place e).getD []).any fun l => poisonSeen s g l || locAnswer s l = .error
      (odd ≠ [] → TrapsFor (c d a sz lv w) s g x 2 odd) ∧
      (odd = [] → beyond ≠ [] → TrapsFor (c d a sz lv w) s g x 3 beyond) ∧
      (odd = [] → beyond = [] → bad ≠ [] → (c = Instr.ldp ∨ c = Instr.ldpAcq) → TrapsFor (c d a sz lv w) s g x 6 bad))

/-- R104, R106: xset sets its register from the leaf that maps its base, with no fault: the frame, the limit to the end of the page, to 2^32
or to the cap, and the attributes; and xadd steps within the limit without a visit to the page table, or sets the register anew; a base
beyond 2^56 raises trap 5. xget reads base, limit or attributes.
A cap of 0 leaves no frame and no attributes (log entry 23). -/
def Obligations.TranslationRegisters : Prop :=
  ∀ s g x, Issues s g x →
    let Sets := fun (s1 : State) (v : DWord) (cap : Nat) (r : XReg) => (cap = 0 → r = { base := v }) ∧ (0 < cap → ∀ q,
      LeafOf (endChain s g) (spaceOf s g) v.toNat (fun e => e.testBit 2 || e.testBit 3) q →
        r = registerFor v cap (renamedPage s1 (partOf s g) (blockOf s g).launch (v.toNat / 65536)) q)
    (∀ (d : BitVec 3) (a b : BitVec 6), ∀ i ∈ [(Instr.xset d a, 2 ^ 32), (Instr.xsetCap d a b, (x.sreg b.toNat).toNat)],
      let v := x.sreg a.toNat
      (v.toNat < 2 ^ 56 → ∀ s1 r, setX (endChain s g) (spaceOf s g) v i.2 = (s1, r) → ∀ x1, kfind s1.groups g = some x1 →
        Sets s1 v i.2 r ∧ ∃ t y, exec i.1 s = .next t ∧ OnlyGroup s1 t g y ∧ y = { Past s1 x1 4 with x := y.x } ∧ y.xreg d.toNat = r ∧
          ∀ j, j ≠ d.toNat → y.xreg j = x1.xreg j) ∧
      (2 ^ 56 ≤ v.toNat → vectorOf s g ≠ 0 → Traps i.1 s g x 5 v 0 0)) ∧
    (∀ (d a : BitVec 3) (b : BitVec 6) (i : Bool),
      let r := x.xreg a.toNat
      let n := (if i then b.signExtend 64 * 128 else x.sreg b.toNat).toInt
      let v := r.base + BitVec.ofInt 64 n
      (0 ≤ n → n < r.limit → ∃ y, Leaves (.xadd d a b i) s g y ∧ y = { Behind s x 4 with x := y.x } ∧
        y.xreg d.toNat = { base := v, frame := r.frame + n.toNat, limit := r.limit - n.toNat, attr := r.attr, shift := r.shift } ∧
        ∀ j, j ≠ d.toNat → y.xreg j = x.xreg j) ∧
      (¬ (0 ≤ n ∧ n < r.limit) → v.toNat < 2 ^ 56 → ∀ s1 q, setX (endChain s g) (spaceOf s g) v (2 ^ 32) = (s1, q) → ∀ x1, kfind s1.groups g = some x1 →
        Sets s1 v (2 ^ 32) q ∧ ∃ t y, exec (.xadd d a b i) s = .next t ∧ OnlyGroup s1 t g y ∧ y = { Past s1 x1 4 with x := y.x } ∧ y.xreg d.toNat = q ∧
          ∀ j, j ≠ d.toNat → y.xreg j = x1.xreg j) ∧
      (¬ (0 ≤ n ∧ n < r.limit) → 2 ^ 56 ≤ v.toNat → vectorOf s g ≠ 0 → Traps (.xadd d a b i) s g x 5 v 0 0)) ∧
    ∀ (d : BitVec 6) (a : BitVec 3) (f : BitVec 6), f.toNat ≤ 2 → ∃ y, Leaves (.xget d a f) s g y ∧ SetsUniform s x y 4 d.toNat
      ([(x.xreg a.toNat).base, BitVec.ofNat 64 (x.xreg a.toNat).limit, BitVec.ofNat 64 (x.xreg a.toNat).attr].getD f.toNat 0)

/-- R105, R309, R310: an element lies at the frame of its translation register and its offset, where it ends within the limit and no write
meets the register clean; else where the leaf of its address puts it, if that permits the access. Locating it sets the accessed bit of
that leaf's entry in memory, a write the dirty bit too, and changes no other byte, where nothing that the group has stored or sent is on its
way; of the group's record only the dirty attribute of the register changes, and which loads may be read anew. The elements of an
instruction are located one after another.
That a trap leaves the bits of the entries set is the model's reading (log entry 27). -/
def Obligations.Translations : Prop :=
  ∀ s g x xr size acc, acc ≠ Access.fetch → kfind s.groups g = some x → (∀ l ∈ (getCore s (coreOf s g)).wcb, l.of g = false) →
    (∀ u ∈ s.stores, g ∉ u.groups) → (∀ e ∈ entriesUnderWay s, e.of g = false) →
    let sp := spaceOf s g
    let reg := x.xreg xr
    let Or5 := fun (s1 : State) (p : Phys) => if runAllowed s1 p size (acc = .write) then Except.ok p else Except.error (5, 0)
    let Only := fun (s1 : State) (y : Group) => kfind s1.groups g = some y ∧ SameFlights x y none ∧
      y = { x with x := y.x, inFlight := y.inFlight } ∧ (∀ j, j ≠ xr → y.xreg j = x.xreg j) ∧
      (∀ h, h ≠ g → kfind s1.groups h = kfind s.groups h) ∧ (∀ c, (getCore s1 c).wcb = (getCore s c).wcb) ∧
      s1 = { s with groups := s1.groups, mem := s1.mem, cores := s1.cores, dies := s1.dies }
    (∀ (e : Elem) s1 r, locate s g xr size acc e = (s1, r) →
      let framed := e.off + size ≤ reg.limit
      let direct := framed ∧ (acc = .write → reg.attr.testBit 7 = true)
      (direct → s1 = s ∧ r = if permits acc (reg.attr / 8) then Or5 s (registerPlace reg e.va e.off) else .error (5, 0)) ∧
      (¬ direct → 2 ^ 56 ≤ e.va → s1 = s ∧ r = .error (5, 0)) ∧
      (¬ direct → e.va < 2 ^ 56 → ∀ q, LeafOf s sp e.va (fun f => acc = .write && f.testBit 3 && !f.testBit 47) q →
        (∀ kind, q = .error kind → r = .error (4, kind)) ∧
        ∀ f sh, q = .ok (f, sh) → r = if permits acc f then Or5 s (physFor e.va acc (renamedPage s sp.part sp.launch (e.va / 65536)) f sh)
          else .error (5, 0)) ∧
      (∀ a, BitsSet s sp e.va acc a (memRead s.mem a) (memRead s1.mem a)) ∧
      ∃ y, Only s1 y ∧ y.xreg xr = match r with
        | .ok p => if framed ∧ ¬ direct then (if p.pa = reg.frame + e.off then { reg with attr := reg.attr ||| 128 } else reg.dropped) else reg
        | .error _ => reg) ∧
    ∀ es s1 rs, locateAll s g xr size acc es = (s1, rs) →
      let at_ := fun (pre : List Elem) => (locateAll s g xr size acc pre).1
      rs.map (·.1) = es ∧ (∃ y, Only s1 y) ∧
      (∀ pre e post, es = pre ++ e :: post → rs[pre.length]? = some (e, (locate (at_ pre) g xr size acc e).2) ∧
        at_ (pre ++ [e]) = (locate (at_ pre) g xr size acc e).1) ∧
      ∀ a, memRead s1.mem a ≠ memRead s.mem a → ∃ pre e post, es = pre ++ e :: post ∧
        BitsSet (at_ pre) sp e.va acc a (memRead (at_ pre).mem a) (memRead (at_ (pre ++ [e])).mem a) ∧
        memRead (at_ (pre ++ [e])).mem a ≠ memRead (at_ pre).mem a

/-! ## Global memory -/

/-- R103, R105, R108, R110, R118, R119, R195: a load whose elements pass the checks leaves them in flight, as its group sees them at
issue, and sends one L entry for each word that a landing serves; it widens the reach and writes no byte. It comes behind what its
group has stored and sent to those places, and its group has seen the stores that are under way to them. A value may be read anew until
it arrives (R117), but not an acquire's, whose L entries hold back the group's next instruction. With em zero it accesses nothing.
Behind an access of its own that a home holds it waits (log entry 16). -/
def Obligations.GlobalLoads : Prop :=
  ∀ c ∈ loadForms, ∀ (d a : BitVec 7) (xr sz : BitVec 3) (w : BitVec 2) s g x s0 s1 x1 les, Issues s g x →
    let size := Legal.elemSize sz
    let unit := Legal.elemUnit sz
    let cnt := 2 ^ w.toNat
    let es := globalRun x xr.toNat a.toNat cnt size
    let ps := les.map (·.2)
    let plain := les.filter fun e => !toLanding e.2
    let landed := les.filter fun e => toLanding e.2
    (c.2.2 = true → sz = 4 ∧ ∀ e ∈ les, isDrift e.2 = false) →
    Legal.loadOk sz d a w = true → MemFits s g [(d.toNat, unit * cnt), (a.toNat, 1)] →
    Located s g xr.toNat size .read (fun _ => true) es s0 les → metPoison s0 size ps = s1 → kfind s1.groups g = some x1 →
    Answered s1 g ps → Clean s1 g size ps →
    (es = [] → LeavesFrom (c.1 d a xr sz w) s s1 g (Past s1 x1 4)) ∧
    (es ≠ [] → ∀ s2 x2, reachLanding (settleEntries s1 g (placesOf size plain)) g (placesOf size landed) = s2 →
      kfind s2.groups g = some x2 →
      (behindOwn s2 g (placesOf size plain) (placesOf size landed) = true → LeavesFrom (c.1 d a xr sz w) s s2 g (Stalled x2)) ∧
      (behindOwn s2 g (placesOf size plain) (placesOf size landed) = false →
      ∃ t y sent f, exec (c.1 d a xr sz w) s = .next t ∧ OnlyLoads s2 t g y sent ∧ HasSeen t g (placesOf size plain) ∧
        SameFlights x2 y (some s2.nextId) ∧ kfind y.inFlight s2.nextId = some f ∧
        y = { Past s2 x2 4 with
          inFlight := y.inFlight, reach := reachOver x2.reach ps
          acquires := if c.2.1 = true ∧ landed ≠ [] then x2.acquires ++ [s2.nextId] else x2.acquires } ∧
        LoadEntries s2 g size landed
          (fun e => .lane g s2.nextId e.lane (d.toNat + unit * e.idx) e.va (signedSize sz)) sent ∧
        f.dst = (d.toNat, unit * cnt) ∧ f.lanes = x2.em ∧ f.awaiting = landed.length ∧ f.addr = x2.pc ∧ f.due = 0 ∧ f.s = none ∧
        (∀ e ∈ plain, mixed t e.2.pa = false → ∀ j < unit,
          kfind f.v (32 * (d.toNat + unit * e.1.idx + j) + e.1.lane) =
            some (loadedReg size (signedSize sz) (loadedValue s2 g size e.2) j)) ∧
        ∀ l ∈ f.elems, c.2.1 = false ∧ ∃ e ∈ plain, l = {
          lane := e.1.lane, reg := d.toNat + unit * e.1.idx, places := (Loc.mem e.2.pa).run size, sgn := signedSize sz }))

/-- R98, R103, R108, R110, R118, R119, R195: a store whose elements pass the checks leaves local memory as it is; every later load of its
group sees the bytes it stored, the highest lane's last, and every other byte as before. Elements that a landing serves are S entries
instead, which leave through the buffer too. A release store comes after every earlier access of the group and leaves the reach at core.
That the earlier accesses are performed at once, and that it waits behind one that a home holds, are the model's choice (log entry 16). -/
def Obligations.GlobalStores : Prop :=
  ∀ (d a : BitVec 7) (xr sz : BitVec 3) (w : BitVec 2) s g x s1 x1 les, Issues s g x →
    let size := Legal.elemSize sz
    let unit := Legal.elemUnit sz
    let cnt := 2 ^ w.toNat
    let es := globalRun x xr.toNat a.toNat cnt size
    let plain := les.filter fun e => !toLanding e.2
    let landed := les.filter fun e => toLanding e.2
    Legal.storeOk sz d a w = true → MemFits s g [(d.toNat, unit * cnt), (a.toNat, 1)] →
    Located s g xr.toNat size .write (fun _ => true) es s1 les → kfind s1.groups g = some x1 →
    (∀ e ∈ les, inEndpoints e.2.pa = false ∧ e.2.pa % size = 0) →
    let Ready := fun (s2 : State) => WcbOk s2 ∧ Apart s2 g (placesOf size plain) (placesOf size landed)
    let Stored := fun (s2 t : State) (x2 y : Group) =>
      ∃ new, OnlyStores s2 t g y new ∧ SameFlights x2 y none ∧
        (∀ p, seenByte t g p = lastWrite (globalWrites x2 d.toNat unit size plain) (seenByte s2 g) p) ∧
        Pairwise2 (fun e n => IsEntry s2 g e.2 size 17 n ∧ n.ret = [] ∧
          n.bytes = (List.range size).map (storedByte x2 d.toNat unit e.1.idx e.1.lane)) landed new
    (Ready s1 → ∀ c ∈ storeForms, ∃ t y, exec (c d a xr sz w) s = .next t ∧ Stored s1 t x1 y ∧
      y = { Past s1 x1 4 with inFlight := y.inFlight, reach := reachOver x1.reach (les.map (·.2)) }) ∧
    (∀ s2 x2, settleEntries (settleStores s1 g (placesOf size landed)) g (placesOf size plain) = s2 → kfind s2.groups g = some x2 →
      behindOwn s2 g (placesOf size plain) (placesOf size landed) = true → ∀ c ∈ storeForms, LeavesFrom (c d a xr sz w) s s2 g (Stalled x2)) ∧
    ∀ s2 x2, performAll s1 g = s2 → kfind s2.groups g = some x2 →
      (outstanding s2 g = true → LeavesFrom (.stRel d a xr sz w) s s2 g (Stalled x2)) ∧
      (outstanding s2 g = false → Ready s2 → ∃ t y, exec (.stRel d a xr sz w) s = .next t ∧ Stored s2 t x2 y ∧
        y = { Past s2 x2 4 with inFlight := y.inFlight, reach := 0 })

/-- R83, R103, R109: sld and sst access one aligned doubleword whatever em holds: sld leaves it in flight for its uniform register, sst
stores its register's 8 bytes; a misaligned address raises trap 2, one beyond 2^56 trap 5, one that its translation faults on trap 4 or 5,
and an sld of poison trap 6. pref changes nothing.
Behind an access of its own that a home holds each waits (log entry 16). -/
def Obligations.UniformAccess : Prop :=
  ∀ (d a b : BitVec 6) (i : Bool) s g x, Issues s g x →
    let va := x.sreg a.toNat + (if i then b.signExtend 64 * 8 else x.sreg b.toNat)
    (∀ c ∈ [(Instr.sld, Access.read), (Instr.sst, Access.write)],
      (vectorOf s g ≠ 0 → va.toNat % 8 ≠ 0 → Traps (c.1 d a b i) s g x 2 va 0 0) ∧
      (vectorOf s g ≠ 0 → va.toNat % 8 = 0 → 2 ^ 56 ≤ va.toNat → Traps (c.1 d a b i) s g x 5 va 0 0) ∧
      (va.toNat % 8 = 0 → va.toNat < 2 ^ 56 → ∀ s1 x1 num code, translate (endChain s g) (spaceOf s g) va.toNat c.2 8 = (s1, .error (num, code)) →
        kfind s1.groups g = some x1 → (num = 4 ∨ (num = 5 ∧ code = 0)) ∧
          (vectorOf s1 g ≠ 0 → TrapsFrom (c.1 d a b i) s s1 g x1 num code va 0 0))) ∧
    (va.toNat % 8 = 0 → va.toNat < 2 ^ 56 → ∀ p,
      let ps := (Loc.mem p.pa).run 8
      let plain := if toLanding p then [] else ps
      let landed := if toLanding p then ps else []
      (∀ s0 s1 x1, translate (endChain s g) (spaceOf s g) va.toNat .read 8 = (s0, .ok p) → metPoison s0 8 [p] = s1 →
        kfind s1.groups g = some x1 →
        (readsPoison s1 g 8 p = true → vectorOf s1 g ≠ 0 → TrapsFrom (.sld d a b i) s s1 g x1 6 0 va 0 0) ∧
        (Answered s1 g [p] → Clean s1 g 8 [p] → ∀ s2 x2,
          (if toLanding p then reachLanding s1 g ps else settleEntries s1 g ps) = s2 → kfind s2.groups g = some x2 →
          (behindOwn s2 g plain landed = true → LeavesFrom (.sld d a b i) s s2 g (Stalled x2)) ∧
          (behindOwn s2 g plain landed = false → ∃ t y sent f, exec (.sld d a b i) s = .next t ∧ OnlyLoads s2 t g y sent ∧
            SameFlights x2 y (some s2.nextId) ∧ kfind y.inFlight s2.nextId = some f ∧
            y = { Past s2 x2 4 with inFlight := y.inFlight, reach := reachOver x2.reach [p] } ∧
            f.sdst = some d.toNat ∧ f.v = [] ∧ f.addr = x2.pc ∧ f.due = 0 ∧
            (toLanding p = false → sent = [] ∧ f.awaiting = 0 ∧ HasSeen t g ps ∧
              (mixed t p.pa = false → f.s = some (d.toNat, BitVec.ofNat 64 (loadedValue s2 g 8 p)))) ∧
            (toLanding p = true → f.awaiting = 1 ∧ f.s = none ∧ ∃ n, sent = [n] ∧ IsEntry s2 g p 8 16 n ∧
              n.ret = [.uniform g s2.nextId d.toNat])))) ∧
      (∀ s1 x1, translate (endChain s g) (spaceOf s g) va.toNat .write 8 = (s1, .ok p) → kfind s1.groups g = some x1 →
        inEndpoints p.pa = false → p.pa % 8 = 0 →
        (∀ s2 x2, settleEntries (settleStores s1 g landed) g plain = s2 → kfind s2.groups g = some x2 → behindOwn s2 g plain landed = true →
          LeavesFrom (.sst d a b i) s s2 g (Stalled x2)) ∧
        (WcbOk s1 → Apart s1 g plain landed → ∃ t y new, exec (.sst d a b i) s = .next t ∧ OnlyStores s1 t g y new ∧ SameFlights x1 y none ∧
          y = { Past s1 x1 4 with inFlight := y.inFlight, reach := reachOver x1.reach [p] } ∧
          let bytes := (List.range 8).map fun k => (x1.sreg d.toNat).extractLsb' (8 * k) 8
          (toLanding p = false → new = [] ∧ ∀ q, seenByte t g q = lastWrite (ps.zip bytes) (seenByte s1 g) q) ∧
          (toLanding p = true → (∀ q, seenByte t g q = seenByte s1 g q) ∧
            ∃ n, new = [n] ∧ IsEntry s1 g p 8 17 n ∧ n.bytes = bytes)))) ∧
    ∀ (a : BitVec 7) (xr sz : BitVec 3), MemFits s g [(a.toNat, 1)] → Leaves (.pref a xr sz) s g (Behind s x 4)

/-- R22, R109, R330: the checks of a global access come in their order: registers, alignment, the bound, translation, permission,
poison; the first that fails raises its trap, with the failing lanes in em and the lowest failing address of the lowest of them; no translation register has changed (R109). -/
def Obligations.GlobalTraps : Prop :=
  ∀ c ∈ globalForms, ∀ (d a : BitVec 7) (xr sz : BitVec 3) (w : BitVec 2) s g x, Issues s g x → vectorOf s g ≠ 0 →
    let size := Legal.elemSize sz
    let cnt := 2 ^ w.toNat
    let es := globalRun x xr.toNat a.toNat cnt size
    let i := c.1 d a xr sz w
    let odd := es.filter fun e => e.va % size != 0
    let beyond := es.filter fun e => decide (2 ^ 56 < e.va + size)
    (c.2.2 = true → sz = 4) → Legal.loadOk sz d a w = true →
    (¬ MemFits s g [(d.toNat, Legal.elemUnit sz * cnt), (a.toNat, 1)] → Traps i s g x 0 0 0 x.em) ∧
    (MemFits s g [(d.toNat, Legal.elemUnit sz * cnt), (a.toNat, 1)] →
      (odd ≠ [] → TrapsFor i s g x 2 odd) ∧
      (odd = [] → beyond ≠ [] → TrapsFor i s g x 5 beyond) ∧
      (odd = [] → beyond = [] → ∀ s1 rs x1, locateAll (endChain s g) g xr.toNat size c.2.1 es = (s1, rs) → kfind s1.groups g = some x1 →
        let faults := rs.filter fun r => (failedWith r).map (·.1) == some 4
        let denied := rs.filter fun r => (failedWith r).isSome
        let x2 := { x1 with x := x.x }
        vectorOf s1 g ≠ 0 →
        (faults ≠ [] → ∃ r code, r ∈ faults ∧ failedWith r = some (4, code) ∧ TrapsBehind i s s1 g x2 4 code (faults.map (·.1)) r.1) ∧
        (faults = [] → denied ≠ [] → ∃ r ∈ denied, TrapsBehind i s s1 g x2 5 0 (denied.map (·.1)) r.1) ∧
        ∀ s2 x3 (les : List (Elem × Phys)), rs = les.map (fun e => (e.1, Except.ok e.2)) → c.2.1 = .read → metPoison s1 size (les.map (·.2)) = s2 →
          kfind s2.groups g = some x3 → vectorOf s2 g ≠ 0 →
          let bad := (les.filter fun e => readsPoison s2 g size e.2).map (·.1)
          bad ≠ [] → ∃ e ∈ bad, TrapsBehind i s s2 g x3 6 0 bad e))

/-! ## Algebra and drift -/

/-- R122, R195, R199, R204: alg.op sends an entry of its slot, with the operand of each active lane and its place in the order of the
context, and widens the reach; a returning form leaves its destination in flight until every word has come back. With O it comes
after every earlier access of the group, and a returning form with O holds back the group's next instruction. A slot that is not
defined, or registers that do not fit it, raise trap 11.
That the earlier accesses are performed at once and that it waits behind one that a home holds is the model's choice (log entry 16); how many
registers count for a slot that is not defined, and that only fences and releases reset the reach, are its readings (log entries 28, 82). -/
def Obligations.AlgebraicOperations : Prop :=
  ∀ c ∈ [(Instr.algOp, false), (Instr.algOpRet, true)], ∀ (d a : BitVec 7) (xr : BitVec 3) (w : BitVec 2) (n : BitVec 4) (o : Bool) s g x,
    Issues s g x →
    let desc := (getTable s (ctxOf s g).table).slot n.toNat
    let size := slotSize desc
    let unit := size / 4
    let cnt := 2 ^ w.toNat
    let es := globalRun x xr.toNat a.toNat cnt size
    let fits := d.toNat % (unit * cnt) = 0 ∧ size * cnt ≤ 64
    Legal.offsetOk a = true → d.toNat ≤ 111 →
    (vectorOf s g ≠ 0 → MemFits s g [(d.toNat, if slotV desc then unit * cnt else cnt), (a.toNat, 1)] → ¬ (slotV desc = true ∧ fits) →
      Traps (c.1 d a xr w n o) s g x 11 0 0 x.em) ∧
    (slotV desc = true → fits → MemFits s g [(d.toNat, unit * cnt), (a.toNat, 1)] → ∀ s1 x1 s2 s3 x3 les,
      Located s g xr.toNat size .write (algPage c.2) es s1 les → (∀ e ∈ les, isDrift e.2 = false) → kfind s1.groups g = some x1 →
      (o = true → ∀ x2, kfind (performAll s1 g).groups g = some x2 → outstanding (performAll s1 g) g = true →
        LeavesFrom (c.1 d a xr w n o) s (performAll s1 g) g (Stalled x2)) ∧ (
      (o = false → s2 = s1) → (o = true → s2 = performAll s1 g ∧ outstanding s2 g = false) →
      reachLanding s2 g (placesOf size les) = s3 → kfind s3.groups g = some x3 →
      (behindOwn s3 g [] (placesOf size les) = true → LeavesFrom (c.1 d a xr w n o) s s3 g (Stalled x3)) ∧ (
      behindOwn s3 g [] (placesOf size les) = false →
      let opens := c.2 = true ∧ les ≠ []
      ∃ t y sent, exec (c.1 d a xr w n o) s = .next t ∧ OnlyLoads s3 t g y sent ∧
        SameFlights x3 y (if opens then some s3.nextId else none) ∧
        y = { Past s3 x3 4 with
          inFlight := y.inFlight, reach := reachOver x3.reach (les.map (·.2)), algCount := x3.algCount + 1
          acquires := if opens ∧ o = true then x3.acquires ++ [s3.nextId] else x3.acquires } ∧
        Pairwise2 (fun e m => IsEntry s3 g e.2 size n.toNat m ∧ m.desc = desc ∧
          m.operand = leNat ((List.range size).map (storedByte x3 d.toNat unit e.1.idx e.1.lane)) ∧
          m.ret = (if c.2 then [.lane g s3.nextId e.1.lane (d.toNat + unit * e.1.idx) e.1.va false] else []) ∧
          m.key = [s3.dev, (blockOf s3 g).launch, (blockOf s3 g).number, x3.index, e.1.lane, 8 * x3.algCount + e.1.idx]) les sent ∧
        (opens → ∃ f, kfind y.inFlight s3.nextId = some f ∧ f.awaiting = les.length ∧ f.v = [] ∧ f.lanes = x3.em ∧
          f.dst = (d.toNat, unit * cnt) ∧ f.addr = x3.pc))))

/-- R192, R194, R205, R207, R208: alg.load installs the slots and the table of its image for the context and counts its generation, if
the image passes the checks of R194, else raises trap 11 and installs nothing; alg.flush sends one flush for each line of its
elements; alg.gen reads the generation, in flight until the group's earlier entries are applied. -/
def Obligations.AlgebraTables : Prop :=
  ∀ s g x (xr : BitVec 3), Issues s g x →
    let va := (x.xreg xr.toNat).base
    (va.toNat % 64 ≠ 0 → vectorOf s g ≠ 0 → Traps (.algLoad xr) s g x 2 va 0 0) ∧
    (va.toNat % 64 = 0 → ∀ s1 x1 ps, locateImage (endChain s g) g xr.toNat va.toNat = (s1, .ok ps) → kfind s1.groups g = some x1 →
      Answered s1 g ps → Clean s1 g 64 ps → (∀ p ∈ ps, attrAE p.attr = false ∧ inEndpoints p.pa = false) →
      NothingSent s1 g (placesOf64 ps) → arrivalAt s1 g (placesOf64 ps) = false →
      let bs := imageBytes s1 g ps
      ∃ t y, exec (.algLoad xr) s = .next t ∧ kfind t.groups g = some y ∧ t.mem = s1.mem ∧ SameFlights x1 y none ∧
        ((∀ p ∈ ps, mixed t p.pa = false) →
          (ImageOk bs → y = { Past s1 x1 4 with inFlight := y.inFlight, reach := reachOver x1.reach ps } ∧
            (ctxOf t g).gen = (ctxOf s1 g).gen + 1 ∧
            (∀ n < 16, (getTable t (ctxOf t g).table).slot n = BitVec.ofNat 32 (imageSlot bs n)) ∧
            (∀ i < 18, ∀ j < 18, (getTable t (ctxOf t g).table).rel i j = imageNibble bs i j) ∧
            ∀ k, k ≠ (ctxOf t g).table → getTable t k = getTable s1 k) ∧
          (¬ ImageOk bs → vectorOf s1 g ≠ 0 → t.parts = s1.parts ∧ t.algTables = s1.algTables ∧
            Entered s1 g { x1 with inFlight := y.inFlight, reach := reachOver x1.reach ps } y 11 0 x1.pc x1.pc 0 0 x1.em))) ∧
    (∀ (a : BitVec 7) s1 les s2 x2, Legal.offsetOk a = true → MemFits s g [(a.toNat, 1)] →
      Located s g xr.toNat 4 .write (algPage false) (globalRun x xr.toNat a.toNat 1 4) s1 les →
      reachLanding s1 g ((flushLines les).flatMap fun l => (Loc.mem (128 * l.1)).run 128) = s2 → kfind s2.groups g = some x2 →
      ∃ t sent, exec (.algFlush a xr) s = .next t ∧
        OnlyLoads s2 t g { Past s2 x2 4 with reach := reachOver x2.reach (les.map (·.2)) } sent ∧
        (sent.map (·.addr)).Nodup ∧ (∀ e ∈ les, ∃ n ∈ sent, n.addr = 128 * (e.2.pa / 128)) ∧
        ∀ n ∈ sent, n.op = 20 ∧ n.size = 128 ∧ n.groups = [g] ∧ n.core = coreOf s2 g ∧ ∃ e ∈ les, n.addr = 128 * (e.2.pa / 128)) ∧
    ∀ d : BitVec 7, MemFits s g [(d.toNat, 1)] → ∃ y, Leaves (.algGen d) s g y ∧ (x.em = 0 → y = Behind s x 4) ∧ (x.em ≠ 0 → ∃ f,
      y = { Behind s x 4 with inFlight := kput x.inFlight s.nextId f } ∧ f.dst = (d.toNat, 1) ∧ f.gen = some (ctxOf s g).table ∧
      f.awaiting = 0 ∧ f.due = 0 ∧ f.elems = [] ∧ f.s = none ∧
      ∀ l < 32, kfind f.v (32 * d.toNat + l) = if x.active l then some ((ctxOf s g).gen.setWidth 32) else none)

/-- R219, R225 to R229: dset asks the home of each element's region for its bound, the highest lane's where several name one region; a
bound that is negative or not finite raises trap 11; dflush empties the delta lines of the group's own caches and keeps their grants;
dstat asks for the state of each region; an ldv asks the home of each drift region once, with the group's tolerance; tlset and tlget
write and read tl. -/
def Obligations.DriftInstructions : Prop :=
  ∀ s g x (d a : BitVec 7) (xr : BitVec 3), Issues s g x → Legal.offsetOk a = true →
    (∀ (k : BitVec 2) s1 x1 les, d.toNat ≤ 111 → MemFits s g [(d.toNat, 1), (a.toNat, 1)] →
      Located s g xr.toNat 4 .write dsetPage (globalRun x xr.toNat a.toNat 1 4) s1 les → kfind s1.groups g = some x1 →
      ((∀ e ∈ les, boundFits (x1.vreg d.toNat e.1.lane)) → ∀ s2 x2, reachLanding s1 g (placesOf 4 (lastOfRegions les)) = s2 →
        kfind s2.groups g = some x2 → ∃ t sent, exec (.dset d a xr k) s = .next t ∧
        OnlyLoads s2 t g { Past s2 x2 4 with reach := reachOver x2.reach (les.map (·.2)) } sent ∧
        (sent.map fun n => regionOf n.addr).Nodup ∧ (∀ e ∈ les, ∃ n ∈ sent, regionOf n.addr = regionOf e.2.pa) ∧
        ∀ n ∈ sent, ∃ e ∈ les, IsEntry s2 g e.2 4 18 n ∧ n.bound = some (boundStored (x1.vreg d.toNat e.1.lane), k.toNat) ∧
          ∀ f ∈ les, regionOf f.2.pa = regionOf e.2.pa → f.1.lane ≤ e.1.lane) ∧
      ((∃ e ∈ les, ¬ boundFits (x1.vreg d.toNat e.1.lane)) → vectorOf s1 g ≠ 0 →
        TrapsFrom (.dset d a xr k) s s1 g { x1 with x := x.x } 11 0 0 0 x1.em)) ∧
    (∀ s1 x1 ps, MemFits s g [(a.toNat, 1)] →
      let es := (globalRun x xr.toNat a.toNat 1 4).filter fun e => decide (e.va % 4 = 0 ∧ e.va < 2 ^ 56)
      locateMappedAll (endChain s g) g xr.toNat es = (s1, ps) → kfind s1.groups g = some x1 →
      let hits := fun (r : Nat) => ∃ p ∈ ps, isDrift p = true ∧ regionOf p.pa = r
      (∀ r, hits r → NotAsking s1 (coreOf s1 g) r) →
      (∀ e, (e ∈ s1.sent ∨ ∃ l ∈ (getCore s1 (coreOf s1 g)).wcb, e ∈ l.entries) → e.of g = true → ¬ hits (regionOf e.addr)) →
      ∃ t, exec (.dflush a xr) s = .next t ∧ kfind t.groups g = some (Past s1 x1 4) ∧
        t = { s1 with groups := t.groups, holders := t.holders, messages := t.messages, cores := t.cores } ∧
        (∀ c, getCore t c = getCore s1 c) ∧
        ∀ r, hits r → ∀ c, (c = CacheId.l1 (coreOf s1 g) ∨ c = CacheId.l2 (dieOfCore (coreOf s1 g))) → ∀ h k line,
          findHolder s1 c r = some h → h.state = .holding k line →
          (∃ h', findHolder t c r = some h' ∧ h'.state = .holding k {}) ∧
          (line.elems ≠ [] → ∃ m ∈ t.messages, m.cache = c ∧ m.region = r ∧ m.answer = .none ∧
            m.entries = line.entries r (coreOfCache c) [g])) ∧
    (∀ s0 s1 x1 les, d.toNat ≤ 111 → MemFits s g [(d.toNat, 4), (a.toNat, 1)] →
      Located s g xr.toNat 4 .read (fun _ => true) (globalRun x xr.toNat a.toNat 1 4) s0 les → metPoison s0 4 (les.map (·.2)) = s1 →
      kfind s1.groups g = some x1 →
      Answered s1 g (les.map (·.2)) → Clean s1 g 4 (les.map (·.2)) →
      let asked := les.filter fun e => isDrift e.2
      (les = [] → LeavesFrom (.dstat d a xr) s s1 g (Past s1 x1 4)) ∧
      (les ≠ [] → ∀ s2 x2, reachLanding s1 g (placesOf 4 asked) = s2 → kfind s2.groups g = some x2 →
      ∃ t y sent, exec (.dstat d a xr) s = .next t ∧ OnlyLoads s2 t g y sent ∧
        Pairwise2 (fun e n => IsEntry s2 g e.2 4 19 n ∧ n.bound = none ∧ n.ret = [.lane g s2.nextId e.1.lane d.toNat e.1.va false])
          asked sent ∧
        y = { Past s2 x2 4 with inFlight := y.inFlight, reach := reachOver x2.reach (les.map (·.2)) } ∧
        (∀ k, k ≠ s2.nextId → kfind y.inFlight k = kfind x2.inFlight k) ∧
        ∃ f, kfind y.inFlight s2.nextId = some f ∧ f.awaiting = asked.length ∧ f.dst = (d.toNat, 4) ∧ f.addr = x2.pc ∧
          ∀ e ∈ les, isDrift e.2 = false → ∀ j < 4, kfind f.v (32 * (d.toNat + j) + e.1.lane) = some 0)) ∧
    (∀ c ∈ [(Instr.ldv, false), (Instr.ldvAcq, true)], ∀ (w : BitVec 2) s0 s1 x1 les, Legal.loadOk 4 d a w = true →
      MemFits s g [(d.toNat, 2 ^ w.toNat), (a.toNat, 1)] →
      Located s g xr.toNat 4 .read (fun _ => true) (globalRun x xr.toNat a.toNat (2 ^ w.toNat) 4) s0 les →
      metPoison s0 4 (les.map (·.2)) = s1 → kfind s1.groups g = some x1 →
      Answered s1 g (les.map (·.2)) → Clean s1 g 4 (les.map (·.2)) → les ≠ [] →
      (∀ e ∈ les, isDrift e.2 = true ∧ inEndpoints e.2.pa = false) →
      ∀ s2 x2, reachLanding s1 g (placesOf 4 les) = s2 → kfind s2.groups g = some x2 →
      (behindOwn s2 g [] (placesOf 4 les) = true → LeavesFrom (c.1 d a xr w) s s2 g (Stalled x2)) ∧ (
      behindOwn s2 g [] (placesOf 4 les) = false → (∀ e ∈ les, ∀ c, (c = CacheId.l1 (coreOf s2 g) ∨ c = CacheId.l2 (dieOfCore (coreOf s2 g))) →
        findHolder s2 c (regionOf e.2.pa) = none) → ∃ t y sent f,
        exec (c.1 d a xr w) s = .next t ∧ OnlyLoads s2 t g y sent ∧
        (sent.map (·.addr)).Nodup ∧ (∀ e ∈ les, ∃ n ∈ sent, n.addr = 512 * regionOf e.2.pa) ∧
        (∀ n ∈ sent, n.op = 21 ∧ n.size = 512 ∧ n.groups = [g] ∧ n.core = coreOf s2 g ∧ n.tol = x1.tl ∧ (n.asks.map (·.1)).Nodup ∧
          (∀ q ∈ n.asks, n.addr = 512 * regionOf q.1 ∧ q.2 = (les.filter fun e => e.2.pa == q.1).map fun e =>
            .lane g s2.nextId e.1.lane (d.toNat + e.1.idx) e.1.va false) ∧
          ∀ e ∈ les, n.addr = 512 * regionOf e.2.pa → ∃ q ∈ n.asks, q.1 = e.2.pa) ∧
        SameFlights x2 y (some s2.nextId) ∧ kfind y.inFlight s2.nextId = some f ∧ f.awaiting = les.length ∧
        f.dst = (d.toNat, 2 ^ w.toNat) ∧ f.addr = x2.pc ∧
        y = { Past s2 x2 4 with
          inFlight := y.inFlight, reach := reachOver x2.reach (les.map (·.2))
          acquires := if c.2 = true then x2.acquires ++ [s2.nextId] else x2.acquires })) ∧
    (MemFits s g [(d.toNat, 1)] →
      (d.toNat ≤ 111 → ∀ l, LowestLane x l →
        Leaves (.tlset d) s g { Behind s x 4 with tl := toleranceOf (x.vreg d.toNat l) }) ∧
      (d.toNat ≤ 111 → x.em = 0 → Leaves (.tlset d) s g (Behind s x 4)) ∧
      (116 ≤ d.toNat → d.toNat ≤ 124 → Leaves (.tlset d) s g { Behind s x 4 with tl := toleranceOf (src x 0 d.toNat 0 0) }) ∧
      ∃ y, Leaves (.tlget d) s g y ∧ y = { Behind s x 4 with v := y.v } ∧
        ∀ r l, l < 32 → y.vreg r l = if r = d.toNat ∧ x.active l = true then x.tl else x.vreg r l)

/-! ## Waits and gates -/

/-- R93, R124, R128 to R131: a counter wait completes where no more than t operations of its class are not complete, and covers all
but the t youngest; the status form writes and clears the class's status; otherwise the group is Blocked. batch numbers the open
commands, wait.batch covers the batches up to its number, a sleep ends at its deadline, a fence when every earlier access is
performed, and leaves the reach at core. -/
def Obligations.Waits : Prop :=
  ∀ s g x, Issues s g x →
    (∀ (d b : BitVec 6) (i : Bool) (c : BitVec 2),
      let n := if i then b.toNat else min (x.sreg b.toNat).toNat 63
      let cov := coveredOps s g c.toNat n
      let oc := ocOf s g c.toNat
      let Covers := fun (t : State) (y : Group) => OnlyOps s t g y ∧ FlagsOf x y cov ∧
        (∀ k, kfind t.ops k = if (kfind cov k).isSome then none else kfind s.ops k)
      (oc ≤ n → (c = 3 → anyFailed cov = false ∨ bitAt (ctxOf s g).trapEn 10 = false) →
        (∃ t y, exec (.waitOc b i c) s = .next t ∧ Covers t y ∧
          y = { Behind s x 4 with fsr := y.fsr, ferryStatus := y.ferryStatus }) ∧
        ∃ t y, exec (.waitOcSt d b i c) s = .next t ∧ Covers t y ∧
          y = { Behind s x 4 with fsr := y.fsr, ferryStatus := y.ferryStatus, s := y.s, err := y.err, tmo := y.tmo } ∧
          y.sreg d.toNat = BitVec.ofNat 64 (oc + 256 * (x.err.getLsbD c.toNat).toNat + 512 * (x.tmo.getLsbD c.toNat).toNat) ∧
          (∀ r, r ≠ d.toNat → y.sreg r = x.sreg r) ∧
          ∀ k < 4, y.err.getLsbD k = (x.err.getLsbD k && k != c.toNat) ∧ y.tmo.getLsbD k = (x.tmo.getLsbD k && k != c.toNat)) ∧
      (oc ≤ n → c = 3 → anyFailed cov = true → bitAt (ctxOf s g).trapEn 10 = true → vectorOf s g ≠ 0 →
        ∃ t y z, exec (.waitOc b i c) s = .next t ∧ Covers t y ∧ FlagsOf x z cov ∧
          z = { x with fsr := z.fsr, ferryStatus := z.ferryStatus } ∧
          Entered s g z y 10 3 (x.pc + 4) x.pc 0 0 x.em) ∧
      (n < oc → Leaves (.waitOc b i c) s g { x with latch := {}, status := .blocked (.oc c.toNat n none) } ∧
        Leaves (.waitOcSt d b i c) s g { x with latch := {}, status := .blocked (.oc c.toNat n (some d.toNat)) })) ∧
    (∀ d : BitVec 6, ∃ t y, exec (.batch d) s = .next t ∧ OnlyOps s t g y ∧
      y = { Behind s x 4 with s := y.s, lastBatch := x.lastBatch + 1 } ∧ y.sreg d.toNat = BitVec.ofNat 64 (x.lastBatch + 1) ∧
      (∀ r, r ≠ d.toNat → y.sreg r = x.sreg r) ∧
      ∀ k, kfind t.ops k = (kfind s.ops k).map fun o =>
        if o.group = g ∧ o.cls = 1 ∧ o.batch = 0 then { o with batch := x.lastBatch + 1 } else o) ∧
    (∀ a : BitVec 6,
      let n := min (x.sreg a.toNat).toNat x.lastBatch
      let mine := fun (o : Op) => o.group = g ∧ o.cls = 1 ∧ 1 ≤ o.batch ∧ o.batch ≤ n
      ((∀ e ∈ s.ops, mine e.2 → e.2.done ≠ none) → ∃ t y, exec (.waitBatch a) s = .next t ∧ OnlyOps s t g y ∧
        y = { Behind s x 4 with fsr := y.fsr, ferryStatus := y.ferryStatus } ∧
        FlagsOf x y (s.ops.filter fun e => e.2.group == g && e.2.cls == 1 && decide (1 ≤ e.2.batch ∧ e.2.batch ≤ n)) ∧
        (∀ e ∈ t.ops, e ∈ s.ops ∧ ¬ mine e.2) ∧ ∀ e ∈ s.ops, e ∈ t.ops ∨ ∃ f ∈ s.ops, f.1 = e.1 ∧ mine f.2) ∧
      ((∃ e ∈ s.ops, mine e.2 ∧ e.2.done = none) →
        Leaves (.waitBatch a) s g { x with latch := {}, status := .blocked (.batch n) })) ∧
    (∀ (b : BitVec 6) (i : Bool),
      let k := if i then 16 * b.toNat else (x.sreg b.toNat).toNat
      let due := min (s.cycle + k) (2 ^ 64 - 1)
      (k = 0 → s.cycle < 2 ^ 64 → Leaves (.sleep b i) s g (Behind s x 4)) ∧
      (s.cycle < due → Leaves (.sleep b i) s g { x with latch := {}, status := .blocked (.sleep due) })) ∧
    (∀ a : BitVec 6,
      let due := (x.sreg a.toNat).toNat
      (s.cycle < due → Leaves (.sleepUntil a) s g { x with latch := {}, status := .blocked (.sleepUntil due) }) ∧
      (due ≤ s.cycle → (∀ q, x.promise = some q → due < q.cycle) → Leaves (.sleepUntil a) s g (Behind s x 4)) ∧
      (due ≤ s.cycle → ∀ q, x.promise = some q → q.cycle ≤ due →
        (landed s q.op = true → Leaves (.sleepUntil a) s g { Behind s x 4 with promise := none }) ∧
        (landed s q.op = false → vectorOf s g ≠ 0 → ∃ y, Leaves (.sleepUntil a) s g y ∧
          Entered s g { x with promise := none } y 9 0 (x.pc + 4) x.pc 0 0 x.em))) ∧
    ∀ s1 x1, startFence (endChain s g) g = s1 → kfind s1.groups g = some x1 → s1.mem = s.mem ∧
      (outstanding s1 g = false → ∃ t, exec .fence s = .next t ∧ OnlyGroup s1 t g { Behind s1 x1 4 with reach := 0 }) ∧
      (outstanding s1 g = true → ∃ t, exec .fence s = .next t ∧ OnlyGroup s1 t g { x1 with status := .blocked .fence })

/-- R116, R132 to R146, R330: the gate instructions act on the 16 bytes of their gate as the rules give, behind what their group has
stored there; they widen the reach to its level and write no other byte; a reference that fails a check of R133 raises the trap of that
check. A gate.arrive does not wait for its group's earlier accesses or for the gate's die: its arrival does; the others wait, a gate.wait or
gate.twait Blocked. A gate.twait is Blocked for the cycle of its deadline at least (R11).
That the earlier accesses are performed at once where they can be is the model's choice (log entry 16); that sys.trap.vaddr is the 32-bit
offset of the reference is its reading (log entry 30), as is what trap 8 makes the group wait for (log entry 88). -/
def Obligations.Gates : Prop :=
  ∀ s g x0 (a b : BitVec 6) (q : BitVec 5), Issues s g x0 →
    let r := x0.sreg a.toNat
    let c := x0.sreg b.toNat
    let others := [Instr.gateInit a b, .gateArm a, .gateExpect a b, .gateTest a q, .gateTestM a q]
    (∀ s1 x p, settleGate (endChain s g) g r = s1 → kfind s1.groups g = some x → GateAt s1 g x r p → x.s = x0.s →
      let gt := readGate s1 p
      let y := gatePast s1 x r
      let ph := (x.sreg (2 * q.toNat)).getLsbD 0
      let odd := 2 * q.toNat + 1
      let busy := gateBusy s1 g p
      let here := { x with reach := y.reach }
      let SetsOdd := fun (i : Instr) (v : DWord) => ∃ z, LeavesFrom i s s1 g z ∧ z = { y with s := z.s } ∧ z.sreg odd = v ∧
        ∀ j, j ≠ odd → z.sreg j = x.sreg j
      (busy = true → ∀ i, i ∈ others ∨ (i = .gateEnlist a b ∧ c.getLsbD 2 = false) → LeavesFrom i s s1 g (Stalled here)) ∧
      (busy = false →
        (∃ t, exec (.gateInit a b) s = .next t ∧ GateBecomes s1 t g y p { gt with
          expArr := fld c 0 16, pendArr := fld c 0 16, expBytes := fld c 32 32, pendBytes := fld c 32 32
          exitcnt := c.getLsbD 16, armed := false, underflow := false, stale := false, gen := (gt.gen + 1) % 256 }) ∧
        (∃ t, exec (.gateArm a) s = .next t ∧ GateBecomes s1 t g y p { gt with armed := true }) ∧
        (∀ n, n = gt.pendBytes + fld c 32 32 →
          (n < 2 ^ 32 → ∃ t, exec (.gateExpect a b) s = .next t ∧ GateBecomes s1 t g y p { gt with pendBytes := n }) ∧
          (2 ^ 32 ≤ n → ∀ full, full = { gt with pendBytes := 2 ^ 32 - 1, underflow := true } →
            (bitAt (ctxOf s1 g).trapEn 8 = false → ∃ t, exec (.gateExpect a b) s = .next t ∧ GateBecomes s1 t g y p full) ∧
            (bitAt (ctxOf s1 g).trapEn 8 = true → vectorOf s1 g ≠ 0 → ∃ t z, exec (.gateExpect a b) s = .next t ∧
              GateBecomes s1 t g z p full ∧ Entered s1 g here z 8 0 (x.pc + 4) x.pc 0 0 x.em))) ∧
        SetsOdd (.gateTest a q) (if gt.phase ≠ ph then 1 else 0) ∧
        SetsOdd (.gateTestM a q) (if gt.phase ≠ ph then 0xFFFFFFFF else 0) ∧
        (c.getLsbD 2 = false → LeavesFrom (.gateEnlist a b) s s1 g
          { y with enlist := kput x.enlist (fld c 0 2) (r, BitVec.ofNat 8 gt.gen) })) ∧
      (busy = false → gt.phase ≠ c.getLsbD 0 → LeavesFrom (.gateWait a b) s s1 g y) ∧
      (busy = true ∨ gt.phase = c.getLsbD 0 → LeavesFrom (.gateWait a b) s s1 g { here with status := .blocked (.gate r (c.getLsbD 0)) }) ∧
      (busy = false → gt.phase ≠ ph → SetsOdd (.gateTwait a q) 0) ∧
      (busy = true ∨ gt.phase = ph → LeavesFrom (.gateTwait a q) s s1 g
        { here with status := .blocked (.gateT r ph (min (s1.cycle + (x.sreg odd).toNat) (2 ^ 64 - 1)) odd) }) ∧
      ∀ s2 x2, performAll (widenPad s1 g (refLvl r)) g = s2 → kfind s2.groups g = some x2 →
        let old := readGate s2 p
        let now := arrivedGate old (fld c 0 16) (fld c 32 32)
        let under := decide (old.pendArr < fld c 0 16 ∨ old.pendBytes < fld c 32 32)
        (arrivalWaits s2 g p = false → (∀ l ∈ p, ∀ b o, l = .pad b o → (kfind s2.blocks b).isSome) →
          (under = false ∨ bitAt (ctxOf s2 g).trapEn 8 = false → ∃ t, exec (.gateArrive a b) s = .next t ∧
            GateBecomes s2 t g { Past s2 x2 4 with reach := 0 } p now) ∧
          (under = true → bitAt (ctxOf s2 g).trapEn 8 = true → vectorOf s2 g ≠ 0 → ∃ t z, exec (.gateArrive a b) s = .next t ∧
            GateBecomes s2 t g z p now ∧ Entered s2 g { x2 with reach := 0 } z 8 0 (x2.pc + 4) x2.pc 0 0 x2.em)) ∧
        (arrivalWaits s2 g p = true → ∃ t n, exec (.gateArrive a b) s = .next t ∧
          kfind t.groups g = some { Past s2 x2 4 with reach := 0 } ∧ ArrivalKept s2 t g x r (fld c 0 16) (fld c 32 32) none n ∧
          n.addr = x.pc)) ∧
    (c.getLsbD 2 = true → Leaves (.gateEnlist a b) s g { Behind s x0 4 with enlist := kerase x0.enlist (fld c 0 2) }) ∧
    ∀ i, i ∈ others ∨ i ∈ [Instr.gateArrive a b, .gateWait a b, .gateTwait a q] ∨ (i = .gateEnlist a b ∧ c.getLsbD 2 = false) → ∀ s1 x,
        settleGate (endChain s g) g r = s1 → kfind s1.groups g = some x → vectorOf s1 g ≠ 0 →
      let places := padPlaces s1 x.block 0 0 (refLvl r) (refOff r) 16
      let named := refLvl r ≠ 4 ∧ fld r 34 30 = 0
      let va := BitVec.ofNat 64 (refOff r)
      (¬ named → TrapsFrom i s s1 g x 3 0 va 0 0) ∧
      (named → refOff r % 16 ≠ 0 → TrapsFrom i s s1 g x 2 0 va 0 0) ∧
      (named → refOff r % 16 = 0 → places = none → TrapsFrom i s s1 g x 3 0 va 0 0) ∧
      (named → refOff r % 16 = 0 → ∀ p, places = some p → (∃ l ∈ p, isPoisoned s1 l = true ∨ locAnswer s1 l = .error) →
        TrapsFrom i s s1 g x 6 0 va 0 0)

/-- R92, R148, R258: crit.on and crit.off set and clear the mark; exit ends the group, with one participant arriving at each gate that
its enlist table names, if the gate takes exit arrivals and has kept its generation; an arrival that an earlier access of the group or the
gate's die holds is kept (R141); from supervisor mode exit ends the block as failed.
That the earlier accesses are performed at once where they can be is the model's choice (log entry 16). -/
def Obligations.CriticalAndExit : Prop :=
  ∀ s g x, Issues s g x →
    Leaves .critOn s g { Behind s x 4 with critical := true } ∧ Leaves .critOff s g { Behind s x 4 with critical := false } ∧
    ((∀ q ∈ s.openPackets, q.owner ≠ .group g) →
      let Gone := fun (z y : Group) => y = { z with
        status := .exited, critical := false, haltAsked := none, pending := [], inFlight := [], enlist := [], hostWait := none }
      (x.enlist = [] → x.sup = false → ∃ y, Leaves .exit s g y ∧ Gone { x with latch := {} } y) ∧
      (x.enlist = [] → x.sup = true → (getBlock s x.block).ending = none → (kfind s.blocks x.block).isSome →
        ∃ t y, exec .exit s = .next t ∧ kfind t.groups g = some y ∧ y.status = .exited ∧ t.mem = s.mem ∧
          (getBlock t x.block).ending = some .failed) ∧
      ∀ e r n s1 x1 p, x.enlist = [(e, (r, n))] → x.sup = false → performAll (endChain s g) g = s1 → kfind s1.groups g = some x1 →
        GateAt s1 g x1 r p → x1.block = x.block → x1.sup = false → (∀ q ∈ s1.openPackets, q.owner ≠ .group g) →
        let gt := readGate s1 p
        let held := arrivalWaits s1 g p
        ∃ t y, exec .exit s = .next t ∧ Gone x1 y ∧
          (held = false → gt.exitcnt = true → gt.gen = n.toNat → GateBecomes s1 t g y p (arrivedGate gt 1 0)) ∧
          (held = true → gt.exitcnt = true → kfind t.groups g = some y ∧ ∃ k, ArrivalKept s1 t g x1 r 1 0 (some n.toNat) k) ∧
          (gt.exitcnt = false → OnlyGroup s1 t g y))

/-! ## Engine commands -/

/-- R22, R123, R124, R137, R149, R154, R155, R161 to R163: a ferry command comes behind every earlier access of its group; one that passes
its checks is queued, with the generations of its gates, or waits while the class counts 63; it counts, and writes its promise where it
has one. A copy with F takes its successor, a matrix command, along. With em zero it does nothing but write its promise; a check that
fails raises its trap. fy.stat reads the status.
The model's choices: the earlier accesses are performed at once (log entry 16); the promise counts bytes of the source (29); F with em zero
leaves its successor alone (34); trap 0 of V comes before every other check, and a group waits at 63 behind its checks (89). -/
def Obligations.FerryIssue : Prop :=
  ∀ s g x (a b : BitVec 6) (v : BitVec 7), Issues s g x →
    let s1 := performAll (endChain s g) g
    (∀ i ∈ [Instr.fyCopy a b v false false, .fyCopy a b v true false, .fyMcast a b v, .fyGather a b v, .fyFill a b v],
      x.em = 0 → v.toNat < (blockOf s g).regs → Leaves i s g (Behind s x 4)) ∧
    (∀ f, x.em = 0 → v.toNat < (blockOf s g).regs →
      ∃ y, Leaves (.fyCopy a b v f true) s g y ∧ SetsUniform s x y 4 (b.toNat + 1) (BitVec.ofNat 64 s.cycle)) ∧
    (∀ i, (∃ f p, i = Instr.fyCopy a b v f p) ∨ i ∈ [Instr.fyMcast a b v, .fyGather a b v, .fyFill a b v] →
      x.em = 0 → (blockOf s g).regs ≤ v.toNat → vectorOf s g ≠ 0 → Traps i s g x 0 0 0 x.em) ∧
    (∀ c ∈ ferryForms, x.em ≠ 0 →
      (∀ s2 f x2, ferryCheck s1 g c.2.1 a.toNat b.toNat v.toNat = (s2, .ok f) → kfind s2.groups g = some x2 →
        (MayIssue s2 g 0 → ∃ t y o q, exec (c.1 a b v) s = .next t ∧ OnlyOps s2 t g y ∧ AddsOp s2 t s2.nextId o ∧
          NewOp s2 g x2 o 0 .queued ∧ o.body = .ferry q ∧ FerryQueued s2 x2.block f q none ∧
          (c.2.2 b = none → y = { Past s2 x2 4 with ferryCount := x2.ferryCount + 1 }) ∧
          ∀ d, c.2.2 b = some d → Promised (Past s2 x2 4) y d s2.nextId (promisedAt s2 g f)) ∧
        (¬ MayIssue s2 g 0 → LeavesFrom (c.1 a b v) s s2 g (Stalled x2))) ∧
      (∀ s2 x2 num code va, ferryCheck s1 g c.2.1 a.toNat b.toNat v.toNat = (s2, .trap num code va) →
        kfind s2.groups g = some x2 → vectorOf s2 g ≠ 0 → num ≤ 6 →
        TrapsFrom (c.1 a b v) s s2 g x2 num code (BitVec.ofNat 64 va) 0 (if 2 ≤ num then 0 else x2.em))) ∧
    (∀ s2 i cmd ma mb s3 f s4 m x4, x.em ≠ 0 → fetchAt s1 g ((getGroup s1 g).pc + 4).toNat = (s2, .instr i) →
      mxFields i = some (cmd, ma, mb) → ferryCheck s2 g .copy a.toNat b.toNat v.toNat = (s3, .ok f) →
      mxChecked s3 g cmd ma mb = (s4, .ok m) → kfind s4.groups g = some x4 → MayIssue s4 g 0 → ocOf s4 g 1 < 63 → cmd ≠ 5 →
      ∃ t o q om, exec (.fyCopy a b v true false) s = .next t ∧
        OnlyOps s4 t g { Past s4 x4 8 with ferryCount := x4.ferryCount + 1 } ∧
        kfind t.ops (s4.nextId + 1) = some o ∧ NewOp s4 g x4 o 0 .queued ∧ o.body = .ferry q ∧
        FerryQueued s4 x4.block f q (some s4.nextId) ∧
        kfind t.ops s4.nextId = some om ∧ NewOp s4 g x4 om 1 .captured ∧ (∃ n, om.body = .matrix { m with tag := n }) ∧
        ∀ j, j ≠ s4.nextId → j ≠ s4.nextId + 1 → kfind t.ops j = kfind s4.ops j) ∧
    ∃ y, Leaves (.fyStat b) s g y ∧ SetsUniform s x y 4 b.toNat x.ferryStatus

/-- R118, R123, R124, R167, R171 to R173, R178: a matrix command comes behind every earlier access of its group; one that passes its
checks joins the order of its tile, with its control word and its reference, or waits while the class counts 63; an mx.scale also records
the modes that later commands are checked with. A tile that the block does not have raises trap 3, a control word with a bit that the
command does not use trap 0.
The model's choices: the earlier accesses are performed at once (log entry 16); trap 3 about a tile saves address 0 (35); a group waits at 63
behind its checks (89). -/
def Obligations.MatrixIssue : Prop :=
  ∀ c ∈ matrixForms, ∀ (a b : BitVec 6) s g x0, Issues s g x0 → ∀ s1 x, performAll (endChain s g) g = s1 → kfind s1.groups g = some x →
    let w := x.sreg b.toNat
    (∀ m, mxCheck s1 g c.2 (if c.2 = 2 then 0 else a.toNat) b.toNat = .ok m → gateHeld s1 x.block m.gate = false →
      m.cmd = c.2 ∧ m.ctl = w ∧ (c.2 ≠ 2 → m.ref = x.sreg a.toNat) ∧
      (¬ MayIssue s1 g 1 → LeavesFrom (c.1 a b) s s1 g (Stalled x)) ∧
      (MayIssue s1 g 1 → ∃ t o n, exec (c.1 a b) s = .next t ∧ AddsOp s1 t s1.nextId o ∧ NewOp s1 g x o 1 .ordered ∧
        o.body = .matrix { m with tag := n } ∧
        (∀ r p, m.gate = some r → gatePlaces s1 x.block r = .ok p → n = (readGate s1 p).gen) ∧
        (c.2 ≠ 5 → OnlyOps s1 t g (Past s1 x 4)) ∧
        (c.2 = 5 → kfind t.groups g = some (Past s1 x 4) ∧
          t = { s1 with groups := t.groups, ops := t.ops, nextId := t.nextId, blocks := t.blocks } ∧
          ∀ blk, kfind s1.blocks x.block = some blk → ∃ k, kfind t.blocks x.block = some { blk with issuedScales := k } ∧
            ∀ i, kfind k i = if i = fld w 0 2 then some (w.getLsbD 8, w.getLsbD 9) else kfind blk.issuedScales i))) ∧
    (vectorOf s1 g ≠ 0 → 1 ≤ c.2 → c.2 ≠ 5 → (getBlock s1 x.block).tiles ≤ fld w 8 4 → TrapsFrom (c.1 a b) s s1 g x 3 0 0 0 0) ∧
    (vectorOf s1 g ≠ 0 → (1 ≤ c.2 → c.2 ≠ 5 → fld w 8 4 < (getBlock s1 x.block).tiles) → w &&& ~~~(mxUsed c.2 w) ≠ 0 →
      TrapsFrom (c.1 a b) s s1 g x 0 0 0 0 x.em)

/-- R121, R235 to R239, R246: amp.bind reads a state record into a handle, or empties it, once the handle's operations are complete; a
command on a bound handle comes behind every earlier access of its group; one that passes its checks is queued, or waits while the class
counts 63, and the handle's map and count go on; a matrix is read from its pad at issue, which widens the reach to it; without a handle it
raises trap 0. amp.map reads a physical position.
That the earlier accesses are performed at once is the model's choice (log entry 16). -/
def Obligations.AmplitudeIssue : Prop :=
  ∀ s g x (a b : BitVec 6), Issues s g x →
    let w := x.sreg b.toNat
    let h := fld w 0 2
    (vectorOf s g ≠ 0 → fld w 2 62 ≠ 0 → Traps (.ampBind a b) s g x 0 0 0 x.em) ∧
    (fld w 2 62 = 0 → handleBusy s g h = true →
      Leaves (.ampBind a b) s g { x with latch := {}, status := .blocked (.bind h) }) ∧
    (fld w 2 62 = 0 → handleBusy s g h = false → x.sreg a.toNat = 0 →
      Leaves (.ampBind a b) s g { Behind s x 4 with handles := kerase x.handles h }) ∧
    (fld w 2 62 = 0 → handleBusy s g h = false → x.sreg a.toNat ≠ 0 → ∀ s1 raw x1,
      readState (endChain s g) g (x.sreg a.toNat).toNat = (s1, .ok raw) → kfind s1.groups g = some x1 →
      recLegal raw s1.dev = true ∧ LeavesFrom (.ampBind a b) s s1 g { Past s1 x1 4 with
        handles := kput x1.handles h { record := x.sreg a.toNat, raw := raw, map := recMap raw } }) ∧
    (∀ c ∈ ampForms, ∀ s1 x1, performAll (endChain s g) g = s1 → kfind s1.groups g = some x1 →
      let w1 := x1.sreg a.toNat
      let hn := fld w1 26 2
      (vectorOf s1 g ≠ 0 → kfind x1.handles hn = none → TrapsFrom (c.1 a b) s s1 g x1 0 0 0 0 x1.em) ∧
      (∀ o, ampCheck s1 g c.2 a.toNat (if c.2 = 3 then 0 else b.toNat) = .ok o →
        (¬ MayIssue s1 g 2 → LeavesFrom (c.1 a b) s s1 g (Stalled x1)) ∧
        (MayIssue s1 g 2 → o.cmd = c.2 ∧ o.handle = hn ∧ ∃ hd, kfind x1.handles hn = some hd ∧ o.record = hd.record ∧
          o.count = hd.count + 1 ∧ o.before = hd.map ∧ ∃ t op oa, exec (c.1 a b) s = .next t ∧ AddsOp s1 t s1.nextId op ∧
            NewOp s1 g x1 op 2 .queued ∧ op.body = .amp oa ∧ oa = { o with spoilt := oa.spoilt, runs := oa.runs } ∧
            OnlyOps s1 t g { Past s1 x1 4 with
              handles := kmodify x1.handles hn fun k => { k with map := o.after, count := o.count }
              reach := if c.2 ≤ 2 then max x1.reach (padScope (fld w1 28 2 + 1)) else x1.reach }))) ∧
    (∀ hd, kfind x.handles (fld (x.sreg a.toNat) 26 2) = some hd → operandLegal 6 (x.sreg a.toNat) 0 hd = true →
      ∃ y, Leaves (.ampMap a b) s g y ∧
        SetsUniform s x y 4 b.toNat (BitVec.ofNat 64 ((hd.map[fld (x.sreg a.toNat) 0 6]?).getD 0)))

/-- R253, R255, R259 to R268: a class x command sends a packet to the device that its address names, behind every earlier access of its
group, and counts as an operation that waits for that device; what a lane load or a returning entry brings back is in flight. With
em zero a command with lanes does nothing; a misaligned address raises trap 2.
That the earlier accesses are performed at once is the model's choice (log entry 16). -/
def Obligations.FabricIssue : Prop :=
  ∀ s g x (a b : BitVec 6) (v : BitVec 7) (w : Bool), Issues s g x →
    let at_ := x.sreg a.toNat
    let dev := fld at_ 46 18
    let base := fld at_ 0 46
    let size := if w then 8 else 4
    let desc := (getTable s (ctxOf s g).table).slot (x.sreg b.toNat).toNat
    let esize := slotSize desc
    let slotOk := (x.sreg b.toNat).toNat ≤ 15 ∧ slotV desc = true ∧
      (esize = 8 → v.toNat % 2 = 0 ∧ v.toNat + 1 < (blockOf s g).regs)
    let runs := v.toNat + size / 4 ≤ (blockOf s g).regs
    let Awaits := fun (s2 : State) (x2 y : Group) (unit : Nat) => ∃ f, kfind y.inFlight s2.nextId = some f ∧
      (∀ k, k ≠ s2.nextId → kfind y.inFlight k = kfind x2.inFlight k) ∧ f.dst = (v.toNat, unit) ∧ f.awaiting = 1 ∧ f.addr = x2.pc
    (∀ i ∈ [Instr.rld a v w, .rst a v w], runs → (x.em = 0 → at_.toNat % size = 0 → Leaves i s g (Behind s x 4)) ∧
      (vectorOf s g ≠ 0 → at_.toNat % size ≠ 0 → Traps i s g x 2 at_ 0 0)) ∧
    (∀ i ∈ [Instr.ralg a b v, .ralgRet a b v], v.toNat < (blockOf s g).regs →
      (vectorOf s g ≠ 0 → ¬ slotOk → Traps i s g x 11 0 0 x.em) ∧
      (vectorOf s g ≠ 0 → slotOk → at_.toNat % esize ≠ 0 → Traps i s g x 2 at_ 0 0) ∧
      (slotOk → at_.toNat % esize = 0 → x.em = 0 → Leaves i s g (Behind s x 4))) ∧
    (∀ s2 x2, Released (endChain s g) g s2 x2 → ocOf s2 g 3 < 63 → route s2 dev = .open_ → x.em ≠ 0 →
      (runs → at_.toNat % size = 0 →
        (∃ t y o, exec (.rld a v w) s = .next t ∧
          FabricIssued s2 t g y [packetOf s2 g (s2.nextId + 1) dev (.read base (size * (rankedLanes x).length))] ∧
          AddsOp s2 t (s2.nextId + 1) o ∧ NewOp s2 g x2 o 3 .pending ∧ o.body = .fabric {
            cmd := 0, waiting := [dev], size := size, lanes := (rankedLanes x).map (·.1), reg := v.toNat, slot := some s2.nextId } ∧
          y = { Past s2 x2 4 with inFlight := y.inFlight, sinceFence := x2.sinceFence ++ [(dev, s2.nextId + 1)] } ∧
          Awaits s2 x2 y (size / 4)) ∧
        ∃ t y o, exec (.rst a v w) s = .next t ∧
          FabricIssued s2 t g y [packetOf s2 g s2.nextId dev (.write ((rankedLanes x).flatMap fun l =>
            (List.range size).map fun k => (base + l.2 * size + k, storedByte x v.toNat (size / 4) 0 l.1 k)) false)] ∧
          AddsOp s2 t s2.nextId o ∧ NewOp s2 g x2 o 3 .pending ∧ o.body = .fabric { cmd := 1, waiting := [dev] } ∧
          y = { Past s2 x2 4 with sinceFence := x2.sinceFence ++ [(dev, s2.nextId)] }) ∧
      (v.toNat < (blockOf s g).regs → slotOk → at_.toNat % esize = 0 →
        let es := (rankedLanes x).map fun l => (base + l.2 * esize,
          if esize = 8 then x.vreg (v.toNat + 1) l.1 ++ x.vreg v.toNat l.1 else (x.vreg v.toNat l.1).setWidth 64)
        (∃ t y o, exec (.ralg a b v) s = .next t ∧ FabricIssued s2 t g y [packetOf s2 g s2.nextId dev (.alg (x.sreg b.toNat).toNat desc false es)] ∧
          AddsOp s2 t s2.nextId o ∧ NewOp s2 g x2 o 3 .pending ∧
          y = { Past s2 x2 4 with sinceFence := x2.sinceFence ++ [(dev, s2.nextId)] }) ∧
        ∃ t y o, exec (.ralgRet a b v) s = .next t ∧
          FabricIssued s2 t g y [packetOf s2 g (s2.nextId + 1) dev (.alg (x.sreg b.toNat).toNat desc true es)] ∧
          AddsOp s2 t (s2.nextId + 1) o ∧ NewOp s2 g x2 o 3 .pending ∧
          y = { Past s2 x2 4 with inFlight := y.inFlight, sinceFence := x2.sinceFence ++ [(dev, s2.nextId + 1)] } ∧
          Awaits s2 x2 y (max 1 (esize / 4)))) ∧
    (vectorOf s g ≠ 0 → at_.toNat % 8 ≠ 0 → Traps (.rfenceFlag a b) s g x 2 at_ 0 0) ∧
    (at_.toNat % 8 = 0 → ∀ s2 x2, Released (endChain s g) g s2 x2 → ocOf s2 g 3 < 63 → ∃ t o z, exec (.rfenceFlag a b) s = .next t ∧
      OnlyOps s2 t g { Past s2 x2 4 with sinceFence := x2.sinceFence.filter fun e => e.1 != dev } ∧
      AddsOp s2 t s2.nextId o ∧ NewOp s2 g x2 o 3 .queued ∧ o.body = .fabric z ∧ z.cmd = 3 ∧ z.waiting = [dev] ∧ z.addr = at_ ∧
      z.value = x2.sreg b.toNat ∧ z.first = (x2.sinceFence.filter fun e => e.1 == dev).map (·.2) ∧
      ∀ k, k ∈ z.after ↔ (∃ e ∈ s2.ops, e.1 = k ∧ e.2.group = g ∧ e.2.cls = 3) ∧ ∃ p q, kfind s2.ops k = some p ∧
        p.body = .fabric q ∧ p.done = none ∧ q.cmd ≤ 5 ∧ q.cmd ≠ 3 ∧ dev ∈ q.waiting)

/-- R259, R266 to R268: coll.put sends each device the words of the lanes that name it, coll.acc names the tile and the target of its
contribution, dred its slot, its destination and its vector; each comes behind every earlier access of its group.
The model's choices: the earlier accesses are performed at once (log entry 16); coll.acc's trap 3 about a tile saves address 0 (35). -/
def Obligations.Collectives : Prop :=
  ∀ s g x, Issues s g x →
    (∀ v : BitVec 5,
      let r := 4 * v.toNat
      let dev := fun (l : Nat) => fld (x.vreg (r + 1) l) 0 18
      let addr := fun (l : Nat) => (x.vreg (r + 2) l).toNat + fld (x.vreg (r + 3) l) 0 14 * 2 ^ 32
      let lanes := (List.range 32).filter x.active
      let elem := fun (l : Nat) => { lane := l, idx := 0, va := addr l + dev l * 2 ^ 46, off := 0 : Elem }
      let named := fun (l : Nat) => fld (x.vreg (r + 1) l) 18 14 == 0 && fld (x.vreg (r + 3) l) 14 18 == 0
      r + 4 ≤ (blockOf s g).regs →
      (vectorOf s g ≠ 0 → (lanes.filter fun l => !named l) ≠ [] →
        TrapsFor (.collPut v) s g x 5 ((lanes.filter fun l => !named l).map elem)) ∧
      (vectorOf s g ≠ 0 → (∀ l ∈ lanes, named l = true) → (lanes.filter fun l => addr l % 4 != 0) ≠ [] →
        TrapsFor (.collPut v) s g x 2 ((lanes.filter fun l => addr l % 4 != 0).map elem)) ∧
      (x.em = 0 → Leaves (.collPut v) s g (Behind s x 4)) ∧
      (x.em ≠ 0 → (∀ l ∈ lanes, named l = true ∧ addr l % 4 = 0) → ∀ s2 x2, Released (endChain s g) g s2 x2 → ocOf s2 g 3 < 63 →
        (∀ l ∈ lanes, route s2 (dev l) = .open_) →
        ∃ devs t o, devs.Nodup ∧ (∀ d, d ∈ devs ↔ ∃ l ∈ lanes, dev l = d) ∧ exec (.collPut v) s = .next t ∧
          FabricIssued s2 t g { Past s2 x2 4 with sinceFence := x2.sinceFence ++ devs.map fun d => (d, s2.nextId) }
            (devs.map fun d => packetOf s2 g s2.nextId d (.write ((lanes.filter fun l => dev l == d).flatMap fun l =>
              (List.range 4).map fun k => (addr l + k, storedByte x r 1 0 l k)) false)) ∧
          AddsOp s2 t s2.nextId o ∧ NewOp s2 g x2 o 3 .pending ∧ o.body = .fabric { cmd := 4, waiting := devs })) ∧
    (∀ (a : BitVec 5) (b : BitVec 6),
      let t0 := x.sreg (2 * a.toNat)
      let c := x.sreg b.toNat
      let legal := t0.getLsbD 32 = false ∧ c &&& ~~~0xFFFF000F = 0
      (vectorOf s g ≠ 0 → ¬ legal → Traps (.collAcc a b) s g x 0 0 0 x.em) ∧
      (vectorOf s g ≠ 0 → legal → (blockOf s g).tiles ≤ fld c 0 4 → Traps (.collAcc a b) s g x 3 0 0 0) ∧
      (legal → fld c 0 4 < (blockOf s g).tiles → ∀ s2 x2, Released (endChain s g) g s2 x2 → ocOf s2 g 3 < 63 →
        ∃ t y o, OnlyOps s2 t g y ∧ exec (.collAcc a b) s = .next (advance (readTiles t g) g 4) ∧
          AddsOp s2 t s2.nextId o ∧ NewOp s2 g x2 o 3 .queued ∧
          y = { x2 with sinceFence := x2.sinceFence ++ [(fld t0 46 18, s2.nextId)] } ∧
          o.body = .fabric {
            cmd := 5, waiting := [fld t0 46 18], tile := fld c 0 4
            target := [fld t0 46 18, fld t0 33 9, (x.sreg (2 * a.toNat + 1)).toNat, fld t0 0 32, fld t0 42 4, fld c 16 16] })) ∧
    ∀ (a b : BitVec 6) (v : BitVec 7),
      let c := x.sreg a.toNat
      let d := x.sreg b.toNat
      let legal := c.getLsbD 11 = false ∧ c.getLsbD 7 = false ∧ fld c 18 6 ≤ fld c 12 6
      v.toNat < (blockOf s g).regs →
      (vectorOf s g ≠ 0 → ¬ legal → Traps (.dred a b v) s g x 0 0 0 x.em) ∧
      (vectorOf s g ≠ 0 → legal → d.toNat % 256 ≠ 0 → Traps (.dred a b v) s g x 2 d 0 0) ∧
      (vectorOf s g ≠ 0 → legal → d.toNat % 256 = 0 → 2 ^ 56 ≤ d.toNat → Traps (.dred a b v) s g x 5 d 0 0) ∧
      (legal → d.toNat % 256 = 0 → d.toNat < 2 ^ 56 → ∀ s2 x2, Released (endChain s g) g s2 x2 → ocOf s2 g 3 < 63 →
        ∃ t o, exec (.dred a b v) s = .next t ∧ OnlyOps s2 t g (Past s2 x2 4) ∧ AddsOp s2 t s2.nextId o ∧
          NewOp s2 g x2 o 3 .queued ∧ o.body = .fabric {
            cmd := 6, control := c, addr := d, data := (List.range 32).map fun l => x.vreg v.toNat l })

/-! ## Privileged instructions -/

/-- R39: in user mode every privileged instruction raises trap 5 at its own address and has none of its effect. -/
def Obligations.UserModeTraps : Prop :=
  ∀ i, IsPrivileged i → ∀ s g x, Issues s g x → x.sup = false → vectorOf s g ≠ 0 → Traps i s g x 5 0 0 0

/-- R292, R293, R300, R315: in supervisor mode sysrd reads and syswr writes a system register, which reads back in the bits that it
has; an event register clears the bits written as 1; an unlisted number, or a write to a read-only one, raises trap 0. A write of
sys.pool.left that leaves frames raises event bit 2. -/
def Obligations.SystemRegisters : Prop :=
  (∀ s g x (d a : BitVec 6) (r : BitVec 12), Issues s g x → x.sup = true →
    (Legal.sysListed r = true → ∃ y, Leaves (.sysrd d r) s g y ∧ SetsUniform s x y 4 d.toNat (sysRead s g r.toNat)) ∧
    (∀ e ∈ sysReads s g x, sysRead s g e.1 = e.2) ∧
    (vectorOf s g ≠ 0 → Legal.sysListed r = false → Traps (.sysrd d r) s g x 0 0 0 x.em) ∧
    (vectorOf s g ≠ 0 → (Legal.sysListed r = false ∨ Legal.sysReadOnly r = true) → Traps (.syswr r a) s g x 0 0 0 x.em) ∧
    (Legal.sysListed r = true → Legal.sysReadOnly r = false → (blockOf s g).shadow = false →
      let v := x.sreg a.toNat
      ∃ t y, exec (.syswr r a) s = .next t ∧ kfind t.groups g = some y ∧
        y = { Behind s x 4 with trap := y.trap, scratch := y.scratch } ∧
        (∀ h, h ≠ g → kfind t.groups h = kfind s.groups h) ∧ (∀ q, q ≠ partOf s g → getPart t q = getPart s q) ∧
        t = { s with groups := t.groups, parts := t.parts } ∧
        (r.toNat ≠ 0x045 → r.toNat ≠ 0x085 → sysRead t g r.toNat = v &&& sysMask r.toNat) ∧
        ((r.toNat = 0x045 ∨ r.toNat = 0x085) → ∀ b < 4, (sysRead t g r.toNat).getLsbD b =
          ((sysRead s g r.toNat).getLsbD b && !v.getLsbD b)))) ∧
  ∀ s p (v : DWord),
    (∃ t, exec (.sysEvtClear p v) s = .next t ∧ (∀ b < 4, bitAt (getPart t p).ctx.evt b = (bitAt (getPart s p).ctx.evt b && !v.getLsbD b)) ∧
      t = { s with parts := t.parts } ∧ ∀ q, q ≠ p → getPart t q = getPart s q) ∧
    ∃ t, exec (.poolLeftWrite p v) s = .next t ∧ (getPart t p).poolLeft = v.toNat ∧
      (v ≠ 0 → bitAt (getPart t p).ctx.evt 2 = true) ∧ (v = 0 → (getPart t p).ctx = (getPart s p).ctx) ∧
      t = { s with parts := t.parts } ∧ ∀ q, q ≠ p → getPart t q = getPart s q

/-- R296, R297, R312, R315: xinval sets the limit of the translation registers that cover its range to 0 and leaves their bases;
tlb.inv is Blocked until every access of the partition is performed, then also drops every TLB entry that maps an address of the range, and
resets the drift regions of every frame that a translation of the range named when it began or names then.
pgmap maps a first-touch page with a zeroed frame of the pool, and else reports why not.
That the cached translations of the ingress table go with every translation of the slot, and that what is known of pages of narrow scope
goes with their frames, are the model's readings (log entries 91, 100). -/
def Obligations.PageMaintenance : Prop :=
  ∀ s g x (d a : BitVec 6), Issues s g x → x.sup = true →
    let w := x.sreg a.toNat
    let p := partOf s g
    let s0 := endChain s g
    let Dropped := fun (gs : List Nat) (lo hi : Nat) (s1 t : State) =>
      (∀ h z, kfind s1.groups h = some z → ∃ y, kfind t.groups h = some y ∧ y = { z with x := y.x } ∧ ∀ j,
        y.xreg j = if h ∈ gs ∧ (z.xreg j).meets lo hi = true then { base := (z.xreg j).base } else z.xreg j)
    (vectorOf s g ≠ 0 → invRange w = none → ∀ i ∈ [Instr.tlbInv a, .xinval a], Traps i s g x 0 0 0 x.em) ∧
    (∀ lo hi, invRange w = some (lo, hi) →
      (∃ t, exec (.xinval a) s = .next (advance t g 4) ∧
        Dropped (if w.getLsbD 3 then shadowGroups s0 p else runningGroups s0 p fun _ => true) lo hi s0 t ∧
        t = { s0 with groups := t.groups }) ∧
      (w.getLsbD 3 = true → ∃ t, exec (.tlbInv a) s = .next (advance t g 4) ∧ Dropped (shadowGroups s0 p) lo hi s0 t ∧
        t = { s0 with groups := t.groups }) ∧
      (w.getLsbD 3 = false → ∀ s1, performPart s0 p = s1 →
        let held := (heldFrames s0 p lo hi).eraseDups
        (partPending s1 p = true → exec (.tlbInv a) s = .next (block s1 g (.tlbInv w held))) ∧
        (partPending s1 p = false → ∃ t, exec (.tlbInv a) s = .next (advance (forgetScopes
            (resetFrames t (held ++ shotFrames s1 p lo hi).eraseDups) (unmapped s1 p lo hi)) g 4) ∧
          Dropped (runningGroups s1 p fun _ => true) lo hi s1 t ∧
          (∀ c, (getPart s1 p).dies.contains (dieOfCore c) = true → ∀ e ∈ (getCore t c).tlb, e.meets lo hi = false) ∧
          (∀ i, (getPart s1 p).dies.contains i = true → ∀ e ∈ (getDie t i).tlb, e.meets lo hi = false) ∧
          (∀ q, q ≠ p → getPart t q = getPart s1 q) ∧ getPart t p = { getPart s1 p with ingressTlb := (getPart t p).ingressTlb } ∧
          (getPart t p).ingressTlb = (if lo = 0 ∧ hi = 2 ^ 56 then [] else (getPart s1 p).ingressTlb) ∧
          t = { s1 with groups := t.groups, cores := t.cores, dies := t.dies, parts := t.parts }))) ∧
    (let Reports := fun (s1 t : State) (n : DWord) => ∀ x1, kfind s1.groups g = some x1 →
      ∃ y, OnlyGroup s1 t g y ∧ SetsUniform s1 x1 y 4 d.toNat n
    (2 ^ 56 ≤ w.toNat → ∃ t, exec (.pgmap d a) s = .next t ∧ Reports s0 t 3) ∧
    ∀ s1 x1, w.toNat < 2 ^ 56 → settleRoot s0 (some g) (getPart s p).ctx.ptroot w.toNat = s1 → kfind s1.groups g = some x1 → ∀ q,
      walkRoot s1 (getPart s p).ctx.ptroot w.toNat = q →
      (∀ l e v, q = .leaf l e v → ∃ t, exec (.pgmap d a) s = .next t ∧ Reports s1 t 2) ∧
      (∀ k l e v, q = .stop k l e v → (k ≠ 1 ∨ l ≠ 4) → ∃ t, exec (.pgmap d a) s = .next t ∧ Reports s1 t 3) ∧
      (∀ e v, q = .stop 1 4 e v → (getPart s1 p).poolLeft = 0 → ∃ t y, exec (.pgmap d a) s = .next t ∧ kfind t.groups g = some y ∧
        SetsUniform s1 x1 y 4 d.toNat 1 ∧ (getPart t p).poolSignalled = true) ∧
      ∀ e v, q = .stop 1 4 e v → (getPart s1 p).poolLeft ≠ 0 →
        let f := bitsOf (readWord64 s1 (getPart s1 p).poolHead) 16 30 * 65536
        (e + 8 ≤ f ∨ f + 65536 ≤ e) →
        ∃ t y, exec (.pgmap d a) s = .next t ∧ kfind t.groups g = some y ∧ SetsUniform s1 x1 y 4 d.toNat 0 ∧
          readWord64 t e = v / 2 ^ 46 * 2 ^ 46 + f + v % 2 ^ 15 + 1 ∧ (∀ b, f ≤ b → b < f + 65536 → memRead t.mem b = 0) ∧
          (∀ b, (b < e ∨ e + 8 ≤ b) → (b < f ∨ f + 65536 ≤ b) → memRead t.mem b = memRead s1.mem b) ∧
          (getPart t p).poolLeft + 1 = (getPart s1 p).poolLeft ∧ (getPart t p).poolHead = ((getPart s1 p).poolHead + 8) % 2 ^ 64)

/-- R299 to R303, R336: fret restores the program counter, em and the mode of the trap record, and raises trap 2 for a saved address
that no instruction has; wfi waits for an event of its mask; halt asks every other group of the running context on its dies and
stops dispatch there; ctx.swap and ctx.kill report an empty slot or meeting shares, and else exchange or empty the slots.
The model's choices: a slot is empty when its context number is 0 (log entry 12); fret marks the head of what its group serves as served (43). -/
def Obligations.SupervisorControl : Prop :=
  ∀ s g x (d a : BitVec 6), Issues s g x → x.sup = true →
    let p := partOf s g
    let back := { x with
      pc := x.trap.pc, em := x.trap.em.setWidth 32, sup := bitAt x.trap.cause.toNat 16, latch := {}, serving := x.serving.drop 1 }
    (x.trap.pc.toNat % 2 = 0 → x.trap.pc.toNat < 2 ^ 56 → ∃ t, exec .fret s = .next t ∧ kfind t.groups g = some back ∧
      t = { s with groups := t.groups, ops := t.ops } ∧
      (∀ h, h ≠ g → kfind t.groups h = kfind s.groups h) ∧ ∀ k, kfind t.ops k = (kfind s.ops k).map fun o =>
        if x.serving.head? = some (some k) then { o with fault := o.fault.map fun f => { f with served := true } } else o) ∧
    (¬ (x.trap.pc.toNat % 2 = 0 ∧ x.trap.pc.toNat < 2 ^ 56) → vectorOf s g ≠ 0 → Traps .fret s g x 2 x.trap.pc 0 0) ∧
    (let mask := fld (x.sreg a.toNat) 0 16
    let evt := (getPart s p).ctx.evt
    (evt &&& mask ≠ 0 → ∃ y, Leaves (.wfi d a) s g y ∧ SetsUniform s x y 4 d.toNat (BitVec.ofNat 64 evt)) ∧
    (evt &&& mask = 0 → Leaves (.wfi d a) s g { x with latch := {}, status := .blocked (.wfi mask d.toNat) })) ∧
    (let mask := fld (x.sreg a.toNat) 0 8
    let dies := (getPart s p).dies.filter fun i => bitAt mask i
    let named := haltNamed s g dies
    (named = [] → ∃ t y, exec (.halt d a) s = .next t ∧ kfind t.groups g = some y ∧
      SetsUniform s x y 4 d.toNat (BitVec.ofNat 64 (dies.foldl (fun n i => n + 2 ^ i) 0)) ∧
      ∀ i ∈ dies, (getDie t i).stopped = true) ∧
    ((∃ h ∈ named, ∃ z, kfind s.groups h = some z ∧ isHalted z = false) →
      ∃ t, exec (.halt d a) s = .next t ∧
        kfind t.groups g = some { x with latch := {}, status := .blocked (.halt mask d.toNat) } ∧
        (∀ h ∈ named, Asked t h) ∧ (∀ i ∈ dies, (getDie t i).stopped = true) ∧ t.mem = s.mem)) ∧
    ((getPart s p).sh.id = 0 → ∀ i ∈ [Instr.ctxSwap d, .ctxKill d], ∃ y, Leaves i s g y ∧ SetsUniform s x y 4 d.toNat 1) ∧
    ((getPart s p).sh.id ≠ 0 →
      let meet := sharesMeet (getPart s p).ctx (getPart s p).sh
      (meet = true → ∃ y, Leaves (.ctxSwap d) s g y ∧ SetsUniform s x y 4 d.toNat 2) ∧
      (meet = false → (∃ h ∈ runningGroups s p (fun h => h != g), ∃ z, kfind s.groups h = some z ∧ isHalted z = false) →
        ∃ t y, exec (.ctxSwap d) s = .next t ∧ kfind t.groups g = some y ∧ y.status = .blocked (.swap d.toNat) ∧
          (∀ h ∈ runningGroups s p (fun h => h != g), Asked t h) ∧ t.mem = s.mem) ∧
      (meet = false → (kfind s.blocks x.block).map Block.shadow = some false → runningGroups s p (fun h => h != g) = [] → (∀ e ∈ s.blocks, e.2.damaged = false) →
        ∀ s1, drainLines (fixLoads (markFiring (stopDispatch (endChain s g) (getPart s p).dies) fun o => o.group == g) g) (coreOf s g)
          (fun l => l.of g) = s1 → groupSettled s1 g = true →
        ∃ t y, exec (.ctxSwap d) s = .next t ∧ kfind t.groups g = some y ∧ y.status = .halted none ∧ y.pc = x.pc + 4 ∧
          y.sreg d.toNat = 0 ∧ SameSlot (getPart t p).ctx (getPart s p).sh ∧ SameSlot (getPart t p).sh (getPart s p).ctx ∧
          ∀ b blk, kfind s.blocks b = some blk → blk.part = p →
            ∃ c, kfind t.blocks b = some c ∧ c.shadow = !blk.shadow) ∧
      ∀ s1, killContext (endChain s g) p = s1 → (getPart s1 p).sh = {} ∧
        (∀ b blk, kfind s.blocks b = some blk → blk.part = p → blk.shadow = true → kfind s1.blocks b = none) ∧
        exec (.ctxKill d) s = .next (advance (modGroup s1 g fun y => y.setS d.toNat 0) g 4))

/-- R304, R347 to R351: die.ctl takes an operation only in the states that the rule lists, and then moves the die to the state of the
operation; else it reports the state with bit 4 set. Operation 2 asks the die's groups to halt, begins to end their blocks, and is Blocked
until none of them is left there. A reserved operand raises trap 0, a die of another partition trap 5.
The model's choices: operation 2 is Blocked until every block has left the die (log entry 48); the shadow slot that operation 6 needs empty is
so when its number is 0 (12). -/
def Obligations.DieControl : Prop :=
  ∀ s g x (d a : BitVec 6) i, IsDieCtl i d a → Issues s g x → x.sup = true →
    let w := x.sreg a.toNat
    let die := fld w 0 3
    let op := fld w 8 4
    let p := partOf s g
    let s0 := endChain s g
    let named := runningGroups s p fun h => dieOf s h == die
    let word := fun (q : State) => (getDie q die).state + (if (getDie q die).stray then 256 else 0)
    let legal := w.toNat = die + 256 * op ∧ op ≤ 9
    let mine := die ∈ (getPart s p).dies
    let takes := DieTakes op (getDie s die).state (dieOf s g == die) ((getPart s p).sh.id == 0)
    (vectorOf s g ≠ 0 → ¬ legal → Traps i s g x 0 0 0 x.em) ∧
    (vectorOf s g ≠ 0 → legal → ¬ mine → Traps i s g x 5 0 0 0) ∧
    (legal → mine → ¬ takes → ∃ y, Leaves i s g y ∧ SetsUniform s x y 4 d.toNat (BitVec.ofNat 64 (word s + 16))) ∧
    (legal → mine → takes → op = 0 → ∃ y, Leaves i s g y ∧ SetsUniform s x y 4 d.toNat (BitVec.ofNat 64 (word s))) ∧
    (legal → mine → takes → op ≠ 0 → op ≠ 2 → ∃ s1, dieAct s0 p die op = s1 ∧
      exec i s = .next (advance (modGroup s1 g fun y => y.setS d.toNat (BitVec.ofNat 64 (word s1))) g 4) ∧
      (∀ c, dieCode op = some c → (getDie s1 die).state = c) ∧
      (op = 5 → (getDie s1 die).stray = true) ∧ (op = 7 → (getDie s1 die).stray = false ∧ (getDie s1 die).stopped = false) ∧
      (op = 9 → (getDie s1 die).stopped = false ∧ ∀ h ∈ named, ∀ hx, kfind s.groups h = some hx → hx.status = .halted none →
        (blockOf s h).ending = none → ∃ y, kfind s1.groups h = some y ∧ y.haltAsked = none ∧ y.status = (if hx.stalled then .waiting else .ready)) ∧
      (op = 8 → ¬ die ∈ (getPart s1 p).dies) ∧
      (op = 4 → (getDie s1 die).dirty = []) ∧
      (op = 6 → ∀ b, Config.diePadBase + die * Config.diePadSize ≤ b → b < Config.diePadBase + (die + 1) * Config.diePadSize →
        memRead s1.mem b = 0)) ∧
    (legal → mine → takes → op = 2 →
      ∃ s1, (named.foldl askHalt (stopDispatch s0 [die])) = s1 ∧ (∀ h ∈ named, Asked s1 h) ∧ (getDie s1 die).stopped = true ∧
        s1.mem = s.mem ∧ ∃ s2, beginRequeue s1 p die = s2 ∧
        (blocksOnDie s2 p die ≠ [] → exec i s = .next (block s2 g (.dieHalt die d.toNat))) ∧
        (blocksOnDie s2 p die = [] → ∃ s3, requeueDie (raiseForced s2 g [die] []) p die = s3 ∧ (getDie s3 die).state = 2 ∧
          exec i s = .next (advance (modGroup s3 g fun y => y.setS d.toNat (BitVec.ofNat 64 (word s3))) g 4)))

/-! ## Events of groups and blocks -/

/-- R10 to R13, R62, R117, R129, R131, R143, R164, R204, R301, R330 to R332, R336, R337, R344, R355: a result that has come back arrives
in its registers, or as a pending trap 6 where a returning entry met poison; a blocked instruction completes when its condition holds or
its deadline comes, unless a halt reaches the group first; an expired deferral lets the halt take a critical group; a halt empties the
chain and records the state it found; a pending trap is taken at an interrupt point; a host load times out with trap 6; a finished block
gives its resources back.
The order of traps pending together, and registers that a result in flight leaves alone, are the model's readings (log entries 73, 83). -/
def Obligations.GroupEvents : Prop :=
  ∀ s g x, kfind s.groups g = some x →
    (∀ slot late e, kfind x.inFlight slot = some e → e.awaiting = 0 → e.due ≤ s.cycle → earlierPending s g e.gen = false →
      let x0 := { x with inFlight := kerase x.inFlight slot, acquires := x.acquires.erase slot }
      (e.poisoned = [] → ∀ s1 r, arrived (modGroup s g fun _ => x0) g e late = (s1, r) → ∃ t y, Happens (.resultArrival g slot late) s t ∧
        OnlyGroup s1 t g y ∧ y = { x0 with v := y.v, s := y.s } ∧
        (∀ n l, l < 32 → y.vreg n l =
          if 32 * n + l ∈ e.passed then x.vreg n l else (lastValue r.v (32 * n + l)).getD (x.vreg n l)) ∧
        ∀ n, y.sreg n = match r.s with
          | some (d, v) => if d = n ∧ e.spassed = false then v else x.sreg n
          | none => x.sreg n) ∧
      (late = 0 → arrived (modGroup s g fun _ => x0) g e late = (modGroup s g fun _ => x0, e)) ∧
      (∀ l, e.poisoned = [] → e.passed = [] → ksorted e.v = true → e.elems = [l] → l.lane < 32 → late.getLsbD l.lane = true →
        l.places.length = 4 → Readable s g l.places → ∃ t y, Happens (.resultArrival g slot late) s t ∧ kfind t.groups g = some y ∧
          y.vreg l.reg l.lane = BitVec.ofNat 32 (seenValue s g l.places) ∧ HasSeen t g l.places) ∧
      (e.poisoned ≠ [] → ∃ y p, EventLeaves (.resultArrival g slot late) s g y ∧
        y = { x0 with pending := x.pending ++ [p] } ∧ p.num = 6 ∧ p.addr = e.addr ∧
        (e.s = none → ∀ l < 32, (p.lanes.getLsbD l = true ↔ ∃ f ∈ e.poisoned, f.1 = l)) ∧ p.behind = none)) ∧
    (heldUp s g = false → haltReady x = false →
      (∀ r ph, x.status = .blocked (.gate r ph) → gateFlipped s g r ph = true → EventLeaves (.waitCompletes g) s g (Past s x 4)) ∧
      (∀ r ph dl d, x.status = .blocked (.gateT r ph dl d) → gateFlipped s g r ph = true →
        ∃ y, EventLeaves (.waitCompletes g) s g y ∧ CompletesWith s x y d 0) ∧
      (∀ c n, x.status = .blocked (.oc c n none) → ocOf s g c ≤ n → (c = 3 → bitAt (ctxOf s g).trapEn 10 = false) →
        ∃ t y, Happens (.waitCompletes g) s t ∧ OnlyOps s t g y ∧ FlagsOf x y (coveredOps s g c n) ∧
          y = { Past s x 4 with fsr := y.fsr, ferryStatus := y.ferryStatus }) ∧
      (∀ n, x.status = .blocked (.batch n) → batchDone s g n = true → ∃ t y, Happens (.waitCompletes g) s t ∧ OnlyOps s t g y ∧
        FlagsOf x y (batchOps s g n) ∧ y = { Past s x 4 with fsr := y.fsr, ferryStatus := y.ferryStatus }) ∧
      (x.status = .blocked .fence → outstanding s g = false → EventLeaves (.waitCompletes g) s g { Past s x 4 with reach := 0 }) ∧
      (∀ m d, x.status = .blocked (.wfi m d) → (getPart s (partOf s g)).ctx.evt &&& m ≠ 0 → ∃ y, EventLeaves (.waitCompletes g) s g y ∧
        CompletesWith s x y d (BitVec.ofNat 64 (getPart s (partOf s g)).ctx.evt)) ∧
      ∀ h, x.status = .blocked (.bind h) → handleBusy s g h = false →
        EventLeaves (.waitCompletes g) s g { x with status := .ready, readySince := s.cycle }) ∧
    (∀ w, x.status = .blocked w → w.operation = true → dieRuns s (dieOf s g) = true → (blockOf s g).shadow = false → haltReady x = false →
      (waitHolds s g w = true → ∃ s1, Happens (.waitCompletes g) s (completeWait s1 g w) ∧ ∃ y, OnlyGroup s s1 g y ∧
        WaitedAt x.pc x.pending y.pending ∧ y = { x with pending := y.pending, inFlight := y.inFlight } ∧ ∀ d, w.dst = some d → Overtakes s x y d) ∧
      ∀ m d, w = .halt m d → let dies := maskDies s (partOf s g) m
        haltComplete s (haltNamed s g dies) = true → ∃ t y, Happens (.waitCompletes g) s t ∧ kfind t.groups g = some y ∧
          y.pc = x.pc + 4 ∧ y.status = .ready ∧ y.sreg d = BitVec.ofNat 64 (dies.foldl (fun n i => n + 2 ^ i) 0) ∧
          ∀ h ∈ haltNamed s g dies, (getGroup s h).forced = true → ∃ q ∈ y.pending, q.num = 14 ∧ q.code = dieOf s h ∧ q.addr = x.pc) ∧
    (heldUp s g = false →
      (∀ r ph dl d, x.status = .blocked (.gateT r ph dl d) → gateFlipped s g r ph = false → dl < s.cycle →
        ∃ y, EventLeaves (.deadlineReached g) s g y ∧ CompletesWith s x y d 1) ∧
      (∀ dl, dl ≤ s.cycle → x.status = .blocked (.sleep dl) → EventLeaves (.deadlineReached g) s g (Past s x 4)) ∧
      ∀ dl, dl ≤ s.cycle → x.status = .blocked (.sleepUntil dl) →
        ((∀ q, x.promise = some q → dl < q.cycle) → EventLeaves (.deadlineReached g) s g (Past s x 4)) ∧
        ∀ q, x.promise = some q → q.cycle ≤ dl →
          (landed s q.op = true → EventLeaves (.deadlineReached g) s g { Past s x 4 with promise := none }) ∧
          (landed s q.op = false → vectorOf s g ≠ 0 → ∃ y, EventLeaves (.deadlineReached g) s g y ∧
            Entered s g { x with promise := none } y 9 0 (x.pc + 4) x.pc 0 0 x.em)) ∧
    (∀ c, x.critical = true → x.forced = false → x.haltAsked = some c → c + s.critLimit ≤ s.cycle →
      EventLeaves (.critDeferralExpired g) s g { x with forced := true }) ∧
    (haltReady x = true → interruptible s g = true → dieRuns s (dieOf s g) = true → (blockOf s g).shadow = false →
      ∃ t y, Happens (.groupHalted g) s t ∧ kfind t.groups g = some y ∧ y.haltAsked = none ∧ y.latch = {} ∧
        y.stalled = (x.stalled && x.status == .waiting) ∧
        (∀ w, x.status = .blocked w → y.status = .halted (some w)) ∧
        ((x.status = .ready ∨ x.status = .waiting) → y.status = .halted none) ∧
        y.pc = x.pc ∧ y.em = x.em ∧ y.sup = x.sup ∧ y.v = x.v ∧ y.s = x.s ∧ y.k = x.k ∧ y.x = x.x ∧
        (∀ e ∈ y.inFlight, e.2.elems = []) ∧ ∀ l ∈ (getCore t (coreOf s g)).wcb, l.groups.contains g = false) ∧
    (∀ p, TakesTrap s g x p → vectorOf s g ≠ 0 → p ∈ eligible s g ∧ (∀ q ∈ eligible s g, p.rank ≤ q.rank) ∧
      ∃ y, EventLeaves (.trapEntry g) s g y ∧ y.serving = p.op :: x.serving ∧
        y.pending = (x.pending.erase p).map (Pending.stay x.serving.length) ∧
        Entered s g { x with pending := y.pending } { y with serving := none :: x.serving } p.num p.code x.pc
          (if p.num = 7 ∨ p.num = 15 then p.after.getD x.pc else p.addr) p.vaddr p.lanes
          (if 2 ≤ p.num ∧ p.num ≤ 6 then p.lanes else x.em)) ∧
    (∀ slot since lanes va, x.hostWait = some (since, lanes, va) → x.still = false → s.linkUp = false →
      since + Config.linkTimeout ≤ s.cycle → vectorOf s g ≠ 0 → ∃ y, EventLeaves (.hostLoadTimeout g slot) s g y ∧
        Entered s g x y 6 0 x.pc x.pc (BitVec.ofNat 64 va) lanes lanes) ∧
    ∀ b blk l, MayRetire s b blk → kfind (getPart s blk.part).launches blk.launch = some l →
      ∃ t l', Happens (.blockRetire b) s t ∧ kfind (getPart t blk.part).launches blk.launch = some l' ∧
        (∀ e ∈ t.groups, e.2.block ≠ b) ∧ (∀ e ∈ t.ops, e.2.block ≠ b) ∧
        (blk.ending = some .requeued → kfind t.blocks b = none ∧ l' = { l with requeued := insertNat l.requeued blk.number }) ∧
        (blk.ending ≠ some .requeued → (blk.span ≤ 1 → kfind t.blocks b = none) ∧
          l' = { l with retired := l.retired + 1, failed := l.failed || blk.ending == some .failed })

/-! ## Events of memory and landings -/

/-- R103, R116, R125, R195 to R197, R201, R204, R250, R257, R258, R309, R310, R340, R355: a line drains without a change to what a load
sees; a store takes effect at its home, behind those that must go before it; none takes effect while a die under reset keeps a copy of its line
(R349); one that an untrained link kept too long is discarded and logged; a walk fills both TLBs and sets the accessed bit; an entry takes its place at its landing behind those that must arrive before
it, and is applied there behind the permitted steps, the groups that it returns to being told; a store into the shards of an amplitude operation
leaves them unspecified.
The model's choices: a load whose word met poison only after its checks returns a free value (log entry 25); poison leaves a granule with
the last of the pieces by which one instruction writes it whole (75); what holds back an event leaves the state as it is (1); which lines
stay dirty in a full L2, and which copies a die has (87); the packet limit runs on while a context swap has the packet saved (103). -/
def Obligations.MemoryEvents : Prop :=
  ∀ s,
    (∀ core line l, (getCore s core).wcb[line]? = some l → ∃ t, Happens (.wcbDrain core line) s t ∧
      t = { s with cores := t.cores, stores := t.stores, sent := t.sent } ∧ (getCore t core).wcb = (getCore s core).wcb.eraseIdx line ∧
      (∀ c, c ≠ core → getCore t c = getCore s c) ∧
      (l.ae = true → t.stores = s.stores ∧ t.sent = s.sent ++ l.entries) ∧
      (l.ae = false → t.sent = s.sent ∧ ∃ n, t.stores = s.stores ++ [n] ∧ n.core = core ∧ n.bytes = l.bytes ∧ n.groups = l.groups ∧
        n.scope = l.scope ∧ n.whole = l.whole ∧ n.since = l.last ∧ n.pads = []) ∧
      (WcbOk s → ∀ g p, seenByte t g p = seenByte s g p)) ∧
    (∀ i n, s.stores[i]? = some n → (∀ j < i, ∀ u, s.stores[j]? = some u → mustPrecede u n = false) →
      (∀ a b, n.bytes.head? = some (a, b) → n.pads = [] → answerFor s a n.scope (dieOfCore n.core) = .served →
        (inApertures a = true → s.linkUp = true) → copyHeld s n = false → Unclaimed s (n.bytes.map (·.1)) → ∃ t,
          Happens (.storeTakesEffectAtHome i) s t ∧ t.stores = s.stores.eraseIdx i ∧
          t = { s with stores := t.stores, mem := t.mem, poison := t.poison, dies := t.dies, fresh := t.fresh } ∧
          (∀ d, ∃ l, getDie t d = { getDie s d with dirty := l }) ∧
          (∀ p, memRead t.mem p = (lastValue n.bytes p).getD (memRead s.mem p)) ∧
          ∀ k, k ∈ t.poison ↔ k ∈ s.poison ∧
            ¬ ∃ q ∈ n.whole, q.1 = .mem k ∧ wholePending { s with stores := s.stores.eraseIdx i } [] q = false) ∧
      (n.bytes = [] → n.whole = [] → (∀ w ∈ n.pads, locAnswer s w.1 = .served ∧ Reachable s w.1) →
        Unclaimed s (n.pads.filterMap fun w => w.1.pa) → ∃ t, Happens (.storeTakesEffectAtHome i) s t ∧ t.stores = s.stores.eraseIdx i ∧
        t = { s with stores := t.stores, mem := t.mem, blocks := t.blocks } ∧
        ∀ p, Reachable s p → readByte t p = lastWrite n.pads (readByte s) p)) ∧
    (∀ i n a b k o c, s.stores[i]? = some n → (∀ j < i, ∀ u, s.stores[j]? = some u → mustPrecede u n = false) →
      n.bytes.head? = some (a, b) → answerFor s a n.scope (dieOfCore n.core) = .served → (inApertures a = true → s.linkUp = true) →
      copyHeld s n = false → ksorted s.ops = true → kfind s.ops k = some o → o.body = .amp c → o.claims s (n.bytes.map (·.1)) = true → ∃ t,
        Happens (.storeTakesEffectAtHome i) s t ∧ kfind t.ops k = some { o with body := .amp { c with spoilt := true } }) ∧
    (∀ i j n u, j < i → s.stores[j]? = some u → s.stores[i]? = some n → mustPrecede u n = true →
      Happens (.storeTakesEffectAtHome i) s s) ∧
    (∀ i n d, s.stores[i]? = some n → d ∈ s.dies → d.2.state = 3 → ∃ t, Happens (.storeTakesEffectAtHome i) s t ∧
      ((∃ b ∈ n.bytes, Config.holdsCopy d.1 (lineOf b.1) = true) → t = s)) ∧
    (∀ i n a b, s.stores[i]? = some n → n.bytes.head? = some (a, b) → inApertures a = true → s.linkUp = false →
      (n.since + Config.linkTimeout ≤ s.cycle → ∃ t, Happens (.hostStoreTimeout i) s t ∧ t.stores = s.stores.eraseIdx i ∧
        Logged s t n.part s.dev a 8 0) ∧
      Happens (.storeTakesEffectAtHome i) s s) ∧
    (∀ j e, s.sent[j]? = some e → e.op = 17 → inApertures e.addr = true → s.linkUp = false →
      (e.since + Config.linkTimeout ≤ s.cycle → ∃ t, Happens (.hostStoreTimeout (s.stores.length + j)) s t ∧ t.sent = s.sent.eraseIdx j ∧
        t.stores = s.stores ∧ Logged s t e.part s.dev e.addr 8 0) ∧
      Happens (.landingEntryArrival j) s s) ∧
    (∀ core va p, partOfDie s (dieOfCore core) = some p → core < Config.coreCount → va < 2 ^ 56 → dieRuns s (dieOfCore core) = true →
      (∀ k l e v, walkRoot s (getPart s p).ctx.ptroot va = .stop k l e v → Happens (.pageWalk core va) s s) ∧
      ∀ l pte e, walkRoot s (getPart s p).ctx.ptroot va = .leaf l pte e → ∃ t, Happens (.pageWalk core va) s t ∧
        let n : TlbEntry := { base := va / 2 ^ levelShift l * 2 ^ levelShift l, shift := levelShift l, leaf := e ||| 2 ^ 46, pte := pte }
        tlbFind (getCore t core).tlb va = some n ∧ tlbFind (getDie t (dieOfCore core)).tlb va = some n ∧
          readWord64 t pte = e ||| 2 ^ 46 ∧ (∀ b, (b < pte ∨ pte + 8 ≤ b) → memRead t.mem b = memRead s.mem b) ∧
          t = { s with mem := t.mem, cores := t.cores, dies := t.dies }) ∧
    (∀ i e, s.sent[i]? = some e →
      ((∀ j < i, ∀ f, s.sent[j]? = some f → arrivesBefore s f e = false) → waitsForCaches s e = false → entryServed s e = true →
        (e.drift = false ∨ e.flushed = true) → e.op < 18 → NoSetAt s e →
        Happens (.landingEntryArrival i) s { s with sent := s.sent.eraseIdx i, landing := s.landing ++ [placed s e] }) ∧
      ∀ j f, j < i → s.sent[j]? = some f → arrivesBefore s f e = true → Happens (.landingEntryArrival i) s s) ∧
    (∀ addr size i e, FrontEntry s addr size i e → 0 < size → size ≤ 8 → Unclaimed s ((List.range size).map (addr + ·)) →
      let poisoned := (isPoisoned s (.mem addr) || isPoisoned s (.mem (addr + (size - 1)))) &&
        !(e.behind.any fun n => wholePending s [] (.mem (addr / 64), n))
      let word := readLE s (.mem addr) size
      ∃ t, Happens (.landingApply addr size []) s t ∧ t.landing = s.landing.eraseIdx i ∧
        (e.op = 17 → e.bytes.length = size → ∀ b, memRead t.mem b =
          if addr ≤ b ∧ b < addr + size then (e.bytes[b - addr]?).getD 0 else memRead s.mem b) ∧
        (e.op = 17 → ∀ k, k ∈ t.poison ↔ k ∈ s.poison ∧ ¬ ∃ n, e.whole = some n ∧ k = addr / 64 ∧
          wholePending { s with landing := s.landing.eraseIdx i } [] (.mem k, n) = false) ∧
        (e.op = 16 ∨ (e.op < 16 ∧ poisoned = true) → t.mem = s.mem) ∧
        (e.op < 16 → e.poisons = true → isPoisoned t (.mem addr) = true ∧ t.mem = s.mem) ∧
        (e.op < 16 → poisoned = false → e.poisons = false → mixed s addr = false → t.poison = s.poison ∧
          ∀ b, memRead t.mem b = if addr ≤ b ∧ b < addr + size
            then BitVec.ofNat 8 (slotApply e.desc word e.operand e.wide / 2 ^ (8 * (b - addr))) else memRead s.mem b) ∧
        (e.op = 17 ∨ e.ret = [] → t.groups = s.groups) ∧
        (e.op < 17 → e.poisons = false → ∀ g slot lane reg va sgn, e.ret = [.lane g slot lane reg va sgn] → ∀ x f,
          kfind s.groups g = some x → kfind x.inFlight slot = some f → ∃ y z, kfind t.groups g = some y ∧
            kfind y.inFlight slot = some z ∧ z.awaiting = f.awaiting - 1 ∧
            (e.op = 16 ∨ poisoned = false → z.poisoned = f.poisoned) ∧
            (e.op < 16 → poisoned = true → (kfind z.poisoned lane).isSome = true) ∧
            (size = 4 → mixed s addr = false → (e.op < 16 ∨ poisoned = false) →
              z.v = kput f.v (32 * reg + lane) (BitVec.ofNat 32 word)))) ∧
    (∀ addr size k ks i j e f, (wordIdx s addr size)[landPos k]? = some i → (wordIdx s addr size)[landPos k + 1]? = some j →
      crowded s addr size = false → MayStep s i j e f → ∀ l, StepOf (tableOf s e f) s.landing l i j e f k →
      ∀ t, evLandingApply addr size ks { s with landing := l } = some t → Happens (.landingApply addr size (k :: ks)) s t) ∧
    ∀ i q, s.openPackets[i]? = some q → q.last + Config.packetLimit ≤ s.cycle →
      let p := windowPart (match q.owner with | .group g => partOf s g | _ => 0) (windowOf q.window)
      ∃ t, Happens (.packetIdleTimeout i) s t ∧ t.openPackets = s.openPackets.eraseIdx i ∧ (getPart t p).badPkt = (getPart s p).badPkt + 1 ∧
      (∀ r, r ≠ p → getPart t r = getPart s r) ∧ t.mem = s.mem

/-! ## Drift events -/

/-- R209 to R223, R225, R226: an add or a load that reaches the directory of its region takes its turn there: a request for a tolerant
load is queued, a load or a store drains every holder, a dset writes the bound; the home answers a grant request with the largest share that fits, a cut of the largest share granted, or a
refusal; a refused cache sends what waited to the landings and may ask again later; a cut or a drain call makes its holder flush
and answer; the answers let the entry become Open; a tolerant load drains the holders that its tolerance does not cover.
The model's choices: which base die a region's bound counts against, and that a dset that finds no place there is only counted (log
entries 15, 101); the share of a requester whose cut found its holder gone (102); what holds back an event leaves the state as it is (1). -/
def Obligations.DriftEvents : Prop :=
  ∀ s r c, ∀ x, getRegion s r = x →
    let call := fun (k : Call) (d : CacheId) => ({ cache := d, region := r, call := k } : CallTo)
    (∀ i e, s.sent[i]? = some e → (∀ j < i, ∀ f, s.sent[j]? = some f → arrivesBefore s f e = false) → waitsForCaches s e = false →
      entryServed s e = true → regionOf e.addr = r →
      let s0 := { s with sent := s.sent.eraseIdx i }
      (e.op = 21 → ∃ t, Happens (.landingEntryArrival i) s t ∧
        OnlyRegion s0 t r { x with queue := x.queue ++ [.ldv e.asked e.tol] } []) ∧
      (e.drift = true → e.flushed = false → e.op ≠ 21 → (x.state ≠ .open_ ∨ ∃ q ∈ x.queue, isGrant q = false) → ∃ t,
        Happens (.landingEntryArrival i) s t ∧ OnlyRegion s0 t r { x with queue := x.queue ++ [.entry e] } []) ∧
      (e.drift = true → e.flushed = false → x.state = .open_ → (∀ q ∈ x.queue, isGrant q = true) →
        (16 ≤ e.op → e.op ≤ 18 → x.slots ≠ [] → ∃ t, Happens (.landingEntryArrival i) s t ∧
          OnlyRegion s0 t r { x with state := .draining (x.slots.map (·.2.1)) (.entry e) } (x.slots.map fun h => call .drain h.2.1)) ∧
        (x.slots = [] → ∀ b g, e.op = 18 → e.bound = some (b, g) → (b = 0 ∨ x.bound ≠ 0 ∨ boundsFull s r = false) → ∃ t,
          Happens (.landingEntryArrival i) s t ∧ OnlyRegion s0 t r { x with bound := b, g := g, lost := false } []) ∧
        (x.slots = [] → ∀ b g p, e.op = 18 → e.bound = some (b, g) → b ≠ 0 → x.bound = 0 → boundsFull s r = true →
          kfind s.parts e.part = some p → ∃ t q, Happens (.landingEntryArrival i) s t ∧ t = { s0 with parts := t.parts } ∧
            kfind t.parts e.part = some q ∧
            (p.ctx.id = e.ctx → q = { p with ctx := { p.ctx with driftFull := p.ctx.driftFull + 1 } }) ∧
            (p.ctx.id ≠ e.ctx → q = { p with sh := { p.sh with driftFull := p.sh.driftFull + 1 } })))) ∧
    (x.queue.find? isGrant = some (.grant c) → (∃ m ∈ s.messages, m.cache = c ∧ m.region = r) → Happens (.grantRequest r) s s) ∧
    (x.queue.find? isGrant = some (.grant c) → (∀ m ∈ s.messages, ¬ (m.cache = c ∧ m.region = r)) →
      (x.state = .open_ → ∀ q ∈ x.queue, isGrant q = true) →
      let x' := { x with queue := x.queue.erase (.grant c) }
      (x.state ≠ .open_ ∨ x.bound = 0 ∨ 8 ≤ x.slots.length → ∃ t, Happens (.grantRequest r) s t ∧
        OnlyRegion s t r x' [call (.reply none) c]) ∧
      (x.state = .open_ → x.bound ≠ 0 → x.slots.length < 8 →
        (∀ k i, x.g ≤ k → k < 8 → ShareFits x k → (∀ j, x.g ≤ j → j < k → ¬ ShareFits x j) → lowestFree x = some i →
          ∃ t, Happens (.grantRequest r) s t ∧ OnlyRegion s t r { x' with slots := kput x.slots i (c, k) } [call (.reply (some k)) c]) ∧
        ((∀ k, x.g ≤ k → k < 8 → ¬ ShareFits x k) →
          (∀ n, LargestShare x n 7 → ∃ t, Happens (.grantRequest r) s t ∧ OnlyRegion s t r x' [call (.reply none) c]) ∧
          ∀ n k d, LargestShare x n k → k ≠ 7 → (∀ m, m < n → ∀ e, (m, (e, k)) ∉ x.slots) → kfind x.slots n = some (d, k) →
            ksorted x.slots = true → ∃ t, Happens (.grantRequest r) s t ∧
              OnlyRegion s t r { x' with state := .cutting n c } [call (.cut (k + 1)) d]))) ∧
    (∀ ws, findHolder s c r = some { cache := c, region := r, state := .asking ws } →
      (∀ l m, s.calls = l ++ call (.reply none) c :: m → (∀ q ∈ l, ¬ (q.cache = c ∧ q.region = r)) →
        ∃ t, Happens (.grantReply c r) s t ∧ t = { s with calls := t.calls, holders := t.holders, sent := ws ++ s.sent } ∧
          findHolder t c r = some { cache := c, region := r, state := .refused (s.cycle + Config.refusalCycles) }) ∧
      ∀ k, CallAt s c r (.reply (some k)) → ∀ e, ws = [e] → regionOf e.addr = r → e.drift = true →
        (magLt (shareVal x.bound k) (magOf false e.operand) = true → slotMp e.desc = false →
          (∃ a b n, Fp.decode Fp.f32 e.operand = .fin a b n) → e.operand < 2 ^ 32 →
          ∃ t, Happens (.grantReply c r) s t ∧ t.sent = [e] ++ s.sent ∧ ∃ l, Holds t c r k l ∧ l.elems = []) ∧
        (slotMp e.desc = false → (∃ b n, Fp.decode Fp.f32 e.operand = .fin false b n ∧ b ≠ 0) → e.operand < 2 ^ 32 →
          magLt (shareVal x.bound k) (magOf false e.operand) = false →
          ∃ t, Happens (.grantReply c r) s t ∧ t.sent = s.sent ∧
            ∃ l, Holds t c r k l ∧ l.elems = [(e.addr % 512 / 4, (e.operand, 0))] ∧ l.op = e.op ∧ l.desc = e.desc ∧
              l.cores = [e.core])) ∧
    (∀ till, findHolder s c r = some { cache := c, region := r, state := .refused till } → till ≤ s.cycle →
      ∃ t, Happens (.refusalExpiry c r) s t ∧ findHolder t c r = none ∧ t = { s with holders := t.holders }) ∧
    (∀ k k0 l, CallAt s c r (.cut k) → Holds s c r k0 l →
      let beyond := magLt (shareVal x.bound k) (l.tracker none)
      ∃ t, Happens (.shareCutCall c r) s t ∧ Holds t c r k (if beyond then {} else l) ∧
        t = { s with calls := t.calls, holders := t.holders, messages := t.messages } ∧
        t.messages = s.messages ++
          (if beyond = true ∧ l.elems ≠ [] then [{ cache := c, region := r, entries := l.entries r (coreOfCache c) [], answer := .none }] else []) ++
          [{ cache := c, region := r, entries := [], answer := .cut }]) ∧
    (∀ k l, CallAt s c r .drain → Holds s c r k l → ∃ t, Happens (.drainCall c r) s t ∧ findHolder t c r = none ∧
      t = { s with calls := t.calls, holders := t.holders, messages := t.messages } ∧
      t.messages = s.messages ++ [{ cache := c, region := r, entries := l.entries r (coreOfCache c) [], answer := .drained }]) ∧
    (∀ m, s.messages.find? (fun m => m.cache == c && m.region == r) = some m → m.entries = [] → x.queue = [] →
      (m.answer = .released → ∃ t, Happens (.holderMessage c r) s t ∧
        OnlyRegion { s with messages := s.messages.erase m } t r { x with slots := x.slots.filter fun h => h.2.1 != c } []) ∧
      (∀ n req d k i, m.answer = .cut → x.state = .cutting n req → kfind x.slots n = some (d, k) →
        lowestFree { x with slots := kput x.slots n (d, k + 1) } = some i →
        ∃ t, Happens (.holderMessage c r) s t ∧ OnlyRegion { s with messages := s.messages.erase m } t r
          { x with slots := kput (kput x.slots n (d, k + 1)) i (req, k + 1), state := .open_ } [call (.reply (some (k + 1))) req]) ∧
      (∀ n req, m.answer = .cut → x.state = .cutting n req → kfind x.slots n = none → x.bound ≠ 0 → x.slots.length < 8 →
        (∀ k i, x.g ≤ k → k < 8 → ShareFits x k → (∀ j, x.g ≤ j → j < k → ¬ ShareFits x j) → lowestFree x = some i →
          ∃ t, Happens (.holderMessage c r) s t ∧ OnlyRegion { s with messages := s.messages.erase m } t r
            { x with slots := kput x.slots i (req, k), state := .open_ } [call (.reply (some k)) req]) ∧
        ((∀ k, x.g ≤ k → k < 8 → ¬ ShareFits x k) → ∃ t, Happens (.holderMessage c r) s t ∧
          OnlyRegion { s with messages := s.messages.erase m } t r { x with state := .open_ } [call (.reply none) req])) ∧
      (∀ cs q, m.answer = .drained → x.state = .draining cs q → cs.erase c ≠ [] →
        ∃ t, Happens (.holderMessage c r) s t ∧ OnlyRegion { s with messages := s.messages.erase m } t r
          { x with slots := x.slots.filter (fun h => h.2.1 != c), state := .draining (cs.erase c) q } []) ∧
      (∀ cs e, m.answer = .drained → x.state = .draining cs (.entry e) → cs.erase c = [] → e.op < 18 → NoSetAt s e →
        ∃ t, Happens (.holderMessage c r) s t ∧
          OnlyRegion { s with messages := s.messages.erase m, landing := s.landing ++ [placed s e] } t r
            { x with slots := x.slots.filter (fun h => h.2.1 != c), state := .open_ } [])) ∧
    (∀ m e, s.messages.find? (fun m => m.cache == c && m.region == r) = some m → m.entries = [e] → m.answer = .none → NoSetAt s e →
      Happens (.holderMessage c r) s { s with
        messages := s.messages.erase m, landing := s.landing ++ [placed s { e with groups := [] }] }) ∧
    ∀ es tol, x.state = .open_ → x.queue = [.ldv es tol] →
      (∀ cs, toDrain x tol = cs → cs ≠ [] → ∃ t, Happens (.ldvRequest r) s t ∧
        OnlyRegion s t r { x with queue := [], state := .draining cs (.ldv es tol) } (cs.map (call .drain))) ∧
      (∀ e, toDrain x tol = [] → es = [e] → NoSetAt s e → ∃ t, Happens (.ldvRequest r) s t ∧
        OnlyRegion { s with landing := s.landing ++ [placed s e] } t r { x with queue := [] } []) ∧
      (toDrain x tol = [] → magLt (Fp.decode Fp.f32 tol.toNat)
        (magSum ((sortBy (fun a b => a.2.2 < b.2.2 || (a.2.2 == b.2.2 && a.1 ≤ b.1)) x.slots).map fun e => shareVal x.bound e.2.2)) = false
        ∨ x.slots = [])

/-! ## Events of the ferry -/

/-- R124, R137, R153, R156, R157, R160, R162, R166, R316, R338: a queued operation starts, behind checkpointed ones of its group; a page fault holds it and becomes trap 4 of a
group; it goes on when the handler has returned; a receiver accepts where its gate is armed; a span is converted, written and reported
with the bytes that it writes; it lands, with the command it captured, or with err where a page that it writes cannot be; its deliveries
are applied to its gate; it completes in issue order.
What a dir 1 operation had written and reported before its page was lost stands, by log entry 90; the acceptance points of an fy.mcast all
come before its first byte, by log entry 89. -/
def Obligations.FerryEvents : Prop :=
  ∀ s k o f, kfind s.ops k = some o → o.body = .ferry f →
    (Live s k o .queued → notStarting s o = false → behindSaved s k o = false → ∃ t, Happens (.ferryStart k) s t ∧
      OnlyOp s t k (o.enters s .active)) ∧
    (Live s k o .active → (getBlock s o.block).shadow = false → ∀ g x va kind, o.needs.findSome? (fun q =>
        match (engineLocate s o q.1 q.2).2 with
        | .fault e => some (q.1, e)
        | _ => none) = some (va, kind) → faultGroup s o = some g → kfind s.groups g = some x →
      ∃ t y p, Happens (.enginePageFault k) s t ∧
        OpBecomes s t k { o with state := .faulting, fault := some { page := va / 65536 } } ∧
        kfind t.groups g = some y ∧ y = { x with pending := x.pending ++ [p] } ∧ p.num = 4 ∧ p.code = kind + 4 + 8 * o.cls ∧
        p.vaddr = BitVec.ofNat 64 (65536 * (va / 65536)) ∧ p.op = some k ∧ t.mem = s.mem) ∧
    (o.done = none → o.state = .faulting → notStarting s o = false → ∀ e s1 r, o.fault = some e →
      (e.served = true ∨ faultGroup s o = none) → engineTranslate s o.block (65536 * e.page) .read = (s1, r) →
      ((∃ kind, r = .error (4, kind)) → ∃ t, Happens (.ferryPageMapped k) s t ∧
        OnlyOp s1 t k { o with fault := none, state := .active, unmappable := insertNat o.unmappable e.page }) ∧
      ((∀ kind, r ≠ .error (4, kind)) → ∃ t, Happens (.ferryPageMapped k) s t ∧
        OnlyOp s1 t k { o with fault := none, state := .active })) ∧
    (Live s k o .active → ∀ q r p, f.gate = some q → f.kind = .mcast → r ∈ f.ranks → r ∉ f.accepted → r ∉ f.refused →
      rankPlaces s o.block r (refOff q) 16 = some p → ∃ t, Happens (.mcastAcceptance k r) s t ∧ OnlyOp s t k { o with
        body := .ferry (if (readGate s p).armed then { f with accepted := insertNat f.accepted r }
          else { f with refused := insertNat f.refused r }) }) ∧
    (Live s k o .active → ∀ first n v fl pl, Span s o f first n v fl pl → ∃ t o', Happens (.ferryDelivery k first n) s t ∧
      (∀ l, readByte t l = lastWrite (spanWrites f first n v pl) (readByte s) l) ∧ OpBecomes s t k o' ∧
      o' = { o with flags := o'.flags, body := .ferry { f with
        done := f.done ++ [(first, n)], wrote := true
        deliveries := f.deliveries ++ if f.gate.isSome then [(0, n * cellBytes f.lay.dstBits)] else [] } } ∧
      (∀ b, o'.flags.getLsbD b = true ↔ o.flags.getLsbD b = true ∨ ∃ i, first ≤ i ∧ i < first + n ∧ (fl i).getLsbD b = true) ∧
      t.groups = s.groups) ∧
    (Live s k o .active → f.decided = true → (f.moved = true ∨ f.takers = []) →
      (f.captured = none → ∃ t, Happens (.ferryLand k) s t ∧ OnlyOp s t k (o.enters s .performed)) ∧
      ∀ m q, f.captured = some m → m ≠ k → kfind s.ops m = some q → ∃ t, Happens (.ferryLand k) s t ∧ t = { s with ops := t.ops } ∧
        kfind t.ops k = some (o.enters s .performed) ∧
        kfind t.ops m = some (if q.state = .captured then { q with state := .ordered } else q) ∧
        ∀ j, j ≠ k → j ≠ m → kfind t.ops j = kfind s.ops j) ∧
    (Live s k o .active → f.outward = true → f.captured = none → f.moved = false → f.takers ≠ [] → ∀ ps,
      locatePages s o (f.needs 0 f.total) .write = (s, ps, false) → f.writeFails s ps = true → ∃ t, Happens (.ferryLand k) s t ∧
        OnlyOp s t k ({ o with err := true }.enters s .performed)) ∧
    (o.done = none → f.gate.isSome = true → f.kind ≠ .mcast → gateHeld s o.block f.gate = false → ∀ i r n q p,
      f.deliveries[i]? = some (r, n) → f.gate = some q → padPlaces s o.block 0 0 (refLvl q) (refOff q) 16 = some p →
      (∀ l ∈ p, isPoisoned s l = false) → kgetD f.tags r 0 = (readGate s p).gen → ∃ t, Happens (.gateDelivery k i) s t ∧
        readGate t p = arrivedGate (readGate s p) 0 n ∧ (∀ l, l ∉ p → readByte t l = readByte s l) ∧ t.groups = s.groups ∧
        OpBecomes s t k { o with body := .ferry { f with deliveries := f.deliveries.eraseIdx i } }) ∧
    (o.done = none → o.state = .performed → f.deliveries = [] → olderDone s k o = true →
      ∃ t, Happens (.ferryComplete k) s t ∧ Completes s t k o)

/-! ## Events of the matrix engine -/

/-- R124, R167 to R188, R255, R267, R271, R337, R338: an ordered command begins once the earlier commands on its tile and sub-array are performed, and wakes
its sub-array; an idle one is gated and loses its weights; a command performs its rows as its rule says and completes in issue order; a
contribution is added to the tile of its arm, kept for its turn, or refused, once and within 220,000 cycles of its issue; an arm that waited
too long ends with tmo.
The model's choices: when the sender's ok goes out (log entry 32); the flags of an addend that is a NaN (31); a store that fails after some
of its rows (90); that a contribution is known by its device, operation and issue cycle, counted on this module's counter (92). -/
def Obligations.MatrixEvents : Prop :=
  (∀ s core i x, getSub s core i = x →
    let Becomes := fun (t : State) (y : SubArray) => getSub t core i = y ∧ t = { s with cores := t.cores } ∧
      (∀ c, c ≠ core → getCore t c = getCore s c) ∧ ∀ j, j ≠ i → getSub t core j = getSub s core j
    (∀ c, x.wakeAt = some c → c ≤ s.cycle → ∃ t, Happens (.subarrayWake core i) s t ∧
      Becomes t { x with awake := true, wakeAt := none, lastUse := s.cycle }) ∧
    (x.awake = true → s.mxIdle ≠ 0 → x.lastUse + s.mxIdle ≤ s.cycle → subBusy s core i (fun _ _ => true) = false →
      ∃ t, Happens (.subarrayIdleGating core i) s t ∧ Becomes t {})) ∧
  (∀ s k o m, Live s k o .ordered → o.body = .matrix m → mxBehind s k o m = false →
      (m.fires = true ∨ (behindSaved s k o = false ∧ notStarting s o = false)) →
    ∃ t, Happens (.mxExecute k) s t ∧ OpBecomes s t k ({ o with body := .matrix { m with began := s.cycle } }.enters s .executing) ∧
      t = { s with ops := t.ops, cores := t.cores } ∧ (1 < m.cmd → t.cores = s.cores) ∧
      ∀ i, m.cmd ≤ 1 → m.sub = some i → (getSub s (coreOfBlock s o.block) i).awake = false →
        (getSub s (coreOfBlock s o.block) i).wakeAt = none →
        (getSub t (coreOfBlock s o.block) i).wakeAt = some (s.cycle + slowdown s (dieOfCore (coreOfBlock s o.block)) * 96)) ∧
  (∀ s k o m b rows, kfind s.blocks o.block = some b → 0 < rows →
    let n := min rows (m.count - m.rows)
    let tile := m.tile.getD 0
    let sub := m.sub.getD 0
    let core := coreOfBlock s o.block
    (AtWork s k o m 5 → ∃ t b', Happens (.mxPerformed k rows) s t ∧ OnlyOp { s with blocks := t.blocks } t k (o.enters s .performed) ∧
      kfind t.blocks o.block = some b' ∧ b' = { b with scales := b'.scales } ∧ kfind b'.scales (fld m.ctl 0 2) = some {
        sa := m.ref.setWidth 32, sb := (m.ref >>> 32).setWidth 32, abs := m.ctl.getLsbD 8, bbs := m.ctl.getLsbD 9 }) ∧
    (AtWork s k o m 2 → ∃ t b', Happens (.mxPerformed k rows) s t ∧ OnlyOp { s with blocks := t.blocks } t k (rowsOn s o m n 0) ∧
      kfind t.blocks o.block = some b' ∧ b' = { b with acc := b'.acc, rowPoison := b'.rowPoison } ∧
      OtherRows b b' tile (m.row0 + m.rows) (m.row0 + m.rows + n) ∧
      ∀ j < n, (∀ c < 64, accElem b' tile (m.row0 + m.rows + j) c = 0) ∧ 32 * tile + (m.row0 + m.rows + j) ∉ b'.rowPoison) ∧
    (AtWork s k o m 0 → (getSub s core sub).awake = true →
      let sc := kgetD b.scales sub {}
      let bd : Binding := { ref := m.ref, kind := m.kind, desc := m.desc, bbs := sc.bbs, sb := sc.sb }
      (sc.bbs = true → m.issued.2 = false → ∃ t, Happens (.mxPerformed k rows) s t ∧
        OnlyOp s t k ({ o with err := true }.enters s .performed)) ∧
      ((sc.bbs = true → m.issued.2 = true) → ∃ t b', Happens (.mxPerformed k rows) s t ∧ OpBecomes s t k (o.enters s .performed) ∧
        kfind t.blocks o.block = some b' ∧ b' = { b with bindings := b'.bindings } ∧ kfind b'.bindings sub = some bd ∧
        (getSub t core sub).owner = some o.block ∧ (getSub t core sub).weights =
          (padRead s o.block m.ref 0 (4096 + if sc.bbs then (Mx.Form.mk m.kind m.desc).blocks * 64 else 0)).1)) ∧
    (AtWork s k o m 1 → (getSub s core sub).awake = true → m.rows < m.count → ∀ bd, kfind b.bindings sub = some bd →
      let sc := kgetD b.scales sub {}
      let w := getSub s core sub
      let fm := Mx.Form.mk bd.kind bd.desc
      let i := m.rows
      let t0 := m.row0 + i
      (m.form.depth ≠ fm.depth → ∃ t, Happens (.mxPerformed k rows) s t ∧ OnlyOp s t k ({ o with err := true }.enters s .performed)) ∧
      (m.form.depth = fm.depth → (sc.abs = true → m.issued.1 = true) → w.owner = some o.block → rows = 1 →
        let a := padRead s o.block m.ref (64 * i) 64
        let asc := if sc.abs then padRead s o.block m.ref (64 * m.count + m.form.blocks * i) m.form.blocks else ([], false)
        let out := fun (c : Nat) => Mx.promote (if m.ctl.getLsbD 7 then 0 else accElem b tile t0 c) sc.sa bd.sb (Mx.innerSum
          (m.form.row a.1 asc.1)
          (fm.row ((w.weights.drop (64 * c)).take 64) (if bd.bbs then (w.weights.drop (4096 + m.form.blocks * c)).take m.form.blocks else [])))
        ∃ t b' fl, Happens (.mxPerformed k rows) s t ∧ OpBecomes s t k (rowsOn s o m 1 fl) ∧ kfind t.blocks o.block = some b' ∧
          b' = { b with acc := b'.acc, rowPoison := b'.rowPoison } ∧ OtherRows b b' tile t0 (t0 + 1) ∧
          (∀ c < 64, accElem b' tile t0 c = (out c).1) ∧ (∀ q, fl.getLsbD q = true ↔ ∃ c < 64, (out c).2.getLsbD q = true) ∧
          (32 * tile + t0 ∈ b'.rowPoison ↔ (m.ctl.getLsbD 7 = false ∧ 32 * tile + t0 ∈ b.rowPoison) ∨ a.2 = true ∨ asc.2 = true ∨
            w.poisoned = true))) ∧
    (AtWork s k o m 3 → m.carry = [] → m.rows = 0 → m.count ≤ rows → ∀ pl : Nat → List Loc,
      (∀ i < m.count, padPlaces s o.block 0 0 (refLvl m.ref) (refOff m.ref + i * m.pitch) m.outRow = some (pl i) ∧
        32 * tile + (m.row0 + i) ∉ b.rowPoison ∧ (∀ l ∈ pl i, locAnswer s l = .served) ∧
        NeverClaimed s ((pl i).filterMap Loc.pa)) →
      ∃ t fl, Happens (.mxPerformed k rows) s t ∧ OpBecomes s t k (rowsOn s o m m.count fl) ∧
        (∀ l, readByte t l = lastWrite ((List.range m.count).flatMap fun i => (pl i).zip (readOutRow s o m i).1) (readByte s) l) ∧
        t.groups = s.groups) ∧
    (AtWork s k o m 4 → (∃ va ∈ m.pages, (engineLocate s o va .write).2 = .failed ∧
        ∀ v ∈ m.pages, (engineLocate s o v .write).1 = s) → ∃ t, Happens (.mxPerformed k rows) s t ∧
      OnlyOp s t k ({ o with err := true }.enters s .performed)) ∧
    (AtWork s k o m 4 → ∀ pl : Nat → Phys, (∀ va ∈ m.pages, engineLocate s o va .write = (s, .at_ (pl (va / 65536))) ∧
        inApertures (pl (va / 65536)).pa = false ∧ attrAE (pl (va / 65536)).attr = false ∧ 3 ≤ attrScope (pl (va / 65536)).attr ∧
        inDiePads (pl (va / 65536)).pa = false ∧ (pl (va / 65536)).pa % 65536 = 0) →
      (∀ i < m.count, 32 * tile + (m.row0 + i) ∉ b.rowPoison) → NeverClaimed s ((tileWrites s o m pl).map (·.1)) →
      m.carry = [] → m.rows = 0 → m.count ≤ rows → ∃ t o', Happens (.mxPerformed k rows) s t ∧ OpBecomes s t k o' ∧
        o' = { o with flags := o'.flags, body := .matrix { m with rows := m.count } }.enters s .performed ∧
        (∀ p, memRead t.mem p = (lastValue (tileWrites s o m pl) p).getD (memRead s.mem p)) ∧ t.groups = s.groups)) ∧
  (∀ s k o m, kfind s.ops k = some o → o.body = .matrix m → o.done = none →
    (o.state = .performed → m.deliveries = [] → olderDone s k o = true → ∃ t, Happens (.mxComplete k) s t ∧ Completes s t k o) ∧
    (m.cmd = 6 → o.state = .executing → m.began + Config.linkTimeout ≤ s.cycle → m.kept = [] → NoUnread s o.group →
      ∃ t, Happens (.armTimeout k) s t ∧ OnlyOp s t k ({ o with tmo := true }.enters s .performed))) ∧
  ∀ s c,
    let new := s.cycle < c.issued + Config.packetLimit ∧
      (if c.dev.toNat = s.dev then (s.dev, c) ∈ s.contributions else (c.dev.toNat, c.op, c.issued) ∉ s.handled)
    (¬ new → Happens (.contributionArrival c) s s) ∧
    (new → c.dev.toNat ≠ s.dev → ∃ t, Happens (.contributionArrival c) s t ∧ (c.dev.toNat, c.op, c.issued) ∈ t.handled) ∧
    (new → findArm s c = none → ∃ t, Happens (.contributionArrival c) s t ∧ RepliedTo s t c.dev.toNat c.op .err [] ∧ t.blocks = s.blocks) ∧
    ∀ k o m b, new → findArm s c = some (k, o, m) → kfind s.ops k = some o → kfind s.blocks o.block = some b →
      (m.contributors ≤ c.rank ∨ c.rank ∈ m.added → ∃ t, Happens (.contributionArrival c) s t ∧
        RepliedTo s t c.dev.toNat c.op .err [] ∧ t.blocks = s.blocks ∧ t.ops = s.ops) ∧
      (c.rank < m.contributors → c.rank ∉ m.added → m.kept = [] → m.ctl.getLsbD 12 = true → c.rank ≠ m.added.length →
        o.body = .matrix m → ∃ t, Happens (.contributionArrival c) s t ∧ t.blocks = s.blocks ∧
          OpBecomes s t k { o with body := .matrix { m with kept := [c] } }) ∧
      (c.rank < m.contributors → c.rank ∉ m.added → m.kept = [] → (m.ctl.getLsbD 12 = true → c.rank = m.added.length) →
        (insertNat m.added c.rank).length ≠ m.contributors → o.body = .matrix m →
        let sum := fun (t n : Nat) => Mx.addend (accElem b c.tile t n) ((c.data[64 * t + n]?).getD 0)
        c.data.length = 2048 → c.poisoned = false → ∃ t b' o', Happens (.contributionArrival c) s t ∧
          RepliedTo s t c.dev.toNat c.op .ok [] ∧ kfind t.blocks o.block = some b' ∧ b' = { b with acc := b'.acc } ∧
          (∀ r < 32, ∀ n < 64, accElem b' c.tile r n = (sum r n).1) ∧ OpBecomes s t k o' ∧
          o' = { o with flags := o'.flags, body := .matrix { m with
            added := insertNat m.added c.rank, deliveries := m.deliveries ++ if m.gate.isSome then [8192] else [] } } ∧
          ∀ q, o'.flags.getLsbD q = true ↔ o.flags.getLsbD q = true ∨ ∃ r < 32, ∃ n < 64, (sum r n).2.getLsbD q = true)

/-! ## Events of the amplitude engine -/

/-- R124, R233, R239 to R252: an operation starts once the earlier ones of its handle are performed, or ends with err where an engine is lost; each exchange interchanges two bits
of every index, over devices by a transfer of each side's half that names the operation and its positions; the map is written in three
parts; a partner that refuses, stays silent or cannot be reached by any port gives err or tmo; the matrix, the diagonal, the probability
and the factor act on the amplitudes as the rules give; the operation completes in issue order.
The model's choices: the order of the three parts of the map (log entry 20); the map stays unwritten where an operation ends in Exchanging
(105). -/
def Obligations.AmplitudeEvents : Prop :=
  ∀ s k o a, kfind s.ops k = some o → o.body = .amp a →
    let Amp := fun (t : State) (b : AmpOp) => OnlyOp s t k { o with body := .amp b }
    (Live s k o .queued → ampBehind s k o a = false → ampEnginesRun s a = true → notStarting s o = false → behindSaved s k o = false →
      ∃ t, Happens (.ampStart k) s t ∧ OnlyOp s t k
        ({ o with body := .amp { a with began := s.cycle } }.enters s (if a.swaps = [] then .applying else .exchanging))) ∧
    (Live s k o .queued → ampBehind s k o a = false → ampEngineLost s a = true → notStarting s o = false → behindSaved s k o = false →
      ∃ t q, Happens (.ampStart k) s t ∧ kfind t.ops k = some q ∧ q.state = .performed ∧ q.err = true ∧ q.done = none) ∧
    (∀ pl pm, Exchanging s k o a pl pm →
      (∀ e, a.swaps[a.moved]? = some e → a.incoming e = [] →
        (a.cmd = 1 → ∃ t, Happens (.ampExchangeDone k none) s t ∧
          Amp t { a with moved := a.moved + 1, began := s.cycle }) ∧
        (a.cmd = 3 → a.swaps = [e] → a.moved = 0 → LocalBits a e → ∃ t, Happens (.ampExchangeDone k none) s t ∧
          (∀ j ∈ a.here, ampWord t a pl (swapBits j e.1 e.2) = ampWord s a pl j) ∧ AmpRest s t a pl (fun _ => False) ∧
          OpBecomes s t k { o with body := .amp { a with moved := 1, began := s.cycle } } ∧ t.groups = s.groups)) ∧
      (∀ e, a.swaps[a.moved]? = some e → a.incoming e ≠ [] →
        (a.sentOut ≤ a.moved → route s (a.partner e) = .open_ → ∃ t n, Happens (.ampExchangeDone k none) s t ∧
          t.transfers = s.transfers ++ [(a.partner e, n)] ∧ t.mem = s.mem ∧ t.groups = s.groups ∧
          n.dev = BitVec.ofNat 18 s.dev ∧ n.count = a.count ∧ n.p = e.1 ∧ n.q = e.2 ∧
          (a.moved = 0 → n.data = (a.incoming e).flatMap fun j => leBytes (recSize a.raw) (ampWord s a pl j)) ∧
          OpBecomes s t k { o with body := .amp { a with sentOut := a.moved + 1 } }) ∧
        (a.sentOut ≤ a.moved → route s (a.partner e) = .denied → ∃ t, Happens (.ampExchangeDone k none) s t ∧
          Loses s t k o fun o => { o with err := true }) ∧
        (a.moved < a.sentOut → route s (a.partner e) = .open_ → ∀ n, n.dev.toNat = a.partner e → n.count = a.count →
          (a.accepts n e = false → ∃ t, Happens (.ampExchangeDone k (some n)) s t ∧ Loses s t k o fun o => { o with err := true }) ∧
          (a.accepts n e = true → a.cmd = 1 → ∃ t, Happens (.ampExchangeDone k (some n)) s t ∧
            Amp t { a with moved := a.moved + 1, began := s.cycle, halves := kput a.halves a.moved (n.data, n.poisoned) }) ∧
          (a.accepts n e = true → a.cmd = 3 → a.swaps = [e] → a.moved = 0 → n.poisoned = [] → ∃ t,
            Happens (.ampExchangeDone k (some n)) s t ∧ AmpRest s t a pl (fun _ => False) ∧ t.groups = s.groups ∧
            ∀ i j, (a.incoming e)[i]? = some j → ampWord t a pl j = leNat ((n.data.drop (recSize a.raw * i)).take (recSize a.raw))))) ∧
      (a.swaps.length ≤ a.moved → ∀ left, left = (List.range 3).filter (fun i => i ∉ a.mapParts) → left ≠ [] →
        ∃ i ∈ left, let site := pm.pa + 16 * i
          ∃ t, Happens (.ampExchangeDone k none) s t ∧ (∀ q < 16, memRead t.mem (site + q) = BitVec.ofNat 8 (posOf a.after (16 * i + q))) ∧
            (∀ b, (b < site ∨ site + 16 ≤ b) → memRead t.mem b = memRead s.mem b) ∧ t.groups = s.groups ∧
            let q := { o with body := .amp { a with mapParts := insertNat a.mapParts i } }
            OpBecomes s t k (if left.length = 1 then q.enters s (if a.cmd = 1 then .applying else .performed) else q))) ∧
    (∀ pl, Live s k o .exchanging → AmpSited s o a (a.touched true) .write pl → (∃ e, a.swaps[a.moved]? = some e ∧ a.incoming e ≠ []) →
      (a.began + Config.linkTimeout ≤ s.cycle → ∃ t, Happens (.deviceExchangeTimeout k) s t ∧ Loses s t k o fun o => { o with tmo := true }) ∧
      ∃ t, Happens (.deviceExchangeRefused k) s t ∧ Loses s t k o fun o => { o with err := true }) ∧
    (Live s k o .applying → ∀ pl, AmpSited s o a (a.touched false) a.access pl →
      (a.cmd = 1 → GateFits a → a.moved = a.swaps.length → (∀ e ∈ a.swaps, LocalBits a e) → ∃ t, Happens (.ampApplyDone k) s t ∧
        Worked s t k o ∧ AmpRest s t a pl (fun _ => False) ∧
        let dim := 2 ^ a.targets.length
        (∀ j ∈ a.here, a.selects j = true → (∀ q ∈ a.targets, bitAt j (a.pos q) = false) → ∀ i < dim, ∀ h, (a.groupAt j)[i]? = some h →
          ampWord t a pl h = ampCell a (ampOut (recFmt a.raw) ((List.range dim).map fun c => a.coef (dim * i + c))
            ((a.groupAt j).map fun h => ampPair s a pl (ampFrom a h))).1) ∧
        ∀ j ∈ a.here, a.selects j = false → ampWord t a pl j = ampWord s a pl (ampFrom a j)) ∧
      (a.cmd = 2 → a.swaps = [] → ∃ t, Happens (.ampApplyDone k) s t ∧ Worked s t k o ∧ AmpRest s t a pl (fun _ => False) ∧
        ∀ j ∈ a.here, ampWord t a pl j = if a.selects j then
            ampCell a (ampOut (recFmt a.raw) [a.coef (a.targets.zipIdx.foldl (fun n q => if a.bitOf j (a.pos q.1) then n + 2 ^ q.2 else n) 0)]
              [ampPair s a pl j]).1
          else ampWord s a pl j) ∧
      (a.cmd = 5 → a.swaps = [] → ∃ t, Happens (.ampApplyDone k) s t ∧ Worked s t k o ∧ AmpRest s t a pl (fun _ => False) ∧
        let f := recFmt a.raw
        let fac := Fp.decode Fp.f64 a.arg.toNat
        let times := fun (v : Nat) => if Fp.isNan fac then f.nan else (Fp.mulV f .ne (Fp.decode f v) fac).1
        ∀ j ∈ a.here, ampWord t a pl j = ampCell a (if a.bitOf j (a.pos (a.targets.headD 0)) = a.keep
          then (times (ampPair s a pl j).1, times (ampPair s a pl j).2) else (0, 0))) ∧
      (a.cmd = 4 → a.swaps = [] → ∀ pr, engineLocate s o a.arg.toNat .write = (s, .at_ pr) → attrAE pr.attr = false →
        3 ≤ attrScope pr.attr → inDiePads pr.pa = false → inApertures pr.pa = false → pr.pa % 8 = 0 →
        ∃ t, Happens (.ampApplyDone k) s t ∧ Worked s t k o ∧
          let f := recFmt a.raw
          let square := fun (v : Nat × Nat) => (Fp.fmaV Fp.f64 .ne (Fp.decode f v.1) (Fp.decode f v.1)
            (Fp.mulExact (Fp.decode f v.2) (Fp.decode f v.2))).1
          readLE t (.mem pr.pa) 8 = ((a.here.filter fun j => a.bitOf j (a.pos (a.targets.headD 0))).foldl
            (fun n j => (Fp.add Fp.f64 .ne n (square (ampPair s a pl j))).1) 0) % 2 ^ 64 ∧
          ∀ b, (b < pr.pa ∨ pr.pa + 8 ≤ b) → memRead t.mem b = memRead s.mem b)) ∧
    (o.done = none → o.state = .performed → olderDone s k o = true → ∃ t, Happens (.ampComplete k) s t ∧ Completes s t k o)

/-! ## Events of the fabric -/

/-- R253 to R271, R294: a packet is refused whole with a record and err, or applied whole; one that waited too long is dropped; a
completion, or the lack of one, completes its operation; a flagged fence writes its flag after what it covers, or fails with what it
covers; a die reduction keeps, refuses or writes; a failed link leaves its port. A packet is handled once, in time, or never; a command to
several modules completes at each on its own.
The model's choices: a packet's age counts on this module's counter, and it is known by its device, operation and issue cycle (log entry
92); which failures count for a fence (33); what has judged a page is cached (91); what holds back an event leaves the state as it is (1). -/
def Obligations.FabricEvents : Prop :=
  (∀ s p, p.dev.toNat ≠ s.dev → (p.issued + Config.packetLimit ≤ s.cycle ∨ (p.dev.toNat, p.op, p.issued) ∈ s.handled) →
    Happens (.inboundPacket p) s s) ∧
  (∀ s p, Arrives s p →
    (∀ l r m reason judged, fabRuns p.body = l ++ r :: m → (∀ q ∈ l, refusal s p.body q = none) →
      refusal s p.body r = some (reason, judged) → let a := firstBad s r reason; ∃ t, Happens (.inboundPacket p) s t ∧
        RepliedTo s t p.dev.toNat p.op .err [] ∧ t.groups = s.groups ∧ t.landing = s.landing ∧
        (refusalLog s a judged = none → t.mem = s.mem) ∧
        ∀ q, refusalLog s a judged = some q → Logged s t q p.dev.toNat a 1 (reason + 256 * fabCode p.body a)) ∧
    ((∀ r ∈ fabRuns p.body, refusal s p.body r = none ∧ inWindows r.1 = false ∧ Undisturbed s r.1 r.2) →
      (∀ a n, p.body = .read a n → Undisturbed s a n → Unmixed s a n → ∃ t, Happens (.inboundPacket p) s t ∧ t.mem = s.mem ∧
        RepliedTo s t p.dev.toNat p.op .ok ((List.range n).map fun i => memRead s.mem (a + i))) ∧
      (∀ bs flag, p.body = .write bs flag → Unclaimed s (bs.map (·.1)) → ∃ t, Happens (.inboundPacket p) s t ∧ RepliedTo s t p.dev.toNat p.op .ok [] ∧
        ∀ b, memRead t.mem b = (lastValue bs b).getD (memRead s.mem b)) ∧
      ∀ slot d ret a v, p.body = .alg slot d ret [(a, v)] → (∀ i < slotSize d, isPoisoned s (.mem (a + i)) = false) →
        inDiePads a = false → Quiet s a → Unmixed s a 1 → Unclaimed s ((List.range (slotSize d)).map (a + ·)) →
          ∃ t, Happens (.inboundPacket p) s t ∧
          RepliedTo s t p.dev.toNat p.op .ok (if ret then leBytes (slotSize d) (readLE s (.mem a) (slotSize d)) else []) ∧
          readLE t (.mem a) (slotSize d) =
            slotApply d (readLE s (.mem a) (slotSize d)) (v.toNat % 2 ^ (8 * slotSize d)) false % 2 ^ (8 * slotSize d))) ∧
  (∀ s i q, s.outbound[i]? = some q → q.packet.issued + Config.packetLimit ≤ s.cycle →
    Happens (.packetApplyExpiry i) s { s with outbound := s.outbound.eraseIdx i }) ∧
  (∀ s j q, s.contributions[j]? = some q → q.2.issued + Config.packetLimit ≤ s.cycle →
    Happens (.packetApplyExpiry (s.outbound.length + j)) s { s with contributions := s.contributions.eraseIdx j }) ∧
  (∀ s k o x dev, AwaitsOne s k o x dev →
    (o.state = .pending → ∀ data, ∃ t, Happens (.remoteCompletion { op := k, dev := dev } .ok data) s t ∧ RemoteDone s t k o x dev .ok ∧
      ∀ i y e, x.slot = some i → kfind s.groups o.group = some y → kfind y.inFlight i = some e →
        ∃ z, kfind t.groups o.group = some z ∧ kfind z.inFlight i = some { e with v := rankRegs x data, awaiting := 0 }) ∧
    (o.state = .pending → ∃ t, Happens (.remoteCompletion { op := k, dev := dev } .err []) s t ∧ RemoteDone s t k o x dev .err) ∧
    (o.issued + Config.linkTimeout ≤ s.cycle → (x.cmd = 3 → o.state ≠ .queued) → ∃ t, Happens (.remoteTimeout k) s t ∧
      RemoteDone s t k (o.enters s .pending) x dev .tmo) ∧
    (o.state = .queued → x.cmd = 3 → devOf x.addr = dev → ∀ y, kfind s.groups o.group = some y →
      let failed := y.xFailed.any fun e => e.1 == dev && x.first.contains e.2
      let Fails := fun (t : State) => t.outbound = s.outbound ∧ ∃ q, kfind t.ops k = some q ∧ q.done = some .err
      (fenceCovers s x dev = false → Happens (.rfenceFlagWrite k) s s) ∧
      (fenceCovers s x dev = true → failed = true → ∃ t, Happens (.rfenceFlagWrite k) s t ∧ Fails t) ∧
      (o.issued + Config.linkTimeout ≤ s.cycle →
        (failed = true → ∃ t, Happens (.remoteTimeout k) s t ∧ Fails t) ∧
        (failed = false → ∃ t, Happens (.remoteTimeout k) s t ∧ RemoteDone s t k (o.enters s .pending) x dev .tmo)) ∧
      (failed = false → fenceClear s o.group k dev = false → Happens (.rfenceFlagWrite k) s s) ∧
      (fenceCovers s x dev = true → failed = false → fenceClear s o.group k dev = true → route s dev = .open_ → ∃ t,
        Happens (.rfenceFlagWrite k) s t ∧ OpBecomes s t k (o.enters s .pending) ∧
        t.outbound = s.outbound ++ [packetOf s o.group k dev (.write ((List.range 8).map fun i =>
          (localOf x.addr + i, x.value.extractLsb' (8 * i) 8)) true)]))) ∧
  (∀ s k o x dev, kfind s.ops k = some o → o.body = .fabric x → x.cmd ≠ 6 → o.done = none → o.state = .pending → dev ∈ x.waiting →
    x.waiting.erase dev ≠ [] → dev ≠ s.dev → ∀ st, (st = .ok ∨ st = .err) → ∃ t, Happens (.remoteCompletion { op := k, dev := dev } st []) s t ∧
      OpBecomes s t k { o with err := o.err || st == .err, body := .fabric { x with waiting := x.waiting.erase dev } }) ∧
  (∀ s k o x, Live s k o .queued → o.body = .fabric x → x.cmd = 6 → 2 ≤ o.cls →
    let c := x.control
    let i := fld c 0 7
    let id := (ctxOfBlock s (getBlock s o.block)).id
    let mine : Kept := { op := k, data := x.data }
    let Keeps := fun (r : Round) => ∃ t, Happens (.dredContribution k) s t ∧ OnlyOp { s with dieSlots := t.dieSlots } t k (o.enters s .pending) ∧
      (kfind t.dieSlots i).map (fun d => d.round) = some (some { r with writing := r.kept.length == fld c 12 6 + 1 })
    ((getSlot s i).round = none → (getSlot s i).last ≠ some (o.part, id, fld c 24 8) → Keeps {
      part := o.part, ctx := id, tag := dredTag c, kept := [(fld c 18 6, mine)]
      deadline := s.cycle + if fld c 32 32 = 0 then Config.linkTimeout else fld c 32 32 }) ∧
    ((getSlot s i).round = none → (getSlot s i).last = some (o.part, id, fld c 24 8) → ∃ t q, Happens (.dredContribution k) s t ∧
      kfind t.ops k = some q ∧ q.done = some (if o.err then .err else .tmo) ∧ t.dieSlots = s.dieSlots) ∧
    ∀ r, (getSlot s i).round = some r → r.writing = false →
      let fits := r.part = o.part ∧ r.ctx = id ∧ r.tag = dredTag c ∧ kfind r.kept (fld c 18 6) = none
      (fits → Keeps { r with kept := kput r.kept (fld c 18 6) mine }) ∧
      (¬ fits → ∃ t q, Happens (.dredContribution k) s t ∧ kfind t.ops k = some q ∧ q.done = some .err ∧ t.dieSlots = s.dieSlots)) ∧
  (∀ s i r, (getSlot s i).round = some r →
    (r.writing = false → r.deadline ≤ s.cycle → ∃ t, Happens (.dredDeadline i) s t ∧ t = { s with dieSlots := t.dieSlots } ∧
      getSlot t i = { getSlot s i with round := some { r with writing := true, timed := true } }) ∧
    (r.writing = true → ∀ rank k data o x p, r.kept = [(rank, { op := k, data := data })] → kfind s.ops k = some o → o.body = .fabric x →
      engineLocate s o x.addr.toNat .write = (s, .at_ p) → attrAE p.attr = false → 3 ≤ attrScope p.attr → inDiePads p.pa = false →
      inApertures p.pa = false → runAllowed s p 144 true = true → Unclaimed s ((List.range 144).map (p.pa + ·)) →
      ∃ t q, Happens (.dredResultWrite i) s t ∧ getSlot t i = { round := none, last := some (r.part, r.ctx, fld r.tag 24 8) } ∧
        kfind t.ops k = some q ∧ q.done = some (if o.err then .err else if r.timed then .tmo else .ok) ∧
        (∀ b < 144, some (memRead t.mem (p.pa + b)) = (dredResult r)[b]?) ∧
        ∀ b, (b < p.pa ∨ p.pa + 144 ≤ b) → memRead t.mem b = memRead s.mem b)) ∧
  ∀ s port, port < 24 → (kgetD s.ports port {}).failed = false → ∃ t, Happens (.fabricLinkFailure port) s t ∧
    t = { s with ports := t.ports } ∧ kgetD t.ports port {} = { kgetD s.ports port {} with failed := true } ∧
    ∀ q, q ≠ port → kgetD t.ports q {} = kgetD s.ports q {}

/-! ## Events of the dispatcher -/

/-- R317 to R324, R326, R328: a packet is admitted under the next launch number, or rejected with the status of the first check that
fails; its block stands on a core with its groups in their entry state, and
the blocks of a set or of a cooperative launch stand together; a launch that is over writes its signal and is counted off; a
rename is committed, and its old frame returns; a cancel, an open and a close packet act on their level, and a cancel frees the windows
kept for a set of which no block will run (R96); the governor moves quota.
Some readings are the model's (log entries 51 to 59): among them that a late governor tick serves one missed period (8), that blocks
placed again retire unrun at a cancel and which of two candidates the search finds first (99), the group place of a placed group (106). -/
def Obligations.SchedEvents : Prop :=
  (∀ s p q w, headPacket s p q = some w →
    (4 ≤ pkKind w → ∃ t, Happens (.launchAdmission p q) s t ∧ Rejected s t p q w 3) ∧
    (pkKind w = 0 →
      (launchFieldsOk w = false ∨ levelsOpen (getPart s p).ctx [(1, pkGraph w), (2, pkPhase w), (3, pkJob w)] = false ∨
          stageOk (getPart s p).ctx w = false ∨ readRanges s p w = none →
        ∃ t, Happens (.launchAdmission p q) s t ∧ Rejected s t p q w 3) ∧
      ∀ rs, launchFieldsOk w = true → readRanges s p w = some rs →
        levelsOpen (getPart s p).ctx [(1, pkGraph w), (2, pkPhase w), (3, pkJob w)] = true → stageOk (getPart s p).ctx w = true →
        let room := (placeIn w Room.empty).isSome = true
        let coop := pkCoop w = true ∧ blocksPerCore w 64 Room.empty * (40 * (getPart s p).dies.length) < pkGrid w
        let parent := pkParent w = 0 ∨ ∃ m, launchAt s p (pkParent w) = some m ∧ m.complete = false ∧ m.shadow = false
        (¬ room → ∃ t, Happens (.launchAdmission p q) s t ∧ Rejected s t p q w 1) ∧
        (room → coop → ∃ t, Happens (.launchAdmission p q) s t ∧ Rejected s t p q w 2) ∧
        (room → ¬ coop → ¬ parent → ∃ t, Happens (.launchAdmission p q) s t ∧ Rejected s t p q w 7) ∧
        (room → ¬ coop → parent → tableUsed (getPart s p) + rs.length ≤ 4096 → launchAt s p (getPart s p).nextLaunch = none →
          (rs = [] → ∃ t, Happens (.launchAdmission p q) s t ∧ t.mem = s.mem ∧ Admitted s t p q w [] (· = [])) ∧
          ∀ r, rs = [r] →
            ((∀ m, ¬ ConflictsWith s p (pkGraph w) r m) ∨ r.rn = false → ∃ t, Happens (.launchAdmission p q) s t ∧ t.mem = s.mem ∧
              Admitted s t p q w [r] (fun ps => ∀ m, m ∈ ps ↔ ConflictsWith s p (pkGraph w) r m)) ∧
            ((∃ m, ConflictsWith s p (pkGraph w) r m) → r.rn = true → r.len = 65536 → r.base % 65536 = 0 → 1 ≤ (getPart s p).poolLeft →
              (∃ pte e, walkRoot s (getPart s p).ctx.ptroot r.base = .leaf 4 pte e) →
              ∃ t, Happens (.launchAdmission p q) s t ∧ (getPart t p).poolLeft = (getPart s p).poolLeft - 1 ∧
                (getPart t p).poolHead = ((getPart s p).poolHead + 8) % 2 ^ 64 ∧
                Admitted s t p q w [{ r with
                  fresh := [(r.base / 65536, bitsOf (readWord64 s (getPart s p).poolHead) 16 30 * 65536)] }] (· = [])))) ∧
    (pkKind w = 1 → ∀ key, key = levelKey (pkLevel w) (ownId w) →
      let Cancels := fun (m : Nat) (t : State) => ∀ l, launchAt s p m = some l → l.complete = false → l.shadow = false →
        launchAt t p m = some { l with
          unrun := l.unrun + (pkGrid l.packet - l.next) + l.requeued.length, next := pkGrid l.packet, requeued := [], cancelled := true } ∧
        ∀ e ∈ s.blocks, ksorted s.blocks = true → e.2.part = p → e.2.launch = m → e.2.retired = true →
          (∀ k ∈ setMates s e.1, (getBlock s k).retired = true) → e ∉ t.blocks
      let Stand := fun (t : State) => (∀ e ∈ s.blocks, e.2.retired = false → e ∈ t.blocks) ∧ ∀ e ∈ t.blocks, e ∈ s.blocks
      (pkLevel w = 0 → pk w 0 10 54 = 0 → zeroWords w [1, 2, 3, 4, 6, 7] = true → ∀ m, m = pkParent w →
        (liveLaunch (getPart s p) m ≠ none → ∃ t, Happens (.cancelPacket p q) s t ∧ Popped s t p q ∧ Cancels m t ∧ Stand t ∧
          ∀ c l, launchAt s p c = some l → pkParent l.packet = m → Cancels c t) ∧
        (liveLaunch (getPart s p) m = none → ∃ t, Happens (.cancelPacket p q) s t ∧ Rejected s t p q w 3)) ∧
      (pkLevel w ≠ 0 → pk w 0 10 54 = 0 → zeroWords w [1, 2, 3, 4, 5, 7] = true → ownOnly w = true → ownId w ≠ 0 →
        (∀ l, levelAt s p key = some l → ∃ t l', Happens (.cancelPacket p q) s t ∧ Popped s t p q ∧ levelAt t p key = some l' ∧
          l' = { l with cancelled := true } ∧ Stand t ∧
          ∀ c m, launchAt s p c = some m → key ∈ launchChain (getPart s p).ctx m.packet → Cancels c t) ∧
        (levelAt s p key = none → ∃ t, Happens (.cancelPacket p q) s t ∧ Rejected s t p q w 3))) ∧
    (pkKind w = 2 →
      (openOk (getPart s p).ctx w = false → ∃ t, Happens (.openPacket p q) s t ∧ Rejected s t p q w 3) ∧
      (openOk (getPart s p).ctx w = true → ∃ t l, Happens (.openPacket p q) s t ∧ Popped s t p q ∧
        levelAt t p (levelKey (pkLevel w) (ownId w)) = some l ∧ l.counter = 1 ∧ l.signal = pkSignal w ∧ l.status = 0 ∧
        (zeroWords w [1] = false → ∀ i < pk w 0 56 2 + 1, (∀ d < 8, kgetD l.quota (4 * d + i) 0 = pk w 1 (4 * i) 4) ∧
          (i < pk w 0 56 2 → l.rings[i]? = some (16 * pk w 2 (21 * i) 21, pk w 3 (16 * i) 8, pk w 3 (16 * i + 8) 8))) ∧
        ∀ k o, nearest 0 (if pkLevel w = 1 then pkPhase w else 0) (if pkLevel w ≤ 2 then pkJob w else 0) = some k → levelAt s p k = some o →
          levelAt t p k = some { o with counter := o.counter + 1 })) ∧
    (pkKind w = 3 → pkLevel w ≠ 0 → pk w 0 10 54 = 0 → zeroWords w [1, 2, 3, 4, 5, 7] = true → ownOnly w = true → ownId w ≠ 0 →
      ∀ k, k = levelKey (pkLevel w) (ownId w) →
      (levelAt s p k = none → ∃ t, Happens (.closePacket p q) s t ∧ Rejected s t p q w 3) ∧
      ∀ l, levelAt s p k = some l → let st := worse l.status 0
        (2 ≤ l.counter → ∃ t, Happens (.closePacket p q) s t ∧ Popped s t p q ∧ t.mem = s.mem ∧
          levelAt t p k = some { l with counter := l.counter - 1, status := st }) ∧
        (l.counter = 1 → outerLevel k l = none → ∃ t, Happens (.closePacket p q) s t ∧ Popped s t p q ∧ levelAt t p k = none ∧
          (l.signal ≠ 0 → l.signal % 16 = 0 → Signalled s t p l.signal st 0 0)) ∧
        (l.counter = 1 → l.signal = 0 → ∀ j o, outerLevel k l = some j → j ≠ k → levelAt s p j = some o → 2 ≤ o.counter →
          ∃ t, Happens (.closePacket p q) s t ∧ levelAt t p k = none ∧
            levelAt t p j = some { o with counter := o.counter - 1, status := worse o.status st }))) ∧
  (∀ s p n core l, launchAt s p n = some l → (getPart s p).formed = true → placeable s p n l = true → pkSpan l.packet = 1 →
    pkCoop l.packet = false → fitsOn s p l.packet core = true →
    NoRival s p n l [core] →
    let number := (l.requeued.head?).getD l.next
    ((∀ a ∈ l.requeued.tail, a ≠ number) →
      ∃ t r, placeIn l.packet (roomOf s core) = some r ∧ Happens (.blockPlacement p n [core]) s t ∧ PlacedAs s t p n number core l.packet r.1 ∧
        kgetD (getPart t p).passes l.queue 0 = 0 ∧
        launchAt t p n = some { l with next := if l.requeued = [] then l.next + 1 else l.next, requeued := l.requeued.tail })) ∧
  (∀ s p n cores l s', launchAt s p n = some l → (getPart s p).formed = true → placeable s p n l = true → NoRival s p n l cores →
    let pairs := (nextBlocks l).zip cores
    let stand := keptMates s p n ++ pairs
    cores.length = (nextBlocks l).length →
    (∀ a ∈ stand, ∀ b ∈ stand, a.1 ≠ b.1 → a.1 / pkSpan l.packet = b.1 / pkSpan l.packet → a.2 ≠ b.2 ∧ clusterOfCore a.2 = clusterOfCore b.2) →
    placeAll s p n l pairs = some s' → ∃ t, Happens (.blockPlacement p n cores) s t ∧ t.groups = s'.groups ∧ t.blocks = s'.blocks ∧
      (∀ number core, (number, core) ∈ pairs → ∃ b x, s.nextId ≤ b ∧ kfind t.blocks b = some x ∧ x.number = number ∧ x.core = core ∧
        x.part = p ∧ x.launch = n) ∧
      launchAt t p n = some { l with
        next := if l.requeued = [] then l.next + cores.length else l.next
        requeued := l.requeued.filter fun a => decide (a ∉ nextBlocks l) }) ∧
  (∀ s p n l s1, launchAt s p n = some l → launchOver l = true → l.shadow = false →
    applyWhere (flushCaches (performPart s p) (fun c => (getPart s p).dies.contains (cacheDie c)) false) (fun e => e.part == p) = s1 →
    partPending s1 p = false → (getPart s1 p).launches = (getPart s p).launches → pkParent l.packet ≠ n →
    ∀ st, StatusOf s p l st →
    launchLevel l.packet = none ∨ (∃ k lv, launchLevel l.packet = some k ∧ levelAt s1 p k = some lv ∧ 2 ≤ lv.counter) →
    ∃ t, Happens (.launchCompletion p n) s t ∧
      (pkSignal l.packet ≠ 0 → pkSignal l.packet % 16 = 0 → Signalled s1 t p (pkSignal l.packet) st l.unrun (n % 2 ^ 32)) ∧
      ((∀ r ∈ l.ranges, Range.renamed r = false) → l.oldFrames = [] → launchAt t p n = none) ∧
      (∀ m, launchAt t p n = some m → m.complete = true) ∧
      (∀ k lv, launchLevel l.packet = some k → levelAt s1 p k = some lv →
        levelAt t p k = some { lv with counter := lv.counter - 1, status := worse lv.status st }) ∧
      (∀ m x, pkParent l.packet ≠ 0 → m = pkParent l.packet → launchAt s p m = some x → n ∉ x.preds →
        launchAt t p m = some { x with children := x.children - 1 }) ∧
      ∀ m x, m ≠ n → m ≠ pkParent l.packet → launchAt s p m = some x → n ∈ x.preds → x.complete = false →
        (st ≠ 0 ∨ l.cancelled = true) → launchAt t p m = some { retireUnrun x with predGone := true, predFailed := x.predFailed || st == 5 }) ∧
  (∀ s p n l, launchAt s p n = some l →
    (∀ r s1 page frame pte e, l.complete = true → l.shadow = false → l.ranges.find? Range.renamed = some r → r.fresh = [(page, frame)] →
      earlierUsers (getPart s p) n r = [] → performPart s p = s1 → partPending s1 p = false → (getPart s1 p).launches = (getPart s p).launches →
      walkRoot s1 (getPart s1 p).ctx.ptroot (65536 * page) = .leaf 4 pte e → s1.regions = [] → s1.landing = [] → e < 2 ^ 64 →
      frame < 2 ^ 46 → frame % 65536 = 0 → ∃ t l', Happens (.renameCommit p n) s t ∧ readWord64 t pte = e - bitsOf e 16 30 * 65536 + frame ∧
        (∀ b, (b < pte ∨ pte + 8 ≤ b) → memRead t.mem b = memRead s1.mem b) ∧ launchAt t p n = some l' ∧
        l' = { l with oldFrames := l.oldFrames ++ [bitsOf e 16 30 * 65536], users := l'.users, ranges := l'.ranges } ∧
        l'.ranges = l.ranges.map fun x => if x = r then { x with committed := true } else x) ∧
    ∀ f, l.oldFrames = [f] → f < 2 ^ 64 → (∀ r ∈ l.ranges, Range.renamed r = false) →
      (∀ m ∈ l.users, ∀ x, launchAt s p m = some x → x.complete = true) → ∃ t, Happens (.frameReturn p n) s t ∧
        let head := ((getPart s p).poolHead + 2 ^ 64 - 8) % 2 ^ 64
        (getPart t p).poolHead = head ∧ (getPart t p).poolLeft = (getPart s p).poolLeft + 1 ∧ readWord64 t head = f ∧
        (∀ b, (b < head ∨ head + 8 ≤ b) → memRead t.mem b = memRead s.mem b) ∧
        ((getPart s p).poolLeft = 0 → bitAt (getPart t p).ctx.evt 2 = true) ∧
        launchAt t p n = if l.complete then none else some { l with oldFrames := [] }) ∧
  ∀ s d, d < 8 → s.cycle / 4096 ≠ (getDie s d).govTick →
    (partOfDie s d = none → ∃ t, Happens (.governorTick d) s t ∧ OnlyDie s t d { getDie s d with govTick := s.cycle / 4096 }) ∧
    ∀ p, partOfDie s d = some p → let next := ((getDie s d).govTick + 1) % 2 ^ 52
      (dieRuns s d = false → ∃ t, Happens (.governorTick d) s t ∧ OnlyDie s t d { getDie s d with govTick := next }) ∧
      (dieRuns s d = true → ∃ t, Happens (.governorTick d) s t ∧ (getDie t d).govTick = next ∧ t.mem = s.mem ∧
      t.blocks = s.blocks ∧ ∀ k l off lo hi, levelAt s p k = some l → l.rings = [(off, lo, hi)] → k / 65536 = 1 →
        off + 4 ≤ (share (getPart s p).ctx).2 → let at_ := Loc.mem (Config.diePadBase + d * Config.diePadSize + (share (getPart s p).ctx).1 + off)
        isPoisoned s at_ = false → let n := readLE s at_ 4
        let quota := fun (l : Level) (i : Nat) => kgetD l.quota (4 * d + i) 0
        let Moves := fun (a b : Nat) => ∃ l', levelAt t p k = some l' ∧ l' = { l with quota := l'.quota } ∧
          quota l' a = (if 1 < quota l a then quota l a - 1 else quota l a) ∧ quota l' b = (if 1 < quota l a then quota l b + 1 else quota l b) ∧
          ∀ i, i ≠ 4 * d + a → i ≠ 4 * d + b → kgetD l'.quota i 0 = kgetD l.quota i 0
        (hi ≤ n → Moves 0 1) ∧ (n < hi → n ≤ lo → Moves 1 0) ∧ (lo < n → n < hi → levelAt t p k = some l))

/-! ## The host's side, errors, the loss of a die -/

/-- R341 to R343, R346, R352, R354, R357 to R367: with firmware that runs a commanded point takes effect and the cap has its bounds; a
tripped die stands still, and throttling changes no more than its report; an error is recorded and strikes its array; a lost die is fenced, and the
others' supervisors learn of it; the host reads and writes through grants, reads and sets the control window, raises events, gets a report; a
link reset empties the module, and power-on runs firmware that verifies, in a running module behind a reset that returns its fenced dies.
Some readings are the model's (log entries 64 to 70, 95, 96 and 98); memory that reads 0 after a reset is by entry 4, cycle 0 by entry 3,
the one flag for both interfaces' training by entry 94, poison behind the loads on their way by entry 25. -/
def Obligations.PlatformEvents : Prop :=
  ∀ s,
    (∀ d point, d < 8 → let x := getDie s d
      (s.firmware.running = true → s.linkUp = true → point < 8 → ∃ t y, Happens (.operatingPointCommand d point) s t ∧ OnlyDie s t d y ∧
        y = { x with change := some (point, s.cycle + 22000), tripped := y.tripped } ∧ dieRuns t d = false ∧
        (y.tripped = true ↔ x.tripped = true ∧ (x.hot = true ∨ x.trippedAt = s.cycle))) ∧
      (∀ due, x.change = some (point, due) → ∃ t, Happens (.operatingPointSettled d) s t ∧
        OnlyDie s t d { x with point := point, change := none } ∧ (point = 0 → dieRuns t d = false)) ∧
      (x.tripped = false → ∀ i, i = .thermalTrip d ∨ i = .currentBoundTrip d → ∃ t, Happens i s t ∧
        getDie t d = { x with tripped := true, trippedAt := s.cycle, hot := true } ∧
        (∀ e, e ≠ d → getDie t e = getDie s e) ∧ t = { s with dies := t.dies, hostInterrupts := s.hostInterrupts ++ [d] } ∧
        dieRuns t d = false)) ∧
    (s.firmware.running = true → s.linkUp = true → ∀ w, Happens (.powerCapWrite w) s { s with powerCap := if 2800 < w then 2800 else if w < 300 then 300 else w }) ∧
    (∀ w k, s.powerCap < w → 1 ≤ k → k ≤ 3 → ∃ t, Happens (.powerLimitThrottle w k) s t ∧ t = { s with powerNow := w, dies := t.dies } ∧
      ∀ d, getDie t d = { getDie s d with throttled := if d < 8 then true else (getDie s d).throttled }) ∧
    (∀ w, w ≤ s.powerCap → ∃ t, Happens (.powerLimitRelease w) s t ∧ t = { s with powerNow := w, dies := t.dies } ∧
      ∀ d, getDie t d = { getDie s d with throttled := if d < 8 then false else (getDie s d).throttled }) ∧
    (∀ site, Happens (.correctableError site) s { s with ceCount := s.ceCount + 1 }) ∧
    let calm := fun (lo n : Nat) => ∀ e ∈ entriesUnderWay s, (e.op = 16 ∨ e.op = 21) → e.addr + e.size ≤ lo ∨ lo + n ≤ e.addr
    (∀ site, siteExists s site = true → ∃ t s1, Happens (.uncorrectableError site) s t ∧ ErrorLogged s s1 site ∧
      (∀ b, (site = .registerFile b ∨ site = .groupState b) → (∀ h y, kfind t.groups h = some y → y.block = b → y.still = true ∨ y.haltAsked ≠ none) ∧
        ∀ blk, kfind t.blocks b = some blk → blk.ending ≠ none ∨ blk.retired = true) ∧
      (∀ b g, site = .corePad b g → isPoisoned t (.pad b (64 * g)) = true ∧ t = { s1 with blocks := t.blocks }) ∧
      (∀ b g, site = .laneSlice b g → isPoisoned t (.slice b (64 * g)) = true ∧ t = { s1 with blocks := t.blocks }) ∧
      (∀ g, (site = .diePad g ∨ site = .l3 g ∨ site = .hbm g) → g ∈ t.poison ∧
        (calm (64 * g) 64 → t = { s1 with poison := t.poison } ∧ ∀ k, k ∈ t.poison ↔ k ∈ s1.poison ∨ k = g)) ∧
      (∀ c line, (site = .l1 c line ∨ site = .icache c line) → t = s1) ∧
      (∀ d line, site = .l2 d line → (line ∉ (getDie s d).dirty → t = s1) ∧
        (line ∈ (getDie s d).dirty → calm (128 * line) 128 → t = { s1 with poison := t.poison, dies := t.dies } ∧
          (∀ k, k ∈ t.poison ↔ k ∈ s1.poison ∨ k / 2 = line) ∧ getDie t d = { getDie s d with dirty := (getDie s d).dirty.erase line })) ∧
      (∀ c va, site = .tlb c va → t.mem = s1.mem ∧ (∀ e, e ∈ (getCore t c).tlb ↔ e ∈ (getCore s c).tlb ∧ e.maps va = false) ∧
        ∀ e, e ∈ (getDie t (dieOfCore c)).tlb ↔ e ∈ (getDie s (dieOfCore c)).tlb ∧ e.maps va = false) ∧
      (∀ b tile row x, site = .accumulator b tile row → kfind s.blocks b = some x → ∃ y, kfind t.blocks b = some y ∧
        y = { x with rowPoison := y.rowPoison } ∧ ∀ k, k ∈ y.rowPoison ↔ k ∈ x.rowPoison ∨ k = 32 * tile + row) ∧
      (∀ b x, site = .shadowBank b → kfind s.blocks b = some x → kfind t.blocks b = some { x with damaged := true }) ∧
      ∀ a, site = .landing a → isPoisoned t (.mem a) = true ∧ (calm (a / 64 * 64) 64 → ∀ e, e ∈ t.landing ↔ e ∈ s.landing ∧ ¬ (e.addr < a + 1 ∧ a < e.addr + e.size)) ∧
        ∀ q ∈ (getRegion t (regionOf a)).held, ∀ e ∈ q.held, e.addr < a + 1 → a < e.addr + e.size → e.ret = []) ∧
    (∀ d, d < 8 → (getDie s d).state ≠ 7 →
      (partOfDie s d = none → ∃ t, Happens (.dieLost d) s t ∧ (getDie t d).state = 7 ∧ (getDie t d).dirty = [] ∧
        (s.holders = [] → entriesUnderWay s = [] → (∀ e ∈ s.ops, ∀ a, e.2.body ≠ .amp a) → ∀ k, k / 2 ∈ (getDie s d).dirty → k ∈ t.poison)) ∧
      ∀ p s1, partOfDie s d = some p → fenceDie s p d = s1 → ∃ t, Happens (.dieLost d) s t ∧ t = { s1 with groups := t.groups } ∧
        (getDie t d).state = 7 ∧ d ∉ (getPart t p).dies ∧ ∀ g x, kfind s1.groups g = some x →
          ∃ y, kfind t.groups g = some y ∧ y = { x with pending := y.pending } ∧
            (g ∈ runningGroups s1 p (fun _ => true) → x.sup = true → dieOf s1 g ≠ d → { num := 15, code := d } ∈ y.pending) ∧
            ((x.sup = false ∨ dieOf s1 g = d) → y = x)) ∧
    (s.firmware.running = true → s.linkUp = true →
      (∀ a n, 0 < n → let op := Instr.hostAccess (.read a n)
        (¬ Granted s a n false ∨ ¬ HostReaches a n ∨ (inDiePads a = true ∧ dieAnswer s (diePadOf a) = .error) → ∃ t, Happens op s t ∧ HostRefused s t a 0) ∧
        (Granted s a n false → HostReaches a n → (inDiePads a = true → dieAnswer s (diePadOf a) = .served) → Undisturbed s a n →
          ((∃ i, i < n ∧ isPoisoned s (.mem (a + i)) = true) → ∃ t, Happens op s t ∧
            t = { s with hostReplies := s.hostReplies ++ [.poisoned], hostLog := s.hostLog ++ [(a, 0)] }) ∧
          ((∀ i < n, isPoisoned s (.mem (a + i)) = false ∧ mixed s (a + i) = false) → ∃ t, Happens op s t ∧
            HostAnswered s t (.data ((List.range n).map fun i => memRead s.mem (a + i)))))) ∧
      (∀ a bs, bs ≠ [] → let op := Instr.hostAccess (.write a bs)
        (¬ Granted s a bs.length true ∨ (inQueues a bs.length = false ∧
            (¬ HostReaches a bs.length ∨ (inDiePads a = true ∧ dieAnswer s (diePadOf a) = .error))) →
          ∃ t, Happens op s t ∧ HostRefused s t a 1) ∧
        (Granted s a bs.length true → inQueues a bs.length = true → bitAt a 12 = false → ∃ t p, Happens op s t ∧
          t = { s with hostReplies := s.hostReplies ++ [.done], openPackets := t.openPackets } ∧ p ∈ t.openPackets ∧
          p.owner = .host ∧ p.window = a / 65536 ∧ p.last = s.cycle ∧
          (bs.length ≤ 256 → ∀ i < bs.length, kfind p.bytes ((a + i) % 65536 % 256) = bs[i]?)) ∧
        (Granted s a bs.length true → HostReaches a bs.length → (inDiePads a = true → dieAnswer s (diePadOf a) = .served) →
          Undisturbed s a bs.length → ∃ t, Happens op s t ∧ t.hostReplies = s.hostReplies ++ [.done] ∧ t.groups = s.groups ∧
            ∀ b, memRead t.mem b = if a ≤ b ∧ b < a + bs.length then (bs[b - a]?).getD 0 else memRead s.mem b)) ∧
      (∀ p v, (getPart s p).formed = true → ∃ t, Happens (.hostEvtWrite p v) s t ∧ t = { s with parts := t.parts } ∧
        (∀ q, q ≠ p → getPart t q = getPart s q) ∧ ∃ c, getPart t p = { getPart s p with ctx := c } ∧
        c = { (getPart s p).ctx with evt := c.evt } ∧ c.evt = (getPart s p).ctx.evt ||| v.toNat % 16) ∧
      (∀ v, let W := fun (c : ControlTarget) => Instr.controlWindowWrite c v
        (∀ c ∈ [ControlTarget.aperture 16 0 0 0, .grant 16 0 0 0, .mailbox 64 0 0 false, .portFilter 24 0 0],
          ∃ t, Happens (W c) s t ∧ HostAnswered s t .error) ∧
        (Sets (W .critLimit) s fun t => { t with critLimit := v.toNat }) ∧ (Sets (W .mxIdle) s fun t => { t with mxIdle := v.toNat }) ∧
        (Sets (W .deviceNumber) s fun t => { t with dev := v.toNat % 2 ^ 18 }) ∧
        (∀ j base size perm, j < 16 → size ≤ 2 ^ 40 → ∃ t, Happens (W (.aperture j base size perm)) s t ∧
          t = { s with hostReplies := s.hostReplies ++ [.done], apertures := t.apertures, mem := t.mem, hostMem := t.hostMem } ∧
          (let old := kgetD s.apertures j {}
            let lo := Config.apertureBase + j * Config.apertureSize
            (old.hostBase = base → old.size = size → t.mem = s.mem ∧ t.hostMem = s.hostMem) ∧
            (∀ b, (b < lo ∨ lo + Config.apertureSize ≤ b) → memRead t.mem b = memRead s.mem b) ∧
            (Memory.wf s.mem = true → Memory.wf s.hostMem = true → ¬ (old.hostBase = base ∧ old.size = size) → ∀ k < size,
              memRead t.mem (lo + k) = if old.hostBase ≤ base + k ∧ base + k < old.hostBase + old.size
                then memRead s.mem (lo + (base + k - old.hostBase)) else memRead s.hostMem (base + k))) ∧ ∀ i, kgetD t.apertures i {} = if i = j
            then { on := bitAt perm 0, hostBase := base, size := size, r := bitAt perm 1, w := bitAt perm 2 } else kgetD s.apertures i {}) ∧
        (∀ j base size perm, 16 ≤ j ∨ 2 ^ 40 < size → ∃ t, Happens (W (.aperture j base size perm)) s t ∧ HostAnswered s t .error) ∧
        (∀ j base size perm, j < 16 → ∃ t, Happens (W (.grant j base size perm)) s t ∧
          t = { s with hostReplies := s.hostReplies ++ [.done], grants := t.grants } ∧ ∀ i, kfind t.grants i = if i = j
            then (if bitAt perm 0 then some { base := base, size := size, r := bitAt perm 1, w := bitAt perm 2 } else none) else kfind s.grants i) ∧
        (∀ h base size on, h < 64 → ∃ t, Happens (W (.mailbox h base size on)) s t ∧
          t = { s with hostReplies := s.hostReplies ++ [.done], mailboxes := t.mailboxes } ∧
          kgetD t.mailboxes h {} = { on := on, hostBase := base, size := size }) ∧
        (∀ i lo hi, i < 24 → ∃ t, Happens (W (.portFilter i lo hi)) s t ∧
          t = { s with hostReplies := s.hostReplies ++ [.done], ports := t.ports } ∧
          kgetD t.ports i {} = { kgetD s.ports i {} with lo := lo, hi := hi }) ∧
        (∀ p n, (getPart s p).formed = true →
          (windowReg n = false ∨ (n ≠ 0x0C4 ∧ n ≠ 0x0C5 ∧ n ≠ 0x045 ∧ ¬ HostIdle s p) → ∃ t, Happens (W (.sysReg p n)) s t ∧ HostAnswered s t .error) ∧
          (n ∈ [0x040, 0x041, 0x042, 0x043, 0x0C1, 0x0C2, 0x0C4, 0x0C5, 0x100, 0x200] → (HostIdle s p ∨ n = 0x0C4 ∨ n = 0x0C5) →
            ∃ t, Happens (W (.sysReg p n)) s t ∧ t = { s with hostReplies := s.hostReplies ++ [.done], parts := t.parts } ∧
              (∀ P, (n, P) ∈ HostSets t p v → P) ∧ ∀ q, q ≠ p → getPart t q = getPart s q) ∧
          (n = 0x045 → ∃ t, Happens (W (.sysReg p n)) s t ∧ (getPart t p).ctx.evt = (getPart s p).ctx.evt ||| v.toNat % 16) ∧
          (n = 0x085 → HostIdle s p → ∃ t, Happens (W (.sysReg p n)) s t ∧ (getPart t p).sh.evt = v.toNat % 16) ∧
          (n ∈ [0x3C0, 0x3C2, 0x3C3] → HostIdle s p → Sets (W (.sysReg p n)) s fun t => { t with caps := kput t.caps n v }) ∧
          (n = 0x0C0 → HostIdle s p → ∃ t, Happens (W (.sysReg p n)) s t ∧
            t = { s with hostReplies := s.hostReplies ++ [.done], parts := t.parts } ∧
            ∀ d, d ∈ (getPart t p).dies ↔ d < 8 ∧ v.getLsbD d = true ∧ (getDie s d).state ≠ 7) ∧
          ∀ d < 8, n = 0x0F0 + d → HostIdle s p →
            (d ∉ (getPart s p).dies → ∃ t, Happens (W (.sysReg p n)) s t ∧ HostAnswered s t .done) ∧
            (d ∈ (getPart s p).dies → fld v 0 4 = 7 → ∃ t, Happens (W (.sysReg p n)) s t ∧
              (getDie t d).state = 7 ∧ d ∉ (getPart t p).dies) ∧
            (d ∈ (getPart s p).dies → fld v 0 4 ≠ 7 → ∃ t, Happens (W (.sysReg p n)) s t ∧
              (getDie t d).state = fld v 0 4 ∧ (getDie t d).stray = v.getLsbD 8)) ∧
        ∀ p n, (n = 1 ∨ n = 2 ∨ n = 4 ∨ n = 8) → n * (p + 1) ≤ 8 → (∀ e ∈ s.parts, e.2.formed = false) →
          ∃ t, Happens (W (.formPartition p n)) s t ∧ (getPart t p).formed = true ∧ (getPart t p).ctx.empty = true ∧
            ∀ d, d ∈ (getPart t p).dies ↔ n * p ≤ d ∧ d < n * (p + 1) ∧ (getDie s d).state ≠ 7) ∧
      ∀ nonce, ∃ t a, Happens (.attestationNonce nonce) s t ∧ t = { s with attestation := some a } ∧ a.nonce = nonce ∧
        a.sig = Config.reportSignature a.contents ∧ (∃ table, a.contents = [Config.capId.toNat, s.dev, s.firmware.digest, s.firmware.rollback,
          s.firmware.keySlot, Config.fuseWord] ++ table ++ [nonce.toNat])) ∧
    (∀ rest, let s0 := { s with schedule := rest }
      (∀ d, s.schedule = .cool d :: rest → step s = .next (afterTurn (if (getDie s d).hot then modDie s0 d fun x => { x with hot := false } else s0))) ∧
      (∀ n, s.schedule = .rollback n :: rest → step s = .next (afterTurn (if s.firmware.running
        then { s0 with firmware := { s.firmware with rollback := max s.firmware.rollback (n % 65536) } } else s0))) ∧
      ∀ v, s.schedule = .view v :: rest → ∃ r, step s = .next (afterTurn { s0 with hostReplies := s.hostReplies ++ [r] }) ∧
        let f := s.firmware
        (s.linkUp = false ∨ (f.running = false ∧ v ≠ .firmware) → r = .error) ∧
        (s.linkUp = true → v = .firmware → r = .view [bit f.running, f.version, f.rollback, f.keySlot, f.digest]) ∧
        (s.linkUp = true → f.running = true →
          (∀ p n, v = .sysReg p n → (getPart s p).formed = true →
            (∀ w, (n, w) ∈ [(0x040, (getPart s p).ctx.id), (0x041, (getPart s p).ctx.ptroot), (0x0C1, (getPart s p).ingress),
              (0x0C2, (getPart s p).logBase), (0x0C4, (getPart s p).poolHead), (0x0C5, (getPart s p).poolLeft)] → r = .view [w % 2 ^ 64]) ∧
            (Legal.sysListed (BitVec.ofNat 12 n) = false → r = .error)) ∧
          (v = .deviceNumber → r = .view [s.dev]) ∧
          (∀ i g, v = .grant i → i < 16 → kfind s.grants i = some g → r = .view [g.base, g.size, 1 + 2 * bit g.r + 4 * bit g.w]) ∧
          (∀ i, v = .portFilter i → i < 24 → r = .view [(kgetD s.ports i {}).lo, (kgetD s.ports i {}).hi]) ∧
          (∀ a, v = .attestation → s.attestation = some a → r = .view (a.nonce.toNat :: a.sig.toNat :: a.contents)))) ∧
    (∃ t, Happens .linkReset s t ∧ t.mem = [] ∧ t.poison = [] ∧ t.groups = [] ∧ t.blocks = [] ∧ t.ops = [] ∧ t.parts = [] ∧ t.cores = [] ∧
      t.landing = [] ∧ t.regions = [] ∧ t.linkUp = false ∧ t.firmware.running = false ∧ t.firmware.rollback = s.firmware.rollback ∧
      t.firmware.revoked = s.firmware.revoked ∧ t.cycle = 0 ∧ t.critLimit = 55000 ∧ t.powerCap = 2800 ∧ ∀ d, (∃ x, (d, x) ∈ s.dies ∧ x.state = 7) ↔ (getDie t d).state = 7) ∧
    ∀ tr key image, let runs := ∃ k, key = some k ∧ s.firmware.revoked.getLsbD k.toNat = false ∧ s.firmware.rollback ≤ image.version.toNat
      (s.supplied = false → ¬ runs → Happens (.powerOn tr key image) s
        { s with supplied := true, linkUp := true, firmware := { s.firmware with running := false } }) ∧
      (s.supplied = false → runs → ∃ t k, Happens (.powerOn tr key image) s t ∧ key = some k ∧
        t = { s with supplied := true, linkUp := true, dies := t.dies, firmware := { s.firmware with
          running := true, version := image.version.toNat, keySlot := k.toNat, digest := image.digest.toNat } } ∧
        ∀ d, getDie t d = if d < 8 ∧ tr.getLsbD d = false then { getDie s d with state := 7 } else getDie s d) ∧
      (s.supplied = true →
        ∃ t, Happens (.powerOn tr key image) s t ∧ t.supplied = true ∧ t.linkUp = true ∧ t.mem = [] ∧ t.groups = [] ∧ t.parts = [] ∧
          (t.firmware.running = true ↔ runs) ∧ t.firmware.rollback = s.firmware.rollback ∧
          ∀ d < 8, ((getDie t d).state = 7 ↔ (runs ∧ tr.getLsbD d = false)))

/-! ## Reset, the step, the encoding, the invariant -/

/-- R2, R14, R293, R360, R368: what reset leaves, as the rules give it: the counters, the limits, the cap, the points, the registers of
a group that has not begun.
The cycle counter's 0, the dies' state 0 and their empty caches are the model's choice (log entry 3), the launch queues' and ports' zeros the table's. -/
def Obligations.ResetValues : Prop :=
  let s := State.reset
  s.cycle = 0 ∧ s.critLimit = 55000 ∧ s.mxIdle = 8192 ∧ s.powerCap = 2800 ∧ s.powerNow = 0 ∧ s.ceCount = 0 ∧
    (∀ d, getDie s d = { state := 0, point := 7 } ∧ dieRuns s d = true) ∧
    (∀ p, let pt := getPart s p
      pt.logBase = 0 ∧ pt.logLost = 0 ∧ pt.poolLeft = 0 ∧ pt.badPkt = 0 ∧ pt.drop = 0 ∧
        pt.ctx.trapVec = 0 ∧ pt.ctx.trapEn = 0 ∧ pt.ctx.evt = 0 ∧ pt.ctx.ptroot = 0 ∧ pt.sh.empty = true ∧
        (∀ q, kgetD pt.l3ways q 0xFFFF = 0xFFFF ∧ kgetD pt.lq q 0 = 0 ∧ kgetD pt.mp q 0 = 0)) ∧
    let x : Group := {}
    x.em = 0xFFFFFFFF ∧ x.sup = false ∧ x.fsr = [] ∧ x.err = 0 ∧ x.tmo = 0 ∧ x.critical = false ∧
      ∀ r l, x.vreg r l = 0 ∧ x.sreg r = 0 ∧ x.kreg r = 0 ∧ (x.xreg r).limit = 0

/-- The reset state meets what every step keeps. -/
def Obligations.InvAtReset : Prop := Sys2Proof.Machine.Inv State.reset

/-- R2, R18, R40, R327, R369: a turn that issues fetches the bytes at the selected group's program counter; where they are a legal
encoding the step is the execution of that instruction, with what `issued` names around it; where they are none it takes trap 0; where the
first or the second halfword cannot be fetched it takes trap 4, 5 or 6, with the failing halfword's address and em as it is; an event
that the schedule names happens where it can; time passes on a counter of 64 bits; with no turn named and no event due, the group that
has waited longest issues a cycle later.
The model's choices: what moves next (log entry 2), the counter's wrap (84), that an event that cannot happen leaves the state as it is (1). -/
def Obligations.StepRunsDecoded : Prop :=
  (∀ s g dt rest h x s0 s1, Selected s g dt rest h x s0 s1 →
    (∀ p i l, Fetches s1 h x.pc.toNat p → bitAt (codeByte s1 p 0).toNat 0 = false → decode [codeByte s1 p 0, codeByte s1 p 1] = some (i, l) →
      step s = issued s0 h (exec i s1)) ∧
    (∀ p q i l, Fetches s1 h x.pc.toNat p → Fetches s1 h (x.pc.toNat + 2) q → bitAt (codeByte s1 p 0).toNat 0 = true →
      decode [codeByte s1 p 0, codeByte s1 p 1, codeByte s1 q 0, codeByte s1 q 1] = some (i, l) → step s = issued s0 h (exec i s1)) ∧
    (∀ p, Fetches s1 h x.pc.toNat p → bitAt (codeByte s1 p 0).toNat 0 = false → decode [codeByte s1 p 0, codeByte s1 p 1] = none →
      step s = issued s0 h (.next (raise s1 h 0))) ∧
    (∀ p q, Fetches s1 h x.pc.toNat p → Fetches s1 h (x.pc.toNat + 2) q → bitAt (codeByte s1 p 0).toNat 0 = true →
      decode [codeByte s1 p 0, codeByte s1 p 1, codeByte s1 q 0, codeByte s1 q 1] = none →
      step s = issued s0 h (.next (raise s1 h 0))) ∧
    (∀ s2 i, fetchAt s1 h x.pc.toNat = (s2, .instr i) → step s = issued s0 h (exec i s2)) ∧
    ∀ a, (a = x.pc.toNat ∨ (a = x.pc.toNat + 2 ∧ ∃ p, Fetches s1 h x.pc.toNat p ∧ bitAt (codeByte s1 p 0).toNat 0 = true)) →
      ∀ s2 r y0, translate s1 (spaceOf s1 h) a .fetch 2 = (s2, r) → kfind s2.groups h = some y0 → vectorOf s2 h ≠ 0 →
      let Fails := fun (num code : Nat) => ∃ t y, step s = issued s0 h (.next t) ∧ OnlyGroup s2 t h y ∧
        Entered s2 h y0 y num code x.pc x.pc (BitVec.ofNat 64 a) 0 y0.em
      (2 ^ 56 ≤ a → Fails 5 0) ∧
      (a < 2 ^ 56 → ∀ q, LeafOf s1 (spaceOf s1 h) a (fun _ => false) q →
        (∀ kind, q = .error kind → Fails 4 kind) ∧ ∀ f sh, q = .ok (f, sh) → f.testBit 4 = false → Fails 5 0) ∧
      ∀ p, r = .ok p → isPoisoned s2 (.mem p.pa) = true → Fails 6 0) ∧
  (∀ s e rest, s.schedule = .event e :: rest → let s0 := { s with schedule := rest }
    (∀ t, runEvent? e s0 = some t → step s = .next (afterTurn t)) ∧ (runEvent? e s0 = none → step s = .next (afterTurn s0))) ∧
  (∀ s n rest, s.schedule = .tick n :: rest → ∃ t, step s = .next t ∧ t.cycle = (s.cycle + n) % 2 ^ 64) ∧
  ∀ s g, s.schedule = [] → firstDue s (dueEvents s) = none → longest s ((kkeys s.groups).filter (selectable s)) = some g →
    step s = step { s with schedule := [.issue g 1] }

/-- R19 to R24: some words, written out from the encoding tables, decode to the instructions they stand for. -/
def Obligations.DecodeWords : Prop :=
  ∀ e ∈ knownWords, decodeWord e.1 = some e.2 ∧ ∀ r, decode (leBytes 4 e.1 ++ r) = some (e.2, r)

/-- R18 to R24, R40: the encoder and the decoder agree on every well-formed instruction that has an encoding, and every run of bytes
that decodes is the encoding of what it decodes to. The operations of die.ctl have one encoding. -/
def Obligations.DecodeEncode : Prop :=
  (∀ i r, i.bytes ≠ 0 → i.wellFormed = true → (∀ d a, ¬ IsDieCtl i d a) → decode (encodeBytes i ++ r) = some (i, r)) ∧
  (∀ i d a r, IsDieCtl i d a → decode (encodeBytes i ++ r) = some (.dieCtlRead d a, r)) ∧
  ∀ l i r, decode l = some (i, r) → i.wellFormed = true ∧ i.bytes ≠ 0 ∧ l = encodeBytes i ++ r

/-- Every step keeps local memory and the write-combining buffers in their forms (R99, R103). -/
def Obligations.InvKept : Prop := ∀ s t, Sys2Proof.Machine.Inv s → step s = .next t → Sys2Proof.Machine.Inv t
end

