-- ==== Sys2Proof/Laws/KMap.lean ====
section
/-! SUPPORT. Reading back what a sparse map was written, and the strictly rising form that every operation keeps. -/

namespace Sys2Proof.Machine

variable {α : Type}

theorem kfind_kput_same (m : KMap α) (k : Nat) (v : α) : kfind (kput m k v) k = some v := by
  induction m with
  | nil => simp [kput, kfind]
  | cons e r ih =>
    simp only [kput]
    split_ifs with h1 h2
    · simp [kfind]
    · simp [kfind]
    · simp [kfind, h2, ih]

theorem kfind_kput_other (m : KMap α) {k j : Nat} (v : α) (h : j ≠ k) : kfind (kput m k v) j = kfind m j := by
  induction m with
  | nil => simp [kput, kfind, Ne.symm h]
  | cons e r ih =>
    simp only [kput]
    split_ifs with h1 h2
    · simp [kfind, Ne.symm h]
    · subst h2; simp [kfind, Ne.symm h]
    · simp only [kfind, ih]

theorem kfind_kput (m : KMap α) (k j : Nat) (v : α) : kfind (kput m k v) j = if j = k then some v else kfind m j := by
  by_cases h : j = k
  · subst h; simp [kfind_kput_same]
  · simp [kfind_kput_other m v h, h]

theorem kfind_kerase_same (m : KMap α) (k : Nat) : kfind (kerase m k) k = none := by
  induction m with
  | nil => rfl
  | cons e r ih =>
    by_cases h : e.1 = k
    · simpa [kerase, h] using ih
    · simp only [kerase, List.filter_cons, bne_iff_ne, ne_eq, h, not_false_eq_true, if_true, kfind, if_false]
      exact ih

theorem kfind_kerase_other (m : KMap α) {k j : Nat} (h : j ≠ k) : kfind (kerase m k) j = kfind m j := by
  induction m with
  | nil => rfl
  | cons e r ih =>
    by_cases h1 : e.1 = k
    · have : e.1 ≠ j := fun h2 => h (by rw [← h2, h1])
      simp only [kerase, List.filter_cons, bne_iff_ne, ne_eq, h1, not_true_eq_false, if_false, kfind]
      rw [if_neg (by rw [← h1]; exact this)]
      exact ih
    · simp only [kerase, List.filter_cons, bne_iff_ne, ne_eq, h1, not_false_eq_true, if_true, kfind]
      split
      · rfl
      · exact ih

/-- Reading a stored key gives the value, an unlisted one its default. -/
theorem kgetD_kstore [DecidableEq α] (m : KMap α) (k j : Nat) (v d : α) :
    kgetD (kstore m k v d) j d = if j = k then v else kgetD m j d := by
  by_cases hv : v = d <;> by_cases hj : j = k
  · subst hv hj; simp [kgetD, kstore, kfind_kerase_same]
  · subst hv; simp [kgetD, kstore, hj, kfind_kerase_other]
  · subst hj; simp [kgetD, kstore, hv, kfind_kput_same]
  · simp [kgetD, kstore, hv, hj, kfind_kput_other]

theorem kfind_kmodify (m : KMap α) (k j : Nat) (f : α → α) :
    kfind (kmodify m k f) j = if j = k then (kfind m k).map f else kfind m j := by
  unfold kmodify
  cases h : kfind m k with
  | none =>
    by_cases hj : j = k
    · subst hj; simp [h]
    · simp [hj]
  | some v =>
    by_cases hj : j = k
    · subst hj; simp [kfind_kput_same]
    · simp [hj, kfind_kput_other]

theorem kfind_filter (m : KMap α) (p : Nat → Bool) (k : Nat) :
    kfind (m.filter fun e => p e.1) k = if p k then kfind m k else none := by
  induction m with
  | nil => simp [kfind]
  | cons e r ih =>
    by_cases h : e.1 = k
    · subst h; by_cases hp : p e.1 <;> simp [kfind, hp, ih]
    · by_cases hp : p e.1 <;> simp [kfind, hp, h, ih]

/-! ## The rising form -/

theorem mem_kput {m : KMap α} {k : Nat} {v : α} {e : Nat × α} (h : e ∈ kput m k v) : e = (k, v) ∨ e ∈ m := by
  induction m with
  | nil => simpa [kput] using h
  | cons a r ih =>
    simp only [kput] at h
    split_ifs at h with h1 h2
    · simpa using h
    · simp only [List.mem_cons] at h
      rcases h with h | h
      · exact .inl h
      · exact .inr (List.mem_cons_of_mem _ h)
    · simp only [List.mem_cons] at h
      rcases h with h | h
      · exact .inr (by simp [h])
      · rcases ih h with h | h
        · exact .inl h
        · exact .inr (List.mem_cons_of_mem _ h)

theorem ksorted_cons (e : Nat × α) (r : KMap α) : ksorted (e :: r) = true ↔ (∀ x ∈ r, e.1 < x.1) ∧ ksorted r = true := by
  simp [ksorted]

theorem ksorted_kput (m : KMap α) (k : Nat) (v : α) (h : ksorted m = true) : ksorted (kput m k v) = true := by
  induction m with
  | nil => simp [kput, ksorted]
  | cons e r ih =>
    rw [ksorted_cons] at h
    simp only [kput]
    split_ifs with h1 h2
    · rw [ksorted_cons, ksorted_cons]
      refine ⟨?_, h⟩
      intro x hx
      rcases List.mem_cons.mp hx with hx | hx
      · simpa [hx] using h1
      · exact lt_trans h1 (h.1 x hx)
    · rw [ksorted_cons]
      exact ⟨fun x hx => h2 ▸ h.1 x hx, h.2⟩
    · rw [ksorted_cons]
      refine ⟨fun x hx => ?_, ih h.2⟩
      rcases mem_kput hx with hx | hx
      · subst hx; simp only; omega
      · exact h.1 x hx

theorem ksorted_filter (m : KMap α) (p : Nat × α → Bool) (h : ksorted m = true) : ksorted (m.filter p) = true := by
  induction m with
  | nil => rfl
  | cons e r ih =>
    rw [ksorted_cons] at h
    by_cases hp : p e
    · rw [List.filter_cons_of_pos hp, ksorted_cons]
      exact ⟨fun x hx => h.1 x (List.mem_of_mem_filter hx), ih h.2⟩
    · rw [List.filter_cons_of_neg hp]
      exact ih h.2

theorem ksorted_kerase (m : KMap α) (k : Nat) (h : ksorted m = true) : ksorted (kerase m k) = true := ksorted_filter m _ h

theorem ksorted_kstore [DecidableEq α] (m : KMap α) (k : Nat) (v d : α) (h : ksorted m = true) :
    ksorted (kstore m k v d) = true := by
  unfold kstore
  split
  · exact ksorted_kerase m k h
  · exact ksorted_kput m k v h

/-- What a key finds is an entry. -/
theorem kfind_mem {m : KMap α} {k : Nat} {v : α} (h : kfind m k = some v) : (k, v) ∈ m := by
  induction m with
  | nil => cases h
  | cons e r ih =>
    unfold kfind at h
    split at h
    · rename_i he
      cases h
      exact List.mem_cons.2 (.inl (by rw [← he]))
    · exact List.mem_cons_of_mem _ (ih h)

end Sys2Proof.Machine
end

