-- ==== Sys2Proof/Laws/State.lean ====
section
/-! SUPPORT. What the named updates of the machine and of a group leave alone, field by field. -/

namespace Sys2Proof.Machine

section
variable (s : State) (g : Nat) (f : Group → Group)
@[simp] theorem modGroup_cycle : (modGroup s g f).cycle = s.cycle := rfl
@[simp] theorem modGroup_dev : (modGroup s g f).dev = s.dev := rfl
@[simp] theorem modGroup_mem : (modGroup s g f).mem = s.mem := rfl
@[simp] theorem modGroup_poison : (modGroup s g f).poison = s.poison := rfl
@[simp] theorem modGroup_scopes : (modGroup s g f).scopes = s.scopes := rfl
@[simp] theorem modGroup_dies : (modGroup s g f).dies = s.dies := rfl
@[simp] theorem modGroup_cores : (modGroup s g f).cores = s.cores := rfl
@[simp] theorem modGroup_parts : (modGroup s g f).parts = s.parts := rfl
@[simp] theorem modGroup_blocks : (modGroup s g f).blocks = s.blocks := rfl
@[simp] theorem modGroup_ops : (modGroup s g f).ops = s.ops := rfl
@[simp] theorem modGroup_stores : (modGroup s g f).stores = s.stores := rfl
@[simp] theorem modGroup_arrivals : (modGroup s g f).arrivals = s.arrivals := rfl
@[simp] theorem modGroup_sent : (modGroup s g f).sent = s.sent := rfl
@[simp] theorem modGroup_landing : (modGroup s g f).landing = s.landing := rfl
@[simp] theorem modGroup_algTables : (modGroup s g f).algTables = s.algTables := rfl
@[simp] theorem modGroup_regions : (modGroup s g f).regions = s.regions := rfl
@[simp] theorem modGroup_holders : (modGroup s g f).holders = s.holders := rfl
@[simp] theorem modGroup_messages : (modGroup s g f).messages = s.messages := rfl
@[simp] theorem modGroup_calls : (modGroup s g f).calls = s.calls := rfl
@[simp] theorem modGroup_openPackets : (modGroup s g f).openPackets = s.openPackets := rfl
@[simp] theorem modGroup_outbound : (modGroup s g f).outbound = s.outbound := rfl
@[simp] theorem modGroup_handled : (modGroup s g f).handled = s.handled := rfl
@[simp] theorem modGroup_completions : (modGroup s g f).completions = s.completions := rfl
@[simp] theorem modGroup_replies : (modGroup s g f).replies = s.replies := rfl
@[simp] theorem modGroup_contributions : (modGroup s g f).contributions = s.contributions := rfl
@[simp] theorem modGroup_transfers : (modGroup s g f).transfers = s.transfers := rfl
@[simp] theorem modGroup_dieSlots : (modGroup s g f).dieSlots = s.dieSlots := rfl
@[simp] theorem modGroup_ports : (modGroup s g f).ports = s.ports := rfl
@[simp] theorem modGroup_mailed : (modGroup s g f).mailed = s.mailed := rfl
@[simp] theorem modGroup_linkUp : (modGroup s g f).linkUp = s.linkUp := rfl
@[simp] theorem modGroup_linkLost : (modGroup s g f).linkLost = s.linkLost := rfl
@[simp] theorem modGroup_hostMem : (modGroup s g f).hostMem = s.hostMem := rfl
@[simp] theorem modGroup_hostReplies : (modGroup s g f).hostReplies = s.hostReplies := rfl
@[simp] theorem modGroup_hostLog : (modGroup s g f).hostLog = s.hostLog := rfl
@[simp] theorem modGroup_hostInterrupts : (modGroup s g f).hostInterrupts = s.hostInterrupts := rfl
@[simp] theorem modGroup_apertures : (modGroup s g f).apertures = s.apertures := rfl
@[simp] theorem modGroup_grants : (modGroup s g f).grants = s.grants := rfl
@[simp] theorem modGroup_mailboxes : (modGroup s g f).mailboxes = s.mailboxes := rfl
@[simp] theorem modGroup_firmware : (modGroup s g f).firmware = s.firmware := rfl
@[simp] theorem modGroup_attestation : (modGroup s g f).attestation = s.attestation := rfl
@[simp] theorem modGroup_caps : (modGroup s g f).caps = s.caps := rfl
@[simp] theorem modGroup_powerCap : (modGroup s g f).powerCap = s.powerCap := rfl
@[simp] theorem modGroup_powerNow : (modGroup s g f).powerNow = s.powerNow := rfl
@[simp] theorem modGroup_ceCount : (modGroup s g f).ceCount = s.ceCount := rfl
@[simp] theorem modGroup_critLimit : (modGroup s g f).critLimit = s.critLimit := rfl
@[simp] theorem modGroup_mxIdle : (modGroup s g f).mxIdle = s.mxIdle := rfl
@[simp] theorem modGroup_supplied : (modGroup s g f).supplied = s.supplied := rfl
@[simp] theorem modGroup_schedule : (modGroup s g f).schedule = s.schedule := rfl
@[simp] theorem modGroup_current : (modGroup s g f).current = s.current := rfl
@[simp] theorem modGroup_fresh : (modGroup s g f).fresh = s.fresh := rfl
@[simp] theorem modGroup_nextId : (modGroup s g f).nextId = s.nextId := rfl
end

section
variable (s : State) (b : Nat) (f : Block → Block)
@[simp] theorem modBlock_cycle : (modBlock s b f).cycle = s.cycle := rfl
@[simp] theorem modBlock_dev : (modBlock s b f).dev = s.dev := rfl
@[simp] theorem modBlock_mem : (modBlock s b f).mem = s.mem := rfl
@[simp] theorem modBlock_poison : (modBlock s b f).poison = s.poison := rfl
@[simp] theorem modBlock_scopes : (modBlock s b f).scopes = s.scopes := rfl
@[simp] theorem modBlock_dies : (modBlock s b f).dies = s.dies := rfl
@[simp] theorem modBlock_cores : (modBlock s b f).cores = s.cores := rfl
@[simp] theorem modBlock_parts : (modBlock s b f).parts = s.parts := rfl
@[simp] theorem modBlock_groups : (modBlock s b f).groups = s.groups := rfl
@[simp] theorem modBlock_ops : (modBlock s b f).ops = s.ops := rfl
@[simp] theorem modBlock_stores : (modBlock s b f).stores = s.stores := rfl
@[simp] theorem modBlock_arrivals : (modBlock s b f).arrivals = s.arrivals := rfl
@[simp] theorem modBlock_sent : (modBlock s b f).sent = s.sent := rfl
@[simp] theorem modBlock_landing : (modBlock s b f).landing = s.landing := rfl
@[simp] theorem modBlock_algTables : (modBlock s b f).algTables = s.algTables := rfl
@[simp] theorem modBlock_regions : (modBlock s b f).regions = s.regions := rfl
@[simp] theorem modBlock_holders : (modBlock s b f).holders = s.holders := rfl
@[simp] theorem modBlock_messages : (modBlock s b f).messages = s.messages := rfl
@[simp] theorem modBlock_calls : (modBlock s b f).calls = s.calls := rfl
@[simp] theorem modBlock_openPackets : (modBlock s b f).openPackets = s.openPackets := rfl
@[simp] theorem modBlock_outbound : (modBlock s b f).outbound = s.outbound := rfl
@[simp] theorem modBlock_handled : (modBlock s b f).handled = s.handled := rfl
@[simp] theorem modBlock_completions : (modBlock s b f).completions = s.completions := rfl
@[simp] theorem modBlock_replies : (modBlock s b f).replies = s.replies := rfl
@[simp] theorem modBlock_contributions : (modBlock s b f).contributions = s.contributions := rfl
@[simp] theorem modBlock_transfers : (modBlock s b f).transfers = s.transfers := rfl
@[simp] theorem modBlock_dieSlots : (modBlock s b f).dieSlots = s.dieSlots := rfl
@[simp] theorem modBlock_ports : (modBlock s b f).ports = s.ports := rfl
@[simp] theorem modBlock_mailed : (modBlock s b f).mailed = s.mailed := rfl
@[simp] theorem modBlock_linkUp : (modBlock s b f).linkUp = s.linkUp := rfl
@[simp] theorem modBlock_linkLost : (modBlock s b f).linkLost = s.linkLost := rfl
@[simp] theorem modBlock_hostMem : (modBlock s b f).hostMem = s.hostMem := rfl
@[simp] theorem modBlock_hostReplies : (modBlock s b f).hostReplies = s.hostReplies := rfl
@[simp] theorem modBlock_hostLog : (modBlock s b f).hostLog = s.hostLog := rfl
@[simp] theorem modBlock_hostInterrupts : (modBlock s b f).hostInterrupts = s.hostInterrupts := rfl
@[simp] theorem modBlock_apertures : (modBlock s b f).apertures = s.apertures := rfl
@[simp] theorem modBlock_grants : (modBlock s b f).grants = s.grants := rfl
@[simp] theorem modBlock_mailboxes : (modBlock s b f).mailboxes = s.mailboxes := rfl
@[simp] theorem modBlock_firmware : (modBlock s b f).firmware = s.firmware := rfl
@[simp] theorem modBlock_attestation : (modBlock s b f).attestation = s.attestation := rfl
@[simp] theorem modBlock_caps : (modBlock s b f).caps = s.caps := rfl
@[simp] theorem modBlock_powerCap : (modBlock s b f).powerCap = s.powerCap := rfl
@[simp] theorem modBlock_powerNow : (modBlock s b f).powerNow = s.powerNow := rfl
@[simp] theorem modBlock_ceCount : (modBlock s b f).ceCount = s.ceCount := rfl
@[simp] theorem modBlock_critLimit : (modBlock s b f).critLimit = s.critLimit := rfl
@[simp] theorem modBlock_mxIdle : (modBlock s b f).mxIdle = s.mxIdle := rfl
@[simp] theorem modBlock_supplied : (modBlock s b f).supplied = s.supplied := rfl
@[simp] theorem modBlock_schedule : (modBlock s b f).schedule = s.schedule := rfl
@[simp] theorem modBlock_current : (modBlock s b f).current = s.current := rfl
@[simp] theorem modBlock_fresh : (modBlock s b f).fresh = s.fresh := rfl
@[simp] theorem modBlock_nextId : (modBlock s b f).nextId = s.nextId := rfl
end

section
variable (s : State) (c : Nat) (f : CoreSt → CoreSt)
@[simp] theorem modCore_cycle : (modCore s c f).cycle = s.cycle := rfl
@[simp] theorem modCore_dev : (modCore s c f).dev = s.dev := rfl
@[simp] theorem modCore_mem : (modCore s c f).mem = s.mem := rfl
@[simp] theorem modCore_poison : (modCore s c f).poison = s.poison := rfl
@[simp] theorem modCore_scopes : (modCore s c f).scopes = s.scopes := rfl
@[simp] theorem modCore_dies : (modCore s c f).dies = s.dies := rfl
@[simp] theorem modCore_parts : (modCore s c f).parts = s.parts := rfl
@[simp] theorem modCore_blocks : (modCore s c f).blocks = s.blocks := rfl
@[simp] theorem modCore_groups : (modCore s c f).groups = s.groups := rfl
@[simp] theorem modCore_ops : (modCore s c f).ops = s.ops := rfl
@[simp] theorem modCore_stores : (modCore s c f).stores = s.stores := rfl
@[simp] theorem modCore_arrivals : (modCore s c f).arrivals = s.arrivals := rfl
@[simp] theorem modCore_sent : (modCore s c f).sent = s.sent := rfl
@[simp] theorem modCore_landing : (modCore s c f).landing = s.landing := rfl
@[simp] theorem modCore_algTables : (modCore s c f).algTables = s.algTables := rfl
@[simp] theorem modCore_regions : (modCore s c f).regions = s.regions := rfl
@[simp] theorem modCore_holders : (modCore s c f).holders = s.holders := rfl
@[simp] theorem modCore_messages : (modCore s c f).messages = s.messages := rfl
@[simp] theorem modCore_calls : (modCore s c f).calls = s.calls := rfl
@[simp] theorem modCore_openPackets : (modCore s c f).openPackets = s.openPackets := rfl
@[simp] theorem modCore_outbound : (modCore s c f).outbound = s.outbound := rfl
@[simp] theorem modCore_handled : (modCore s c f).handled = s.handled := rfl
@[simp] theorem modCore_completions : (modCore s c f).completions = s.completions := rfl
@[simp] theorem modCore_replies : (modCore s c f).replies = s.replies := rfl
@[simp] theorem modCore_contributions : (modCore s c f).contributions = s.contributions := rfl
@[simp] theorem modCore_transfers : (modCore s c f).transfers = s.transfers := rfl
@[simp] theorem modCore_dieSlots : (modCore s c f).dieSlots = s.dieSlots := rfl
@[simp] theorem modCore_ports : (modCore s c f).ports = s.ports := rfl
@[simp] theorem modCore_mailed : (modCore s c f).mailed = s.mailed := rfl
@[simp] theorem modCore_linkUp : (modCore s c f).linkUp = s.linkUp := rfl
@[simp] theorem modCore_linkLost : (modCore s c f).linkLost = s.linkLost := rfl
@[simp] theorem modCore_hostMem : (modCore s c f).hostMem = s.hostMem := rfl
@[simp] theorem modCore_hostReplies : (modCore s c f).hostReplies = s.hostReplies := rfl
@[simp] theorem modCore_hostLog : (modCore s c f).hostLog = s.hostLog := rfl
@[simp] theorem modCore_hostInterrupts : (modCore s c f).hostInterrupts = s.hostInterrupts := rfl
@[simp] theorem modCore_apertures : (modCore s c f).apertures = s.apertures := rfl
@[simp] theorem modCore_grants : (modCore s c f).grants = s.grants := rfl
@[simp] theorem modCore_mailboxes : (modCore s c f).mailboxes = s.mailboxes := rfl
@[simp] theorem modCore_firmware : (modCore s c f).firmware = s.firmware := rfl
@[simp] theorem modCore_attestation : (modCore s c f).attestation = s.attestation := rfl
@[simp] theorem modCore_caps : (modCore s c f).caps = s.caps := rfl
@[simp] theorem modCore_powerCap : (modCore s c f).powerCap = s.powerCap := rfl
@[simp] theorem modCore_powerNow : (modCore s c f).powerNow = s.powerNow := rfl
@[simp] theorem modCore_ceCount : (modCore s c f).ceCount = s.ceCount := rfl
@[simp] theorem modCore_critLimit : (modCore s c f).critLimit = s.critLimit := rfl
@[simp] theorem modCore_mxIdle : (modCore s c f).mxIdle = s.mxIdle := rfl
@[simp] theorem modCore_supplied : (modCore s c f).supplied = s.supplied := rfl
@[simp] theorem modCore_schedule : (modCore s c f).schedule = s.schedule := rfl
@[simp] theorem modCore_current : (modCore s c f).current = s.current := rfl
@[simp] theorem modCore_fresh : (modCore s c f).fresh = s.fresh := rfl
@[simp] theorem modCore_nextId : (modCore s c f).nextId = s.nextId := rfl
end

section
variable (s : State) (d : Nat) (f : Die → Die)
@[simp] theorem modDie_cycle : (modDie s d f).cycle = s.cycle := rfl
@[simp] theorem modDie_dev : (modDie s d f).dev = s.dev := rfl
@[simp] theorem modDie_mem : (modDie s d f).mem = s.mem := rfl
@[simp] theorem modDie_poison : (modDie s d f).poison = s.poison := rfl
@[simp] theorem modDie_scopes : (modDie s d f).scopes = s.scopes := rfl
@[simp] theorem modDie_cores : (modDie s d f).cores = s.cores := rfl
@[simp] theorem modDie_parts : (modDie s d f).parts = s.parts := rfl
@[simp] theorem modDie_blocks : (modDie s d f).blocks = s.blocks := rfl
@[simp] theorem modDie_groups : (modDie s d f).groups = s.groups := rfl
@[simp] theorem modDie_ops : (modDie s d f).ops = s.ops := rfl
@[simp] theorem modDie_stores : (modDie s d f).stores = s.stores := rfl
@[simp] theorem modDie_arrivals : (modDie s d f).arrivals = s.arrivals := rfl
@[simp] theorem modDie_sent : (modDie s d f).sent = s.sent := rfl
@[simp] theorem modDie_landing : (modDie s d f).landing = s.landing := rfl
@[simp] theorem modDie_algTables : (modDie s d f).algTables = s.algTables := rfl
@[simp] theorem modDie_regions : (modDie s d f).regions = s.regions := rfl
@[simp] theorem modDie_holders : (modDie s d f).holders = s.holders := rfl
@[simp] theorem modDie_messages : (modDie s d f).messages = s.messages := rfl
@[simp] theorem modDie_calls : (modDie s d f).calls = s.calls := rfl
@[simp] theorem modDie_openPackets : (modDie s d f).openPackets = s.openPackets := rfl
@[simp] theorem modDie_outbound : (modDie s d f).outbound = s.outbound := rfl
@[simp] theorem modDie_handled : (modDie s d f).handled = s.handled := rfl
@[simp] theorem modDie_completions : (modDie s d f).completions = s.completions := rfl
@[simp] theorem modDie_replies : (modDie s d f).replies = s.replies := rfl
@[simp] theorem modDie_contributions : (modDie s d f).contributions = s.contributions := rfl
@[simp] theorem modDie_transfers : (modDie s d f).transfers = s.transfers := rfl
@[simp] theorem modDie_dieSlots : (modDie s d f).dieSlots = s.dieSlots := rfl
@[simp] theorem modDie_ports : (modDie s d f).ports = s.ports := rfl
@[simp] theorem modDie_mailed : (modDie s d f).mailed = s.mailed := rfl
@[simp] theorem modDie_linkUp : (modDie s d f).linkUp = s.linkUp := rfl
@[simp] theorem modDie_linkLost : (modDie s d f).linkLost = s.linkLost := rfl
@[simp] theorem modDie_hostMem : (modDie s d f).hostMem = s.hostMem := rfl
@[simp] theorem modDie_hostReplies : (modDie s d f).hostReplies = s.hostReplies := rfl
@[simp] theorem modDie_hostLog : (modDie s d f).hostLog = s.hostLog := rfl
@[simp] theorem modDie_hostInterrupts : (modDie s d f).hostInterrupts = s.hostInterrupts := rfl
@[simp] theorem modDie_apertures : (modDie s d f).apertures = s.apertures := rfl
@[simp] theorem modDie_grants : (modDie s d f).grants = s.grants := rfl
@[simp] theorem modDie_mailboxes : (modDie s d f).mailboxes = s.mailboxes := rfl
@[simp] theorem modDie_firmware : (modDie s d f).firmware = s.firmware := rfl
@[simp] theorem modDie_attestation : (modDie s d f).attestation = s.attestation := rfl
@[simp] theorem modDie_caps : (modDie s d f).caps = s.caps := rfl
@[simp] theorem modDie_powerCap : (modDie s d f).powerCap = s.powerCap := rfl
@[simp] theorem modDie_powerNow : (modDie s d f).powerNow = s.powerNow := rfl
@[simp] theorem modDie_ceCount : (modDie s d f).ceCount = s.ceCount := rfl
@[simp] theorem modDie_critLimit : (modDie s d f).critLimit = s.critLimit := rfl
@[simp] theorem modDie_mxIdle : (modDie s d f).mxIdle = s.mxIdle := rfl
@[simp] theorem modDie_supplied : (modDie s d f).supplied = s.supplied := rfl
@[simp] theorem modDie_schedule : (modDie s d f).schedule = s.schedule := rfl
@[simp] theorem modDie_current : (modDie s d f).current = s.current := rfl
@[simp] theorem modDie_fresh : (modDie s d f).fresh = s.fresh := rfl
@[simp] theorem modDie_nextId : (modDie s d f).nextId = s.nextId := rfl
end

section
variable (s : State) (p : Nat) (f : Partition → Partition)
@[simp] theorem modPart_cycle : (modPart s p f).cycle = s.cycle := rfl
@[simp] theorem modPart_dev : (modPart s p f).dev = s.dev := rfl
@[simp] theorem modPart_mem : (modPart s p f).mem = s.mem := rfl
@[simp] theorem modPart_poison : (modPart s p f).poison = s.poison := rfl
@[simp] theorem modPart_scopes : (modPart s p f).scopes = s.scopes := rfl
@[simp] theorem modPart_dies : (modPart s p f).dies = s.dies := rfl
@[simp] theorem modPart_cores : (modPart s p f).cores = s.cores := rfl
@[simp] theorem modPart_blocks : (modPart s p f).blocks = s.blocks := rfl
@[simp] theorem modPart_groups : (modPart s p f).groups = s.groups := rfl
@[simp] theorem modPart_ops : (modPart s p f).ops = s.ops := rfl
@[simp] theorem modPart_stores : (modPart s p f).stores = s.stores := rfl
@[simp] theorem modPart_arrivals : (modPart s p f).arrivals = s.arrivals := rfl
@[simp] theorem modPart_sent : (modPart s p f).sent = s.sent := rfl
@[simp] theorem modPart_landing : (modPart s p f).landing = s.landing := rfl
@[simp] theorem modPart_algTables : (modPart s p f).algTables = s.algTables := rfl
@[simp] theorem modPart_regions : (modPart s p f).regions = s.regions := rfl
@[simp] theorem modPart_holders : (modPart s p f).holders = s.holders := rfl
@[simp] theorem modPart_messages : (modPart s p f).messages = s.messages := rfl
@[simp] theorem modPart_calls : (modPart s p f).calls = s.calls := rfl
@[simp] theorem modPart_openPackets : (modPart s p f).openPackets = s.openPackets := rfl
@[simp] theorem modPart_outbound : (modPart s p f).outbound = s.outbound := rfl
@[simp] theorem modPart_handled : (modPart s p f).handled = s.handled := rfl
@[simp] theorem modPart_completions : (modPart s p f).completions = s.completions := rfl
@[simp] theorem modPart_replies : (modPart s p f).replies = s.replies := rfl
@[simp] theorem modPart_contributions : (modPart s p f).contributions = s.contributions := rfl
@[simp] theorem modPart_transfers : (modPart s p f).transfers = s.transfers := rfl
@[simp] theorem modPart_dieSlots : (modPart s p f).dieSlots = s.dieSlots := rfl
@[simp] theorem modPart_ports : (modPart s p f).ports = s.ports := rfl
@[simp] theorem modPart_mailed : (modPart s p f).mailed = s.mailed := rfl
@[simp] theorem modPart_linkUp : (modPart s p f).linkUp = s.linkUp := rfl
@[simp] theorem modPart_linkLost : (modPart s p f).linkLost = s.linkLost := rfl
@[simp] theorem modPart_hostMem : (modPart s p f).hostMem = s.hostMem := rfl
@[simp] theorem modPart_hostReplies : (modPart s p f).hostReplies = s.hostReplies := rfl
@[simp] theorem modPart_hostLog : (modPart s p f).hostLog = s.hostLog := rfl
@[simp] theorem modPart_hostInterrupts : (modPart s p f).hostInterrupts = s.hostInterrupts := rfl
@[simp] theorem modPart_apertures : (modPart s p f).apertures = s.apertures := rfl
@[simp] theorem modPart_grants : (modPart s p f).grants = s.grants := rfl
@[simp] theorem modPart_mailboxes : (modPart s p f).mailboxes = s.mailboxes := rfl
@[simp] theorem modPart_firmware : (modPart s p f).firmware = s.firmware := rfl
@[simp] theorem modPart_attestation : (modPart s p f).attestation = s.attestation := rfl
@[simp] theorem modPart_caps : (modPart s p f).caps = s.caps := rfl
@[simp] theorem modPart_powerCap : (modPart s p f).powerCap = s.powerCap := rfl
@[simp] theorem modPart_powerNow : (modPart s p f).powerNow = s.powerNow := rfl
@[simp] theorem modPart_ceCount : (modPart s p f).ceCount = s.ceCount := rfl
@[simp] theorem modPart_critLimit : (modPart s p f).critLimit = s.critLimit := rfl
@[simp] theorem modPart_mxIdle : (modPart s p f).mxIdle = s.mxIdle := rfl
@[simp] theorem modPart_supplied : (modPart s p f).supplied = s.supplied := rfl
@[simp] theorem modPart_schedule : (modPart s p f).schedule = s.schedule := rfl
@[simp] theorem modPart_current : (modPart s p f).current = s.current := rfl
@[simp] theorem modPart_fresh : (modPart s p f).fresh = s.fresh := rfl
@[simp] theorem modPart_nextId : (modPart s p f).nextId = s.nextId := rfl
end

section
variable (s : State) (o : Nat) (f : Op → Op)
@[simp] theorem modOp_cycle : (modOp s o f).cycle = s.cycle := rfl
@[simp] theorem modOp_dev : (modOp s o f).dev = s.dev := rfl
@[simp] theorem modOp_mem : (modOp s o f).mem = s.mem := rfl
@[simp] theorem modOp_poison : (modOp s o f).poison = s.poison := rfl
@[simp] theorem modOp_scopes : (modOp s o f).scopes = s.scopes := rfl
@[simp] theorem modOp_dies : (modOp s o f).dies = s.dies := rfl
@[simp] theorem modOp_cores : (modOp s o f).cores = s.cores := rfl
@[simp] theorem modOp_parts : (modOp s o f).parts = s.parts := rfl
@[simp] theorem modOp_blocks : (modOp s o f).blocks = s.blocks := rfl
@[simp] theorem modOp_groups : (modOp s o f).groups = s.groups := rfl
@[simp] theorem modOp_stores : (modOp s o f).stores = s.stores := rfl
@[simp] theorem modOp_arrivals : (modOp s o f).arrivals = s.arrivals := rfl
@[simp] theorem modOp_sent : (modOp s o f).sent = s.sent := rfl
@[simp] theorem modOp_landing : (modOp s o f).landing = s.landing := rfl
@[simp] theorem modOp_algTables : (modOp s o f).algTables = s.algTables := rfl
@[simp] theorem modOp_regions : (modOp s o f).regions = s.regions := rfl
@[simp] theorem modOp_holders : (modOp s o f).holders = s.holders := rfl
@[simp] theorem modOp_messages : (modOp s o f).messages = s.messages := rfl
@[simp] theorem modOp_calls : (modOp s o f).calls = s.calls := rfl
@[simp] theorem modOp_openPackets : (modOp s o f).openPackets = s.openPackets := rfl
@[simp] theorem modOp_outbound : (modOp s o f).outbound = s.outbound := rfl
@[simp] theorem modOp_handled : (modOp s o f).handled = s.handled := rfl
@[simp] theorem modOp_completions : (modOp s o f).completions = s.completions := rfl
@[simp] theorem modOp_replies : (modOp s o f).replies = s.replies := rfl
@[simp] theorem modOp_contributions : (modOp s o f).contributions = s.contributions := rfl
@[simp] theorem modOp_transfers : (modOp s o f).transfers = s.transfers := rfl
@[simp] theorem modOp_dieSlots : (modOp s o f).dieSlots = s.dieSlots := rfl
@[simp] theorem modOp_ports : (modOp s o f).ports = s.ports := rfl
@[simp] theorem modOp_mailed : (modOp s o f).mailed = s.mailed := rfl
@[simp] theorem modOp_linkUp : (modOp s o f).linkUp = s.linkUp := rfl
@[simp] theorem modOp_linkLost : (modOp s o f).linkLost = s.linkLost := rfl
@[simp] theorem modOp_hostMem : (modOp s o f).hostMem = s.hostMem := rfl
@[simp] theorem modOp_hostReplies : (modOp s o f).hostReplies = s.hostReplies := rfl
@[simp] theorem modOp_hostLog : (modOp s o f).hostLog = s.hostLog := rfl
@[simp] theorem modOp_hostInterrupts : (modOp s o f).hostInterrupts = s.hostInterrupts := rfl
@[simp] theorem modOp_apertures : (modOp s o f).apertures = s.apertures := rfl
@[simp] theorem modOp_grants : (modOp s o f).grants = s.grants := rfl
@[simp] theorem modOp_mailboxes : (modOp s o f).mailboxes = s.mailboxes := rfl
@[simp] theorem modOp_firmware : (modOp s o f).firmware = s.firmware := rfl
@[simp] theorem modOp_attestation : (modOp s o f).attestation = s.attestation := rfl
@[simp] theorem modOp_caps : (modOp s o f).caps = s.caps := rfl
@[simp] theorem modOp_powerCap : (modOp s o f).powerCap = s.powerCap := rfl
@[simp] theorem modOp_powerNow : (modOp s o f).powerNow = s.powerNow := rfl
@[simp] theorem modOp_ceCount : (modOp s o f).ceCount = s.ceCount := rfl
@[simp] theorem modOp_critLimit : (modOp s o f).critLimit = s.critLimit := rfl
@[simp] theorem modOp_mxIdle : (modOp s o f).mxIdle = s.mxIdle := rfl
@[simp] theorem modOp_supplied : (modOp s o f).supplied = s.supplied := rfl
@[simp] theorem modOp_schedule : (modOp s o f).schedule = s.schedule := rfl
@[simp] theorem modOp_current : (modOp s o f).current = s.current := rfl
@[simp] theorem modOp_fresh : (modOp s o f).fresh = s.fresh := rfl
@[simp] theorem modOp_nextId : (modOp s o f).nextId = s.nextId := rfl
end

section
variable (y : Group) (r l : Nat) (w : Word)
@[simp] theorem Group.setV_block : (y.setV r l w).block = y.block := rfl
@[simp] theorem Group.setV_index : (y.setV r l w).index = y.index := rfl
@[simp] theorem Group.setV_place : (y.setV r l w).place = y.place := rfl
@[simp] theorem Group.setV_seat : (y.setV r l w).seat = y.seat := rfl
@[simp] theorem Group.setV_status : (y.setV r l w).status = y.status := rfl
@[simp] theorem Group.setV_pc : (y.setV r l w).pc = y.pc := rfl
@[simp] theorem Group.setV_em : (y.setV r l w).em = y.em := rfl
@[simp] theorem Group.setV_sup : (y.setV r l w).sup = y.sup := rfl
@[simp] theorem Group.setV_s : (y.setV r l w).s = y.s := rfl
@[simp] theorem Group.setV_k : (y.setV r l w).k = y.k := rfl
@[simp] theorem Group.setV_latch : (y.setV r l w).latch = y.latch := rfl
@[simp] theorem Group.setV_x : (y.setV r l w).x = y.x := rfl
@[simp] theorem Group.setV_fmt : (y.setV r l w).fmt = y.fmt := rfl
@[simp] theorem Group.setV_fsr : (y.setV r l w).fsr = y.fsr := rfl
@[simp] theorem Group.setV_err : (y.setV r l w).err = y.err := rfl
@[simp] theorem Group.setV_tmo : (y.setV r l w).tmo = y.tmo := rfl
@[simp] theorem Group.setV_tl : (y.setV r l w).tl = y.tl := rfl
@[simp] theorem Group.setV_enlist : (y.setV r l w).enlist = y.enlist := rfl
@[simp] theorem Group.setV_critical : (y.setV r l w).critical = y.critical := rfl
@[simp] theorem Group.setV_reach : (y.setV r l w).reach = y.reach := rfl
@[simp] theorem Group.setV_lastBatch : (y.setV r l w).lastBatch = y.lastBatch := rfl
@[simp] theorem Group.setV_promise : (y.setV r l w).promise = y.promise := rfl
@[simp] theorem Group.setV_ferryCount : (y.setV r l w).ferryCount = y.ferryCount := rfl
@[simp] theorem Group.setV_ferryStatus : (y.setV r l w).ferryStatus = y.ferryStatus := rfl
@[simp] theorem Group.setV_handles : (y.setV r l w).handles = y.handles := rfl
@[simp] theorem Group.setV_algCount : (y.setV r l w).algCount = y.algCount := rfl
@[simp] theorem Group.setV_inFlight : (y.setV r l w).inFlight = y.inFlight := rfl
@[simp] theorem Group.setV_acquires : (y.setV r l w).acquires = y.acquires := rfl
@[simp] theorem Group.setV_pending : (y.setV r l w).pending = y.pending := rfl
@[simp] theorem Group.setV_haltAsked : (y.setV r l w).haltAsked = y.haltAsked := rfl
@[simp] theorem Group.setV_forced : (y.setV r l w).forced = y.forced := rfl
@[simp] theorem Group.setV_trap : (y.setV r l w).trap = y.trap := rfl
@[simp] theorem Group.setV_scratch : (y.setV r l w).scratch = y.scratch := rfl
@[simp] theorem Group.setV_lastIssue : (y.setV r l w).lastIssue = y.lastIssue := rfl
@[simp] theorem Group.setV_readySince : (y.setV r l w).readySince = y.readySince := rfl
@[simp] theorem Group.setV_stalled : (y.setV r l w).stalled = y.stalled := rfl
@[simp] theorem Group.setV_serving : (y.setV r l w).serving = y.serving := rfl
@[simp] theorem Group.setV_sinceFence : (y.setV r l w).sinceFence = y.sinceFence := rfl
@[simp] theorem Group.setV_xFailed : (y.setV r l w).xFailed = y.xFailed := rfl
@[simp] theorem Group.setV_hostWait : (y.setV r l w).hostWait = y.hostWait := rfl
end

section
variable (y : Group) (r : Nat) (w : DWord)
@[simp] theorem Group.setS_block : (y.setS r w).block = y.block := rfl
@[simp] theorem Group.setS_index : (y.setS r w).index = y.index := rfl
@[simp] theorem Group.setS_place : (y.setS r w).place = y.place := rfl
@[simp] theorem Group.setS_seat : (y.setS r w).seat = y.seat := rfl
@[simp] theorem Group.setS_status : (y.setS r w).status = y.status := rfl
@[simp] theorem Group.setS_pc : (y.setS r w).pc = y.pc := rfl
@[simp] theorem Group.setS_em : (y.setS r w).em = y.em := rfl
@[simp] theorem Group.setS_sup : (y.setS r w).sup = y.sup := rfl
@[simp] theorem Group.setS_v : (y.setS r w).v = y.v := rfl
@[simp] theorem Group.setS_k : (y.setS r w).k = y.k := rfl
@[simp] theorem Group.setS_latch : (y.setS r w).latch = y.latch := rfl
@[simp] theorem Group.setS_x : (y.setS r w).x = y.x := rfl
@[simp] theorem Group.setS_fmt : (y.setS r w).fmt = y.fmt := rfl
@[simp] theorem Group.setS_fsr : (y.setS r w).fsr = y.fsr := rfl
@[simp] theorem Group.setS_err : (y.setS r w).err = y.err := rfl
@[simp] theorem Group.setS_tmo : (y.setS r w).tmo = y.tmo := rfl
@[simp] theorem Group.setS_tl : (y.setS r w).tl = y.tl := rfl
@[simp] theorem Group.setS_enlist : (y.setS r w).enlist = y.enlist := rfl
@[simp] theorem Group.setS_critical : (y.setS r w).critical = y.critical := rfl
@[simp] theorem Group.setS_reach : (y.setS r w).reach = y.reach := rfl
@[simp] theorem Group.setS_lastBatch : (y.setS r w).lastBatch = y.lastBatch := rfl
@[simp] theorem Group.setS_promise : (y.setS r w).promise = y.promise := rfl
@[simp] theorem Group.setS_ferryCount : (y.setS r w).ferryCount = y.ferryCount := rfl
@[simp] theorem Group.setS_ferryStatus : (y.setS r w).ferryStatus = y.ferryStatus := rfl
@[simp] theorem Group.setS_handles : (y.setS r w).handles = y.handles := rfl
@[simp] theorem Group.setS_algCount : (y.setS r w).algCount = y.algCount := rfl
@[simp] theorem Group.setS_inFlight : (y.setS r w).inFlight = y.inFlight := rfl
@[simp] theorem Group.setS_acquires : (y.setS r w).acquires = y.acquires := rfl
@[simp] theorem Group.setS_pending : (y.setS r w).pending = y.pending := rfl
@[simp] theorem Group.setS_haltAsked : (y.setS r w).haltAsked = y.haltAsked := rfl
@[simp] theorem Group.setS_forced : (y.setS r w).forced = y.forced := rfl
@[simp] theorem Group.setS_trap : (y.setS r w).trap = y.trap := rfl
@[simp] theorem Group.setS_scratch : (y.setS r w).scratch = y.scratch := rfl
@[simp] theorem Group.setS_lastIssue : (y.setS r w).lastIssue = y.lastIssue := rfl
@[simp] theorem Group.setS_readySince : (y.setS r w).readySince = y.readySince := rfl
@[simp] theorem Group.setS_stalled : (y.setS r w).stalled = y.stalled := rfl
@[simp] theorem Group.setS_serving : (y.setS r w).serving = y.serving := rfl
@[simp] theorem Group.setS_sinceFence : (y.setS r w).sinceFence = y.sinceFence := rfl
@[simp] theorem Group.setS_xFailed : (y.setS r w).xFailed = y.xFailed := rfl
@[simp] theorem Group.setS_hostWait : (y.setS r w).hostWait = y.hostWait := rfl
end

section
variable (y : Group) (r : Nat) (w : Word)
@[simp] theorem Group.setK_block : (y.setK r w).block = y.block := rfl
@[simp] theorem Group.setK_index : (y.setK r w).index = y.index := rfl
@[simp] theorem Group.setK_place : (y.setK r w).place = y.place := rfl
@[simp] theorem Group.setK_seat : (y.setK r w).seat = y.seat := rfl
@[simp] theorem Group.setK_status : (y.setK r w).status = y.status := rfl
@[simp] theorem Group.setK_pc : (y.setK r w).pc = y.pc := rfl
@[simp] theorem Group.setK_em : (y.setK r w).em = y.em := rfl
@[simp] theorem Group.setK_sup : (y.setK r w).sup = y.sup := rfl
@[simp] theorem Group.setK_v : (y.setK r w).v = y.v := rfl
@[simp] theorem Group.setK_s : (y.setK r w).s = y.s := rfl
@[simp] theorem Group.setK_latch : (y.setK r w).latch = y.latch := rfl
@[simp] theorem Group.setK_x : (y.setK r w).x = y.x := rfl
@[simp] theorem Group.setK_fmt : (y.setK r w).fmt = y.fmt := rfl
@[simp] theorem Group.setK_fsr : (y.setK r w).fsr = y.fsr := rfl
@[simp] theorem Group.setK_err : (y.setK r w).err = y.err := rfl
@[simp] theorem Group.setK_tmo : (y.setK r w).tmo = y.tmo := rfl
@[simp] theorem Group.setK_tl : (y.setK r w).tl = y.tl := rfl
@[simp] theorem Group.setK_enlist : (y.setK r w).enlist = y.enlist := rfl
@[simp] theorem Group.setK_critical : (y.setK r w).critical = y.critical := rfl
@[simp] theorem Group.setK_reach : (y.setK r w).reach = y.reach := rfl
@[simp] theorem Group.setK_lastBatch : (y.setK r w).lastBatch = y.lastBatch := rfl
@[simp] theorem Group.setK_promise : (y.setK r w).promise = y.promise := rfl
@[simp] theorem Group.setK_ferryCount : (y.setK r w).ferryCount = y.ferryCount := rfl
@[simp] theorem Group.setK_ferryStatus : (y.setK r w).ferryStatus = y.ferryStatus := rfl
@[simp] theorem Group.setK_handles : (y.setK r w).handles = y.handles := rfl
@[simp] theorem Group.setK_algCount : (y.setK r w).algCount = y.algCount := rfl
@[simp] theorem Group.setK_inFlight : (y.setK r w).inFlight = y.inFlight := rfl
@[simp] theorem Group.setK_acquires : (y.setK r w).acquires = y.acquires := rfl
@[simp] theorem Group.setK_pending : (y.setK r w).pending = y.pending := rfl
@[simp] theorem Group.setK_haltAsked : (y.setK r w).haltAsked = y.haltAsked := rfl
@[simp] theorem Group.setK_forced : (y.setK r w).forced = y.forced := rfl
@[simp] theorem Group.setK_trap : (y.setK r w).trap = y.trap := rfl
@[simp] theorem Group.setK_scratch : (y.setK r w).scratch = y.scratch := rfl
@[simp] theorem Group.setK_lastIssue : (y.setK r w).lastIssue = y.lastIssue := rfl
@[simp] theorem Group.setK_readySince : (y.setK r w).readySince = y.readySince := rfl
@[simp] theorem Group.setK_stalled : (y.setK r w).stalled = y.stalled := rfl
@[simp] theorem Group.setK_serving : (y.setK r w).serving = y.serving := rfl
@[simp] theorem Group.setK_sinceFence : (y.setK r w).sinceFence = y.sinceFence := rfl
@[simp] theorem Group.setK_xFailed : (y.setK r w).xFailed = y.xFailed := rfl
@[simp] theorem Group.setK_hostWait : (y.setK r w).hostWait = y.hostWait := rfl
end

section
variable (y : Group) (r : Nat) (w : XReg)
@[simp] theorem Group.setX_block : (y.setX r w).block = y.block := rfl
@[simp] theorem Group.setX_index : (y.setX r w).index = y.index := rfl
@[simp] theorem Group.setX_place : (y.setX r w).place = y.place := rfl
@[simp] theorem Group.setX_seat : (y.setX r w).seat = y.seat := rfl
@[simp] theorem Group.setX_status : (y.setX r w).status = y.status := rfl
@[simp] theorem Group.setX_pc : (y.setX r w).pc = y.pc := rfl
@[simp] theorem Group.setX_em : (y.setX r w).em = y.em := rfl
@[simp] theorem Group.setX_sup : (y.setX r w).sup = y.sup := rfl
@[simp] theorem Group.setX_v : (y.setX r w).v = y.v := rfl
@[simp] theorem Group.setX_s : (y.setX r w).s = y.s := rfl
@[simp] theorem Group.setX_k : (y.setX r w).k = y.k := rfl
@[simp] theorem Group.setX_latch : (y.setX r w).latch = y.latch := rfl
@[simp] theorem Group.setX_fmt : (y.setX r w).fmt = y.fmt := rfl
@[simp] theorem Group.setX_fsr : (y.setX r w).fsr = y.fsr := rfl
@[simp] theorem Group.setX_err : (y.setX r w).err = y.err := rfl
@[simp] theorem Group.setX_tmo : (y.setX r w).tmo = y.tmo := rfl
@[simp] theorem Group.setX_tl : (y.setX r w).tl = y.tl := rfl
@[simp] theorem Group.setX_enlist : (y.setX r w).enlist = y.enlist := rfl
@[simp] theorem Group.setX_critical : (y.setX r w).critical = y.critical := rfl
@[simp] theorem Group.setX_reach : (y.setX r w).reach = y.reach := rfl
@[simp] theorem Group.setX_lastBatch : (y.setX r w).lastBatch = y.lastBatch := rfl
@[simp] theorem Group.setX_promise : (y.setX r w).promise = y.promise := rfl
@[simp] theorem Group.setX_ferryCount : (y.setX r w).ferryCount = y.ferryCount := rfl
@[simp] theorem Group.setX_ferryStatus : (y.setX r w).ferryStatus = y.ferryStatus := rfl
@[simp] theorem Group.setX_handles : (y.setX r w).handles = y.handles := rfl
@[simp] theorem Group.setX_algCount : (y.setX r w).algCount = y.algCount := rfl
@[simp] theorem Group.setX_inFlight : (y.setX r w).inFlight = y.inFlight := rfl
@[simp] theorem Group.setX_acquires : (y.setX r w).acquires = y.acquires := rfl
@[simp] theorem Group.setX_pending : (y.setX r w).pending = y.pending := rfl
@[simp] theorem Group.setX_haltAsked : (y.setX r w).haltAsked = y.haltAsked := rfl
@[simp] theorem Group.setX_forced : (y.setX r w).forced = y.forced := rfl
@[simp] theorem Group.setX_trap : (y.setX r w).trap = y.trap := rfl
@[simp] theorem Group.setX_scratch : (y.setX r w).scratch = y.scratch := rfl
@[simp] theorem Group.setX_lastIssue : (y.setX r w).lastIssue = y.lastIssue := rfl
@[simp] theorem Group.setX_readySince : (y.setX r w).readySince = y.readySince := rfl
@[simp] theorem Group.setX_stalled : (y.setX r w).stalled = y.stalled := rfl
@[simp] theorem Group.setX_serving : (y.setX r w).serving = y.serving := rfl
@[simp] theorem Group.setX_sinceFence : (y.setX r w).sinceFence = y.sinceFence := rfl
@[simp] theorem Group.setX_xFailed : (y.setX r w).xFailed = y.xFailed := rfl
@[simp] theorem Group.setX_hostWait : (y.setX r w).hostWait = y.hostWait := rfl
end

section
variable (y : Group) (r : Nat) (w : Half)
@[simp] theorem Group.setFmt_block : (y.setFmt r w).block = y.block := rfl
@[simp] theorem Group.setFmt_index : (y.setFmt r w).index = y.index := rfl
@[simp] theorem Group.setFmt_place : (y.setFmt r w).place = y.place := rfl
@[simp] theorem Group.setFmt_seat : (y.setFmt r w).seat = y.seat := rfl
@[simp] theorem Group.setFmt_status : (y.setFmt r w).status = y.status := rfl
@[simp] theorem Group.setFmt_pc : (y.setFmt r w).pc = y.pc := rfl
@[simp] theorem Group.setFmt_em : (y.setFmt r w).em = y.em := rfl
@[simp] theorem Group.setFmt_sup : (y.setFmt r w).sup = y.sup := rfl
@[simp] theorem Group.setFmt_v : (y.setFmt r w).v = y.v := rfl
@[simp] theorem Group.setFmt_s : (y.setFmt r w).s = y.s := rfl
@[simp] theorem Group.setFmt_k : (y.setFmt r w).k = y.k := rfl
@[simp] theorem Group.setFmt_latch : (y.setFmt r w).latch = y.latch := rfl
@[simp] theorem Group.setFmt_x : (y.setFmt r w).x = y.x := rfl
@[simp] theorem Group.setFmt_fsr : (y.setFmt r w).fsr = y.fsr := rfl
@[simp] theorem Group.setFmt_err : (y.setFmt r w).err = y.err := rfl
@[simp] theorem Group.setFmt_tmo : (y.setFmt r w).tmo = y.tmo := rfl
@[simp] theorem Group.setFmt_tl : (y.setFmt r w).tl = y.tl := rfl
@[simp] theorem Group.setFmt_enlist : (y.setFmt r w).enlist = y.enlist := rfl
@[simp] theorem Group.setFmt_critical : (y.setFmt r w).critical = y.critical := rfl
@[simp] theorem Group.setFmt_reach : (y.setFmt r w).reach = y.reach := rfl
@[simp] theorem Group.setFmt_lastBatch : (y.setFmt r w).lastBatch = y.lastBatch := rfl
@[simp] theorem Group.setFmt_promise : (y.setFmt r w).promise = y.promise := rfl
@[simp] theorem Group.setFmt_ferryCount : (y.setFmt r w).ferryCount = y.ferryCount := rfl
@[simp] theorem Group.setFmt_ferryStatus : (y.setFmt r w).ferryStatus = y.ferryStatus := rfl
@[simp] theorem Group.setFmt_handles : (y.setFmt r w).handles = y.handles := rfl
@[simp] theorem Group.setFmt_algCount : (y.setFmt r w).algCount = y.algCount := rfl
@[simp] theorem Group.setFmt_inFlight : (y.setFmt r w).inFlight = y.inFlight := rfl
@[simp] theorem Group.setFmt_acquires : (y.setFmt r w).acquires = y.acquires := rfl
@[simp] theorem Group.setFmt_pending : (y.setFmt r w).pending = y.pending := rfl
@[simp] theorem Group.setFmt_haltAsked : (y.setFmt r w).haltAsked = y.haltAsked := rfl
@[simp] theorem Group.setFmt_forced : (y.setFmt r w).forced = y.forced := rfl
@[simp] theorem Group.setFmt_trap : (y.setFmt r w).trap = y.trap := rfl
@[simp] theorem Group.setFmt_scratch : (y.setFmt r w).scratch = y.scratch := rfl
@[simp] theorem Group.setFmt_lastIssue : (y.setFmt r w).lastIssue = y.lastIssue := rfl
@[simp] theorem Group.setFmt_readySince : (y.setFmt r w).readySince = y.readySince := rfl
@[simp] theorem Group.setFmt_stalled : (y.setFmt r w).stalled = y.stalled := rfl
@[simp] theorem Group.setFmt_serving : (y.setFmt r w).serving = y.serving := rfl
@[simp] theorem Group.setFmt_sinceFence : (y.setFmt r w).sinceFence = y.sinceFence := rfl
@[simp] theorem Group.setFmt_xFailed : (y.setFmt r w).xFailed = y.xFailed := rfl
@[simp] theorem Group.setFmt_hostWait : (y.setFmt r w).hostWait = y.hostWait := rfl
end

section
variable (y : Group) (l : Nat) (w : BitVec 5)
@[simp] theorem Group.setFlags_block : (y.setFlags l w).block = y.block := rfl
@[simp] theorem Group.setFlags_index : (y.setFlags l w).index = y.index := rfl
@[simp] theorem Group.setFlags_place : (y.setFlags l w).place = y.place := rfl
@[simp] theorem Group.setFlags_seat : (y.setFlags l w).seat = y.seat := rfl
@[simp] theorem Group.setFlags_status : (y.setFlags l w).status = y.status := rfl
@[simp] theorem Group.setFlags_pc : (y.setFlags l w).pc = y.pc := rfl
@[simp] theorem Group.setFlags_em : (y.setFlags l w).em = y.em := rfl
@[simp] theorem Group.setFlags_sup : (y.setFlags l w).sup = y.sup := rfl
@[simp] theorem Group.setFlags_v : (y.setFlags l w).v = y.v := rfl
@[simp] theorem Group.setFlags_s : (y.setFlags l w).s = y.s := rfl
@[simp] theorem Group.setFlags_k : (y.setFlags l w).k = y.k := rfl
@[simp] theorem Group.setFlags_latch : (y.setFlags l w).latch = y.latch := rfl
@[simp] theorem Group.setFlags_x : (y.setFlags l w).x = y.x := rfl
@[simp] theorem Group.setFlags_fmt : (y.setFlags l w).fmt = y.fmt := rfl
@[simp] theorem Group.setFlags_err : (y.setFlags l w).err = y.err := rfl
@[simp] theorem Group.setFlags_tmo : (y.setFlags l w).tmo = y.tmo := rfl
@[simp] theorem Group.setFlags_tl : (y.setFlags l w).tl = y.tl := rfl
@[simp] theorem Group.setFlags_enlist : (y.setFlags l w).enlist = y.enlist := rfl
@[simp] theorem Group.setFlags_critical : (y.setFlags l w).critical = y.critical := rfl
@[simp] theorem Group.setFlags_reach : (y.setFlags l w).reach = y.reach := rfl
@[simp] theorem Group.setFlags_lastBatch : (y.setFlags l w).lastBatch = y.lastBatch := rfl
@[simp] theorem Group.setFlags_promise : (y.setFlags l w).promise = y.promise := rfl
@[simp] theorem Group.setFlags_ferryCount : (y.setFlags l w).ferryCount = y.ferryCount := rfl
@[simp] theorem Group.setFlags_ferryStatus : (y.setFlags l w).ferryStatus = y.ferryStatus := rfl
@[simp] theorem Group.setFlags_handles : (y.setFlags l w).handles = y.handles := rfl
@[simp] theorem Group.setFlags_algCount : (y.setFlags l w).algCount = y.algCount := rfl
@[simp] theorem Group.setFlags_inFlight : (y.setFlags l w).inFlight = y.inFlight := rfl
@[simp] theorem Group.setFlags_acquires : (y.setFlags l w).acquires = y.acquires := rfl
@[simp] theorem Group.setFlags_pending : (y.setFlags l w).pending = y.pending := rfl
@[simp] theorem Group.setFlags_haltAsked : (y.setFlags l w).haltAsked = y.haltAsked := rfl
@[simp] theorem Group.setFlags_forced : (y.setFlags l w).forced = y.forced := rfl
@[simp] theorem Group.setFlags_trap : (y.setFlags l w).trap = y.trap := rfl
@[simp] theorem Group.setFlags_scratch : (y.setFlags l w).scratch = y.scratch := rfl
@[simp] theorem Group.setFlags_lastIssue : (y.setFlags l w).lastIssue = y.lastIssue := rfl
@[simp] theorem Group.setFlags_readySince : (y.setFlags l w).readySince = y.readySince := rfl
@[simp] theorem Group.setFlags_stalled : (y.setFlags l w).stalled = y.stalled := rfl
@[simp] theorem Group.setFlags_serving : (y.setFlags l w).serving = y.serving := rfl
@[simp] theorem Group.setFlags_sinceFence : (y.setFlags l w).sinceFence = y.sinceFence := rfl
@[simp] theorem Group.setFlags_xFailed : (y.setFlags l w).xFailed = y.xFailed := rfl
@[simp] theorem Group.setFlags_hostWait : (y.setFlags l w).hostWait = y.hostWait := rfl
end

section
variable (y : Group) (scope : Nat)
@[simp] theorem Group.widen_block : (y.widen scope).block = y.block := rfl
@[simp] theorem Group.widen_index : (y.widen scope).index = y.index := rfl
@[simp] theorem Group.widen_place : (y.widen scope).place = y.place := rfl
@[simp] theorem Group.widen_seat : (y.widen scope).seat = y.seat := rfl
@[simp] theorem Group.widen_status : (y.widen scope).status = y.status := rfl
@[simp] theorem Group.widen_pc : (y.widen scope).pc = y.pc := rfl
@[simp] theorem Group.widen_em : (y.widen scope).em = y.em := rfl
@[simp] theorem Group.widen_sup : (y.widen scope).sup = y.sup := rfl
@[simp] theorem Group.widen_v : (y.widen scope).v = y.v := rfl
@[simp] theorem Group.widen_s : (y.widen scope).s = y.s := rfl
@[simp] theorem Group.widen_k : (y.widen scope).k = y.k := rfl
@[simp] theorem Group.widen_latch : (y.widen scope).latch = y.latch := rfl
@[simp] theorem Group.widen_x : (y.widen scope).x = y.x := rfl
@[simp] theorem Group.widen_fmt : (y.widen scope).fmt = y.fmt := rfl
@[simp] theorem Group.widen_fsr : (y.widen scope).fsr = y.fsr := rfl
@[simp] theorem Group.widen_err : (y.widen scope).err = y.err := rfl
@[simp] theorem Group.widen_tmo : (y.widen scope).tmo = y.tmo := rfl
@[simp] theorem Group.widen_tl : (y.widen scope).tl = y.tl := rfl
@[simp] theorem Group.widen_enlist : (y.widen scope).enlist = y.enlist := rfl
@[simp] theorem Group.widen_critical : (y.widen scope).critical = y.critical := rfl
@[simp] theorem Group.widen_lastBatch : (y.widen scope).lastBatch = y.lastBatch := rfl
@[simp] theorem Group.widen_promise : (y.widen scope).promise = y.promise := rfl
@[simp] theorem Group.widen_ferryCount : (y.widen scope).ferryCount = y.ferryCount := rfl
@[simp] theorem Group.widen_ferryStatus : (y.widen scope).ferryStatus = y.ferryStatus := rfl
@[simp] theorem Group.widen_handles : (y.widen scope).handles = y.handles := rfl
@[simp] theorem Group.widen_algCount : (y.widen scope).algCount = y.algCount := rfl
@[simp] theorem Group.widen_inFlight : (y.widen scope).inFlight = y.inFlight := rfl
@[simp] theorem Group.widen_acquires : (y.widen scope).acquires = y.acquires := rfl
@[simp] theorem Group.widen_pending : (y.widen scope).pending = y.pending := rfl
@[simp] theorem Group.widen_haltAsked : (y.widen scope).haltAsked = y.haltAsked := rfl
@[simp] theorem Group.widen_forced : (y.widen scope).forced = y.forced := rfl
@[simp] theorem Group.widen_trap : (y.widen scope).trap = y.trap := rfl
@[simp] theorem Group.widen_scratch : (y.widen scope).scratch = y.scratch := rfl
@[simp] theorem Group.widen_lastIssue : (y.widen scope).lastIssue = y.lastIssue := rfl
@[simp] theorem Group.widen_readySince : (y.widen scope).readySince = y.readySince := rfl
@[simp] theorem Group.widen_stalled : (y.widen scope).stalled = y.stalled := rfl
@[simp] theorem Group.widen_serving : (y.widen scope).serving = y.serving := rfl
@[simp] theorem Group.widen_sinceFence : (y.widen scope).sinceFence = y.sinceFence := rfl
@[simp] theorem Group.widen_xFailed : (y.widen scope).xFailed = y.xFailed := rfl
@[simp] theorem Group.widen_hostWait : (y.widen scope).hostWait = y.hostWait := rfl
end

end Sys2Proof.Machine
end

