-- ==== Sys2Proof/Laws/Group.lean ====
section
/-! SUPPORT. Registers read back, groups read back, and what the shared operations of one group leave alone. -/

namespace Sys2Proof.Machine

/-! ## Registers of a group -/

theorem Group.vreg_setV (y : Group) (r l r' l' : Nat) (w : Word) (h : l < 32) (h' : l' < 32) :
    (y.setV r l w).vreg r' l' = if r' = r ∧ l' = l then w else y.vreg r' l' := by
  have : (32 * r' + l' = 32 * r + l) ↔ (r' = r ∧ l' = l) := by omega
  simp only [Group.setV, Group.vreg, kgetD_kstore, this]

theorem Group.sreg_setS (y : Group) (r j : Nat) (w : DWord) : (y.setS r w).sreg j = if j = r then w else y.sreg j := by
  simp [Group.setS, Group.sreg, kgetD_kstore]

theorem Group.kreg_setK (y : Group) (r j : Nat) (w : Word) : (y.setK r w).kreg j = if j = r then w else y.kreg j := by
  simp [Group.setK, Group.kreg, kgetD_kstore]

theorem Group.xreg_setX (y : Group) (r j : Nat) (w : XReg) : (y.setX r w).xreg j = if j = r then w else y.xreg j := by
  simp [Group.setX, Group.xreg, kgetD_kstore]

theorem Group.fmtReg_setFmt (y : Group) (r j : Nat) (w : Half) :
    (y.setFmt r w).fmtReg j = if j = r then w else y.fmtReg j := by
  simp [Group.setFmt, Group.fmtReg, kgetD_kstore]

theorem Group.flags_setFlags (y : Group) (l j : Nat) (w : BitVec 5) :
    (y.setFlags l w).flags j = if j = l then w else y.flags j := by
  simp [Group.setFlags, Group.flags, kgetD_kstore]

@[simp] theorem Group.vreg_setFlags (y : Group) (l : Nat) (w : BitVec 5) (r j : Nat) : (y.setFlags l w).vreg r j = y.vreg r j := rfl
@[simp] theorem Group.flags_setV (y : Group) (r l : Nat) (w : Word) (j : Nat) : (y.setV r l w).flags j = y.flags j := rfl
@[simp] theorem Group.active_setV (y : Group) (r l : Nat) (w : Word) (j : Nat) : (y.setV r l w).active j = y.active j := rfl
@[simp] theorem Group.active_setFlags (y : Group) (l : Nat) (w : BitVec 5) (j : Nat) : (y.setFlags l w).active j = y.active j := rfl

theorem Group.mem_lanes (y : Group) (l : Nat) : l ∈ y.lanes ↔ l < 32 ∧ y.active l = true := by
  simp [Group.lanes]

/-! ## Groups of the machine -/

theorem getGroup_of {s : State} {g : Nat} {x : Group} (h : kfind s.groups g = some x) : getGroup s g = x := by
  simp [getGroup, kgetD, h]

theorem Issues.getGroup {s : State} {g : Nat} {x : Group} (h : Issues s g x) : getGroup s g = x := getGroup_of h.2

theorem kfind_modGroup (s : State) (g h : Nat) (f : Group → Group) :
    kfind (modGroup s g f).groups h = if h = g then (kfind s.groups g).map f else kfind s.groups h :=
  kfind_kmodify _ _ _ _

theorem getGroup_modGroup {s : State} {g : Nat} {x : Group} (f : Group → Group) (h : kfind s.groups g = some x) :
    getGroup (modGroup s g f) g = f x := by
  simp [getGroup, kgetD, kfind_modGroup, h]

/-- The group that issues runs the meaning's body. -/
theorem withGroup_issues {s : State} {g : Nat} {x : Group} (h : Issues s g x) (f : Nat → State) : withGroup s f = .next (f g) := by
  simp [withGroup, h.1, h.2]

@[simp] theorem readByte_modGroup (s : State) (g : Nat) (f : Group → Group) (p : Loc) : readByte (modGroup s g f) p = readByte s p := by
  cases p <;> rfl

/-! ## Changes of one group -/

theorem OnlyGroup.refl {s : State} {g : Nat} {x : Group} (h : kfind s.groups g = some x) : OnlyGroup s s g x :=
  ⟨h, fun _ _ => rfl, fun _ => rfl, rfl⟩

theorem OnlyGroup.modGroup {s t : State} {g : Nat} {y : Group} (h : OnlyGroup s t g y) (f : Group → Group) :
    OnlyGroup s (modGroup t g f) g (f y) where
  group := by simp [kfind_modGroup, h.group]
  others := fun j hj => by simp [kfind_modGroup, hj, h.others j hj]
  bytes := fun p => by rw [readByte_modGroup]; exact h.bytes p
  rest := by rw [Machine.modGroup]; rw [h.rest]

theorem OnlyGroup.fresh {s t : State} {g : Nat} {y : Group} (h : OnlyGroup s t g y) (n : Nat) :
    OnlyGroup s { t with fresh := n } g y where
  group := h.group
  others := h.others
  bytes := fun p => by rw [← h.bytes p]; cases p <;> rfl
  rest := by rw [h.rest]

theorem OnlyGroup.nextId {s t : State} {g : Nat} {y : Group} (h : OnlyGroup s t g y) (n : Nat) :
    OnlyGroup s { t with nextId := n } g y where
  group := h.group
  others := h.others
  bytes := fun p => by rw [← h.bytes p]; cases p <;> rfl
  rest := by rw [h.rest]

theorem OnlyGroup.cycle {s t : State} {g : Nat} {y : Group} (h : OnlyGroup s t g y) : t.cycle = s.cycle := by rw [h.rest]
theorem OnlyGroup.blocks {s t : State} {g : Nat} {y : Group} (h : OnlyGroup s t g y) : t.blocks = s.blocks := by rw [h.rest]
theorem OnlyGroup.parts {s t : State} {g : Nat} {y : Group} (h : OnlyGroup s t g y) : t.parts = s.parts := by rw [h.rest]

theorem OnlyGroup.getGroup {s t : State} {g : Nat} {y : Group} (h : OnlyGroup s t g y) : getGroup t g = y := getGroup_of h.group

/-- Advancing a group whose record is `y`. -/
theorem OnlyGroup.advance {s t : State} {g : Nat} {y : Group} (h : OnlyGroup s t g y) (len : Nat) :
    OnlyGroup s (advance t g len) g { y with
      pc := y.pc + BitVec.ofNat 64 len, status := .ready, hostWait := none
      readySince := if y.status = .ready then y.readySince else s.cycle } := by
  have := h.modGroup fun x => { x with
    pc := x.pc + BitVec.ofNat 64 len, status := .ready, hostWait := none
    readySince := if x.status = .ready then x.readySince else t.cycle }
  rw [h.cycle] at this
  simpa only [Machine.advance, h.cycle] using this

/-- The record behind an instruction that ends the chain first and then does `f` to the record. -/
theorem OnlyGroup.scalar {s : State} {g : Nat} {x : Group} (h : kfind s.groups g = some x) (f : Group → Group) (len : Nat)
    (hs : ∀ y : Group, (f y).status = y.status) (hr : ∀ y : Group, (f y).readySince = y.readySince)
    (hp : ∀ y : Group, (f y).pc = y.pc) :
    OnlyGroup s (Machine.advance (Machine.modGroup (endChain s g) g f) g len) g
      { f { x with latch := {} } with
        pc := x.pc + BitVec.ofNat 64 len, status := .ready, hostWait := none
        readySince := if x.status = .ready then x.readySince else s.cycle } := by
  have h0 := (((OnlyGroup.refl h).modGroup fun x => { x with latch := {} }).modGroup f).advance len
  simpa [endChain, hs, hr, hp] using h0

end Sys2Proof.Machine
end

