-- ==== Sys2Proof/Laws/Memory.lean ====
section
/-! SUPPORT. Bytes read back, and the canonical form of memory that every memory operation keeps. -/

namespace Sys2Proof.Machine

/-! ## Read after write -/

theorem memRead_memWrite (m : List Host.Cell) (a b : Nat) (v : Byte) :
    memRead (memWrite m a v) b = if b = a then v else memRead m b := kgetD_kstore m a b v unlisted

/-- A byte of memory reads back what was written, and every other byte of the machine what it read before. -/
theorem readByte_writeByte_mem (s : State) (a : Nat) (v : Byte) (p : Loc) :
    readByte (writeByte s (.mem a) v) p = if p = .mem a then v else readByte s p := by
  cases p with
  | mem b => simp [writeByte, readByte, memRead_memWrite]
  | pad b o => simp [writeByte, readByte]
  | slice b o => simp [writeByte, readByte]

/-- A byte of a resident block's pad reads back what was written, and every other byte of the machine what it read before. -/
theorem readByte_writeByte_pad {s : State} {b : Nat} {blk : Block} (h : kfind s.blocks b = some blk) (o : Nat) (v : Byte) (p : Loc) :
    readByte (writeByte s (.pad b o) v) p = if p = .pad b o then v else readByte s p := by
  cases p with
  | mem a => simp [writeByte, readByte]
  | pad c q =>
    by_cases hc : c = b
    · subst hc
      simp [writeByte, readByte, kfind_kmodify, h, kgetD_kstore]
    · simp [writeByte, readByte, kfind_kmodify, hc]
  | slice c q =>
    by_cases hc : c = b
    · subst hc
      simp [writeByte, readByte, kfind_kmodify, h]
    · simp [writeByte, readByte, kfind_kmodify, hc]

/-- The same of a lane slice. -/
theorem readByte_writeByte_slice {s : State} {b : Nat} {blk : Block} (h : kfind s.blocks b = some blk) (o : Nat) (v : Byte) (p : Loc) :
    readByte (writeByte s (.slice b o) v) p = if p = .slice b o then v else readByte s p := by
  cases p with
  | mem a => simp [writeByte, readByte]
  | pad c q =>
    by_cases hc : c = b
    · subst hc
      simp [writeByte, readByte, kfind_kmodify, h]
    · simp [writeByte, readByte, kfind_kmodify, hc]
  | slice c q =>
    by_cases hc : c = b
    · subst hc
      simp [writeByte, readByte, kfind_kmodify, h, kgetD_kstore]
    · simp [writeByte, readByte, kfind_kmodify, hc]

/-- Marking poison changes no byte. -/
@[simp] theorem readByte_markPoison (s : State) (g : Loc) (on : Bool) (p : Loc) : readByte (markPoison s g on) p = readByte s p := by
  cases g with
  | mem k => cases p <;> rfl
  | pad b k =>
    cases p with
    | mem a => rfl
    | pad c o =>
      by_cases hc : c = b
      · subst hc; cases h : kfind s.blocks c <;> simp [markPoison, readByte, kfind_kmodify, h]
      · simp [markPoison, readByte, kfind_kmodify, hc]
    | slice c o =>
      by_cases hc : c = b
      · subst hc; cases h : kfind s.blocks c <;> simp [markPoison, readByte, kfind_kmodify, h]
      · simp [markPoison, readByte, kfind_kmodify, hc]
  | slice b k =>
    cases p with
    | mem a => rfl
    | pad c o =>
      by_cases hc : c = b
      · subst hc; cases h : kfind s.blocks c <;> simp [markPoison, readByte, kfind_kmodify, h]
      · simp [markPoison, readByte, kfind_kmodify, hc]
    | slice c o =>
      by_cases hc : c = b
      · subst hc; cases h : kfind s.blocks c <;> simp [markPoison, readByte, kfind_kmodify, h]
      · simp [markPoison, readByte, kfind_kmodify, hc]

/-- A write leaves every byte alone whose place it does not name. -/
theorem readByte_writeByte_other (s : State) (l p : Loc) (v : Byte) (h : p ≠ l) : readByte (writeByte s l v) p = readByte s p := by
  cases l with
  | mem a => rw [readByte_writeByte_mem, if_neg h]
  | pad b o =>
    cases hb : kfind s.blocks b with
    | none => simp [writeByte, kmodify, hb]
    | some blk => rw [readByte_writeByte_pad hb, if_neg h]
  | slice b o =>
    cases hb : kfind s.blocks b with
    | none => simp [writeByte, kmodify, hb]
    | some blk => rw [readByte_writeByte_slice hb, if_neg h]

theorem readByte_writeRaw_other (ws : List (Loc × Byte)) (s : State) (p : Loc) (h : ∀ w ∈ ws, w.1 ≠ p) :
    readByte (writeRaw s ws) p = readByte s p := by
  induction ws generalizing s with
  | nil => rfl
  | cons w r ih =>
    have h1 := ih (writeByte s w.1 w.2) fun x hx => h x (List.mem_cons_of_mem _ hx)
    have h2 := readByte_writeByte_other s w.1 p w.2 (Ne.symm (h w (List.mem_cons.2 (.inl rfl))))
    rw [← h2, ← h1]; rfl

theorem readByte_clear (gs : List Loc) (s : State) (p : Loc) :
    readByte (gs.foldl (fun s g => markPoison s g false) s) p = readByte s p := by
  induction gs generalizing s with
  | nil => rfl
  | cons g r ih => simp [List.foldl_cons, ih]

/-- A store leaves every byte alone that it does not name. -/
theorem readByte_writeBytes_other (s : State) (ws : List (Loc × Byte)) (p : Loc) (h : ∀ w ∈ ws, w.1 ≠ p) :
    readByte (writeBytes s ws) p = readByte s p := by
  unfold writeBytes
  rw [readByte_clear, readByte_writeRaw_other ws s p h]

/-! ## The canonical form -/

theorem mem_kstore [DecidableEq α] {m : KMap α} {k : Nat} {v d : α} {e : Nat × α} (h : e ∈ kstore m k v d) :
    (e = (k, v) ∧ v ≠ d) ∨ e ∈ m := by
  unfold kstore at h
  split at h
  · exact .inr (List.mem_of_mem_filter h)
  · rename_i hv
    rcases mem_kput h with h | h
    · exact .inl ⟨h, hv⟩
    · exact .inr h

theorem wf_iff (m : List Host.Cell) : Memory.wf m = true ↔ ksorted m = true ∧ ∀ c ∈ m, c.2 ≠ unlisted := by
  simp [Memory.wf]

theorem wf_memWrite (m : List Host.Cell) (a : Nat) (v : Byte) (h : Memory.wf m = true) : Memory.wf (memWrite m a v) = true := by
  rw [wf_iff] at h ⊢
  refine ⟨ksorted_kstore m a v unlisted h.1, fun c hc => ?_⟩
  rcases mem_kstore hc with ⟨rfl, hv⟩ | hc
  · exact hv
  · exact h.2 c hc

theorem wf_filter (m : List Host.Cell) (p : Host.Cell → Bool) (h : Memory.wf m = true) : Memory.wf (m.filter p) = true := by
  rw [wf_iff] at h ⊢
  exact ⟨ksorted_filter m p h.1, fun c hc => h.2 c (List.mem_of_mem_filter hc)⟩

theorem wf_writeByte (s : State) (l : Loc) (v : Byte) (h : Memory.wf s.mem = true) : Memory.wf (writeByte s l v).mem = true := by
  cases l with
  | mem a => exact wf_memWrite s.mem a v h
  | pad b o => exact h
  | slice b o => exact h

theorem wf_writeRaw (ws : List (Loc × Byte)) (s : State) (h : Memory.wf s.mem = true) : Memory.wf (writeRaw s ws).mem = true := by
  induction ws generalizing s with
  | nil => exact h
  | cons w r ih => exact ih _ (wf_writeByte s w.1 w.2 h)

@[simp] theorem markPoison_mem (s : State) (g : Loc) (on : Bool) : (markPoison s g on).mem = s.mem := by cases g <;> rfl

theorem clear_mem (gs : List Loc) (s : State) : (gs.foldl (fun s g => markPoison s g false) s).mem = s.mem := by
  induction gs generalizing s with
  | nil => rfl
  | cons g r ih => rw [List.foldl_cons, ih, markPoison_mem]

theorem wf_writeBytes (s : State) (ws : List (Loc × Byte)) (h : Memory.wf s.mem = true) : Memory.wf (writeBytes s ws).mem = true := by
  unfold writeBytes
  rw [clear_mem]
  exact wf_writeRaw ws s h

theorem wf_writeLE (s : State) (l : Loc) (v n : Nat) (h : Memory.wf s.mem = true) : Memory.wf (writeLE s l v n).mem = true :=
  wf_writeBytes s _ h

theorem wf_writeWord64 (s : State) (pa v : Nat) (h : Memory.wf s.mem = true) : Memory.wf (writeWord64 s pa v).mem = true :=
  wf_writeLE s _ v 8 h

theorem wf_putBytes (bs : List (Byte × Nat)) (m : List Host.Cell) (a : Nat) (h : Memory.wf m = true) :
    Memory.wf (bs.foldl (fun m e => memWrite m (a + e.2) e.1) m) = true := by
  induction bs generalizing m with
  | nil => exact h
  | cons b r ih => exact ih _ (wf_memWrite m _ _ h)

/-- Marking a leaf entry accessed or dirty keeps the form (R310). -/
theorem wf_setLeafBits {s t : State} {e e' : TlbEntry} {bits : Nat} (h : Memory.wf s.mem = true)
    (hs : setLeafBits s e bits = some (t, e')) : Memory.wf t.mem = true := by
  unfold setLeafBits at hs
  dsimp only at hs
  split at hs
  · simp only [Option.some.injEq, Prod.mk.injEq] at hs
    obtain ⟨hs, -⟩ := hs
    split at hs
    · exact hs ▸ h
    · subst hs; exact wf_putBytes _ _ _ h
  · cases hs

theorem wf_zeroRange (s : State) (a n : Nat) (h : Memory.wf s.mem = true) : Memory.wf (zeroRange s a n).mem = true :=
  wf_filter s.mem _ h

theorem wf_reset : Memory.wf State.reset.mem = true := rfl

end Sys2Proof.Machine
end

