-- ==== Sys2Proof/Laws/Buffer.lean ====
section
/-! SUPPORT. The write-combining buffers keep their form under every operation over them, and the invariant of a step is kept by the
updates that touch neither memory nor a buffer. -/

namespace Sys2Proof.Machine

/-! ## One core's buffer -/

/-- The form of one core's buffer. -/
def LinesOk (w : List WcbLine) : Prop := (w.map (·.line)).Nodup ∧ ∀ l ∈ w, LineOk l

theorem wcbOk_iff (s : State) : WcbOk s ↔ ∀ c, LinesOk (getCore s c).wcb := Iff.rfl

theorem LinesOk.sublist {v w : List WcbLine} (h : LinesOk w) (hs : v.Sublist w) : LinesOk v :=
  ⟨(hs.map _).nodup h.1, fun l hl => h.2 l (hs.subset hl)⟩

theorem LinesOk.filter {w : List WcbLine} (h : LinesOk w) (p : WcbLine → Bool) : LinesOk (w.filter p) :=
  h.sublist List.filter_sublist

theorem LinesOk.eraseIdx {w : List WcbLine} (h : LinesOk w) (i : Nat) : LinesOk (w.eraseIdx i) := h.sublist (List.eraseIdx_sublist w i)

/-- Changing lines in place: each keeps its number and its form. -/
theorem LinesOk.map {w : List WcbLine} (h : LinesOk w) (f : WcbLine → WcbLine) (hl : ∀ l, (f l).line = l.line)
    (hb : ∀ l ∈ w, LineOk (f l)) : LinesOk (w.map f) := by
  refine ⟨?_, fun l hm => ?_⟩
  · have : (w.map f).map (·.line) = w.map (·.line) := by simp [Function.comp_def, hl]
    rw [this]; exact h.1
  · obtain ⟨l0, hl0, rfl⟩ := List.mem_map.1 hm
    exact hb l0 hl0

theorem LinesOk.push {w : List WcbLine} (h : LinesOk w) (l : WcbLine) (hn : ∀ k ∈ w, k.line ≠ l.line) (hb : LineOk l) :
    LinesOk (w ++ [l]) := by
  refine ⟨?_, fun k hk => ?_⟩
  · rw [List.map_append, List.nodup_append]
    refine ⟨h.1, by simp, ?_⟩
    simp only [List.mem_map, List.map_cons, List.map_nil, List.mem_singleton]
    rintro _ ⟨k, hk, rfl⟩ _ rfl
    exact hn k hk
  · rcases List.mem_append.1 hk with hk | hk
    · exact h.2 k hk
    · rw [List.mem_singleton] at hk
      subst hk; exact hb

/-! ## The buffers of the module -/

theorem getCore_modCore (s : State) (c d : Nat) (f : CoreSt → CoreSt) :
    getCore (modCore s c f) d = if d = c then f (getCore s c) else getCore s d := by
  simp only [getCore, modCore, kgetD, kfind_kput]
  split <;> rfl

theorem WcbOk.of_cores {s t : State} (h : WcbOk s) (he : t.cores = s.cores) : WcbOk t := by
  intro c
  have : getCore t c = getCore s c := by simp [getCore, he]
  rw [this]; exact h c

theorem WcbOk.modCore {s : State} (h : WcbOk s) (c : Nat) (f : CoreSt → CoreSt) (hf : LinesOk (f (getCore s c)).wcb) :
    WcbOk (modCore s c f) := by
  intro d
  rw [getCore_modCore]
  split
  · exact hf
  · exact h d

theorem drainTo_cores (s : State) (core part : Nat) (l : WcbLine) : (drainTo s core part l).cores = s.cores := by
  unfold drainTo; split <;> rfl

theorem drainTo_mem (s : State) (core part : Nat) (l : WcbLine) : (drainTo s core part l).mem = s.mem := by
  unfold drainTo; split <;> rfl

theorem drainTo_wcb {s : State} (h : WcbOk s) (core part : Nat) (l : WcbLine) : WcbOk (drainTo s core part l) :=
  h.of_cores (drainTo_cores s core part l)

theorem drainLine_wcb {s : State} (h : WcbOk s) (core i : Nat) : WcbOk (drainLine s core i) := by
  unfold drainLine
  split
  · exact drainTo_wcb (h.modCore core _ (LinesOk.eraseIdx (h core) i)) _ _ _
  · exact h

theorem drainLine_mem (s : State) (core i : Nat) : (drainLine s core i).mem = s.mem := by
  unfold drainLine; split
  · exact drainTo_mem _ _ _ _
  · rfl

theorem drainOther_wcb {s : State} (h : WcbOk s) (core scope line : Nat) (ae : Bool) : WcbOk (drainOther s core scope line ae) := by
  unfold drainOther
  split
  · exact drainLine_wcb h core _
  · exact h

theorem drainOther_mem (s : State) (core scope line : Nat) (ae : Bool) : (drainOther s core scope line ae).mem = s.mem := by
  unfold drainOther; split
  · exact drainLine_mem _ _ _
  · rfl

theorem makeRoom_wcb {s : State} (h : WcbOk s) (core : Nat) : WcbOk (makeRoom s core) := by
  unfold makeRoom
  split
  · exact drainLine_wcb (s := { s with fresh := s.fresh + 1 }) (h.of_cores rfl) core _
  · exact h

theorem makeRoom_mem (s : State) (core : Nat) : (makeRoom s core).mem = s.mem := by
  unfold makeRoom; split
  · exact drainLine_mem _ _ _
  · rfl

theorem drainLine_core {s : State} {core i : Nat} {l : WcbLine} (h : (getCore s core).wcb[i]? = some l) :
    (getCore (drainLine s core i) core).wcb = (getCore s core).wcb.eraseIdx i := by
  unfold drainLine
  rw [h]
  rw [getCore, drainTo_cores]
  show (getCore (modCore s core fun c => { c with wcb := c.wcb.eraseIdx i }) core).wcb = _
  rw [getCore_modCore, if_pos rfl]

/-- A drained line leaves no line behind that was not there. -/
theorem drainLine_subset {s : State} {core i : Nat} {l : WcbLine} (h : l ∈ (getCore (drainLine s core i) core).wcb) :
    l ∈ (getCore s core).wcb := by
  cases hi : (getCore s core).wcb[i]? with
  | some k => rw [drainLine_core hi] at h; exact List.mem_of_mem_eraseIdx h
  | none => rw [drainLine, hi] at h; exact h

theorem makeRoom_subset {s : State} {core : Nat} {l : WcbLine} (h : l ∈ (getCore (makeRoom s core) core).wcb) :
    l ∈ (getCore s core).wcb := by
  unfold makeRoom at h
  split at h
  · exact drainLine_subset (s := { s with fresh := s.fresh + 1 }) h
  · exact h

/-- Behind `drainOther` every line of that number is of that scope and kind of page. -/
theorem drainOther_none {s : State} (h : WcbOk s) (core scope line : Nat) (ae : Bool) :
    ∀ l ∈ (getCore (drainOther s core scope line ae) core).wcb, l.line = line → l.scope = scope ∧ l.ae = ae := by
  unfold drainOther
  split
  · rename_i i hi
    rw [List.findIdx?_eq_some_iff_getElem] at hi
    obtain ⟨hlt, hp, -⟩ := hi
    simp only [Bool.and_eq_true, beq_iff_eq] at hp
    rw [drainLine_core (List.getElem?_eq_getElem hlt)]
    intro l hl hline
    exfalso
    have hn := (h core).1
    obtain ⟨j, hj, rfl⟩ := List.mem_iff_getElem.1 hl
    have hj' := hj
    rw [List.getElem_eraseIdx] at hline
    rw [List.length_eraseIdx_of_lt hlt] at hj
    rw [List.nodup_iff_injective_getElem] at hn
    split at hline
    · rename_i hji
      have := @hn ⟨j, by simp; omega⟩ ⟨i, by simp; omega⟩ (by simp [hline, hp.1])
      simp at this; omega
    · rename_i hji
      have := @hn ⟨j + 1, by simp; omega⟩ ⟨i, by simp; omega⟩ (by simp [hline, hp.1])
      simp at this; omega
  · rename_i hi
    rw [List.findIdx?_eq_none_iff] at hi
    intro l hl hline
    have := hi l hl
    simpa [hline] using this

theorem lineOf_run {pa k : Nat} (h : pa % 128 + k < 128) : lineOf (pa + k) = lineOf pa := by unfold lineOf; omega

/-- Putting bytes of one line keeps every byte in that line. -/
theorem putBytes_line (bs : List (Byte × Nat)) (m : KMap Byte) (pa : Nat) (hb : ∀ b ∈ bs, pa % 128 + b.2 < 128)
    (hm : ∀ e ∈ m, lineOf e.1 = lineOf pa) : ∀ e ∈ bs.foldl (fun m b => kput m (pa + b.2) b.1) m, lineOf e.1 = lineOf pa := by
  induction bs generalizing m with
  | nil => exact hm
  | cons b r ih =>
    refine ih _ (fun x hx => hb x (List.mem_cons_of_mem _ hx)) fun e he => ?_
    rcases mem_kput he with rfl | he
    · exact lineOf_run (hb b (List.mem_cons.2 (.inl rfl)))
    · exact hm e he

theorem zipIdx_lt {bytes : List Byte} {pa : Nat} (h : pa % 128 + bytes.length ≤ 128) : ∀ b ∈ bytes.zipIdx, pa % 128 + b.2 < 128 := by
  intro b hb
  have := List.snd_lt_of_mem_zipIdx hb
  simp at this; omega

/-- A store that joins the buffer keeps its form, if what it puts keeps that of its line (R103). -/
theorem joinLine_wcb {s : State} (h : WcbOk s) (g core scope pa page : Nat) (ae : Bool) (put : WcbLine → WcbLine)
    (hl : ∀ l, (put l).line = l.line) (hp : ∀ l, l.line = lineOf pa → l.ae = ae → LineOk l → LineOk (put l)) :
    WcbOk (joinLine s g core scope pa page ae put) := by
  have h1 := drainOther_wcb h core scope (lineOf pa) ae
  have h2 := drainOther_none h core scope (lineOf pa) ae
  unfold joinLine
  dsimp only
  split
  · refine h1.modCore core _ (LinesOk.map (h1 core) _ (fun l => ?_) fun l hm => ?_)
    · split
      · exact hl l
      · rfl
    · split
      · rename_i hh
        simp only [Bool.and_eq_true, beq_iff_eq] at hh
        exact hp l hh.1.1 hh.2 ((h1 core).2 l hm)
      · exact (h1 core).2 l hm
  · rename_i hnone
    refine (makeRoom_wcb h1 core).modCore core _ (LinesOk.push (makeRoom_wcb h1 core core) _ (fun k hk hline => hnone ?_) ?_)
    · have hk := makeRoom_subset hk
      have hline : k.line = lineOf pa := hline.trans (hl _)
      have := h2 k hk hline
      exact List.any_eq_true.2 ⟨k, hk, by simp [hline, this.1, this.2]⟩
    · exact hp _ rfl rfl ⟨by simp, fun _ => rfl, fun _ => rfl⟩

theorem joinLine_mem (s : State) (g core scope pa page : Nat) (ae : Bool) (put : WcbLine → WcbLine) :
    (joinLine s g core scope pa page ae put).mem = s.mem := by
  unfold joinLine
  dsimp only
  split
  · exact drainOther_mem _ _ _ _ _
  · exact (makeRoom_mem _ _).trans (drainOther_mem _ _ _ _ _)

/-- Buffering bytes of one line (R103). -/
theorem bufferLine_wcb {s : State} (h : WcbOk s) (g core scope pa page : Nat) (bytes : List Byte) (whole : Option Nat)
    (hb : pa % 128 + bytes.length ≤ 128) : WcbOk (bufferLine s g core scope pa page bytes whole) := by
  refine joinLine_wcb h g core scope pa page false _ (fun _ => rfl) fun l hl ha hok => ⟨fun b hbm => ?_, fun hae => ?_, hok.2.2⟩
  · exact (putBytes_line _ _ pa (zipIdx_lt hb) (fun e he => (hok.1 e he).trans hl) b hbm).trans hl.symm
  · rw [ha] at hae; cases hae

theorem bufferStore_wcb {s : State} (h : WcbOk s) (g core scope pa page : Nat) (bytes : List Byte) (whole : Option Nat) :
    WcbOk (bufferStore s g core scope pa page bytes whole) := by
  unfold bufferStore
  split
  · rename_i hb
    exact bufferLine_wcb h g core scope pa page bytes whole hb
  · generalize bytes.zipIdx = bs
    induction bs generalizing s with
    | nil => exact h
    | cons b r ih => exact ih (bufferLine_wcb h g core scope _ page [b.1] whole (by simp; omega))

/-- Buffering the entry of a store to an algebra-enabled page (R98, R195). -/
theorem bufferEntry_wcb {s : State} (h : WcbOk s) (g page : Nat) (e : Entry) : WcbOk (bufferEntry s g page e) := by
  refine joinLine_wcb h g e.core e.scope e.addr page true _ (fun _ => rfl) fun l hl ha hok => ⟨hok.1, hok.2.1, fun hae => ?_⟩
  rw [show l.ae = false from hae] at ha; cases ha

theorem drainLines_cores_mem (ls : List WcbLine) (s : State) (core : Nat) (f : State → WcbLine → Nat) :
    (ls.foldl (fun s l => drainTo s core (f s l) l) s).cores = s.cores ∧ (ls.foldl (fun s l => drainTo s core (f s l) l) s).mem = s.mem := by
  induction ls generalizing s with
  | nil => exact ⟨rfl, rfl⟩
  | cons l r ih =>
    rw [List.foldl_cons]
    exact ⟨(ih _).1.trans (drainTo_cores s core _ l), (ih _).2.trans (drainTo_mem s core _ l)⟩

theorem drainLines_wcb {s : State} (h : WcbOk s) (core : Nat) (p : WcbLine → Bool) : WcbOk (drainLines s core p) :=
  (h.modCore core _ (LinesOk.filter (h core) _)).of_cores
    (drainLines_cores_mem _ (modCore s core fun c => { c with wcb := c.wcb.filter fun l => !p l }) core fun s l => partOfGroups s l.groups).1

theorem drainLines_mem (s : State) (core : Nat) (p : WcbLine → Bool) : (drainLines s core p).mem = s.mem :=
  (drainLines_cores_mem _ (modCore s core fun c => { c with wcb := c.wcb.filter fun l => !p l }) core fun s l => partOfGroups s l.groups).2

theorem writeByte_cores (s : State) (l : Loc) (v : Byte) : (writeByte s l v).cores = s.cores := by cases l <;> rfl

theorem writeRaw_cores (ws : List (Loc × Byte)) (s : State) : (writeRaw s ws).cores = s.cores := by
  induction ws generalizing s with
  | nil => rfl
  | cons w r ih => exact (ih _).trans (writeByte_cores s w.1 w.2)

/-! ## The invariant -/

/-- What changes neither memory nor a buffer keeps the invariant. -/
theorem Inv.of_same {s t : State} (h : Machine.Inv s) (hm : t.mem = s.mem) (hc : t.cores = s.cores) : Machine.Inv t :=
  ⟨by rw [hm]; exact h.1, h.2.of_cores hc⟩

theorem Inv.modCore {s : State} (h : Machine.Inv s) (c : Nat) (f : CoreSt → CoreSt) (hf : ∀ x, (f x).wcb = x.wcb) :
    Machine.Inv (modCore s c f) :=
  ⟨h.1, h.2.modCore c f (by rw [hf]; exact h.2 c)⟩

theorem Inv.modGroup {s : State} (h : Machine.Inv s) (g : Nat) (f : Group → Group) : Machine.Inv (modGroup s g f) := h.of_same rfl rfl
theorem Inv.modBlock {s : State} (h : Machine.Inv s) (b : Nat) (f : Block → Block) : Machine.Inv (modBlock s b f) := h.of_same rfl rfl
theorem Inv.modDie {s : State} (h : Machine.Inv s) (d : Nat) (f : Die → Die) : Machine.Inv (modDie s d f) := h.of_same rfl rfl
theorem Inv.modPart {s : State} (h : Machine.Inv s) (p : Nat) (f : Partition → Partition) : Machine.Inv (modPart s p f) :=
  h.of_same rfl rfl
theorem Inv.advance {s : State} (h : Machine.Inv s) (g n : Nat) : Machine.Inv (advance s g n) := h.of_same rfl rfl
theorem Inv.endChain {s : State} (h : Machine.Inv s) (g : Nat) : Machine.Inv (endChain s g) := h.of_same rfl rfl

theorem Inv.writeBytes {s : State} (h : Machine.Inv s) (ws : List (Loc × Byte)) : Machine.Inv (writeBytes s ws) := by
  refine ⟨wf_writeBytes s ws h.1, h.2.of_cores ?_⟩
  unfold Machine.writeBytes
  have : ∀ (gs : List Loc) (t : State), (gs.foldl (fun s g => markPoison s g false) t).cores = t.cores := by
    intro gs
    induction gs with
    | nil => intro t; rfl
    | cons g r ih => intro t; rw [List.foldl_cons, ih]; cases g <;> rfl
  rw [this, writeRaw_cores]

theorem bufferStore_mem (s : State) (g core scope pa page : Nat) (bytes : List Byte) (whole : Option Nat) :
    (bufferStore s g core scope pa page bytes whole).mem = s.mem := by
  have hl : ∀ (t : State) (a : Nat) (bs : List Byte), (bufferLine t g core scope a page bs whole).mem = t.mem :=
    fun t a bs => joinLine_mem t g core scope a page false _
  unfold bufferStore
  split
  · exact hl _ _ _
  · generalize bytes.zipIdx = bs
    induction bs generalizing s with
    | nil => rfl
    | cons b r ih => exact (ih _).trans (hl _ _ _)

theorem Inv.bufferStore {s : State} (h : Machine.Inv s) (g core scope pa page : Nat) (bytes : List Byte) (whole : Option Nat) :
    Machine.Inv (bufferStore s g core scope pa page bytes whole) :=
  ⟨by rw [bufferStore_mem]; exact h.1, bufferStore_wcb h.2 g core scope pa page bytes whole⟩

theorem Inv.bufferEntry {s : State} (h : Machine.Inv s) (g page : Nat) (e : Entry) : Machine.Inv (bufferEntry s g page e) :=
  ⟨by rw [Machine.bufferEntry, joinLine_mem]; exact h.1, bufferEntry_wcb h.2 g page e⟩

theorem Inv.drainLines {s : State} (h : Machine.Inv s) (core : Nat) (p : WcbLine → Bool) : Machine.Inv (drainLines s core p) :=
  ⟨by rw [drainLines_mem]; exact h.1, drainLines_wcb h.2 core p⟩

end Sys2Proof.Machine
end

