-- ==== Sys2Proof/Laws/Lane.lean ====
section
/-! SUPPORT. What the shared operations of lane instructions do: the written run, the raised flags, the whole effect of R57. -/

namespace Sys2Proof.Machine

/-! ## The written run -/

/-- The word that a run writes into register `r`. -/
def runWord (d unit : Nat) (f : Nat → Nat → Res) (r l : Nat) : Word :=
  if (r - d) % unit = 0 then (f ((r - d) / unit) l).1.setWidth 32 else ((f ((r - d) / unit) l).1 >>> 32).setWidth 32

/-- Writes the elements of one lane. -/
def writeLane (d unit cnt : Nat) (f : Nat → Nat → Res) (x : Group) (l : Nat) : Group :=
  (List.range cnt).foldl (fun x i =>
    let r := (f i l).1
    let x := x.setV (d + unit * i) l (r.setWidth 32)
    if unit == 2 then x.setV (d + 2 * i + 1) l ((r >>> 32).setWidth 32) else x) x

theorem writeRun_eq (g : Group) (d unit cnt : Nat) (f : Nat → Nat → Res) :
    writeRun g d unit cnt f = g.lanes.foldl (writeLane d unit cnt f) g := rfl

theorem writeLane_succ (d unit cnt : Nat) (f : Nat → Nat → Res) (x : Group) (l : Nat) :
    writeLane d unit (cnt + 1) f x l =
      (let y := (writeLane d unit cnt f x l).setV (d + unit * cnt) l ((f cnt l).1.setWidth 32)
       if unit == 2 then y.setV (d + 2 * cnt + 1) l (((f cnt l).1 >>> 32).setWidth 32) else y) := by
  simp [writeLane, List.range_succ]

/-- A lane's run as written changes the lane's registers alone. -/
theorem writeLane_rest (d unit cnt : Nat) (f : Nat → Nat → Res) (x : Group) (l : Nat) :
    writeLane d unit cnt f x l = { x with v := (writeLane d unit cnt f x l).v } := by
  induction cnt with
  | zero => rfl
  | succ n ih =>
    rw [writeLane_succ]
    generalize writeLane d unit n f x l = z at ih ⊢
    rw [ih]
    by_cases h2 : unit = 2 <;> simp [h2, Group.setV]

theorem writeLane_vreg {unit : Nat} (hu : unit = 1 ∨ unit = 2) (d cnt : Nat) (f : Nat → Nat → Res) (x : Group) {l l' : Nat}
    (hl : l < 32) (hl' : l' < 32) (r : Nat) :
    (writeLane d unit cnt f x l).vreg r l' =
      if l' = l ∧ d ≤ r ∧ r < d + unit * cnt then runWord d unit f r l else x.vreg r l' := by
  induction cnt with
  | zero =>
    have : ¬ (l' = l ∧ d ≤ r ∧ r < d + unit * 0) := by omega
    rw [if_neg this]; rfl
  | succ n ih =>
    rw [writeLane_succ]
    rcases hu with rfl | rfl
    · simp only [beq_iff_eq, OfNat.one_ne_ofNat, if_false, Group.vreg_setV _ _ _ _ _ _ hl hl', ih]
      by_cases h1 : r = d + 1 * n ∧ l' = l
      · rw [if_pos h1, if_pos (by omega), runWord]
        have h2 : r - d = n := by omega
        simp [h2, Nat.mod_one]
      · rw [if_neg h1]
        by_cases h3 : l' = l ∧ d ≤ r ∧ r < d + 1 * n
        · rw [if_pos h3, if_pos (by omega)]
        · rw [if_neg h3, if_neg (by omega)]
    · simp only [beq_self_eq_true, if_true, Group.vreg_setV _ _ _ _ _ _ hl hl', ih]
      by_cases h1 : r = d + 2 * n + 1 ∧ l' = l
      · rw [if_pos h1, if_pos (by omega), runWord]
        have h2 : r - d = 2 * n + 1 := by omega
        rw [h2, if_neg (by omega)]
        have h3 : (2 * n + 1) / 2 = n := by omega
        rw [h3]
      · rw [if_neg h1]
        by_cases h2 : r = d + 2 * n ∧ l' = l
        · rw [if_pos h2, if_pos (by omega), runWord]
          have h3 : r - d = 2 * n := by omega
          simp [h3]
        · rw [if_neg h2]
          by_cases h3 : l' = l ∧ d ≤ r ∧ r < d + 2 * n
          · rw [if_pos h3, if_pos (by omega)]
          · rw [if_neg h3, if_neg (by omega)]

theorem foldl_writeLane_rest (d unit cnt : Nat) (f : Nat → Nat → Res) (ls : List Nat) (x : Group) :
    ls.foldl (writeLane d unit cnt f) x = { x with v := (ls.foldl (writeLane d unit cnt f) x).v } := by
  induction ls generalizing x with
  | nil => rfl
  | cons a r ih =>
    rw [List.foldl_cons, ih, writeLane_rest]

theorem foldl_writeLane_vreg {unit : Nat} (hu : unit = 1 ∨ unit = 2) (d cnt : Nat) (f : Nat → Nat → Res) (ls : List Nat)
    (hls : ∀ l ∈ ls, l < 32) (x : Group) {l' : Nat} (hl' : l' < 32) (r : Nat) :
    (ls.foldl (writeLane d unit cnt f) x).vreg r l' =
      if l' ∈ ls ∧ d ≤ r ∧ r < d + unit * cnt then runWord d unit f r l' else x.vreg r l' := by
  induction ls generalizing x with
  | nil => simp
  | cons a t ih =>
    rw [List.foldl_cons, ih (fun l h => hls l (List.mem_cons_of_mem _ h)), writeLane_vreg hu _ _ _ _ (hls a List.mem_cons_self) hl']
    by_cases h1 : d ≤ r ∧ r < d + unit * cnt
    · by_cases h2 : l' ∈ t
      · simp [h1, h2]
      · by_cases h3 : l' = a
        · subst h3; simp [h1, h2]
        · simp [h1, h2, h3]
    · simp only [h1, and_false, if_false]

theorem writeRun_rest (g : Group) (d unit cnt : Nat) (f : Nat → Nat → Res) :
    writeRun g d unit cnt f = { g with v := (writeRun g d unit cnt f).v } := foldl_writeLane_rest d unit cnt f g.lanes g

/-- A register after a run is written: its element in the active lanes, its old value elsewhere. -/
theorem writeRun_vreg {unit : Nat} (hu : unit = 1 ∨ unit = 2) (g : Group) (d cnt : Nat) (f : Nat → Nat → Res) (r l : Nat)
    (hl : l < 32) :
    (writeRun g d unit cnt f).vreg r l =
      if g.active l = true ∧ d ≤ r ∧ r < d + unit * cnt then runWord d unit f r l else g.vreg r l := by
  rw [writeRun_eq, foldl_writeLane_vreg hu d cnt f g.lanes (fun l h => ((g.mem_lanes l).mp h).1) g hl]
  simp [Group.mem_lanes, hl]

/-! ## Flags -/

/-- The flags of all elements of a lane. -/
def laneFlags (cnt : Nat) (f : Nat → Nat → Res) (l : Nat) : BitVec 5 := (List.range cnt).foldl (fun fl i => fl ||| (f i l).2) 0

theorem foldl_or_start (cnt : Nat) (f : Nat → Nat → Res) (l : Nat) (a : BitVec 5) :
    (List.range cnt).foldl (fun fl i => fl ||| (f i l).2) a = a ||| laneFlags cnt f l := by
  unfold laneFlags
  induction cnt with
  | zero => simp
  | succ n ih => simp only [List.range_succ, List.foldl_append, List.foldl_cons, List.foldl_nil, ih, BitVec.or_assoc]

theorem laneFlags_bit (cnt : Nat) (f : Nat → Nat → Res) (l b : Nat) :
    (laneFlags cnt f l).getLsbD b = true ↔ ∃ i < cnt, (f i l).2.getLsbD b = true := by
  unfold laneFlags
  induction cnt with
  | zero => simp
  | succ n ih =>
    simp only [List.range_succ, List.foldl_append, List.foldl_cons, List.foldl_nil, BitVec.getLsbD_or, Bool.or_eq_true, ih]
    constructor
    · rintro (⟨i, h, h'⟩ | h)
      · exact ⟨i, by omega, h'⟩
      · exact ⟨n, by omega, h⟩
    · rintro ⟨i, h, h'⟩
      rcases Nat.lt_succ_iff_lt_or_eq.mp h with h | rfl
      · exact .inl ⟨i, h, h'⟩
      · exact .inr h'

theorem foldl_setFlags_rest (h : Group → Nat → BitVec 5) (ls : List Nat) (x : Group) :
    ls.foldl (fun x l => x.setFlags l (h x l)) x = { x with fsr := (ls.foldl (fun x l => x.setFlags l (h x l)) x).fsr } := by
  induction ls generalizing x with
  | nil => rfl
  | cons a r ih => rw [List.foldl_cons, ih]; rfl

/-- ORing into the flags of some lanes, each once. -/
theorem foldl_or_flags (c : Nat → BitVec 5) (ls : List Nat) (hn : ls.Nodup) (x : Group) (l' : Nat) :
    (ls.foldl (fun x l => x.setFlags l (x.flags l ||| c l)) x).flags l' = if l' ∈ ls then x.flags l' ||| c l' else x.flags l' := by
  induction ls generalizing x with
  | nil => simp
  | cons a r ih =>
    rw [List.nodup_cons] at hn
    rw [List.foldl_cons, ih hn.2]
    by_cases h1 : l' ∈ r
    · have : l' ≠ a := fun h => hn.1 (h ▸ h1)
      simp [h1, this, Group.flags_setFlags]
    · by_cases h2 : l' = a
      · subst h2; simp [h1, Group.flags_setFlags]
      · simp [h1, h2, Group.flags_setFlags]

theorem Group.lanes_nodup (y : Group) : y.lanes.Nodup := List.Nodup.filter _ List.nodup_range

theorem raiseFlags_eq (g : Group) (cnt : Nat) (f : Nat → Nat → Res) :
    raiseFlags g cnt f = g.lanes.foldl (fun x l => x.setFlags l (x.flags l ||| laneFlags cnt f l)) g := by
  simp only [raiseFlags, foldl_or_start]

theorem raiseFlags_rest (g : Group) (cnt : Nat) (f : Nat → Nat → Res) :
    raiseFlags g cnt f = { g with fsr := (raiseFlags g cnt f).fsr } := by
  rw [raiseFlags_eq]; exact foldl_setFlags_rest (fun x l => x.flags l ||| laneFlags cnt f l) g.lanes g

/-- The flags after an instruction: those of its elements are ORed in the active lanes. -/
theorem raiseFlags_flags (g : Group) (cnt : Nat) (f : Nat → Nat → Res) (l : Nat) (hl : l < 32) :
    (raiseFlags g cnt f).flags l = if g.active l = true then g.flags l ||| laneFlags cnt f l else g.flags l := by
  rw [raiseFlags_eq, foldl_or_flags _ _ g.lanes_nodup]
  simp [Group.mem_lanes, hl]

/-! ## The effect of R57 -/

theorem laneEffect_rest (x : Group) (rd : Bool) (d unit cnt : Nat) (n : Bool) (f : Nat → Nat → Res) :
    laneEffect x rd d unit cnt n f =
      { x with v := (laneEffect x rd d unit cnt n f).v, fsr := (laneEffect x rd d unit cnt n f).fsr
               latch := pushLatch x rd (some (pushOf x f)) } := by
  unfold laneEffect
  cases n
  · simp only [Bool.false_eq_true, if_false]
    rw [raiseFlags_rest, writeRun_rest]
  · simp only [if_true]
    rw [raiseFlags_rest]

theorem laneEffect_vreg {unit : Nat} (hu : unit = 1 ∨ unit = 2) (x : Group) (rd : Bool) (d cnt : Nat) (n : Bool)
    (f : Nat → Nat → Res) (r l : Nat) (hl : l < 32) :
    (laneEffect x rd d unit cnt n f).vreg r l =
      if n = false ∧ x.active l = true ∧ d ≤ r ∧ r < d + unit * cnt then runWord d unit f r l else x.vreg r l := by
  have h : (laneEffect x rd d unit cnt n f).vreg r l = (if n then x else writeRun x d unit cnt f).vreg r l := by
    show (raiseFlags _ cnt f).vreg r l = _
    rw [raiseFlags_rest]; rfl
  rw [h]
  cases n
  · simp [writeRun_vreg hu x d cnt f r l hl]
  · simp

theorem laneEffect_flags (x : Group) (rd : Bool) (d unit cnt : Nat) (n : Bool) (f : Nat → Nat → Res) (l : Nat) (hl : l < 32) :
    (laneEffect x rd d unit cnt n f).flags l = if x.active l = true then x.flags l ||| laneFlags cnt f l else x.flags l := by
  have h : (laneEffect x rd d unit cnt n f).flags l = (raiseFlags (if n then x else writeRun x d unit cnt f) cnt f).flags l := rfl
  rw [h]
  cases n
  · simp only [Bool.false_eq_true, if_false]
    rw [raiseFlags_flags _ _ _ _ hl, writeRun_rest]; rfl
  · simp only [if_true]
    rw [raiseFlags_flags _ _ _ _ hl]

/-- A lane instruction whose registers are declared and whose chain has room runs its body. -/
theorem laneInstr_fits {s : State} {g : Nat} {x : Group} (h : Issues s g x) (fm : LaneForm)
    (hd : declared (blockOf s g).regs fm.dst = true) (hs : ∀ r ∈ fm.srcs, declared (blockOf s g).regs r = true)
    (hc : (fm.srcs.any fun c => isLatchCode c.1) = true → x.latch.readers ≠ 32)
    (f : Nat → Nat → State → Bool → State) :
    laneInstr s fm f = .next (advance (f g s.fresh
      (if (fm.srcs.any fun c => isLatchCode c.1) = true then { s with fresh := s.fresh + 1 } else s)
      (fm.srcs.any fun c => isLatchCode c.1)) g fm.len) := by
  unfold laneInstr
  rw [withGroup_issues h]
  have h1 : (declared (blockOf s g).regs fm.dst && fm.srcs.all (declared (blockOf s g).regs)) = true := by
    simp only [hd, Bool.true_and, List.all_eq_true]; exact hs
  simp only [h1, Bool.not_true, Bool.false_eq_true, if_false, h.getGroup]
  cases hr : fm.srcs.any fun c => isLatchCode c.1
  · simp
  · have := hc hr
    simp [this]

/-- What a lane instruction of formats A, I, U and Q does (R57). -/
theorem laneOp_runs {s : State} {g : Nat} {x : Group} (h : Issues s g x) (L : LaneSpec) (hu : L.unit = 1 ∨ L.unit = 2)
    (hf : L.Fits s g x) :
    ∃ t y, laneOp s L.len L.d L.unit L.cnt L.n L.srcs L.result = .next t ∧ OnlyGroup s t g y ∧ LaneEffect s L x y := by
  obtain ⟨hd, hs, hc⟩ := hf
  unfold laneOp
  rw [laneInstr_fits h { len := L.len, dst := (L.d, L.unit * L.cnt), srcs := L.srcs } hd hs hc]
  have h0 : OnlyGroup s (if (L.srcs.any fun c => isLatchCode c.1) = true then { s with fresh := s.fresh + 1 } else s) g x := by
    split
    · exact (OnlyGroup.refl h.2).fresh _
    · exact OnlyGroup.refl h.2
  refine ⟨_, _, rfl, (h0.modGroup _).advance _, ?_⟩
  rw [laneEffect_rest]
  set z := laneEffect x L.reads L.d L.unit L.cnt L.n (L.result x s.fresh) with hz
  have hv : ∀ r l, l < 32 → z.vreg r l = _ := fun r l hl => laneEffect_vreg hu x L.reads L.d L.cnt L.n _ r l hl
  have hfl : ∀ l, l < 32 → z.flags l = _ := fun l hl => laneEffect_flags x L.reads L.d L.unit L.cnt L.n _ l hl
  refine { low := ?_, high := ?_, kept := ?_, flags := ?_, chain := ?_, rest := ?_ }
  · intro hn i l hi hl ha
    show z.vreg _ l = _
    have hpos : 0 < L.unit := by omega
    have h1 : L.unit * i < L.unit * L.cnt := Nat.mul_lt_mul_of_pos_left hi hpos
    rw [hv _ _ hl, if_pos ⟨hn, ha, by omega, by omega⟩, runWord]
    have h2 : L.d + L.unit * i - L.d = L.unit * i := by omega
    rw [h2, if_pos (Nat.mul_mod_right _ _), Nat.mul_div_cancel_left _ hpos]
  · intro hn h2 i l hi hl ha
    show z.vreg _ l = _
    rw [hv _ _ hl, if_pos ⟨hn, ha, by rw [h2]; omega, by rw [h2]; omega⟩, runWord]
    have h3 : L.d + L.unit * i + 1 - L.d = 2 * i + 1 := by rw [h2]; omega
    have h4 : (2 * i + 1) / 2 = i := by omega
    rw [h3, h2, if_neg (by omega), h4]
  · intro r l hl hk
    show z.vreg _ l = _
    rw [hv _ _ hl, if_neg]
    rintro ⟨h1, h2, h3, h4⟩
    rcases hk with hk | hk | hk | hk
    · simp [h1] at hk
    · simp [h2] at hk
    · omega
    · omega
  · intro l b hl
    show (z.flags l).getLsbD b = true ↔ _
    rw [hfl l hl]
    by_cases ha : x.active l = true
    · simp only [ha, if_true, BitVec.getLsbD_or, Bool.or_eq_true, laneFlags_bit, true_and]
    · simp only [ha, Bool.false_eq_true, if_false, false_and, or_false]
  · rfl
  · simp [Behind, pushLatch, pushOf]

end Sys2Proof.Machine
end

