-- ==== Sys2Proof/Laws/Trap.lean ====
section
/-! SUPPORT. What taking an exception does: the record of the group that takes it, and nothing else. -/

namespace Sys2Proof.Machine

theorem no_vector {s : State} {g : Nat} (h : vectorOf s g ≠ 0) : (bitsOf (ctxOf s g).trapVec 6 50 == 0) = false := by
  simpa [vectorOf] using h

/-- Trap entry with a vector (R330). -/
theorem enterTrap_enters {s : State} {g : Nat} {x : Group} (h : kfind s.groups g = some x) (hv : vectorOf s g ≠ 0) (t : Trap)
    (hs : t.serves = none) :
    ∃ y, OnlyGroup s (enterTrap s g t) g y ∧
      Entered s g x y t.num t.code t.pc t.addr t.vaddr t.lanes
        (if (2 ≤ t.num && t.num ≤ 6 && !t.fetch) = true then t.lanes else x.em) := by
  unfold enterTrap
  rw [if_neg (by simp [no_vector hv])]
  refine ⟨_, (OnlyGroup.refl h).modGroup _, ?_⟩
  constructor <;> simp [vectorOf, Nat.mul_comm, hs]

/-- An exception at the instruction's own address (R329). -/
theorem raise_enters {s : State} {g : Nat} {x : Group} (h : kfind s.groups g = some x) (hv : vectorOf s g ≠ 0) (num va : Nat)
    (lanes : Word) (code : Nat) :
    ∃ y, OnlyGroup s (raise s g num va lanes code) g y ∧
      Entered s g x y num code x.pc x.pc (BitVec.ofNat 64 va) lanes
        (if (2 ≤ num && num ≤ 6) = true then lanes else x.em) := by
  have := enterTrap_enters h hv
    { num := num, code := code, pc := x.pc, addr := x.pc, vaddr := BitVec.ofNat 64 va, lanes := lanes } rfl
  simpa [raise, getGroup_of h] using this

/-- An exception behind the instruction (R329). -/
theorem raiseAfter_enters {s : State} {g : Nat} {x : Group} (h : kfind s.groups g = some x) (hv : vectorOf s g ≠ 0) {num : Nat}
    (code : Nat) (hn : 6 < num) :
    ∃ y, OnlyGroup s (raiseAfter s g num code) g y ∧ Entered s g x y num code (x.pc + 4) x.pc 0 0 x.em := by
  have := enterTrap_enters h hv { num := num, code := code, pc := x.pc + 4, addr := x.pc } rfl
  have hn' : ¬ num ≤ 6 := by omega
  simpa [raiseAfter, getGroup_of h, hn'] using this

end Sys2Proof.Machine
end

