-- ==== Sys2Proof/Tests/Decoding.lean ====
section
/-! SUPPORT. Decoding: one word for every instruction that has an encoding, its fields laid out by hand from the opcode table, and
words that no instruction has; the checks of WellFormed, each with a term that it refuses. -/

namespace Sys2Proof.Machine

/-- Words of the table from `addI32` to `fmaF32`. -/
def words1 : List (Nat × Instr) := [
  (0x01539841, .addI32 76 83 2 0 true), (0x7C841081, .subI32 8 4 121 1 false), (0x86080441, .mulloI32 2 8 12 0 true),
  (0xDBC8CC01, .madI32 102 72 55 0 false), (0x250E0483, .mulhiI32 2 14 74 1 false), (0x6270D843, .mulhiN32 108 112 68 0 true),
  (0x84021C83, .addsatI32 14 2 8 1 false), (0xF1301403, .subsatI32 10 48 98 0 false), (0x00221C85, .minI32 14 34 0 1 false),
  (0x67BD1805, .maxI32 12 61 79 0 false), (0xB2E61845, .minN32 12 102 101 0 true), (0xF0EB3205, .maxN32 25 107 97 0 false),
  (0x04801A47, .and 13 0 9 0 true), (0x44795947, .or 44 121 8 2 true), (0x8401A847, .xor 84 1 8 0 true),
  (0xD282D647, .andn 107 2 37 0 true), (0x334464C9, .shl 50 68 102 1 true), (0x41BC9809, .shr 76 60 3 0 false),
  (0x84040C49, .sar 6 4 8 0 true), (0xFC0C1909, .rot 12 12 120 2 false), (0x02080C0B, .orn 6 8 4 0 false),
  (0x446E120B, .absdiffI32 9 110 8 0 false), (0xA108080B, .addI64 4 8 66 0 false), (0xFCD2680B, .subI64 52 82 121 0 false),
  (0x1508B04D, .mulI64 88 8 42 0 true), (0x760C008D, .shlI64 0 12 108 1 false), (0x86FE8C0D, .shrI64 70 126 13 0 false),
  (0xEE02280D, .sarI64 20 2 92 0 false), (0x3435664F, .divI32 51 53 104 0 true), (0x447804CF, .divN32 2 120 8 1 true),
  (0x8760C44F, .remI32 98 96 14 0 true), (0xC33E180F, .remN32 12 62 6 0 false), (0x19E62A11, .addF32 21 102 51 0 false),
  (0x58A40C51, .subF32 6 36 49 0 true), (0x8D490851, .mulF32 4 73 26 0 true), (0xCB0E0C11, .fmaF32 6 14 22 0 false)]

theorem test_words1 : (words1.all fun e => decodeTableWord (if e.1 % 2 = 1 then 32 else 16) e.1 == some e.2) = true := by decide +kernel

/-- Words of the table from `minF32` to `bswap`. -/
def words2 : List (Nat × Instr) := [
  (0x242668D3, .minF32 52 38 72 1 true), (0x7258DC13, .maxF32 110 88 100 0 false), (0x850B0413, .addF16x2 2 11 10 0 false),
  (0xDBFE4413, .mulF16x2 34 126 55 0 false), (0x3B0CA0D5, .addF64 80 12 118 1 true), (0x4168B455, .subF64 90 104 2 0 true),
  (0xB16C0C55, .mulF64 6 108 98 0 true), (0xD80480D5, .fmaF64 64 4 48 1 true), (0x2A0C1097, .fmaF16x2 8 12 84 1 false),
  (0x5D1B0017, .addBf16x2 0 27 58 0 false), (0x868C0C57, .mulBf16x2 6 12 13 0 true), (0xC70F0A17, .fmaBf16x2 5 15 14 0 false),
  (0x0E1F2819, .set 80 14 false), (0x6E2384D9, .addi 9 14 110 true), (0x194851D9, .muli 35 33 25 true),
  (0x087CB259, .andi 100 114 8 true), (0x5380A819, .ori 80 2 83 false), (0x7AB40C59, .xori 24 80 122 true),
  (0x0DCC01D9, .shli 3 48 13 true), (0x38FE7419, .shri 104 121 56 false), (0x0C17885B, .sari 16 94 12 true),
  (0x0B20079B, .rsbi 15 0 11 false), (0x0E55D09B, .mini 33 87 14 false), (0x647B855B, .maxi 10 110 100 true),
  (0x049F10DB, .setiF32 33 4 true), (0x01B3811B, .addiF32 2 78 1 false), (0x0AD5091B, .muliF32 18 84 10 false),
  (0x000A1C1D, .mov 14 10 0 false), (0x0080585D, .not 44 0 0 true), (0x010C815D, .negI32 64 12 2 true),
  (0x018A6A1D, .absI32 53 10 0 false), (0x02645CDD, .popc 46 100 1 true), (0x02EA525D, .clz 41 106 0 true),
  (0x0376601D, .ctz 48 118 0 false), (0x03F3C05D, .brev 96 115 0 true), (0x0438361D, .bswap 27 56 0 false)]

theorem test_words2 : (words2.all fun e => decodeTableWord (if e.1 % 2 = 1 then 32 else 16) e.1 == some e.2) = true := by decide +kernel

/-- Words of the table from `negF32` to `redMinI32`. -/
def words3 : List (Nat × Instr) := [
  (0x08100C5D, .negF32 6 16 0 true), (0x08A808DD, .absF32 4 40 1 true), (0x0924881D, .rcpF32 68 36 0 false),
  (0x0980995D, .rsqrtF32 76 0 2 true), (0x0A0E68DD, .sqrtF32 52 14 1 true), (0x0A86B61D, .exp2F32 91 6 0 false),
  (0x0B060C5D, .log2F32 6 6 0 true), (0x0B820A5D, .sinpiF32 5 2 0 true), (0x0C5C049D, .cospiF32 2 92 1 false),
  (0x0CF3025D, .tanhF32 1 115 0 true), (0x0E060C1D, .rcpF64 6 6 0 false), (0x0EB0C0DD, .sqrtF64 96 48 1 true),
  (0x11B81CDD, .rndF32 14 56 1 3 true), (0x187C8C5D, .fsrGet 70 true), (0x18F63C5D, .fsrClr 30 118 true),
  (0x2308425D, .packNx 33 8 true 6), (0x26CD905D, .unpackNx 72 77 true 5), (0xA48AD61D, .cvt 107 10 0 4 9 false),
  (0x820F3C1F, .cmp 6 15 4 3 2), (0x39870E21, .kand 7 7 115), (0x387FBE61, .kor 95 127 112), (0x036502A1, .kxor 1 101 6),
  (0x005BC6E1, .knot 99 91), (0x00720921, .kmov 4 114), (0x0002C961, .kpop 100 2), (0x004FDDA1, .kfirst 110 79),
  (0x42839861, .sel 76 1 3 5), (0x8098B021, .shfIdx 88 24 1), (0x80041C61, .shfUp 14 4 0), (0x890692A1, .shfDown 73 6 18),
  (0xBD6A14E1, .shfXor 10 106 122), (0xBD070921, .bcast 4 7 122), (0xBE0D0561, .vote 2 13), (0xFE02DC21, .redAddI32 46 2),
  (0xFE46B261, .redAddF32 25 70), (0xFE2880A1, .redMinI32 0 40)]

theorem test_words3 : (words3.all fun e => decodeTableWord (if e.1 % 2 = 1 then 32 else 16) e.1 == some e.2) = true := by decide +kernel

/-- Words of the table from `redMinF32` to `scmpGeI64`. -/
def words4 : List (Nat × Instr) := [
  (0xFE6D9CE1, .redMinF32 14 109), (0xFE489521, .redMaxI32 10 72), (0xFE0CE161, .redMaxF32 48 12), (0x43C0, .movCompact 30 8),
  (0x1042, .addI32Compact 2 2), (0xFAE4, .subI32Compact 23 31), (0x0A66, .mulloI32Compact 19 1), (0x4E68, .andCompact 51 9),
  (0x536A, .orCompact 27 10), (0x01EC, .xorCompact 15 0), (0x50CE, .shlCompact 6 10), (0x1850, .shrCompact 2 3),
  (0x4412, .addF32Compact 32 8), (0x1494, .subF32Compact 36 2), (0x1696, .mulF32Compact 52 2), (0x4858, .maxF32Compact 2 9),
  (0x599A, .minF32Compact 12 11), (0x37DC, .addiCompact 62 6), (0x001E, .nop), (0x0A0B333F, .imx 658227),
  (0x00001E7F, .addendPrefix 30), (0x007B14E3, .sadd 19 49 30 false), (0x01CD0923, .ssub 36 16 51 false),
  (0x0238A423, .smul 16 10 14 false), (0x83302623, .sand 24 2 12 true), (0x04006163, .sor 5 6 0 false),
  (0x855884E3, .sxor 19 8 22 true), (0x0653B963, .sshl 37 59 20 false), (0x8723ECE3, .sshr 51 62 8 true),
  (0x880C0323, .smov 12 3 true), (0x10030723, .scmpEq 28 48 0 false), (0x9135E123, .scmpNe 4 30 13 true),
  (0x12DD29E3, .scmpLtI64 39 18 55 false), (0x9308E3A3, .scmpLeI64 14 14 2 true), (0x94901FA3, .scmpGtI64 62 1 36 true),
  (0x95515323, .scmpGeI64 12 21 20 true)]

theorem test_words4 : (words4.all fun e => decodeTableWord (if e.1 % 2 = 1 then 32 else 16) e.1 == some e.2) = true := by decide +kernel

/-- Words of the table from `scmpLtN64` to `algOpRet`. -/
def words5 : List (Nat × Instr) := [
  (0x9631A323, .scmpLtN64 12 26 12 true), (0x97014AE3, .scmpLeN64 43 20 0 true), (0x183201A3, .scmpGtN64 6 32 12 false),
  (0x192EA6A3, .scmpGeN64 26 42 11 false), (0x203E3CE3, .sld 51 35 15 false), (0x21EBE323, .sst 12 62 58 false),
  (0xA8040AE3, .sid 43 1), (0x291030E3, .vget 3 3 4 false), (0x2AECA063, .vput 1 10 59 false), (0x2B0030E3, .fmtSet 3 3),
  (0x2C006323, .fmtGet 12 6), (0x9CFEA025, .bra 321525), (0x00008365, .call 4 6), (0x00010525, .bany 8 2),
  (0xC891C825, .ball 410766 0), (0xB4DF0EA5, .bnone 370424 5), (0x0000D225, .bz 6 4), (0xE927D525, .bnz 477502 2),
  (0x00001AA5, .ret 5), (0x621A1DA5, .jmp 200912 3), (0x8520DEE5, .jmpL 272646 5), (0x0EA55027, .ld 40 37 5 3 0),
  (0x058C90E7, .ldAcq 72 12 3 1 1), (0x2FC6A627, .ldnc 83 70 7 3 0), (0x53E10927, .ldv 4 97 7 2), (0x507C8667, .ldvAcq 67 124 0 0),
  (0x675A0027, .pref 90 6 1), (0x130B0CA9, .st 6 11 6 4 1), (0x148EC469, .stRel 98 14 1 5 0), (0x330C3CA9, .stnc 30 12 6 4 1),
  (0x0802222B, .ldp 17 2 2 0 0), (0x10E1146B, .ldpAcq 10 97 4 1 0), (0x359B102B, .stp 8 27 5 3 0), (0x28EF1CEB, .stpRel 14 111 2 1 1),
  (0x12AD7BAD, .algOp 61 45 5 3 4 false), (0x776D1CAD, .algOpRet 14 109 6 1 13 false)]

theorem test_words5 : (words5.all fun e => decodeTableWord (if e.1 % 2 = 1 then 32 else 16) e.1 == some e.2) = true := by decide +kernel

/-- Words of the table from `algLoad` to `mxScale`. -/
def words6 : List (Nat × Instr) := [
  (0x81FC002D, .algLoad 3), (0xA3E4002D, .algFlush 100 7), (0xC07C042D, .algGen 2), (0xE1CE342D, .dset 26 78 3 0),
  (0xE403002D, .dflush 3 0), (0xE988692D, .dstat 52 8 3), (0xEC7C6C2D, .tlset 54), (0xF07CA82D, .tlget 84), (0x0000002F, .fence),
  (0x0734002F, .waitOc 13 false 3), (0x89A802AF, .waitOcSt 10 42 true 1), (0x1000016F, .batch 5), (0x1100202F, .waitBatch 2),
  (0x983C002F, .sleep 15 true), (0x00376031, .gateInit 54 13), (0x000010B1, .gateArm 1), (0x00A04131, .gateArrive 4 40),
  (0x000451B1, .gateExpect 5 1), (0x0020B231, .gateWait 11 8), (0x005922B1, .gateTest 18 11), (0x8023A2B1, .gateTestM 58 4),
  (0x00A85331, .gateTwait 5 21), (0x001A33B1, .gateEnlist 35 6), (0x00000431, .critOn), (0x000004B1, .critOff),
  (0xA9201073, .fyCopy 1 8 41 true true), (0x0C72C0B3, .fyMcast 44 28 12), (0x45F0A133, .fyGather 10 60 69),
  (0x072CC1B3, .fyFill 12 11 7), (0x00080233, .fyStat 2), (0x00A1C035, .mxWload 28 40), (0x007E80B5, .mxStream 40 31),
  (0x00A80135, .mxZero 42), (0x00ADB1B5, .mxRead 27 43), (0x00D09235, .mxStore 9 52), (0x001C82B5, .mxScale 8 7)]

theorem test_words6 : (words6.all fun e => decodeTableWord (if e.1 % 2 = 1 then 32 else 16) e.1 == some e.2) = true := by decide +kernel

/-- Words of the table from `mxArm` to `sleepUntil`. -/
def words7 : List (Nat × Instr) := [
  (0x0035D335, .mxArm 29 13), (0x002C0037, .ampBind 0 11), (0x008090B7, .ampGate 9 32), (0x007C6137, .ampDiag 6 31),
  (0x000261B7, .ampSwap 38), (0x002C8237, .ampProb 8 11), (0x008082B7, .ampNorm 8 32), (0x000CA337, .ampMap 10 3),
  (0x4200B039, .rld 11 66 false), (0xC80340B9, .rst 52 72 true), (0x0948E139, .ralg 14 18 9), (0x0791A179, .ralgRet 26 36 7),
  (0x002431B9, .rfenceFlag 3 9), (0x04000239, .collPut 1), (0x0031A2B9, .collAcc 13 12), (0x4FD92339, .dred 18 54 79),
  (0x0020053B, .sysrd 20 8), (0x4010503B, .syswr 4 5), (0x8001C03B, .tlbInv 28), (0x8006603B, .xinval 38), (0x8008E13B, .pgmap 4 14),
  (0x800C003B, .fret), (0x8012D9BB, .wfi 38 45), (0x801464BB, .halt 18 6), (0x80180EBB, .ctxSwap 58), (0x801C0CBB, .ctxKill 50),
  (0x8021AA3B, .dieCtlRead 40 26), (0x8002C13D, .xset 4 44), (0x0090F1FD, .xsetCap 7 15 36), (0x0128303D, .xadd 0 3 10 false),
  (0x8208023D, .xget 8 0 2), (0xA02C003D, .trap 11), (0x2100003D, .brk), (0x2200003D, .exit), (0x2300403D, .sleepUntil 4)]

theorem test_words7 : (words7.all fun e => decodeTableWord (if e.1 % 2 = 1 then 32 else 16) e.1 == some e.2) = true := by decide +kernel

/-- RND_F32 has FN9 0x020 to 0x023 (R37). -/
theorem test_rnd_word : decodeWord 0x1103081D = some (.rndF32 4 3 0 2 false) := by decide +kernel

/-- Words that R40 makes illegal: a reserved selector of major 0x1E, a reserved FN9, a conversion of a type to itself, a nonzero field
that must be zero, L with a condition; the words that an odd pair, a run off its grid and a reserved size would have. -/
theorem test_illegal_words : ([0x2400003D, 0x7F80001D, 0x9100001D, 0x2100103D, 0x00000465, encode (.addI64 3 2 2 0 false),
    encode (.addI32 2 4 4 2 false), encode (.ld 1 2 0 7 0)].filterMap decodeWord).length = 0 := by decide +kernel

end Sys2Proof.Machine
end

