-- ==== Sys2Proof/Tests/Demo.lean ====
section
/-! SUPPORT. Small states for tests: one group that runs on die 0, and what a step leaves in it. -/

namespace Sys2Proof.Machine

/-- Partition 0 on die 0 runs context 1: block 0 with group 1 in user mode, a page of module scope at 0x10000 mapped at 0x10000. -/
def demo : State := { bootState State.reset [] with schedule := [], current := some 1 }

/-- The group of `demo`, changed. -/
def demoWith (f : Group → Group) : State := modGroup demo 1 f

/-- `demo` with values in the lanes 0 and 1 of v2 and v3, and in s1 and s2. -/
def demoV (a b c d : Word) : State := demoWith fun x => { x with v := [(64, a), (65, b), (96, c), (97, d)] }
def demoS (a b : DWord) : State := demoWith fun x => { x with s := [(1, a), (2, b)] }

/-- The state after an instruction. -/
def after (i : Instr) (s : State) : State := match exec i s with
  | .next t => t
  | _ => State.reset

/-- Register `r` of lane 0 and of lane 1 of group 1, uniform register `r`, the flags of lane 0, the program counter. -/
def v0 (s : State) (r : Nat) : Word := (getGroup s 1).vreg r 0
def v1 (s : State) (r : Nat) : Word := (getGroup s 1).vreg r 1
def sv (s : State) (r : Nat) : DWord := (getGroup s 1).sreg r
def fl0 (s : State) : BitVec 5 := (getGroup s 1).flags 0
def pcOf (s : State) : DWord := (getGroup s 1).pc
/-- The trap of a group's record: number and code. -/
def trapOf (s : State) : Nat := bitsOf (getGroup s 1).trap.cause.toNat 0 5

end Sys2Proof.Machine
end

