-- ==== Sys2Proof/Tests/Slice0.lean ====
section
/-! SUPPORT. One step of one instruction: results worked out by hand from the rules. -/

set_option maxRecDepth 20000
set_option Elab.async false

namespace Sys2Proof.Machine

/-- Register v1 of lane 0 after each of some instructions from one state. -/
def outs (s : State) (l : List Instr) : List Word := l.map fun i => v0 (after i s) 1
/-- The pair v4, v5 of lane 0 as one number. -/
def pairs (s : State) (l : List Instr) : List Nat := l.map fun i => let t := after i s; (v0 t 4).toNat + 2 ^ 32 * (v0 t 5).toNat

/-! ## Integer and logic (R60, R61): a = 0xFFFFFFFE, b = 5 -/

theorem test_integer : outs (demoV 0xFFFFFFFE 0 5 0) [.addI32 1 2 3 0 false, .subI32 1 2 3 0 false, .mulloI32 1 2 3 0 false,
    .mulhiI32 1 2 3 0 false, .mulhiN32 1 2 3 0 false, .minI32 1 2 3 0 false, .maxI32 1 2 3 0 false, .minN32 1 2 3 0 false,
    .maxN32 1 2 3 0 false, .absdiffI32 1 2 3 0 false] =
    [3, 0xFFFFFFF9, 0xFFFFFFF6, 0xFFFFFFFF, 4, 0xFFFFFFFE, 5, 5, 0xFFFFFFFE, 7] := by decide +kernel

theorem test_logic : outs (demoV 0xFFFFFFFE 0 5 0) [.and 1 2 3 0 false, .or 1 2 3 0 false, .xor 1 2 3 0 false, .andn 1 2 3 0 false,
    .orn 1 2 3 0 false, .shl 1 2 3 0 false, .shr 1 2 3 0 false, .sar 1 2 3 0 false, .rot 1 2 3 0 false] =
    [4, 0xFFFFFFFF, 0xFFFFFFFB, 0xFFFFFFFA, 0xFFFFFFFE, 0xFFFFFFC0, 0x07FFFFFF, 0xFFFFFFFF, 0xFFFFFFDF] := by decide +kernel

/-- Saturation at both ends, a count of 32 and above, mad onto the old destination. -/
theorem test_integer_edges : outs (demoV 0x7FFFFFFF 0 32 0) [.addsatI32 1 2 3 0 false, .shl 1 2 3 0 false, .shr 1 2 3 0 false,
    .sar 1 2 3 0 false, .rot 1 2 3 0 false, .madI32 1 2 3 0 false] = [0x7FFFFFFF, 0, 0, 0, 0x7FFFFFFF, 0xFFFFFFE0] := by decide +kernel
theorem test_subsat : outs (demoV 0x80000000 0 1 0) [.subsatI32 1 2 3 0 false] = [0x80000000] := by decide +kernel
theorem test_mad : v0 (after (.madI32 3 2 3 0 false) (demoV 7 0 5 0)) 3 = 40 := by decide +kernel

/-- Lane 1 has its own values, an inactive lane keeps its register, N suppresses the write. -/
theorem test_lanes : (v1 (after (.addI32 1 2 3 0 false) (demoV 1 10 2 20)) 1, v1 (after (.addI32 3 2 3 0 false)
    (modGroup (demoV 1 10 2 20) 1 fun x => { x with em := 1 })) 3, v0 (after (.addI32 3 2 3 0 true) (demoV 1 10 2 20)) 3) =
    (30, 20, 2) := by decide +kernel
/-- A uniform register, zero, the lane number and em as sources (R21). -/
theorem test_sources : (v0 (after (.addI32 1 117 124 0 false) (demoS 0x1FFFFFFFF 0)) 1, v1 (after (.addI32 1 125 126 0 false) demo) 1) =
    (0xFFFFFFFF, 0) := by decide +kernel

theorem test_integer64 : pairs (demoWith fun x => { x with v := [(64, 0xFFFFFFFF), (96, 1), (192, 2), (224, 0)] })
    [.addI64 4 2 6 0 false, .subI64 4 2 6 0 false, .mulI64 4 2 6 0 false, .shlI64 4 2 6 0 false, .shrI64 4 2 6 0 false,
    .sarI64 4 2 6 0 false] = [0x200000001, 0x1FFFFFFFD, 0x3FFFFFFFE, 0x7FFFFFFFC, 0x7FFFFFFF, 0x7FFFFFFF] := by decide +kernel

/-! ## Divisions (R62): in flight for 32 cycles; a zero divisor -/

/-- The quotients and remainders on their way, lane 0. -/
def inFlight0 (s : State) (i : Instr) : List Word := (getGroup (after i s) 1).inFlight.map fun e => kgetD e.2.v 32 0
theorem test_division : [Instr.divI32 1 2 3 0 false, .remI32 1 2 3 0 false, .divN32 1 2 3 0 false, .remN32 1 2 3 0 false].map
    (inFlight0 (demoV 0xFFFFFFF9 0 2 0)) = [[0xFFFFFFFD], [0xFFFFFFFF], [0x7FFFFFFC], [1]] := by decide +kernel
theorem test_division_by_zero : [Instr.divI32 1 2 3 0 false, .remI32 1 2 3 0 false, .divN32 1 2 3 0 false, .remN32 1 2 3 0 false].map
    (inFlight0 (demoV 9 0 0 0)) = [[0xFFFFFFFF], [9], [0xFFFFFFFF], [9]] := by decide +kernel

/-! ## Floating point (R65, R69, R70) -/

/-- a = 1.5, b = 2.0; the destination of fma holds 0. -/
theorem test_float : outs (demoV 0x3FC00000 0 0x40000000 0) [.addF32 1 2 3 0 false, .subF32 1 2 3 0 false, .mulF32 1 2 3 0 false,
    .minF32 1 2 3 0 false, .maxF32 1 2 3 0 false, .fmaF32 1 2 3 0 false] =
    [0x40600000, 0xBF000000, 0x40400000, 0x3FC00000, 0x40000000, 0x40400000] := by decide +kernel
/-- Packed halves: a = 1, 1 and b = 1, 2. -/
theorem test_packed : (outs (demoV 0x3C003C00 0 0x40003C00 0) [.addF16x2 1 2 3 0 false, .mulF16x2 1 2 3 0 false, .fmaF16x2 1 2 3 0 false],
    outs (demoV 0x3F803F80 0 0x40003F80 0) [.addBf16x2 1 2 3 0 false, .mulBf16x2 1 2 3 0 false, .fmaBf16x2 1 2 3 0 false]) =
    ([0x42004000, 0x40003C00, 0x40003C00], [0x40404000, 0x40003F80, 0x40003F80]) := by decide +kernel
/-- Pairs: 1.5 and 2.0. -/
theorem test_float64 : pairs (demoWith fun x => { x with v := [(96, 0x3FF80000), (224, 0x40000000)] })
    [.addF64 4 2 6 0 false, .subF64 4 2 6 0 false, .mulF64 4 2 6 0 false, .fmaF64 4 2 6 0 false] =
    [0x400C000000000000, 0xBFE0000000000000, 0x4008000000000000, 0x4008000000000000] := by decide +kernel
/-- The largest value doubled overflows, inexactly (R51); infinity less infinity is invalid and the canonical NaN. -/
theorem test_float_flags : (let t := after (.addF32 1 2 3 0 false) (demoV 0x7F7FFFFF 0 0x7F7FFFFF 0); (v0 t 1, fl0 t)) =
    (0x7F800000, 0x14) ∧ (let t := after (.subF32 1 2 3 0 false) (demoV 0x7F800000 0 0x7F800000 0); (v0 t 1, fl0 t)) =
    (0x7FC00000, 0x01) := by decide +kernel

/-- R69: 4.0 gives 0.25, 0.5 and 2.0, exactly. -/
theorem test_roots : outs (demoV 0x40800000 0 0 0) [.rcpF32 1 2 0 false, .sqrtF32 1 2 0 false, .rsqrtF32 1 2 0 false, .exp2F32 1 2 0 false,
    .log2F32 1 2 0 false, .sinpiF32 1 2 0 false, .cospiF32 1 2 0 false] =
    [0x3E800000, 0x40000000, 0x3F000000, 0x41800000, 0x40000000, 0, 0x3F800000] := by decide +kernel
theorem test_zero : (outs demo [.tanhF32 1 2 0 false, .exp2F32 1 2 0 false], fl0 (after (.rcpF32 1 2 0 false) demo),
    v0 (after (.log2F32 1 2 0 false) demo) 1) = ([0, 0x3F800000], 2, 0xFF800000) := by decide +kernel
theorem test_roots64 : pairs (demoWith fun x => { x with v := [(96, 0x40100000)] }) [.rcpF64 4 2 0 false, .sqrtF64 4 2 0 false] =
    [0x3FD0000000000000, 0x4000000000000000] := by decide +kernel
/-- R70: 2.5 and −0.5 in the modes ne, tz, up, dn. -/
theorem test_rnd : (outs (demoV 0x40200000 0 0 0) ([0, 1, 2, 3].map fun m => .rndF32 1 2 0 m false),
    outs (demoV 0xBF000000 0 0 0) ([0, 1, 2, 3].map fun m => .rndF32 1 2 0 m false)) =
    ([0x40000000, 0x40000000, 0x40400000, 0x40000000], [0x80000000, 0x80000000, 0x80000000, 0xBF800000]) := by decide +kernel

/-! ## Immediates and unary forms (R66 to R68) -/

theorem test_immediate : outs (demoV 10 0 0 0) [.set 1 0xFF false, .addi 1 2 3 false, .muli 1 2 3 false, .andi 1 2 6 false, .ori 1 2 5 false,
    .xori 1 2 3 false, .shli 1 2 2 false, .shri 1 2 1 false, .sari 1 2 1 false, .rsbi 1 2 3 false, .mini 1 2 3 false, .maxi 1 2 3 false] =
    [0xFFFFFFFF, 13, 30, 2, 15, 9, 40, 5, 5, 0xFFFFFFF9, 3, 10] := by decide +kernel
theorem test_immediate_float : outs (demoV 0x3FC00000 0 0 0) [.setiF32 1 0x80 false, .addiF32 1 2 0 false, .muliF32 1 2 0 false,
    .mini 1 2 0xFF false] = [0xFFFFFF80, 0x3FC00000, 0, 0xFFFFFFFF] := by decide +kernel
theorem test_unary : outs (demoV 0xF0 0 0 0) [.mov 1 2 0 false, .not 1 2 0 false, .negI32 1 2 0 false, .absI32 1 2 0 false, .popc 1 2 0 false,
    .clz 1 2 0 false, .ctz 1 2 0 false, .brev 1 2 0 false, .bswap 1 2 0 false] =
    [0xF0, 0xFFFFFF0F, 0xFFFFFF10, 0xF0, 4, 24, 4, 0x0F000000, 0xF0000000] := by decide +kernel
theorem test_unary_edges : (outs demo [.clz 1 2 0 false, .ctz 1 2 0 false], outs (demoV 0xBFC00000 0 0 0) [.negF32 1 2 0 false,
    .absF32 1 2 0 false, .absI32 1 2 0 false]) = ([32, 32], [0x3FC00000, 0x3FC00000, 0x40400000]) := by decide +kernel

/-! ## Flags, narrow formats, conversion (R54, R71, R72) -/

theorem test_fsr : (let t := after (.fsrClr 1 2 false) (demoWith fun x => { x with v := [(64, 2)], fsr := [(0, 3)] }); (v0 t 1, fl0 t)) = (3, 1) ∧
    v0 (after (.fsrGet 1 false) (demoWith fun x => { x with fsr := [(0, 3)] })) 1 = 3 := by decide +kernel
/-- R72: 0.3, 500.0, −0.0, 1.0 in e4m3. -/
theorem test_pack : (let t := after (.packNx 1 8 false 2) (demoWith fun x => { x with
      fmt := [(2, 0x6340)], v := [(256, 0x3E99999A), (288, 0x43FA0000), (320, 0x80000000), (352, 0x3F800000)] })
    (v0 t 1, fl0 t)) = (0x38807E2A, 0x14) := by decide +kernel
theorem test_unpack : (let t := after (.unpackNx 12 4 false 2) (demoWith fun x => { x with fmt := [(2, 0x6340)], v := [(128, 0x38807E2A)] })
    [v0 t 12, v0 t 13, v0 t 14, v0 t 15]) = [0x3EA00000, 0x43E00000, 0x80000000, 0x3F800000] := by decide +kernel
/-- R54: i32 −2 to f32, f32 1.5 to i32 toward zero, i32 300 to i8 modulo 2^8, i32 to f64. -/
theorem test_cvt : (v0 (after (.cvt 1 2 0 10 2 false) (demoV 0xFFFFFFFE 0 0 0)) 1, v0 (after (.cvt 1 2 0 2 10 false) (demoV 0x3FC00000 0 0 0)) 1,
    pairs (demoV 2 0 0 0) [.cvt 4 2 0 11 2 false]) = (0xC0000000, 1, [0x4000000000000000]) := by decide +kernel

/-! ## Compares, masks, select, exchange, reductions (R73 to R78) -/

theorem test_cmp : ([(0, 0), (2, 0), (2, 1), (4, 1), (2, 2), (7, 2)].map fun e => (getGroup (after (.cmp 1 2 3 (BitVec.ofNat 4 e.1) (BitVec.ofNat 2 e.2))
    (demoV 0xFFFFFFFF 3 5 5)) 1).kreg 1) = [0xFFFFFFFC, 3, 2, 1, 2, 1] := by decide +kernel
theorem test_masks : ([Instr.kand 2 0 1, .kor 2 0 1, .kxor 2 0 1, .knot 2 0, .kmov 2 0].map fun i => (getGroup (after i (demoWith fun x =>
    { x with k := [(0, 6), (1, 3)] })) 1).kreg 2) = [2, 7, 5, 0xFFFFFFF9, 6] := by decide +kernel
theorem test_mask_numbers : ([Instr.kpop 67 0, .kfirst 67 0, .kfirst 67 1, .kmov 67 8].map fun i => sv (after i (demoWith fun x =>
    { x with k := [(0, 6)] })) 3) = [2, 1, 32, 0xFFFFFFFF] := by decide +kernel
theorem test_sel : (let t := after (.sel 1 1 2 3) (modGroup (demoV 1 2 3 4) 1 fun x => { x with k := [(1, 2)] }); (v0 t 1, v1 t 1)) = (3, 2) := by decide +kernel
theorem test_exchange : outs (demoV 10 20 1 1) [.shfIdx 1 2 3, .shfUp 1 2 3, .shfDown 1 2 3, .shfXor 1 2 3] = [20, 10, 20, 20] ∧
    v1 (after (.shfUp 1 2 3) (demoV 10 20 1 1)) 1 = 10 ∧ v1 (after (.bcast 1 2 124) (demoV 10 20 1 1)) 1 = 10 := by decide +kernel
theorem test_vote : (getGroup (after (.vote 1 2) (demoV 0 7 0 0)) 1).kreg 1 = 2 := by decide +kernel
theorem test_reductions : ([Instr.redAddI32 3 2, .redMinI32 3 2, .redMaxI32 3 2].map fun i => sv (after i (demoV 0xFFFFFFFF 7 0 0)) 3) =
    [6, 0xFFFFFFFF, 7] ∧ ([Instr.redAddF32 3 2, .redMinF32 3 2, .redMaxF32 3 2].map fun i => sv (after i (demoV 0xBF800000 0x40000000 0 0)) 3) =
    [0x3F800000, 0xBF800000, 0x40000000] := by decide +kernel

/-! ## Compact forms and prefixes (R30 to R34) -/

theorem test_compact : ([Instr.movCompact 2 3, .addI32Compact 2 3, .subI32Compact 2 3, .mulloI32Compact 2 3, .andCompact 2 3, .orCompact 2 3,
    .xorCompact 2 3, .shlCompact 2 3, .shrCompact 2 3, .addiCompact 2 0x1F].map fun i => v0 (after i (demoV 12 0 5 0)) 2) =
    [5, 17, 7, 60, 4, 13, 9, 384, 0, 11] ∧ pcOf (after .nop demo) = 0x10002 := by decide +kernel
theorem test_compact_float : ([Instr.addF32Compact 2 3, .subF32Compact 2 3, .mulF32Compact 2 3, .maxF32Compact 2 3, .minF32Compact 2 3].map fun i =>
    v0 (after i (demoV 0x3FC00000 0 0x40000000 0)) 2) = [0x40600000, 0xBF000000, 0x40400000, 0x40000000, 0x3FC00000] := by decide +kernel

/-- `demo` with a word stored behind the program counter's own. -/
def demoNext (w : Nat) (s : State) : State := placeBytes s 0x10004 (leBytes 4 w)
/-- imx 1 before addi v1, v2, 3: 0x103 is added; the addend prefix gives mad its addend v3 (R31, R32). -/
theorem test_imx : (let t := after (.imx 1) (demoNext (encode (.addi 1 2 3 false)) (demoV 10 0 0 0)); (v0 t 1, pcOf t)) = (0x10D, 0x10008) := by decide +kernel
theorem test_addend : (let t := after (.addendPrefix 3) (demoNext (encode (.madI32 1 2 2 0 false)) (demoV 10 0 7 0)); (v0 t 1, pcOf t)) =
    (107, 0x10008) := by decide +kernel

/-! ## Uniform operations (R81 to R86) -/

theorem test_uniform : ([Instr.sadd 3 1 2 false, .ssub 3 1 2 false, .smul 3 1 2 false, .sand 3 1 2 false, .sor 3 1 2 false, .sxor 3 1 2 false,
    .sshl 3 1 2 false, .sshr 3 1 2 false, .smov 3 2 false, .smov 3 0x3F true, .sadd 3 1 0x3F true].map fun i =>
    sv (after i (demoS 0xFFFFFFFFFFFFFFFE 5)) 3) =
    [3, 0xFFFFFFFFFFFFFFF9, 0xFFFFFFFFFFFFFFF6, 4, 0xFFFFFFFFFFFFFFFF, 0xFFFFFFFFFFFFFFFB, 0xFFFFFFFFFFFFFFC0, 0x07FFFFFFFFFFFFFF, 5,
     0xFFFFFFFFFFFFFFFF, 0xFFFFFFFFFFFFFFFD] := by decide +kernel
theorem test_scmp : ([Instr.scmpEq 3 1 2 false, .scmpNe 3 1 2 false, .scmpLtI64 3 1 2 false, .scmpLeI64 3 1 2 false, .scmpGtI64 3 1 2 false,
    .scmpGeI64 3 1 2 false, .scmpLtN64 3 1 2 false, .scmpLeN64 3 1 2 false, .scmpGtN64 3 1 2 false, .scmpGeN64 3 1 2 false].map fun i =>
    sv (after i (demoS 0xFFFFFFFFFFFFFFFE 5)) 3) = [0, 1, 1, 1, 0, 0, 0, 0, 1, 1] := by decide +kernel
theorem test_identifiers : ([0, 1, 2, 3, 4, 5].map fun c => sv (after (.sid 3 c) { demo with cycle := 9 }) 3) = [0, 0, 0, 0, 0, 9] := by decide +kernel
theorem test_vget : sv (after (.vget 3 2 1 true) (demoV 1 2 3 4)) 3 = 2 ∧ v1 (after (.vput 1 1 1 true) (demoS 0x500000007 0)) 1 = 7 := by decide +kernel
theorem test_formats : (let t := after (.fmtSet 2 1) (demoS 0x56340 0); (kgetD (getGroup t 1).fmt 2 0, sv (after (.fmtGet 3 2) t) 3)) =
    (0x6340, 0x6340) := by decide +kernel

/-! ## Control (R87, R88, R91) -/

theorem test_branches : ([Instr.bra 0x7FFFE, .bnz 4 1, .bz 4 1, .bany 4 0, .ball 4 0, .bnone 4 0].map fun i => pcOf (after i (demoS 1 0))) =
    [0xFFFC, 0x10008, 0x10004, 0x10004, 0x10004, 0x10008] := by decide +kernel
theorem test_calls : (let t := after (.call 64 7) demo; (pcOf t, sv t 63)) = (0x10080, 0x10004) ∧
    (let t := after (.jmpL 2 1) (demoWith fun x => { x with s := [(57, 0x20000)] }); (pcOf t, sv t 63)) = (0x20004, 0x10004) ∧
    pcOf (after (.ret 1) (demoWith fun x => { x with s := [(57, 0x20000)] })) = 0x20000 ∧
    pcOf (after (.jmp 0 1) (demoWith fun x => { x with s := [(57, 0x20000)] })) = 0x20000 := by decide +kernel

/-- `demo` with a trap vector at 0x40000. -/
def demoVec : State := modCtx demo 0 false fun c => { c with trapVec := 0x40000 }
theorem test_traps : (let t := after (.trap 5) demoVec; (pcOf t, (getGroup t 1).trap.pc, (getGroup t 1).trap.cause, (getGroup t 1).sup)) =
    (0x40340, 0x10004, 0x50D, true) ∧ (let t := after .brk demoVec; (pcOf t, (getGroup t 1).trap.cause)) = (0x40300, 12) := by decide +kernel
theorem test_odd_target : trapOf (after (.ret 1) (modGroup demoVec 1 fun x => { x with s := [(57, 0x20001)] })) = 2 := by decide +kernel

/-! ## WellFormed: a term that each check refuses -/

/-- Destinations: a uniform, a latch, a run off its grid, an odd pair. -/
theorem test_bad_dst : ([.addI32 116 1 1 0 false, .addI32 112 1 1 0 false, .addI32 2 4 4 2 false, .addI64 3 2 2 0 false,
    .set 124 0 false, .fsrGet 112 false, .bcast 125 1 116, .dstat 3 1 1].map Instr.wellFormed).contains true = false := by decide +kernel

/-- Sources: code 127, a run off its grid, a latch with W > 0, a latch of 64 bits. -/
theorem test_bad_src : ([.addI32 1 127 1 0 false, .addI32 4 2 4 2 false, .addI32 4 112 4 1 false, .addI64 2 112 2 0 false,
    .addi 1 127 0 false, .mov 1 127 0 false, .rcpF64 2 3 0 false, .shlI64 2 2 127 0 false, .fsrClr 1 127 false, .vote 1 127,
    .redAddI32 1 127].map Instr.wellFormed).contains true = false := by decide +kernel

/-- No latch in a division; packs on runs of 4; a broadcast from a v register. -/
theorem test_bad_forms : ([.divI32 1 112 1 0 false, .divI32 1 1 112 0 false, .packNx 1 2 false 0, .unpackNx 2 1 false 0,
    .bcast 1 1 1, .tlset 112, .tlget 116, .algGen 116, .addendPrefix 127, .vget 1 1 32 true, .vput 1 1 32 true,
    .sid 1 6].map Instr.wellFormed).contains true = false := by decide +kernel

/-- Types and conditions: equal types, a reserved type, an unsigned condition on floats. -/
theorem test_bad_types : ([.cvt 1 1 0 2 2 false, .cvt 1 1 0 12 2 false, .cvt 1 1 0 2 12 false, .cvt 3 2 0 11 2 false,
    .cmp 1 1 1 6 0, .cmp 1 3 2 0 3].map Instr.wellFormed).contains true = false := by decide +kernel

/-- The mask space: codes 9 to 63; a lane mask where a uniform register must stand. -/
theorem test_bad_masks : ([.kand 9 0 0, .kor 0 63 0, .kxor 0 0 9, .knot 9 0, .kmov 0 9, .kpop 8 0, .kfirst 0 0].map
    Instr.wellFormed).contains true = false := by decide +kernel

/-- Memory: a reserved size, a signed store, more than 64 bytes a lane, an offset in a uniform register, a level beyond 3. -/
theorem test_bad_memory : ([.ld 1 2 0 7 0, .st 1 2 0 1 0, .st 1 2 0 3 0, .ld 0 2 0 6 3, .ld 1 116 0 4 0, .ldp 1 2 4 4 0, .stp 1 2 4 4 0,
    .ldv 1 116 0 0, .pref 1 0 3, .algOp 116 1 0 0 0 false, .dset 1 116 0 0, .dflush 116 0, .algFlush 116 0].map
    Instr.wellFormed).contains true = false := by decide +kernel

/-- Engines and the fabric: a data register that is no v register, an odd pair, a run of 85 registers off its grid. -/
theorem test_bad_engines : ([.fyCopy 1 1 112 false false, .fyCopy 1 1 1 false true, .fyMcast 1 1 112, .fyGather 1 1 116, .fyFill 1 1 112,
    .rld 1 112 false, .rld 1 3 true, .rst 1 3 true, .ralg 1 1 112, .ralgRet 1 1 112, .collPut 28].map
    Instr.wellFormed).contains true = false := by decide +kernel

/-- System registers: a number without a register, a write of a read-only one. -/
theorem test_bad_system : ([.sysrd 1 0x007, .sysrd 1 0x3FF, .syswr 0x000 1, .syswr 0x3C0 1, .syswr 0x086 1].map
    Instr.wellFormed).contains true = false := by decide +kernel

end Sys2Proof.Machine
end

