-- ==== Sys2Proof/Tests/WitnessLanes.lean ====
section
/-! SUPPORT. States and operands that meet the hypotheses of the statements about lane and uniform instructions, with the
highest declared register and the last reader of a chain where the hypotheses have bounds. -/

set_option maxRecDepth 20000
set_option Elab.async false

namespace Sys2Proof.Machine

/-- Group 1 of a state. -/
abbrev grp (s : State) : Group := getGroup s 1

theorem issues_demo : Issues demo 1 (grp demo) := ⟨by decide +kernel, by decide +kernel⟩

/-- `demo` inside a chain with 31 readers. -/
def demoChain : State := demoWith fun x => { x with latch := { pushes := [[(0, 7)]], readers := 31 } }
theorem issues_demoChain : Issues demoChain 1 (grp demoChain) := ⟨by decide +kernel, by decide +kernel⟩

/-- A form that names declared registers alone, wherever 112 are declared. -/
theorem fits_of (s : State) (x : Group) (hs : (blockOf s 1).regs = 112) {L : LaneSpec}
    (h : declared 112 (L.d, L.unit * L.cnt) && L.srcs.all (declared 112)) (hr : x.latch.readers ≠ 32) : L.Fits s 1 x := by
  simp only [Bool.and_eq_true, List.all_eq_true] at h
  exact ⟨hs ▸ h.1, hs ▸ h.2, fun _ => hr⟩

/-- A form that names declared registers alone, in `demo`. -/
theorem fits_demo (L : LaneSpec) (h : declared 112 (L.d, L.unit * L.cnt) && L.srcs.all (declared 112) && !L.reads) :
    L.Fits demo 1 (grp demo) := by
  simp only [Bool.and_eq_true, Bool.not_eq_true', List.all_eq_true] at h
  have : (blockOf demo 1).regs = 112 := by decide +kernel
  exact ⟨this ▸ h.1.1, this ▸ h.1.2, fun r => absurd r (by simp [h.2])⟩

/-- A form with a latch is the 32nd reader at the most. -/
theorem fits_demoChain (L : LaneSpec) (h : declared 112 (L.d, L.unit * L.cnt) && L.srcs.all (declared 112)) :
    L.Fits demoChain 1 (grp demoChain) := by
  simp only [Bool.and_eq_true, List.all_eq_true] at h
  have : (blockOf demoChain 1).regs = 112 := by decide +kernel
  exact ⟨this ▸ h.1, this ▸ h.2, fun _ => by decide +kernel⟩

theorem witness_IntegerOperations (op) (op2) (op3) : (aluSpec 111 2 117 0 false op).Fits demo 1 (grp demo) ∧
    (aluSpec 111 112 2 0 true op).Fits demoChain 1 (grp demoChain) ∧ (alu64Spec 110 2 124 0 false op2).Fits demo 1 (grp demo) ∧
    (shiftSpec 104 2 6 2 false op3).Fits demo 1 (grp demo) :=
  ⟨fits_demo _ (by rfl), fits_demoChain _ (by rfl), fits_demo _ (by rfl), fits_demo _ (by rfl)⟩

theorem witness_FloatOperations (op) (op2) : (aluSpec 104 8 96 3 false op).Fits demo 1 (grp demo) ∧
    (alu64Spec 96 0 112 0 false op2).Fits demoChain 1 (grp demoChain) := ⟨fits_demo _ (by rfl), fits_demoChain _ (by rfl)⟩

theorem witness_MultiplyAdd (op) (op2) : (maddSpec none 111 2 3 0 false op).Fits demo 1 (grp demo) ∧
    (madd64Spec none 110 2 4 0 false op2).Fits demo 1 (grp demo) := ⟨fits_demo _ (by rfl), fits_demo _ (by rfl)⟩

theorem witness_Immediates (imm op) : (immSpec 4 111 125 imm false op).Fits demo 1 (grp demo) ∧
    (immSpec 4 1 124 imm true op).Fits demo 1 (grp demo) := ⟨fits_demo _ (by rfl), fits_demo _ (by rfl)⟩

theorem witness_IntegerUnary (op) : (unSpec 4 104 8 3 false op).Fits demo 1 (grp demo) := fits_demo _ (by rfl)
/-- The least finite f32 and the largest one. -/
theorem value_ends : f32Value 1 = some (2 ^ (-149 : ℤ)) ∧ f32Value 0x7F7FFFFF = some (0xFFFFFF * 2 ^ (104 : ℤ)) := by decide +kernel
theorem witness_FloatUnary (op op2) : (unSpec 4 111 112 0 false op).Fits demoChain 1 (grp demoChain) ∧
    (un64Spec 110 2 0 false op2).Fits demo 1 (grp demo) ∧ 0x7F800000 < (0x7F800001 : Word).toNat % 2 ^ 31 ∧
    f32Value 1 = some (2 ^ (-149 : ℤ)) := ⟨fits_demoChain _ (by rfl), fits_demo _ (by rfl), by decide, value_ends.1⟩
/-- 1 at once an even power of two, an integer and within [1/2, 2]; -2 negative; 127.5 below 128; 128 at the bound; 1/2 a half-integer. -/
theorem witness_TranscendentalBounds : f32Value 0x3F800000 = some 1 ∧ f32Value 0xC0000000 = some (-2) ∧ f32Value 0x42FF0000 = some (255 / 2) ∧
    f32Value 0x43000000 = some 128 ∧ f32Value 0x3F000000 = some (1 / 2) := by decide +kernel
theorem witness_CompactForms (op) : (compactSpec 63 27 op).Fits demo 1 (grp demo) ∧ (compactSpec 63 31 op).Fits demoChain 1 (grp demoChain) :=
  ⟨fits_demo _ (by rfl), fits_demoChain _ (by rfl)⟩
theorem witness_MovesAndConversions (f g) : (fsrGetSpec 111 false).Fits demo 1 (grp demo) ∧ (packSpec 111 108 false 7).Fits demo 1 (grp demo) ∧
    (unpackSpec 108 111 false 7).Fits demo 1 (grp demo) ∧ (cvtSpec 110 3 0 11 2 false).Fits demo 1 (grp demo) ∧
    (selSpec 111 7 1 2).Fits demo 1 (grp demo) ∧ (exchangeSpec 111 1 116 f g).Fits demo 1 (grp demo) :=
  ⟨fits_demo _ (by rfl), fits_demo _ (by rfl), fits_demo _ (by rfl), fits_demo _ (by rfl), fits_demo _ (by rfl), fits_demo _ (by rfl)⟩
theorem witness_FlagClear : ({ fsrGetSpec 111 false with srcs := [(2, 1)] } : LaneSpec).Fits demo 1 (grp demo) := fits_demo _ (by rfl)

theorem witness_Divisions : Issues demo 1 (grp demo) ∧ isLatchCode 104 = false ∧ isLatchCode 117 = false ∧
    declared (blockOf demo 1).regs (104, 2 ^ 3) = true ∧ declared (blockOf demo 1).regs (117, 2 ^ 3) = true :=
  ⟨issues_demo, by decide +kernel, by decide +kernel, by decide +kernel, by decide +kernel⟩
/-- An integer compare at its last condition, a float one at the last of all, a latch as the 32nd reader. -/
theorem witness_Compares : Issues demoChain 1 (grp demoChain) ∧ (2 ≤ (0 : BitVec 2).toNat ∨ (5 : BitVec 4).toNat ≤ 5) ∧
    (2 ≤ (2 : BitVec 2).toNat ∨ (15 : BitVec 4).toNat ≤ 5) ∧ declared (blockOf demoChain 1).regs (112, 1) = true ∧
    declared (blockOf demoChain 1).regs (110, 2) = true ∧ (isLatchCode 112 || isLatchCode 110) = true ∧ (grp demoChain).latch.readers ≠ 32 :=
  ⟨issues_demoChain, by decide +kernel, by decide +kernel, by decide +kernel, by decide +kernel, by decide +kernel, by decide +kernel⟩
theorem witness_Reductions : Issues demoChain 1 (grp demoChain) ∧ declared (blockOf demoChain 1).regs (115, 1) = true ∧
    (isLatchCode 115 = true → (grp demoChain).latch.readers ≠ 32) := ⟨issues_demoChain, by decide +kernel, by decide +kernel⟩
theorem witness_MaskOperations : Issues demo 1 (grp demo) ∧ maskCode 8 ∧ maskCode 64 ∧ maskCode 127 ∧ maskCode 0 :=
  ⟨issues_demo, .inl (by decide +kernel), .inr (by decide +kernel), .inr (by decide +kernel), .inl (by decide +kernel)⟩

/-- `demo` with a handler, whose next instruction but one is `i`. -/
def demoPair (i : Instr) : State := placeBytes (modCtx demo 0 false fun c => { c with trapVec := 0x40000 }) 0x10004 (leBytes 4 (encode i))
/-- What the fetch of the successor leaves. -/
def paired (i : Instr) : State := (fetchAt (demoPair i) 1 ((grp (demoPair i)).pc + 4).toNat).1

theorem paired_fetches : ∀ i ∈ [Instr.addi 111 2 3 false, .set 111 3 false, .madI32 111 2 3 0 false, .fmaF64 110 2 4 0 false, .nop],
    fetchAt (demoPair i) 1 ((grp (demoPair i)).pc + 4).toNat = (paired i, .instr i) ∧ vectorOf (paired i) 1 ≠ 0 ∧
      (blockOf (paired i) 1).regs = 112 ∧ (demoPair i).current = some 1 ∧ (kfind (demoPair i).groups 1).isSome = true := by decide +kernel

theorem witness_Prefixes (op op2 op3) : Issues (demoPair (.addi 111 2 3 false)) 1 (grp (demoPair (.addi 111 2 3 false))) ∧
    (immSpec 8 111 2 1 false op).Fits (paired (.addi 111 2 3 false)) 1 (grp demo) ∧
    (immSpec 8 111 124 1 false op).Fits (paired (.set 111 3 false)) 1 (grp demo) ∧
    Legal.src 0 112 = true ∧ (maddSpec (some 112) 111 2 3 0 false op2).Fits (paired (.madI32 111 2 3 0 false)) 1 (grp demoChain) ∧
    Legal.src64 0 124 = true ∧ (madd64Spec (some 124) 110 2 4 0 false op3).Fits (paired (.fmaF64 110 2 4 0 false)) 1 (grp demo) := by
  have e := fun i hi => (paired_fetches i hi).2.2.1
  exact ⟨⟨by decide +kernel, by decide +kernel⟩, fits_of _ _ (e _ (by simp)) (by rfl) (by decide +kernel), fits_of _ _ (e _ (by simp)) (by rfl) (by decide +kernel),
    by decide +kernel, fits_of _ _ (e _ (by simp)) (by rfl) (by decide +kernel), by decide +kernel, fits_of _ _ (e _ (by simp)) (by rfl) (by decide +kernel)⟩

/-- `demo` with a handler and 8 declared registers. -/
def demoSmall : State := modBlock (modCtx demo 0 false fun c => { c with trapVec := 0x40000 }) 0 fun b => { b with regs := 8 }
/-- A register at the declared count, and the form with a latch. -/
theorem witness_LaneTraps : NamesRegs (.addI32 1 2 3 0 false) (1, 1) [(2, 1), (3, 1)] ∧
    NamesRegs (.vote 7 112) (124, 1) [(112, 1)] ∧ isLatchCode 112 = true ∧
    Issues demoSmall 1 (grp demoSmall) ∧ vectorOf demoSmall 1 ≠ 0 ∧ declared (blockOf demoSmall 1).regs (8, 1) = false ∧
    declared (blockOf demoSmall 1).regs (7, 1) = true :=
  ⟨.two .addI32 (by simp [intOps]) 1 2 3 0 false, .vote 7 112, by decide +kernel,
    ⟨by decide +kernel, by decide +kernel⟩, by decide +kernel, by decide +kernel, by decide +kernel⟩

theorem witness_UniformOperations : Issues demo 1 (grp demo) := issues_demo
/-- The last identifier, the last declared register, the last lane. -/
theorem witness_UniformMoves : Issues demo 1 (grp demo) ∧ (5 : BitVec 6).toNat ≤ 5 ∧ (63 : BitVec 6).toNat < (blockOf demo 1).regs ∧
    (31 : BitVec 6).toNat < 32 := ⟨issues_demo, by decide +kernel, by decide +kernel, by decide +kernel⟩
theorem witness_Branches : Issues demo 1 (grp demo) ∧ (∀ l < 32, (grp demo).active l = true → ((grp demo).kreg 0).getLsbD l = false) ∧
    (grp demo).sreg 0 = 0 := ⟨issues_demo, by decide +kernel, by decide +kernel⟩
/-- The last address that a jump reaches, and an odd one. -/
theorem witness_Jumps : JumpOk 0xFFFFFFFFFFFFFE ∧ ¬ JumpOk 1 ∧ ¬ JumpOk 0x100000000000000 :=
  ⟨by unfold JumpOk; decide, by unfold JumpOk; decide, by unfold JumpOk; decide⟩
theorem witness_UserTraps : Issues (demoPair .nop) 1 (grp (demoPair .nop)) ∧ vectorOf (demoPair .nop) 1 ≠ 0 := ⟨⟨by decide +kernel, by decide +kernel⟩, by decide +kernel⟩

end Sys2Proof.Machine
end

