-- ==== Sys2Proof/Tests/WitnessMemory.lean ====
section
/-! SUPPORT. States and operands that meet the hypotheses of the statements about pads, translation registers and global memory,
at the last offset and the last address that a check admits and at the first that it refuses. -/

set_option maxRecDepth 20000
set_option Elab.async false

namespace Sys2Proof.Machine

theorem found {α : Type} {o : Option α} (h : o.isSome = true) : ∃ x, o = some x := Option.isSome_iff_exists.1 h
/-- `demo` with its first and last lane active and `n` in them, in v`r`. -/
def demoLanes (r : Nat) (n : Word) : State := demoWith fun x => { x with em := 0x80000001, v := [(32 * r, n), (32 * r + 31, n)] }
/-- A state with a handler. -/
def handled (s : State) : State := modCtx s 0 false fun c => { c with trapVec := 0x40000 }
/-- The places of a pad element, none where it lies beyond. -/
def placesIn (s : State) (lv size : Nat) (e : Elem) : List Loc := (padPlaces s 0 0 e.lane lv e.off size).getD []

/-- The elements of a pad access of `size` bytes from the offset in v2. -/
abbrev padElems (s : State) (size : Nat) : List Elem := padRun (grp s) 2 1 size

theorem padFits_of (s : State) (size : Nat) (h : (∀ e ∈ padElems s size, e.va % size = 0) ∧
    ∀ e ∈ padElems s size, padPlaces s (grp s).block (grp s).index e.lane 1 e.off size = some (placesIn s 1 size e)) :
    PadFits s (grp s) 1 size (padElems s size) (placesIn s 1 size) := ⟨h.1, h.2⟩

/-- The last doubleword of the block's pad. -/
theorem padFits_last : PadFits (demoLanes 2 4088) (grp (demoLanes 2 4088)) 1 8 (padElems (demoLanes 2 4088) 8) (placesIn (demoLanes 2 4088) 1 8) :=
  padFits_of _ 8 (by decide +kernel)

/-- A state with an arrival of group 1 at the gate in the last 16 bytes of its block's pad that has still to be applied. -/
def kept (s : State) : State := { s with arrivals := [{ group := 1, block := 0, ref := 4080, c := 1, n := 0 }] }

theorem witness_PadLoads : let s := demoLanes 2 4088
    let ps := (padElems s 8).flatMap (placesIn s 1 8)
    (Legal.loadOk 5 4 2 0 = true ∧ Legal.loadOk 6 108 2 0 = true ∧ Issues s 1 (grp s) ∧ MemFits s 1 [(4, 2), (2, 1)]) ∧
    PadFits s (grp s) 1 8 (padElems s 8) (placesIn s 1 8) ∧ Readable s 1 ps ∧ (grp s).em ≠ 0 ∧
    (∃ s2 x2, settleEntries (endChain s 1) 1 ps = s2 ∧ kfind s2.groups 1 = some x2 ∧ behindOwn s2 1 ps [] = false) ∧
    (∃ s2 x2, settleEntries (endChain (kept s) 1) 1 ps = s2 ∧ kfind s2.groups 1 = some x2 ∧ behindOwn s2 1 ps [] = true) ∧
    ∀ e ∈ padElems s 8, ∀ p ∈ placesIn s 1 8 e, ∀ q, p.pa = some q → inEndpoints q = false ∧ mixed s q = false :=
  ⟨by unfold Issues MemFits; decide +kernel, padFits_last, by unfold Readable; decide +kernel, by decide +kernel, ⟨_, _, rfl, rfl, by decide +kernel⟩,
    ⟨_, _, rfl, rfl, by decide +kernel⟩, fun e he p hp q hq => by
    have : ∀ e ∈ padElems (demoLanes 2 4088) 8, ∀ p ∈ placesIn (demoLanes 2 4088) 1 8 e, p.pa = none := by decide +kernel
    rw [this e he p hp] at hq; cases hq⟩

/-- The same bytes are stored; the release form finds nothing outstanding. -/
theorem witness_PadStores : let s := demoLanes 2 4088
    let ps := (padElems s 8).flatMap (placesIn s 1 8)
    (Legal.storeOk 5 110 2 0 = true ∧ Issues s 1 (grp s) ∧ MemFits s 1 [(110, 2), (2, 1)]) ∧
    PadFits s (grp s) 1 8 (padElems s 8) (placesIn s 1 8) ∧ NothingSent s 1 ps ∧ arrivalAt s 1 ps = false ∧ (getCore s (coreOf s 1)).wcb = [] ∧
    ∃ s1 x1, performAll (endChain s 1) 1 = s1 ∧ outstanding s1 1 = false ∧ kfind s1.groups 1 = some x1 ∧ NothingSent s1 1 ps ∧
      arrivalAt s1 1 ps = false ∧
      (getCore s1 (coreOf s1 1)).wcb = [] :=
  ⟨by unfold Issues MemFits; decide +kernel, padFits_last, by unfold NothingSent; decide +kernel, by decide +kernel, by decide +kernel,
    _, _, rfl, by decide +kernel, rfl, by unfold NothingSent; decide +kernel, by decide +kernel⟩
/-- A store of the group on its way, which nothing performs while the die of its place answers nothing. -/
def unperformed (s : State) : State := { s with
  stores := [{ core := 0, part := 0, groups := [1], scope := 3, bytes := [], since := 0, pads := [(.mem Config.diePadBase, 1)] }]
  dies := [(0, { getDie s 0 with state := 3 })] }
/-- Behind the group's own arrival a store waits, as a release behind a store that a home holds. -/
theorem witness_PadStores_behind : let s := kept (demoLanes 2 4088)
    let u := unperformed (demoLanes 2 4088)
    let ps := (padElems s 8).flatMap (placesIn s 1 8)
    (∃ s1 x1, settleEntries (endChain s 1) 1 ps = s1 ∧ behindOwn s1 1 ps [] = true ∧ kfind s1.groups 1 = some x1) ∧
    ∃ s1 x1, performAll (endChain u 1) 1 = s1 ∧ kfind s1.groups 1 = some x1 ∧ outstanding s1 1 = true :=
  ⟨⟨_, _, rfl, by decide +kernel, rfl⟩, _, _, rfl, rfl, by decide +kernel⟩

/-- A register at the declared count; an odd address; the first offset beyond the pad; a poisoned byte. -/
def poisonedPad : State := modBlock (handled (demoLanes 2 4092)) 0 fun b => { b with padPoison := [63] }
theorem witness_PadTraps : (¬ MemFits demoSmall 1 [(8, 1), (2, 1)] ∧ vectorOf (handled demo) 1 ≠ 0 ∧
    Issues (handled demo) 1 (grp (handled demo)) ∧ MemFits (handled demo) 1 [(111, 1), (2, 1)]) ∧
    (let s := handled (demoLanes 2 4093);
      ((padElems s 4).filter fun e => e.va % 4 != 0) ≠ []) ∧
    (let s := handled (demoLanes 2 4096);
      ((padElems s 4).filter fun e => e.va % 4 != 0) = [] ∧
      ((padElems s 4).filter fun e => (padPlaces s 0 0 e.lane 1 e.off 4).isNone) ≠ []) ∧
    (let s := poisonedPad;
      vectorOf s 1 ≠ 0 ∧ ((padElems s 4).filter fun e => e.va % 4 != 0) = [] ∧
      ((padElems s 4).filter fun e => (padPlaces s 0 0 e.lane 1 e.off 4).isNone) = [] ∧
      ((padElems s 4).filter fun e => ((padPlaces s 0 0 e.lane 1 e.off 4).getD []).any fun l =>
        poisonSeen s 1 l || decide (locAnswer s l = .error)) ≠ []) :=
  ⟨by unfold Issues MemFits; decide +kernel, by decide +kernel⟩

/-- `demo` with the module page in x1, `cap` bytes of it, and an offset in v2 of the first and the last lane, which are active. -/
def demoX (v : DWord) (n : Word) : State :=
  modGroup (after (.xset 1 1) (demoS v 0)) 1 fun x => { x with em := 0x80000001, v := [(64, n), (95, n)] }
/-- The page through x1, with the last byte of its frame at `n` and a handler. -/
abbrev demoPage (n : Word) : State := handled (demoX 0x10000 n)

/-- The last virtual address and the first beyond; a step to the limit and one past it; the last field. -/
theorem witness_TranslationRegisters : let s := handled (demoS 0xFFFFFFFFFFFFFF 0x100000000000000)
    (Issues s 1 (grp s) ∧ ((grp s).sreg 1).toNat < 2 ^ 56 ∧ 2 ^ 56 ≤ ((grp s).sreg 2).toNat ∧ vectorOf s 1 ≠ 0 ∧ (2 : BitVec 6).toNat ≤ 2) ∧
    ∃ r, setX (endChain s 1) (spaceOf s 1) ((grp s).sreg 1) (2 ^ 32) = r ∧ ∃ x1, kfind r.1.groups 1 = some x1 :=
  ⟨by unfold Issues; decide +kernel, _, rfl, _, rfl⟩
theorem witness_TranslationRegisters_step : let s := demoPage 0
    let x := modGroup s 1 fun x => { x with s := [(1, 0xFFFF), (2, 0x10000), (3, 0xFFFFFFFFFFFFFF)] }
    (Issues x 1 (grp x) ∧ (0 ≤ ((grp x).sreg 1).toInt ∧ ((grp x).sreg 1).toInt < ((grp x).xreg 1).limit) ∧
      ¬ (0 ≤ ((grp x).sreg 2).toInt ∧ ((grp x).sreg 2).toInt < ((grp x).xreg 1).limit) ∧
      (((grp x).xreg 1).base + (grp x).sreg 2).toNat < 2 ^ 56 ∧ 2 ^ 56 ≤ (((grp x).xreg 1).base + (grp x).sreg 3).toNat ∧
      ¬ (0 ≤ ((grp x).sreg 3).toInt ∧ ((grp x).sreg 3).toInt < ((grp x).xreg 1).limit)) ∧
    ∃ r, setX (endChain x 1) (spaceOf x 1) (((grp x).xreg 1).base + (grp x).sreg 2) (2 ^ 32) = r ∧ ∃ x1, kfind r.1.groups 1 = some x1 :=
  ⟨by unfold Issues; decide +kernel, _, rfl, _, rfl⟩

/-- The elements of an access through x1, and what locating them leaves. -/
def elemsOf (s : State) (size : Nat) : List Elem := globalRun (grp s) 1 2 1 size
def locAll (s : State) (size : Nat) (acc : Access) : State × List (Elem × Except (Nat × Nat) Phys) :=
  locateAll (endChain s 1) 1 1 size acc (elemsOf s size)
def physOf (rs : List (Elem × Except (Nat × Nat) Phys)) : List (Elem × Phys) := rs.filterMap fun r => match r.2 with
  | .ok p => some (r.1, p)
  | .error _ => none

def located? (rs : List (Elem × Except (Nat × Nat) Phys)) : Bool := rs.all fun r => match r.2 with
  | .ok _ => true
  | .error _ => false
theorem eq_map_physOf (rs : List (Elem × Except (Nat × Nat) Phys)) (h : located? rs = true) :
    rs = (physOf rs).map fun e => (e.1, .ok e.2) := by
  induction rs with
  | nil => rfl
  | cons r rs ih =>
    obtain ⟨e, r⟩ := r
    cases r with
    | error k => simp [located?] at h
    | ok p =>
      have h2 : located? rs = true := by simpa [located?] using h
      simp only [physOf, List.filterMap_cons, List.map_cons, List.cons.injEq, true_and]
      exact ih h2
theorem located_of (s : State) (size : Nat) (acc : Access) (f : Phys → Bool)
    (h : (∀ e ∈ elemsOf s size, e.va % size = 0) ∧ (∀ e ∈ elemsOf s size, e.va + size ≤ 2 ^ 56) ∧ located? (locAll s size acc).2 = true ∧
      (∀ e ∈ physOf (locAll s size acc).2, f e.2 = true)) :
    Located s 1 1 size acc f (elemsOf s size) (locAll s size acc).1 (physOf (locAll s size acc).2) :=
  ⟨h.1, h.2.1, Prod.ext rfl (eq_map_physOf _ h.2.2.1), h.2.2.2⟩

theorem wcbOk_of_empty (s : State) (h : ∀ e ∈ s.cores, e.2.wcb = []) : WcbOk s := by
  have hc : ∀ c, (getCore s c).wcb = [] := by
    intro c
    unfold getCore kgetD
    generalize hk : kfind s.cores c = o
    cases o with
    | none => rfl
    | some v => exact h (c, v) (kfind_mem hk)
  exact fun c => by simp [hc c]

/-- A state in which nothing is stored, sent or buffered. -/
def still? (s : State) : Bool := s.cores.all (fun e => e.2.wcb.isEmpty) && s.stores.isEmpty && (entriesUnderWay s).isEmpty && s.arrivals.isEmpty
theorem of_still (s : State) (h : still? s = true) : (∀ e ∈ s.cores, e.2.wcb = []) ∧ s.stores = [] ∧ entriesUnderWay s = [] ∧ s.arrivals = [] := by
  simpa [still?, and_assoc] using h
theorem still_wcb (s : State) (h : still? s = true) : WcbOk s := wcbOk_of_empty s (of_still s h).1
theorem still_apart (s : State) (h : still? s = true) (ps qs : List Loc) (hd : ∀ p ∈ ps, p ∉ qs) : Apart s 1 ps qs := by
  obtain ⟨hw, hs, he, ha⟩ := of_still s h
  have hc : (getCore s (coreOf s 1)).wcb = [] := by
    unfold getCore kgetD
    generalize hk : kfind s.cores _ = o
    cases o with
    | none => rfl
    | some v => exact hw (_, v) (kfind_mem hk)
  refine ⟨?_, ⟨?_, ?_⟩, hd, ?_⟩
  · rw [NothingSent, he]; exact fun _ h => absurd h List.not_mem_nil
  · rw [hc]; exact fun _ h => absurd h List.not_mem_nil
  · rw [hs]; exact fun _ h => absurd h List.not_mem_nil
  · rw [arrivalAt, ha]; rfl

/-- A group that has stored and sent nothing. -/
def quiet? (s : State) : Prop := kfind s.groups 1 = some (grp s) ∧ (∀ l ∈ (getCore s (coreOf s 1)).wcb, l.of 1 = false) ∧
    (∀ u ∈ s.stores, 1 ∉ u.groups) ∧ ∀ e ∈ entriesUnderWay s, e.of 1 = false
/-- The leaf that the core of group 1 holds for an address. -/
def heldLeaf (s : State) (va : Nat) : TlbEntry := (tlbFind (getCore s (spaceOf s 1).core).tlb va).getD { base := 0, shift := 0, leaf := 0, pte := 0 }
/-- The last word of the page: a read goes through the register; a write finds it clean and walks; both its elements are located. -/
theorem witness_Translations : let s := demoPage 0xFFFC
    let e : Elem := { lane := 0, idx := 0, va := 0x1FFFC, off := 0xFFFC }
    let reg := (grp s).xreg 1
    quiet? s ∧ (e.off + 4 ≤ reg.limit ∧ reg.attr.testBit 7 = false ∧ permits .read (reg.attr / 8) = true) ∧
    (∃ r, locate s 1 1 4 .read e = r ∧ r.2 = .ok (registerPlace reg e.va e.off)) ∧
    (∃ q, LeafOf s (spaceOf s 1) 0x1FFFC (fun f => f.testBit 3 && !f.testBit 47) (.ok q) ∧ permits .write q.1 = true ∧
      ∃ r p, locate s 1 1 4 .write e = r ∧ r.2 = .ok p ∧ p.pa = reg.frame + e.off ∧ r.1.mem ≠ s.mem) ∧
    ∃ r, locateAll s 1 1 4 .write (elemsOf s 4) = r ∧ r.2.length = 2 := by
  refine ⟨by unfold quiet?; decide +kernel, by decide +kernel, ⟨_, rfl, by decide +kernel⟩,
    ⟨_, .held (heldLeaf (demoPage 0xFFFC) 0x1FFFC) (by decide +kernel) fun _ => ?_, by decide +kernel, _, _, rfl, rfl, by decide +kernel⟩, _, rfl, by decide +kernel⟩
  unfold Standing; decide +kernel
/-- Beyond the page no leaf is found; beyond 2^56 nothing is. -/
theorem witness_Translations_none : let s := demoPage 0x10000
    (∃ kind, LeafOf s (spaceOf s 1) 0x20000 (fun _ => false) (.error kind) ∧
      (locate s 1 1 4 .read { lane := 0, idx := 0, va := 0x20000, off := 0x10000 }).2 = .error (4, kind)) ∧
    (locate s 1 1 4 .read { lane := 0, idx := 0, va := 2 ^ 56, off := 0x10000 }).2 = .error (5, 0) :=
  ⟨⟨_, .walked (by decide +kernel) (by decide +kernel), by decide +kernel⟩, by decide +kernel⟩

/-- The places of the elements of an access through x1 that no landing serves, and of the others. -/
def plainOf (rs : List (Elem × Except (Nat × Nat) Phys)) (size : Nat) : List Loc := placesOf size ((physOf rs).filter fun e => !toLanding e.2)
def landedOf (rs : List (Elem × Except (Nat × Nat) Phys)) (size : Nat) : List Loc := placesOf size ((physOf rs).filter fun e => toLanding e.2)
/-- A page with operator algebra. -/
abbrev demoLand (n : Word) : State := modGroup (demoPage n) 1 fun x => x.setX 1 { x.xreg 1 with attr := 0x1E3 }

theorem demoLand_lands : landedOf (locAll (demoLand 0xFFFC) 4 .read).2 4 ≠ [] := by decide +kernel

/-- The last word of the page, of a plain one and of one that a landing serves. -/
theorem witness_GlobalLoads : ∀ s ∈ [demoPage 0xFFFC, demoLand 0xFFFC],
    let r := locAll s 4 .read
    let ps := (physOf r.2).map (·.2)
    let s1 := metPoison r.1 4 ps
    let s2 := reachLanding (settleEntries s1 1 (plainOf r.2 4)) 1 (landedOf r.2 4)
    (Issues s 1 (grp s) ∧ Legal.loadOk 4 111 2 0 = true ∧ MemFits s 1 [(111, 1), (2, 1)]) ∧
    Located s 1 1 4 .read (fun _ => true) (globalRun (grp s) 1 2 1 4) r.1 (physOf r.2) ∧ (kfind s1.groups 1).isSome = true ∧
    (Answered s1 1 ps ∧ Clean s1 1 4 ps ∧ (∀ e ∈ physOf r.2, isDrift e.2 = false)) ∧
    ((kfind s2.groups 1).isSome = true ∧ behindOwn s2 1 (plainOf r.2 4) (landedOf r.2 4) = false) ∧
    (globalRun (grp s) 1 2 1 4).length = 2 := by
  intro s hs
  have h : s = demoPage 0xFFFC ∨ s = demoLand 0xFFFC := by simpa using hs
  refine ⟨?_, located_of s 4 .read _ ?_, ?_, ?_, ?_, ?_⟩
  · rcases h with rfl | rfl <;> (unfold Issues MemFits; decide +kernel)
  · rcases h with rfl | rfl <;> decide +kernel
  · rcases h with rfl | rfl <;> decide +kernel
  · rcases h with rfl | rfl <;> (unfold Answered Clean; decide +kernel)
  · rcases h with rfl | rfl <;> decide +kernel
  · rcases h with rfl | rfl <;> decide +kernel

/-- `demoLand` behind a store of its group, made when the page was of die scope, that the group's die holds. -/
abbrev heldLand : State :=
  { demoLand 0xFFFC with
    stores := [{ core := 0, part := 0, groups := [1], scope := 2, bytes := [(0x1FFFC, 1)], since := 0 }]
    dies := [(0, { getDie (demoLand 0xFFFC) 0 with state := 3 })] }
/-- A load and a store of the page's last word wait there; a release behind any store that a home holds. -/
theorem witness_GlobalLoads_behind : let s := heldLand
    let r := locAll s 4 .read
    let w := locAll s 4 .write
    let s1 := metPoison r.1 4 ((physOf r.2).map (·.2))
    let s2 := reachLanding (settleEntries s1 1 (plainOf r.2 4)) 1 (landedOf r.2 4)
    let q := settleEntries (settleStores w.1 1 (landedOf w.2 4)) 1 (plainOf w.2 4)
    Issues s 1 (grp s) ∧ Answered s1 1 ((physOf r.2).map (·.2)) ∧ Clean s1 1 4 ((physOf r.2).map (·.2)) ∧
    ((kfind s2.groups 1).isSome = true ∧ behindOwn s2 1 (plainOf r.2 4) (landedOf r.2 4) = true) ∧
    ((kfind q.groups 1).isSome = true ∧ behindOwn q 1 (plainOf w.2 4) (landedOf w.2 4) = true) ∧
    outstanding (performAll w.1 1) 1 = true := by
  refine ⟨?_, ?_, ?_, ?_⟩
  · unfold Issues; decide +kernel
  · unfold Answered; decide +kernel
  · unfold Clean; decide +kernel
  · decide +kernel

theorem witness_GlobalStores : ∀ s ∈ [demoPage 0xFFFC, demoLand 0xFFFC],
    let r := locAll s 4 .write
    (Issues s 1 (grp s) ∧ Legal.storeOk 4 111 2 0 = true ∧ MemFits s 1 [(111, 1), (2, 1)]) ∧
    Located s 1 1 4 .write (fun _ => true) (globalRun (grp s) 1 2 1 4) r.1 (physOf r.2) ∧ (kfind r.1.groups 1).isSome = true ∧
    (∀ e ∈ physOf r.2, inEndpoints e.2.pa = false ∧ e.2.pa % 4 = 0) ∧
    (WcbOk r.1 ∧ Apart r.1 1 (plainOf r.2 4) (landedOf r.2 4)) ∧ (outstanding (performAll r.1 1) 1 = false ∧
    (kfind (performAll r.1 1).groups 1).isSome = true) ∧ WcbOk (performAll r.1 1) ∧
      Apart (performAll r.1 1) 1 (plainOf r.2 4) (landedOf r.2 4) := by
  intro s hs
  have h : s = demoPage 0xFFFC ∨ s = demoLand 0xFFFC := by simpa using hs
  have h1 : still? (locAll s 4 .write).1 = true := by rcases h with rfl | rfl <;> decide +kernel
  have h2 : still? (performAll (locAll s 4 .write).1 1) = true := by rcases h with rfl | rfl <;> decide +kernel
  have hd : ∀ p ∈ plainOf (locAll s 4 .write).2 4, p ∉ landedOf (locAll s 4 .write).2 4 := by rcases h with rfl | rfl <;> decide +kernel
  refine ⟨?_, located_of s 4 .write _ ?_, ?_, ?_, ⟨still_wcb _ h1, still_apart _ h1 _ _ hd⟩, ?_, still_wcb _ h2, still_apart _ h2 _ _ hd⟩
  · rcases h with rfl | rfl <;> (unfold Issues MemFits; decide +kernel)
  · rcases h with rfl | rfl <;> decide +kernel
  · rcases h with rfl | rfl <;> decide +kernel
  · rcases h with rfl | rfl <;> decide +kernel
  · rcases h with rfl | rfl <;> decide +kernel

/-- Aligned at the page's last doubleword, odd, and at the first address beyond. -/
theorem witness_UniformAccess : let s := handled (demoS 0x1FFF8 0xFFFFFFFFFFFFF8)
    let x := grp s
    Issues s 1 x ∧ vectorOf s 1 ≠ 0 ∧ (x.sreg 1 + x.sreg 3).toNat % 8 = 0 ∧ (x.sreg 2 + (1 : BitVec 6).signExtend 64 * 8).toNat % 8 = 0 ∧
    2 ^ 56 ≤ (x.sreg 2 + (1 : BitVec 6).signExtend 64 * 8).toNat ∧ (x.sreg 1 + x.sreg 3).toNat < 2 ^ 56 ∧ MemFits s 1 [(111, 1)] := by
  unfold Issues MemFits; decide +kernel
/-- A page of `demo` with poison in its last granule. -/
abbrev demoPoison : State := { handled (demoS 0x1FFF8 3) with poison := [0x1FFF8 / 64] }
theorem witness_UniformAccess_page : let s := handled (demoS 0x1FFF8 3)
    let r := translate (endChain s 1) (spaceOf s 1) 0x1FFF8 .read
    let q := translate (endChain s 1) (spaceOf s 1) 0x1FFF8 .write
    (∃ p, r = (r.1, .ok p) ∧ ∃ s1 x1, metPoison r.1 8 [p] = s1 ∧ kfind s1.groups 1 = some x1 ∧ Answered s1 1 [p] ∧ Clean s1 1 8 [p] ∧
      ∃ s2 x2, settleEntries s1 1 ((Loc.mem p.pa).run 8) = s2 ∧ kfind s2.groups 1 = some x2 ∧
        behindOwn s2 1 ((Loc.mem p.pa).run 8) [] = false) ∧
    (∃ x1, kfind q.1.groups 1 = some x1) ∧ (∃ p, q = (q.1, .ok p) ∧ inEndpoints p.pa = false ∧ p.pa % 8 = 0 ∧ toLanding p = false) ∧
    WcbOk q.1 ∧ Apart q.1 1 ((Loc.mem 0x1FFF8).run 8) [] ∧ ((grp s).sreg 2).toNat % 8 ≠ 0 ∧
    (let b := translate (endChain demoPoison 1) (spaceOf demoPoison 1) 0x1FFF8 .read;
      ∃ p, b = (b.1, .ok p) ∧ ∃ s1, metPoison b.1 8 [p] = s1 ∧ readsPoison s1 1 8 p = true) :=
  ⟨⟨_, rfl, _, _, rfl, rfl, by unfold Answered; decide +kernel, by unfold Clean; decide +kernel, _, _, rfl, rfl, by decide +kernel⟩, ⟨_, rfl⟩,
    ⟨_, rfl, by decide +kernel⟩, still_wcb _ (by decide +kernel), still_apart _ (by decide +kernel) _ _ (fun _ _ => List.not_mem_nil),
    by decide +kernel, _, rfl, _, rfl, by decide +kernel⟩
/-- A page that nothing maps and one that is read only: traps 4 and 5 of an sld and an sst. -/
theorem witness_UniformAccess_faults : let s := handled (demoS 0x20000 3)
    let r := translate (endChain s 1) (spaceOf s 1) 0x20000 .read 8
    let q := translate (endChain s 1) (spaceOf s 1) 0x20000 .write 8
    (∃ code, r = (r.1, .error (4, code))) ∧ (∃ code, q = (q.1, .error (4, code))) ∧ (kfind r.1.groups 1).isSome = true ∧
      (kfind q.1.groups 1).isSome = true ∧ vectorOf r.1 1 ≠ 0 ∧ vectorOf q.1 1 ≠ 0 := by
  refine ⟨⟨_, rfl⟩, ⟨_, rfl⟩, ?_⟩; decide +kernel

/-- A register at the declared count, an odd address, the first address beyond. -/
theorem witness_GlobalTraps : (¬ MemFits demoSmall 1 [(8, 1), (2, 1)] ∧ Issues (demoPage 0) 1 (grp (demoPage 0)) ∧ vectorOf (demoPage 0) 1 ≠ 0 ∧
    MemFits (demoPage 0) 1 [(111, 1), (2, 1)]) ∧ ((elemsOf (demoPage 2) 4).filter fun e => e.va % 4 != 0) ≠ [] ∧
    (let s := handled (demoX 0xFFFFFFFFFFFFF8 8);
      ((elemsOf s 4).filter fun e => e.va % 4 != 0) = [] ∧ ((elemsOf s 4).filter fun e => decide (2 ^ 56 < e.va + 4)) ≠ []) :=
  ⟨by unfold Issues MemFits; decide +kernel, by decide +kernel⟩
/-- An unmapped page, a page that is read only, and a granule with poison. -/
theorem witness_GlobalTraps_page :
    (let s := demoPage 0x10000;
      ((elemsOf s 4).filter fun e => e.va % 4 != 0) = [] ∧ ((elemsOf s 4).filter fun e => decide (2 ^ 56 < e.va + 4)) = [] ∧
      ((locAll s 4 .read).2.filter fun r => (failedWith r).map (·.1) == some 4) ≠ [] ∧ (kfind (locAll s 4 .read).1.groups 1).isSome = true) ∧
    (let s := modGroup (demoPage 0) 1 fun x => x.setX 1 { x.xreg 1 with attr := 3 };
      ((locAll s 4 .write).2.filter fun r => (failedWith r).map (·.1) == some 4) = [] ∧
      ((locAll s 4 .write).2.filter fun r => (failedWith r).isSome) ≠ []) ∧
    (let s := { demoPage 0 with poison := [0x10000 / 64] };
      let r := locAll s 4 .read;
      let s2 := metPoison r.1 4 ((physOf r.2).map (·.2));
      located? r.2 = true ∧ vectorOf s2 1 ≠ 0 ∧ (kfind s2.groups 1).isSome = true ∧
      ((physOf r.2).filter fun e => readsPoison s2 1 4 e.2) ≠ []) := by decide +kernel

end Sys2Proof.Machine
end

