-- ==== Sys2Proof/Tests/WitnessAlgebra.lean ====
section
/-! SUPPORT. States and operands that meet the hypotheses of the statements about algebra, drift, waits and gates. -/

set_option maxRecDepth 20000
set_option Elab.async false

namespace Sys2Proof.Machine

/-- The page of `demoPage` with the attributes `attr`, a float sum of 8 bytes in slot 0 and of 4 bytes in slot 15. -/
def demoAlg (attr : Nat) (n : Word) : State :=
  { modGroup (demoPage n) 1 (fun x => x.setX 1 { x.xreg 1 with attr := attr }) with
    algTables := [(0, { slots := [(0, 0x4050), (15, 0x4040)] })] }
/-- An algebra page, a drift page. -/
abbrev algebraPage : State := demoAlg 0x1E3 0xFFF8
abbrev driftPage : State := demoAlg 0x3E3 0xFFFC

/-- `heldLand` with an algebra slot. -/
abbrev heldAlg : State := { algebraPage with stores := heldLand.stores, dies := heldLand.dies }
/-- A slot that is not defined, a destination that does not fit, and the page's last doubleword; both orders. -/
theorem witness_AlgebraicOperations : let s := algebraPage
    let r := locAll s 8 .write
    let desc := (getTable s (ctxOf s 1).table).slot 0
    let ps := placesOf 8 (physOf r.2)
    (Issues s 1 (grp s) ∧ vectorOf s 1 ≠ 0 ∧ slotV ((getTable s (ctxOf s 1).table).slot 1) = false ∧ slotV desc = true ∧
      ¬ (111 % (slotSize desc / 4) = 0) ∧ MemFits s 1 [(110, 2), (2, 1)] ∧ (110 % 2 = 0 ∧ slotSize desc * 8 ≤ 64)) ∧
    Located s 1 1 (slotSize desc) .write (algPage true) (globalRun (grp s) 1 2 1 (slotSize desc)) r.1 (physOf r.2) ∧
    ((∀ e ∈ physOf r.2, isDrift e.2 = false) ∧ (kfind r.1.groups 1).isSome = true ∧ outstanding (performAll r.1 1) 1 = false ∧
      (kfind (reachLanding r.1 1 ps).groups 1).isSome = true ∧ (kfind (reachLanding (performAll r.1 1) 1 ps).groups 1).isSome = true ∧
      behindOwn (reachLanding r.1 1 ps) 1 [] ps = false ∧ physOf r.2 ≠ []) ∧
    (let h := { s with stores := heldAlg.stores, dies := heldAlg.dies };
      let q := locAll h 8 .write;
      let qs := placesOf 8 (physOf q.2);
      located? q.2 = true ∧ behindOwn (reachLanding q.1 1 qs) 1 [] qs = true ∧ (kfind (performAll q.1 1).groups 1).isSome = true ∧
      outstanding (performAll q.1 1) 1 = true) :=
  ⟨by unfold Issues MemFits; decide +kernel, located_of _ 8 .write _ (by decide +kernel), by decide +kernel⟩

/-- An odd image, an image of zeros, one with an undefined bit in slot 0, and the flush of the page's last word. -/
def imageAt (b : Byte) : State := handled (placeBytes (after (.xset 1 1) (demoS 0x10040 0)) 0x10041 [b])
def imagePages (s : State) : List Phys := match (locateImage (endChain s 1) 1 1 0x10040).2 with
  | .ok ps => ps
  | .error _ => []
theorem imageOk_zero (bs : List Byte) (hz : bs.all (· == 0) = true) : ImageOk bs := by
  have h : ∀ b ∈ bs, b = 0 := fun b hb => by simpa using (List.all_eq_true.1 hz) b hb
  have e : ∀ k : Nat, (bs[k]?).getD 0#8 = 0#8 := by
    intro k
    cases hk : bs[k]? with
    | none => rfl
    | some b => exact h b (List.mem_of_getElem? hk)
  have n : ∀ i j, imageNibble bs i j = 0 := by simp [imageNibble, e]
  have s : ∀ i, imageSlot bs i = 0 := by simp [imageSlot, e]
  have v : slotLegal (BitVec.ofNat 32 0) = true := by decide +kernel
  have d : slotDet (BitVec.ofNat 32 0) = false := by decide +kernel
  refine ⟨fun _ _ => s _ ▸ v, fun b hb => h b (List.mem_of_mem_drop hb), ?_, ?_, ?_, ?_, ?_, ?_⟩ <;> simp [n, s, bitAt, d]
/-- What locating the image of `imageAt` leaves. -/
abbrev imaged (b : Byte) : State := (locateImage (endChain (imageAt b) 1) 1 1 0x10040).1
theorem image_located : ∀ b ∈ [0, 0x80], let s := imageAt b
    let s1 := imaged b
    let ps := imagePages s
    Issues s 1 (grp s) ∧ ((grp s).xreg 1).base.toNat % 64 = 0 ∧ locateImage (endChain s 1) 1 1 0x10040 = (s1, .ok ps) ∧
      (kfind s1.groups 1).isSome = true ∧ Answered s1 1 ps ∧ Clean s1 1 64 ps ∧ NothingSent s1 1 (ps.flatMap fun p => (Loc.mem p.pa).run 64) ∧
      (∀ p ∈ ps, attrAE p.attr = false ∧ inEndpoints p.pa = false) ∧ vectorOf s1 1 ≠ 0 ∧ (∀ p ∈ ps, mixed s1 p.pa = false) ∧
      arrivalAt s1 1 (ps.flatMap fun p => (Loc.mem p.pa).run 64) = false := by
  intro b hb
  have h : b = 0 ∨ b = 0x80 := by simpa using hb
  refine ⟨?_, ?_, ?_, ?_, ?_⟩
  · rcases h with rfl | rfl <;> (unfold Issues; decide +kernel)
  · rcases h with rfl | rfl <;> decide +kernel
  · rcases h with rfl | rfl <;> rfl
  · rcases h with rfl | rfl <;> decide +kernel
  · rcases h with rfl | rfl <;> (unfold Answered Clean NothingSent; decide +kernel)

theorem witness_AlgebraTables : ((grp (handled (after (.xset 1 1) (demoS 0x10001 0)))).xreg 1).base.toNat % 64 ≠ 0 ∧
    vectorOf (handled (after (.xset 1 1) (demoS 0x10001 0))) 1 ≠ 0 ∧
    ImageOk (imageBytes (imaged 0) 1 (imagePages (imageAt 0))) ∧ ¬ ImageOk (imageBytes (imaged 0x80) 1 (imagePages (imageAt 0x80))) :=
  ⟨by decide +kernel, by decide +kernel, imageOk_zero _ (by decide +kernel), fun h => absurd (h.slots 0 (by decide +kernel)) (by decide +kernel)⟩

theorem witness_AlgebraTables_flush : let s := demoAlg 0x1E3 0xFFFC
    let r := locAll s 4 .write
    (Issues s 1 (grp s) ∧ Legal.offsetOk 2 = true ∧ MemFits s 1 [(2, 1)] ∧ MemFits s 1 [(111, 1)] ∧ (grp s).em ≠ 0) ∧
    Located s 1 1 4 .write (algPage false) (globalRun (grp s) 1 2 1 4) r.1 (physOf r.2) ∧
    (kfind (reachLanding r.1 1 ((flushLines (physOf r.2)).flatMap fun l => (Loc.mem (128 * l.1)).run 128)).groups 1).isSome = true ∧
    flushLines (physOf r.2) ≠ [] :=
  ⟨by unfold Issues MemFits; decide +kernel, located_of _ 4 .write _ (by decide +kernel), by decide +kernel⟩

/-- `driftPage` with `b` in v3. -/
def driftBound (b : Word) : State := modGroup driftPage 1 fun x => { x with v := x.v ++ [(96, b), (127, b)] }
/-- The largest finite bound, −0, and the infinity that is none. -/
theorem witness_DriftInstructions_dset : ∀ b ∈ [(0x7F7FFFFF : Word), 0x80000000, 0x7F800000], let s := driftBound b
    let r := locAll s 4 .write
    (Issues s 1 (grp s) ∧ MemFits s 1 [(3, 1), (2, 1)]) ∧
    Located s 1 1 4 .write dsetPage (globalRun (grp s) 1 2 1 4) r.1 (physOf r.2) ∧
    ((kfind r.1.groups 1).isSome = true ∧ vectorOf r.1 1 ≠ 0 ∧
      (kfind (reachLanding r.1 1 (placesOf 4 (lastOfRegions (physOf r.2)))).groups 1).isSome = true ∧
      ((b = 0x7F7FFFFF ∨ b = 0x80000000) → ∀ e ∈ physOf r.2, boundFits ((grp r.1).vreg 3 e.1.lane)) ∧
      (b = 0x7F800000 → ∃ e ∈ physOf r.2, ¬ boundFits ((grp r.1).vreg 3 e.1.lane))) := by
  intro b hb
  have h : b = 0x7F7FFFFF ∨ b = 0x80000000 ∨ b = 0x7F800000 := by simpa using hb
  refine ⟨?_, located_of _ 4 .write _ ?_, ?_⟩
  · rcases h with rfl | rfl | rfl <;> (unfold Issues MemFits; decide +kernel)
  · rcases h with rfl | rfl | rfl <;> decide +kernel
  · rcases h with rfl | rfl | rfl <;> (unfold boundFits; decide +kernel)

/-- `driftPage` where the core's cache holds a share and an add of the page's last region. -/
def driftHeld : State := { driftPage with holders := [{
  cache := .l1 0, region := 0x1FFFC / 512, state := .holding 1 { desc := 0x4040, elems := [(0, (1, 0))] } }] }
/-- The pages of a flush. -/
def flushed (s : State) : State × List Phys :=
  locateMappedAll (endChain s 1) 1 1 ((globalRun (grp s) 1 2 1 4).filter fun e => decide (e.va % 4 = 0 ∧ e.va < 2 ^ 56))
theorem witness_DriftInstructions_dflush : let r := flushed driftHeld
    Issues driftHeld 1 (grp driftHeld) ∧ MemFits driftHeld 1 [(2, 1)] ∧ (kfind r.1.groups 1).isSome = true ∧
    (∃ p ∈ r.2, isDrift p = true ∧ regionOf p.pa = 0x1FFFC / 512) ∧ (r.1.holders.all fun h => h.state.waiting.isEmpty) = true ∧ r.1.sent = [] ∧
    (getCore r.1 (coreOf r.1 1)).wcb = [] ∧ (findHolder r.1 (.l1 (coreOf r.1 1)) (0x1FFFC / 512)).isSome = true := by
  unfold Issues MemFits; decide +kernel

/-- The region of the page's last word, which no cache holds; a group's own tolerance. -/
theorem witness_DriftInstructions : let s := driftPage
    let r := locAll s 4 .read
    (Issues s 1 (grp s) ∧ MemFits s 1 [(108, 4), (2, 1)] ∧ MemFits s 1 [(111, 1)] ∧ LowestLane (grp s) 0 ∧
      LowestLane (grp (modGroup s 1 fun x => { x with em := 0x80000000 })) 31) ∧
    Located s 1 1 4 .read (fun _ => true) (globalRun (grp s) 1 2 1 4) r.1 (physOf r.2) ∧
    (let s1 := metPoison r.1 4 ((physOf r.2).map (·.2));
      Answered s1 1 ((physOf r.2).map (·.2)) ∧ Clean s1 1 4 ((physOf r.2).map (·.2))) ∧
    (let s1 := metPoison r.1 4 ((physOf r.2).map (·.2));
      let s2 := reachLanding s1 1 (placesOf 4 (physOf r.2));
      (kfind s1.groups 1).isSome = true ∧ (∀ e ∈ physOf r.2, isDrift e.2 = true ∧ inEndpoints e.2.pa = false) ∧
      (kfind s2.groups 1).isSome = true ∧ behindOwn s2 1 [] (placesOf 4 (physOf r.2)) = false ∧
      s2.holders = [] ∧ (physOf r.2).length = 2) :=
  ⟨by unfold Issues MemFits LowestLane; decide +kernel, located_of _ 4 .read _ (by decide +kernel), by unfold Answered Clean; decide +kernel, by decide +kernel⟩

/-! ## Waits -/

/-- An operation of class `c` of group 1. -/
def opOf (c : Nat) (o : Op) : Op := { o with cls := c, group := 1, block := 0, part := 0 }
def fabOp : Op := { cls := 3, group := 1, block := 0, part := 0, issued := 0, body := .fabric { cmd := 1 } }
/-- Operations of class x, the oldest complete with an error; a batch of class m; both trap enables. -/
def waiting : State := { modCtx (demoS 2 0) 0 false fun c => { c with trapVec := 0x40000, trapEn := 1024 } with
  ops := [(5, { fabOp with done := some .err, err := true }), (6, fabOp), (7, { fabOp with cls := 1, batch := 1, done := some .ok }),
    (8, { fabOp with cls := 1 })] }
theorem witness_Waits : Issues waiting 1 (grp waiting) ∧ ocOf waiting 1 3 = 1 ∧ anyFailed (coveredOps waiting 1 3 1) = true ∧
    bitAt (ctxOf waiting 1).trapEn 10 = true ∧ vectorOf waiting 1 ≠ 0 ∧ anyFailed (coveredOps waiting 1 0 0) = false ∧ 0 < ocOf waiting 1 3 ∧
    (∀ e ∈ (modGroup waiting 1 fun x => { x with lastBatch := 1 }).ops, e.2.group = 1 ∧ e.2.cls = 1 ∧ 1 ≤ e.2.batch ∧ e.2.batch ≤ 1 →
      e.2.done ≠ none) ∧
    (let s := { waiting with ops := [(8, { fabOp with cls := 1, batch := 1 })] };
      ∃ e ∈ s.ops, (e.2.group = 1 ∧ e.2.cls = 1 ∧ 1 ≤ e.2.batch ∧ e.2.batch ≤ 1) ∧ e.2.done = none) := by
  unfold Issues; decide +kernel
/-- At the last cycle, before a deadline, at it with a promise on time and late, and a fence with and without an entry on its way. -/
theorem witness_Waits_time : let s := waiting
    let p := modGroup { s with cycle := 2 } 1 fun x => { x with promise := some { op := 6, cycle := 2 } }
    s.cycle < 2 ^ 64 ∧ s.cycle < min (s.cycle + 16 * 63) (2 ^ 64 - 1) ∧ s.cycle < ((grp s).sreg 1).toNat ∧
    ((grp p).sreg 1).toNat ≤ p.cycle ∧ (grp p).promise = some { op := 6, cycle := 2 } ∧ landed p 6 = false ∧
    (landed p 5 = true) ∧ (grp s).promise = none ∧ vectorOf p 1 ≠ 0 ∧
    (kfind (startFence (endChain s 1) 1).groups 1).isSome = true ∧ outstanding (startFence (endChain s 1) 1) 1 = false ∧
    (kfind (startFence (endChain (unperformed s) 1) 1).groups 1).isSome = true ∧
    outstanding (startFence (endChain (unperformed s) 1) 1) 1 = true := by
  decide +kernel

/-! ## Gates -/

/-- A gate in the last record of the block's pad, whose two participants are on their way, of phase 0, that takes exit arrivals; s1
names it, s2 is an arrival of both. -/
def gated : State :=
  let s := modCtx (demoS 0x00000FF0 0x2) 0 false fun c => { c with trapVec := 0x40000, trapEn := 256 }
  let p := (padPlaces s 0 0 0 1 0xFF0 16).getD []
  writeGate s p { (readGate s p) with expArr := 2, pendArr := 2, exitcnt := true, gen := 255 }
def gatePlace (s : State) (r : DWord) : List Loc := (padPlaces s 0 0 0 (refLvl r) (refOff r) 16).getD []
theorem gateAt (s : State) (x : Group) (r : DWord) (h : (refLvl r ≠ 4 ∧ fld r 34 30 = 0) ∧ refOff r % 16 = 0 ∧
    padPlaces s x.block 0 0 (refLvl r) (refOff r) 16 = some (gatePlace s r) ∧ (∀ l ∈ gatePlace s r, isPoisoned s l = false) ∧
    ∀ l ∈ gatePlace s r, locAnswer s l ≠ .error) : GateAt s 1 x r (gatePlace s r) := ⟨h.1, h.2.1, h.2.2.1, h.2.2.2.1, h.2.2.2.2⟩
/-- What settling the gate of `gated` leaves. -/
abbrev gatedBehind : State := settleGate (endChain gated 1) 1 0xFF0
theorem gateAt_gated : (grp gated).sreg 1 = 0xFF0 ∧ GateAt gatedBehind 1 (grp gatedBehind) 0xFF0 (gatePlace gatedBehind 0xFF0) :=
  ⟨by decide +kernel, gateAt gatedBehind (grp gatedBehind) 0xFF0 (by decide +kernel)⟩
theorem witness_Gates : let s := gated
    let r := (grp s).sreg 1
    let s0 := settleGate (endChain s 1) 1 r
    let x := grp s0
    let p := gatePlace s0 r
    let s1 := performAll (widenPad s0 1 (refLvl r)) 1
    Issues s 1 (grp s) ∧ (kfind s0.groups 1 = some x ∧ x.s = (grp s).s) ∧ gateBusy s0 1 p = false ∧
    (arrivalWaits s1 1 p = false ∧ (kfind s1.groups 1).isSome = true ∧ ∀ l ∈ p, ∀ b ∈ [1, 0], l.inBlock b = true → (kfind s1.blocks b).isSome = true) ∧
    ((readGate s0 p).phase = (x.sreg 2).getLsbD 0 ∧ (readGate s0 p).phase ≠ (1 : DWord).getLsbD 0 ∧
      (readGate s0 p).phase = (x.sreg (2 * 0)).getLsbD 0 ∧ min (s.cycle + (x.sreg 1).toNat) (2 ^ 64 - 1) > s.cycle ∧
      min (s.cycle + (x.sreg 3).toNat) (2 ^ 64 - 1) ≤ s.cycle) ∧
    (bitAt (ctxOf s1 1).trapEn 8 = true ∧ vectorOf s1 1 ≠ 0 ∧ (x.sreg 2).getLsbD 2 = false ∧ (4 : DWord).getLsbD 2 = true ∧
      (readGate s1 p).pendArr = 2 ∧ (readGate s0 p).pendBytes < 2 ^ 32) := by unfold Issues; decide +kernel
/-- An earlier access of the group that is not performed yet, and an arrival of it at the gate. -/
theorem witness_Gates_waits : let s := { unperformed gated with arrivals := (kept gated).arrivals }
    let r := (grp s).sreg 1
    let s0 := settleGate (endChain s 1) 1 r
    let s1 := performAll (widenPad s0 1 (refLvl r)) 1
    Issues s 1 (grp s) ∧ gateBusy s0 1 (gatePlace s0 r) = true ∧ (kfind s1.groups 1).isSome = true ∧
      arrivalWaits s1 1 (gatePlace s0 r) = true := by unfold Issues; decide +kernel
/-- A reserved bit, an odd record, the first record beyond the pad, a poisoned one. -/
theorem witness_Gates_traps : let s := gated
    ¬ (refLvl 0x400000000 ≠ 4 ∧ fld (0x400000000 : DWord) 34 30 = 0) ∧ (refLvl 0x8 ≠ 4 ∧ fld (0x8 : DWord) 34 30 = 0) ∧ refOff 0x8 % 16 ≠ 0 ∧
    padPlaces s 0 0 0 (refLvl 0x1000) (refOff 0x1000) 16 = none ∧ vectorOf s 1 ≠ 0 ∧
    (let q := modBlock s 0 fun b => { b with padPoison := [63] };
      ∃ l ∈ gatePlace q 0xFF0, isPoisoned q l = true) := by decide +kernel

/-- No enlisted gate, in user and in supervisor mode; one gate enlisted with its generation. -/
def enlisted : State := modGroup gated 1 fun x => { x with enlist := [(0, (0xFF0, 255))] }
theorem gateAt_enlisted : let s1 := performAll (endChain enlisted 1) 1
    GateAt s1 1 (grp s1) 0xFF0 (gatePlace s1 0xFF0) :=
  gateAt (performAll (endChain enlisted 1) 1) (grp (performAll (endChain enlisted 1) 1)) 0xFF0 (by decide +kernel)
theorem witness_CriticalAndExit : let s := enlisted
    let s1 := performAll (endChain s 1) 1
    (Issues demo 1 (grp demo) ∧ demo.openPackets = [] ∧ (grp demo).enlist = [] ∧ (grp demo).sup = false ∧
      (getBlock demo (grp demo).block).ending = none ∧ (kfind demo.blocks (grp demo).block).isSome = true ∧
      (grp (demoWith fun x => { x with sup := true })).sup = true) ∧
    (Issues s 1 (grp s) ∧ (grp s).enlist = [(0, (0xFF0, 255))] ∧ arrivalWaits s1 1 (gatePlace s1 0xFF0) = false ∧ kfind s1.groups 1 = some (grp s1) ∧
      (grp s1).block = (grp s).block ∧ (grp s1).sup = false ∧ s1.openPackets = []) ∧
    (readGate s1 (gatePlace s1 0xFF0)).exitcnt = true ∧ (readGate s1 (gatePlace s1 0xFF0)).gen = (255 : Byte).toNat := by
  unfold Issues; decide +kernel

end Sys2Proof.Machine
end

