-- ==== Sys2Proof/Tests/WitnessEngines.lean ====
section
/-! SUPPORT. States and operands that meet the hypotheses of the statements about the engines' commands. -/

set_option maxRecDepth 20000
set_option Elab.async false

namespace Sys2Proof.Machine

/-- The state behind every earlier access of group 1. -/
abbrev behind (s : State) : State := performAll (endChain s 1) 1
theorem released (s : State) (h : outstanding (behind s) 1 = false ∧ (kfind (behind s).groups 1).isSome = true) :
    ∃ s2 x2, Released (endChain s 1) 1 s2 x2 := by
  obtain ⟨x, hx⟩ := found h.2
  exact ⟨_, x, rfl, h.1, hx⟩
/-- A state with 63 operations of class `c` of group 1. -/
def full (c : Nat) (s : State) : State := { s with ops := (List.range 63).map fun k => (k + 9, { fabOp with cls := c }) }

/-- Whether a check passes, and whether it raises trap `n`. -/
def passes {α : Type} : Checked α → Bool
  | .ok _ => true
  | _ => false
def trapsAs {α : Type} (n : Nat) : Checked α → Bool
  | .trap k _ _ => k == n
  | _ => false

/-! ## Ferry -/

/-- Records for a copy, a fill and a gather in the block's pad, named by s1, s3 and s4; s5 names none; a gate in s2. -/
def ferried : State :=
  let s := demoWith fun x => { x with
    s := [(1, 0x0100000000000000), (2, 0xFF0), (3, 0x0100000000000040), (4, 0x0100000000000080), (5, 0x0400000000000000)]
    v := [(160, 1)] }
  modBlock (handled s) 0 fun b => { b with pad := [
    (2, 1), (9, 1), (12, 0x11), (13, 1), (16, 0x10), (28, 0x10),
    (73, 1), (76, 0x11), (77, 1), (80, 0x10), (92, 0x10),
    (130, 1), (137, 1), (140, 0x21), (141, 1), (144, 0x10), (146, 1), (156, 0x10), (160, 1)] }
/-- A ferry command of the kind and the record `c` with the gate that s`b` names, checked behind every earlier access. -/
def ferryAt (s : State) (c : FerryKind × Nat) (b : Nat) : State × Checked FerryOp := ferryCheck (behind s) 1 c.1 c.2 b 4
/-- Each command with its record, without a gate and with one, where it may issue, where the class is full and where an access is
outstanding; with the reference that names no place; a register at the declared count, and em of zero. -/
theorem witness_FerryIssue : let idle := demoWith fun x => { x with em := 0 }
    Issues ferried 1 (grp ferried) ∧ (grp ferried).em ≠ 0 ∧ vectorOf ferried 1 ≠ 0 ∧
    (Issues idle 1 (grp idle) ∧ (grp idle).em = 0 ∧ (111 : BitVec 7).toNat < (blockOf idle 1).regs ∧
      (blockOf idle 1).regs ≤ (112 : BitVec 7).toNat ∧ vectorOf (handled idle) 1 ≠ 0) ∧
    (∀ c ∈ [(FerryKind.copy, 1), (.mcast, 1), (.fill, 3), (.gather, 4)], ∀ b ∈ [0, 2],
      (passes (ferryAt ferried c b).2 = true ∧ (kfind (ferryAt ferried c b).1.groups 1).isSome = true ∧ MayIssue (ferryAt ferried c b).1 1 0) ∧
      (passes (ferryAt (full 0 ferried) c b).2 = true ∧ ¬ MayIssue (ferryAt (full 0 ferried) c b).1 1 0) ∧
      passes (ferryAt (unperformed ferried) c b).2 = true ∧ ¬ MayIssue (ferryAt (unperformed ferried) c b).1 1 0) ∧
    (∀ k ∈ [FerryKind.copy, .mcast, .fill, .gather], trapsAs 3 (ferryAt ferried (k, 5) 0).2 = true ∧
      (kfind (ferryAt ferried (k, 5) 0).1.groups 1).isSome = true ∧ vectorOf (ferryAt ferried (k, 5) 0).1 1 ≠ 0) ∧
    ferryForms.map (fun c => c.2.1) = [.copy, .copy, .mcast, .gather, .fill] := by unfold Issues MayIssue; decide +kernel
/-- A copy that takes an mx.zero along. -/
def capturing : State := placeBytes ferried 0x10004 (leBytes 4 (encode (.mxZero 0)))
def successorOf (s : State) : State × Fetched := fetchAt (behind s) 1 ((getGroup (behind s) 1).pc + 4).toNat
theorem witness_FerryIssue_capture : let s2 := (successorOf capturing).1
    let r := ferryCheck s2 1 .copy 1 0 4
    let q := mxChecked r.1 1 2 0 0
    ((grp capturing).em ≠ 0 ∧ mxFields (.mxZero 0) = some (2, 0, 0) ∧ (2 : Nat) ≠ 5 ∧
      (successorOf capturing).2 = .instr (.mxZero 0)) ∧
    passes r.2 = true ∧ passes q.2 = true ∧ (kfind q.1.groups 1).isSome = true ∧ MayIssue q.1 1 0 ∧ ocOf q.1 1 1 < 63 := by
  unfold MayIssue; decide +kernel

/-! ## Matrix engine -/

/-- s1 names a gate, s2 to s4 are control words; a block with one tile. -/
def matrixed : State := modGroup gated 1 fun x => { x with s := [(1, 0xFF0), (2, 0x20), (3, 0x10000), (4, 0x100), (5, 0x8000000000000000)] }
/-- Each command with the control word that suits it, where it may issue and where it may not; the first tile that is not there; a bit that
no command uses. -/
theorem witness_MatrixIssue : Issues matrixed 1 (grp matrixed) ∧ (kfind (behind matrixed).groups 1).isSome = true ∧
    vectorOf (behind matrixed) 1 ≠ 0 ∧ MayIssue (behind matrixed) 1 1 ∧ ¬ MayIssue (behind (full 1 matrixed)) 1 1 ∧
    ¬ MayIssue (behind (unperformed matrixed)) 1 1 ∧
    (∀ c ∈ [(0, 0, 2), (1, 0, 2), (2, 0, 0), (3, 0, 0), (4, 0, 0), (5, 0, 0), (6, 0, 3), (6, 1, 3)],
      ∀ s ∈ [matrixed, full 1 matrixed, unperformed matrixed], (mxCheck (behind s) 1 c.1 c.2.1 c.2.2).toOption.any
        (fun m => gateHeld (behind s) (grp (behind s)).block m.gate == false) = true) ∧
    ((getBlock (behind matrixed) 0).tiles ≤ fld ((grp matrixed).sreg 4) 8 4 ∧
      (∀ c < 7, (grp matrixed).sreg 5 &&& ~~~(mxUsed c ((grp matrixed).sreg 5)) ≠ 0) ∧
      fld ((grp matrixed).sreg 5) 8 4 < (getBlock (behind matrixed) 0).tiles) := by unfold Issues MayIssue; decide +kernel

/-! ## Amplitude engine -/

/-- The record of a state of two qubits on die 0 of this module in the page, named by s1; s2 is an exchange of its positions, s3 has a
reserved bit. -/
def unbound : State :=
  let s := handled (placeBytes (placeBytes demo 0x10040 [2, 2]) 0x10091 [1])
  modGroup s 1 fun x => { x with s := [(1, 0x10040), (2, 0x40), (3, 0x4)] }
def rawState : List DWord := ((List.range 16).map fun i => if i = 0 then 0x202 else if i = 10 then 0x100 else 0) ++ [0, 0]
/-- Handle 0 bound to it. -/
def bound : State := modGroup unbound 1 fun x => { x with handles := [(0, { record := 0x10040, raw := rawState, map := [0, 1] })] }
def ampBody : AmpOp := {
  cmd := 1, handle := 0, record := 0x10040, count := 1, raw := [], before := [], after := [], swaps := [], targets := [], controls := 0
  arg := 0, keep := false }
def ampOnHandle : Op := { cls := 2, group := 1, block := 0, part := 0, issued := 0, body := .amp ampBody }
/-- A reserved bit, a handle with an operation on its way, no record, and the record; each command on the handle, where it may issue and
where it may not, and on none. -/
theorem witness_AmplitudeIssue : let r := readState (endChain unbound 1) 1 0x10040
    (Issues unbound 1 (grp unbound) ∧ Issues bound 1 (grp bound) ∧ vectorOf bound 1 ≠ 0 ∧
      fld ((grp bound).sreg 3) 2 62 ≠ 0 ∧ fld ((grp bound).sreg 0) 2 62 = 0 ∧ handleBusy bound 1 0 = false ∧ (grp bound).sreg 0 = 0 ∧
      (grp bound).sreg 1 ≠ 0 ∧ handleBusy { bound with ops := [(3, ampOnHandle)] } 1 0 = true) ∧
    (passes r.2 = true ∧ (kfind r.1.groups 1).isSome = true) ∧
    ((kfind (behind bound).groups 1).isSome = true ∧ vectorOf (behind unbound) 1 ≠ 0 ∧
      kfind (grp (behind bound)).handles (fld ((grp bound).sreg 0) 26 2) ≠ none ∧ kfind (grp (behind unbound)).handles 0 = none) ∧
    (∀ c ∈ [(1, 0), (2, 0), (3, 2), (4, 0), (5, 0)], ∀ s ∈ [bound, full 2 bound, unperformed bound],
      passes (ampCheck (behind s) 1 c.1 c.2 0) = true) ∧
    MayIssue (behind bound) 1 2 ∧ ¬ MayIssue (behind (full 2 bound)) 1 2 ∧ ¬ MayIssue (behind (unperformed bound)) 1 2 ∧
    operandLegal 6 1 0 { record := 0x10040, raw := rawState, map := [0, 1] } = true := by unfold Issues MayIssue; decide +kernel

/-! ## Fabric -/

/-- s1 names offset 0x10000 of this module, s2 slot 0 and s3 slot 15, s4 an odd address, s5 slot 1, which is none. -/
def fabricked : State := modGroup algebraPage 1 fun x => { x with s := [(1, 0x10000), (3, 15), (4, 0x10001), (5, 1)] }
theorem witness_FabricIssue : let s := fabricked
    let x := grp s
    ((∃ s2 x2, Released (endChain s 1) 1 s2 x2) ∧ Issues s 1 x) ∧ vectorOf s 1 ≠ 0 ∧ x.em ≠ 0 ∧
    (grp (demoWith fun x => { x with em := 0 })).em = 0 ∧ ocOf (behind s) 1 3 < 63 ∧
    route (behind s) (fld (x.sreg 1) 46 18) = .open_ ∧ 110 + 8 / 4 ≤ (blockOf s 1).regs ∧ 111 + 4 / 4 ≤ (blockOf s 1).regs ∧
    ((x.sreg 1).toNat % 8 = 0 ∧ (x.sreg 4).toNat % 4 ≠ 0 ∧ (x.sreg 4).toNat % 8 ≠ 0) ∧
    (∀ r ∈ [2, 3], (x.sreg r).toNat ≤ 15 ∧ slotV ((getTable s (ctxOf s 1).table).slot (x.sreg r).toNat) = true) ∧
    (slotV ((getTable s (ctxOf s 1).table).slot (x.sreg 5).toNat) = false ∧
      slotSize ((getTable s (ctxOf s 1).table).slot 0) = 8 ∧ slotSize ((getTable s (ctxOf s 1).table).slot 15) = 4) ∧
    110 % 2 = 0 ∧ 110 + 1 < (blockOf s 1).regs :=
  ⟨⟨released _ (by decide +kernel), by unfold Issues; decide +kernel⟩, by decide +kernel⟩

/-- `demo` with words in v0 to v3 of its lanes, which coll.put sends, and a control word, a target and a destination. -/
def collected (v1 v2 : Word) (s : KMap DWord) : State :=
  handled (demoWith fun x => { x with em := 1, v := [(32, v1), (64, v2)], s := s })
theorem witness_Collectives : let s := collected 0 0x10000 []
    let idle := modGroup s 1 fun x => { x with em := 0 }
    let dev := fun (x : Group) => fld (x.vreg 1 0) 0 18
    ((∃ s2 x2, Released (endChain s 1) 1 s2 x2) ∧ Issues s 1 (grp s)) ∧ vectorOf s 1 ≠ 0 ∧ 4 * 27 + 4 ≤ (blockOf s 1).regs ∧
    (grp s).em ≠ 0 ∧ (grp idle).em = 0 ∧
    ((grp (collected 0x40000 0x10000 [])).active 0 = true ∧ fld ((grp (collected 0x40000 0x10000 [])).vreg 1 0) 18 14 ≠ 0 ∧
      fld ((grp s).vreg 1 0) 18 14 = 0) ∧
    (((grp (collected 0 0x10001 [])).vreg 2 0).toNat % 4 ≠ 0 ∧ ((grp s).vreg 2 0).toNat % 4 = 0) ∧ ocOf (behind s) 1 3 < 63 ∧
    route (behind s) (dev (grp s)) = .open_ :=
  ⟨⟨released _ (by decide +kernel), by unfold Issues; decide +kernel⟩, by decide +kernel⟩
/-- A target of zeros and one with its reserved bit; the block's one tile and the first that it does not have; a control word of zeros, one
with a reserved bit and one whose first stage lies behind its last; the last destination, an odd one and the first beyond. -/
theorem witness_Collectives_acc : let s := collected 0 0 [(2, 0x100000000), (4, 1), (5, 0x800), (6, 0x40000), (7, 0xFFFFFFFFFFFF00), (8, 0x80), (9, 0x100000000000000)]
    let x := grp s
    ((∃ s2 x2, Released (endChain s 1) 1 s2 x2) ∧ Issues s 1 x) ∧ vectorOf s 1 ≠ 0 ∧ ocOf (behind s) 1 3 < 63 ∧
    ((x.sreg 0).getLsbD 32 = false ∧ (x.sreg 2).getLsbD 32 = true ∧ x.sreg 4 &&& ~~~0xFFFF000F = 0 ∧
      (blockOf s 1).tiles ≤ fld (x.sreg 4) 0 4 ∧ fld (x.sreg 0) 0 4 < (blockOf s 1).tiles) ∧
    ((x.sreg 0).getLsbD 11 = false ∧ (x.sreg 0).getLsbD 7 = false ∧ fld (x.sreg 0) 18 6 ≤ fld (x.sreg 0) 12 6) ∧
    ((x.sreg 5).getLsbD 11 = true ∧ ¬ fld (x.sreg 6) 18 6 ≤ fld (x.sreg 6) 12 6 ∧ (x.sreg 7).toNat % 256 = 0 ∧ (x.sreg 7).toNat < 2 ^ 56 ∧ (x.sreg 8).toNat % 256 ≠ 0 ∧
      (x.sreg 9).toNat % 256 = 0 ∧ 2 ^ 56 ≤ (x.sreg 9).toNat) ∧ 111 < (blockOf s 1).regs :=
  ⟨⟨released _ (by decide +kernel), by unfold Issues; decide +kernel⟩, by decide +kernel⟩

end Sys2Proof.Machine
end

