-- ==== Sys2Proof/Tests/WitnessPrivileged.lean ====
section
/-! SUPPORT. States and operands that meet the hypotheses of the statements about privileged instructions. -/

set_option maxRecDepth 20000
set_option Elab.async false

namespace Sys2Proof.Machine

/-- `demo` with a handler in supervisor mode and some uniform registers; the partition owns the dies 0 and 1. -/
def super (s : KMap DWord) : State :=
  modPart (handled (demoWith fun x => { x with sup := true, s := s })) 0 fun p => { p with dies := [0, 1] }
/-- A group 7 of another block of the partition on die 1. -/
def superTwo (s : KMap DWord) : State :=
  let t := super s
  { t with blocks := kput t.blocks 5 { core := 40, regs := 112 }, groups := kput t.groups 7 { block := 5, pc := 0x10000 } }
/-- A shadow context whose die-pad share lies apart from the running one. -/
def withShadow (s : State) : State := modPart s 0 fun p => { p with sh := { id := 2, dpad := 0x10001 } }

theorem witness_UserModeTraps : IsPrivileged .fret ∧ IsPrivileged (.dieCtlFence 0 63) ∧ (Issues (handled demo) 1 (grp (handled demo)) ∧
    (grp (handled demo)).sup = false ∧ vectorOf (handled demo) 1 ≠ 0) :=
  ⟨.fret, .dieCtl _ _ _ (.fence _ _), by unfold Issues; decide +kernel⟩

/-- A plain register, an event register, the number past a block of registers, a read-only one. -/
theorem witness_SystemRegisters : Issues (super []) 1 (grp (super [])) ∧ (grp (super [])).sup = true ∧ vectorOf (super []) 1 ≠ 0 ∧
    (blockOf (super []) 1).shadow = false ∧ ([(0x006 : BitVec 12), 0x045, 0x085, 0x21F].all fun r => Legal.sysListed r && !Legal.sysReadOnly r) = true ∧
    Legal.sysListed 0x007 = false ∧ Legal.sysListed 0x220 = false ∧ Legal.sysReadOnly 0x000 = true ∧ Legal.sysReadOnly 0x3CF = true := by
  unfold Issues; decide +kernel

/-- A range of one page, all addresses, a reserved bit, the shadow slot; an access of the partition on its way or none. -/
theorem witness_PageMaintenance : let s := super [(1, 3), (2, 4), (3, 0x10000), (4, 0xB)]
    Issues s 1 (grp s) ∧ (grp s).sup = true ∧ vectorOf s 1 ≠ 0 ∧ invRange ((grp s).sreg 2) = none ∧ invRange ((grp s).sreg 1) = some (0, 2 ^ 56) ∧
    invRange ((grp s).sreg 3) = some (0x10000, 0x20000) ∧ ((grp s).sreg 3).getLsbD 3 = false ∧ ((grp s).sreg 4).getLsbD 3 = true ∧
    invRange ((grp s).sreg 4) ≠ none ∧ partPending (performPart (endChain s 1) 0) 0 = false ∧
    partPending (performPart (endChain (unperformed s) 1) 0) 0 = true := by unfold Issues; decide +kernel
/-- A leaf, a page that is not there, a first-touch page without and with a frame in the pool. -/
def touched (left : Nat) : State :=
  modPart (writeWord64 (writeWord64 (super []) 0x8010 0x8000) 0x20000 0x30001) 0 fun p => { p with poolHead := 0x20000, poolLeft := left }
/-- The walk that pgmap makes for the address `va`. -/
def mapWalk (s : State) (va : Nat) : Walk := let root := (getPart s 0).ctx.ptroot
  walkRoot (settleRoot (endChain s 1) (some 1) root va) root va
theorem witness_PageMaintenance_pgmap : let s := touched 1
    mapWalk s 0x10000 = .leaf 4 0x8008 0x1007F ∧ (mapWalk s 0xFFFFFFFFFFFFFF = .stop 0 1 0x3FF8 0 ∧ ((0 : Nat) ≠ 1 ∨ 1 ≠ 4)) ∧
    mapWalk s 0x20000 = .stop 1 4 0x8010 0x8000 ∧ 0x8010 + 8 ≤ 0x30000 ∧
    bitsOf (readWord64 (settleRoot (endChain s 1) (some 1) (getPart s 0).ctx.ptroot 0x20000) (getPart s 0).poolHead) 16 30 * 65536 = 0x30000 ∧
    mapWalk (touched 0) 0x20000 = .stop 1 4 0x8010 0x8000 ∧ (getPart (touched 0) 0).poolLeft = 0 ∧ (getPart s 0).poolLeft ≠ 0 ∧
    (kfind (settleRoot (endChain s 1) (some 1) (getPart s 0).ctx.ptroot 0x20000).groups 1).isSome = true ∧ 0xFFFFFFFFFFFFFF < 2 ^ 56 := by
  decide +kernel

/-- What a ctx.swap leaves before it looks at the other groups. -/
def swapReady (s : State) : State :=
  drainLines (fixLoads (markFiring (stopDispatch (endChain s 1) (getPart s 0).dies) fun o => o.group == 1) 1) (coreOf s 1) fun l => l.of 1
/-- A saved address that an instruction has, an odd one, the first beyond; an event of the mask and none; no other group, and one that
has still to halt; an empty slot, shares that meet, shares apart. -/
theorem witness_SupervisorControl : let s := super [(1, 1), (2, 0)]
    let q := modCtx s 0 false fun c => { c with evt := 1 }
    let two := superTwo [(1, 3)]
    (Issues s 1 (grp s) ∧ (grp s).sup = true ∧ vectorOf s 1 ≠ 0 ∧ ((grp s).trap.pc.toNat % 2 = 0 ∧ (grp s).trap.pc.toNat < 2 ^ 56) ∧
      ¬ ((0x100000000000000 : DWord).toNat < 2 ^ 56) ∧ (0xFFFFFFFFFFFFFE : DWord).toNat < 2 ^ 56) ∧
    ((getPart q 0).ctx.evt &&& fld ((grp q).sreg 1) 0 16 ≠ 0 ∧ (getPart s 0).ctx.evt &&& fld ((grp s).sreg 1) 0 16 = 0) ∧
    (haltNamed s 1 [0] = [] ∧ haltNamed two 1 ((getPart two 0).dies.filter fun i => bitAt (fld ((grp two).sreg 1) 0 8) i) = [7] ∧
      (kfind two.groups 7).isSome = true ∧ isHalted (getGroup two 7) = false) ∧
    ((getPart s 0).sh.id = 0 ∧ (getPart (withShadow s) 0).sh.id ≠ 0 ∧
      sharesMeet (getPart (withShadow s) 0).ctx (getPart (withShadow s) 0).sh = false ∧
      sharesMeet { dpad := 0x00002 } { id := 2, dpad := 0x10001 } = true) ∧
    (runningGroups (withShadow two) 0 (fun h => h != 1) = [7] ∧ (kfind s.blocks (grp s).block).map Block.shadow = some false ∧
      runningGroups (withShadow s) 0 (fun h => h != 1) = [] ∧ (∀ e ∈ (withShadow s).blocks, e.2.damaged = false) ∧
      groupSettled (swapReady (withShadow s)) 1 = true) := by unfold Issues; decide +kernel

/-- What operation 2 finds left on die 1. -/
def leftOnDie (s : State) : List Nat :=
  blocksOnDie (beginRequeue ((runningGroups s 0 fun h => dieOf s h == 1).foldl askHalt (stopDispatch (endChain s 1) [1])) 0 1) 0 1
/-- `s` where die 1 stops. -/
def stopping (s : State) : State := { s with dies := [(1, { getDie s 1 with state := 1 })] }
/-- Every state of die 1 from which an operation goes on, and one from which it does not; the reserved operation 10; a die of none; a
die with a block and one without. -/
theorem witness_DieControl : let s := superTwo [(1, 0x101), (2, 0xA01), (3, 0x107), (4, 0x201)]
    IsDieCtl (.dieCtlStop 0 1) 0 1 ∧ (Issues s 1 (grp s) ∧ (grp s).sup = true ∧ vectorOf s 1 ≠ 0) ∧
    (∀ r ∈ [1, 4], ((grp s).sreg r).toNat = fld ((grp s).sreg r) 0 3 + 256 * fld ((grp s).sreg r) 8 4 ∧ fld ((grp s).sreg r) 8 4 ≤ 9) ∧
    (¬ (fld ((grp s).sreg 2) 8 4 ≤ 9) ∧ fld ((grp s).sreg 3) 0 3 ∉ (getPart s 0).dies ∧ fld ((grp s).sreg 1) 0 3 ∈ (getPart s 0).dies) ∧
    ((∀ q ∈ [(0, 0), (1, 0), (2, 1), (3, 2), (4, 3), (5, 4), (6, 4), (7, 6), (8, 7), (9, 2)], DieTakes q.1 q.2 false true) ∧
      ¬ DieTakes 2 0 false true ∧ ¬ DieTakes 9 3 false true) ∧
    (DieTakes (fld ((grp s).sreg 4) 8 4) (getDie (stopping s) 1).state (dieOf s 1 == 1) ((getPart s 0).sh.id == 0) ∧
      leftOnDie (stopping s) ≠ [] ∧ leftOnDie (stopping (super [(4, 0x201)])) = []) :=
  ⟨.stop _ _, by unfold Issues; decide +kernel, by decide +kernel, by decide +kernel,
    ⟨by unfold DieTakes; decide +kernel, by unfold DieTakes; decide +kernel, by unfold DieTakes; decide +kernel⟩,
    by unfold DieTakes; decide +kernel, by decide +kernel⟩

end Sys2Proof.Machine
end

