-- ==== Sys2Proof/Tests/WitnessEvents.lean ====
section
/-! SUPPORT. States that meet the hypotheses of the statements about events of groups, memory, landings, drift and the ferry. -/

set_option maxRecDepth 20000
set_option Elab.async false

namespace Sys2Proof.Machine

/-! ## Groups -/

/-- `demo` with a handler at cycle 10, its group changed. -/
def evented (f : Group → Group) : State := handled { demoWith f with cycle := 10 }
/-- Results in flight: one whose time has just come, one that met poison in the last lane, one that is not due, and the load of a word of
the page, which may be read anew. -/
def flying : State := evented fun x => { x with
  inFlight := [(5, { dst := (1, 1), v := [(32, 7)], due := 10 }), (6, { dst := (2, 1), poisoned := [(31, 0x10000)] }), (7, { due := 11 }),
    (8, { dst := (3, 1), v := [(96, 7)], elems := [{ lane := 31, reg := 3, places := (Loc.mem 0x1FFFC).run 4, sgn := false }] })] }
/-- A result of `flying`. -/
def flight (k : Nat) : InFlight := kgetD (grp flying).inFlight k {}
theorem witness_GroupEvents_results : (kfind flying.groups 1 = some (grp flying) ∧
      (∀ k ∈ [5, 6, 8], kfind (grp flying).inFlight k = some (flight k) ∧ (flight k).awaiting = 0 ∧ (flight k).due ≤ flying.cycle ∧
        earlierPending flying 1 (flight k).gen = false) ∧ (flight 5).poisoned = [] ∧ (flight 6).poisoned ≠ [] ∧ (flight 6).s = none) ∧
    (∀ l ∈ (flight 8).elems, (flight 8).poisoned = [] ∧ (flight 8).passed = [] ∧ ksorted (flight 8).v = true ∧ (flight 8).elems = [l] ∧
      l.lane < 32 ∧ (0x80000000 : Word).getLsbD l.lane = true ∧ l.places.length = 4 ∧ Readable flying 1 l.places) := by
  unfold Readable; decide +kernel

/-- A blocked group with no trap before it. -/
def blockedOn (w : Wait) : State := evented fun x => { x with status := .blocked w }
/-- Its gate in another phase and in the same one. -/
def gatedOn (w : Wait) : State := modGroup { gated with cycle := 10 } 1 fun x => { x with status := .blocked w }
theorem witness_GroupEvents_waits : (heldUp (gatedOn (.gate 0xFF0 true)) 1 = false ∧ haltReady (grp (gatedOn (.gate 0xFF0 true))) = false ∧
      gateFlipped (gatedOn (.gate 0xFF0 true)) 1 0xFF0 true = true ∧ gateFlipped (gatedOn (.gateT 0xFF0 true 9 3)) 1 0xFF0 true = true ∧
      heldUp (gatedOn (.gateT 0xFF0 false 9 3)) 1 = false ∧ gateFlipped (gatedOn (.gateT 0xFF0 false 9 3)) 1 0xFF0 false = false ∧
      9 < (gatedOn (.gateT 0xFF0 false 9 3)).cycle) ∧
    (∀ w ∈ [Wait.oc 3 0 none, .batch 0, .fence, .wfi 1 2, .bind 0, .sleep 10, .sleepUntil 10], heldUp (blockedOn w) 1 = false ∧
      haltReady (grp (blockedOn w)) = false ∧ (grp (blockedOn w)).status = .blocked w) ∧
    (ocOf (blockedOn (.oc 3 0 none)) 1 3 = 0 ∧ bitAt (ctxOf (blockedOn (.oc 3 0 none)) 1).trapEn 10 = false ∧
      batchDone (blockedOn (.batch 0)) 1 0 = true ∧ outstanding (blockedOn .fence) 1 = false ∧
      (getPart (modCtx (blockedOn (.wfi 1 2)) 0 false fun c => { c with evt := 1 }) 0).ctx.evt &&& 1 ≠ 0 ∧
      handleBusy (blockedOn (.bind 0)) 1 0 = false ∧ (grp (blockedOn (.sleepUntil 10))).promise = none) := by decide +kernel
/-- A promise on its deadline, kept and broken. -/
def promisedTo (done : Bool) : State :=
  { evented fun x => { x with status := .blocked (.sleepUntil 10), promise := some { op := 6, cycle := 10 } } with
    ops := [(6, { fabOp with cls := 0, state := if done then .performed else .active })] }
/-- A tlb.inv with nothing to wait for; a halt whose one group stands halted after it was forced. -/
def haltWaits : State := let t := superTwo []
  modGroup (modGroup t 1 fun x => { x with status := .blocked (.halt 3 4) }) 7 fun x => { x with status := .halted none, forced := true }
theorem witness_GroupEvents_operations : (∀ done, heldUp (promisedTo done) 1 = false ∧ landed (promisedTo done) 6 = done) ∧
    vectorOf (promisedTo false) 1 ≠ 0 ∧
    (let s := blockedOn (.tlbInv 3 []);
      (grp s).status = .blocked (.tlbInv 3 []) ∧ (Wait.tlbInv 3 []).operation = true ∧ dieRuns s (dieOf s 1) = true ∧ (blockOf s 1).shadow = false ∧
      haltReady (grp s) = false ∧ waitHolds s 1 (.tlbInv 3 []) = true) ∧
    (let s := haltWaits;
      (grp s).status = .blocked (.halt 3 4) ∧ (Wait.halt 3 4).operation = true ∧ dieRuns s (dieOf s 1) = true ∧ (blockOf s 1).shadow = false ∧
      haltReady (grp s) = false ∧ haltNamed s 1 (maskDies s (partOf s 1) 3) = [7] ∧ haltComplete s [7] = true ∧ (getGroup s 7).forced = true) := by
  decide +kernel
/-- A deferral that has just expired; a halt at an interrupt point, of a ready and of a blocked group; a pending trap alone and before
another; a load that the host did not answer; a block that is over. -/
def deferring : State := evented fun x => { x with critical := true, haltAsked := some 3 }
def asked (st : GStatus) : State := evented fun x => { x with haltAsked := some 3, status := st }
def trapping : State := evented fun x => { x with pending := [{ num := 6, vaddr := 8 }, { num := 4, op := some 3 }] }
def hostWaiting : State := evented fun x => { x with status := .waiting, hostWait := some (0, 1, 0x10000) }
theorem takesTrap_of (s : State) (p : Pending) (h : kfind s.groups 1 = some (grp s) ∧ interruptible s 1 = true ∧
    (dieRuns s (dieOf s 1) = true ∧ (blockOf s 1).shadow = false) ∧ haltReady (grp s) = false ∧ (grp s).status = .ready)
    (ht : ∃ rest, takePending s 1 = some (p, rest)) : TakesTrap s 1 (grp s) p :=
  ⟨h.1, h.2.1, h.2.2.1, h.2.2.2.1, fun w hw => (by rw [h.2.2.2.2] at hw; cases hw), ht⟩
def finished : State :=
  modPart { evented (fun x => { x with status := .exited }) with
    blocks := [(0, { launch := 1, ending := some .failed })] } 0 fun p => { p with launches := [(1, { packet := [], queue := 0, ctx := 1 })] }
theorem mayRetire_of (s : State) (b : Nat) (blk : Block) (h : kfind s.blocks b = some blk ∧ (blk.retired = false ∧ blk.shadow = false) ∧
    packetsWait s b = false ∧ (∀ a ∈ s.arrivals, a.block ≠ b) ∧ (∀ t ∈ s.stores, ∀ w ∈ t.pads, w.1.inBlock b = false) ∧
    blk.ending ≠ some .requeued) (he : ∀ e ∈ s.groups, (getGroup s e.1).status = .exited) (hd : s.ops = []) : MayRetire s b blk :=
  ⟨h.1, h.2.1, fun e m _ => .inl (he e m), fun e m => (by rw [hd] at m; cases m), h.2.2.1, h.2.2.2.1, h.2.2.2.2.1, fun r => absurd r h.2.2.2.2.2⟩
theorem retire_finished : MayRetire finished 0 { launch := 1, ending := some .failed } :=
  mayRetire_of _ _ _ (by decide +kernel) (by decide +kernel) rfl
/-- A block that goes back to its launch. -/
def requeued : State := modBlock finished 0 fun b => { b with ending := some .requeued }
theorem retire_requeued : MayRetire requeued 0 { launch := 1, ending := some .requeued } :=
  have h : ∀ e ∈ requeued.groups, (getGroup requeued e.1).status = .exited ∧ outstanding requeued e.1 = false := by decide +kernel
  ⟨by decide +kernel, by decide +kernel, fun e m _ => .inl (h e m).1, by decide +kernel, by decide +kernel, by decide +kernel, by decide +kernel,
    fun _ e m _ => ⟨(h e m).2, fun o ho => absurd ho (by rw [show requeued.outbound = [] from rfl]; exact List.not_mem_nil)⟩⟩
theorem witness_GroupEvents : TakesTrap trapping 1 (grp trapping) { num := 6, vaddr := 8 } ∧ vectorOf trapping 1 ≠ 0 ∧
    ((grp deferring).critical = true ∧ (grp deferring).forced = false ∧ 3 + { deferring with critLimit := 7 }.critLimit ≤ deferring.cycle) ∧
    (∀ st ∈ [GStatus.ready, .blocked (.sleep 20)], haltReady (grp (asked st)) = true ∧ interruptible (asked st) 1 = true ∧
      dieRuns (asked st) (dieOf (asked st) 1) = true ∧ (blockOf (asked st) 1).shadow = false) ∧
    (let s : State := { hostWaiting with linkUp := false, cycle := Config.linkTimeout };
      (grp s).hostWait = some (0, 1, 0x10000) ∧ (grp s).still = false ∧ s.linkUp = false ∧ 0 + Config.linkTimeout ≤ s.cycle ∧ vectorOf s 1 ≠ 0) ∧
    (∃ b blk l, MayRetire finished b blk ∧ kfind (getPart finished blk.part).launches blk.launch = some l) :=
  ⟨takesTrap_of _ _ (by decide +kernel) ⟨[{ num := 4, op := some 3, behind := some 0 }], by decide +kernel⟩,
    by decide +kernel, by decide +kernel, by decide +kernel, by decide +kernel, _, _, _, retire_finished, rfl⟩

/-! ## Memory and landings -/

/-- Entries: a store, a load, an operation of a slot. -/
def anEntry (op : Nat) : Entry := { addr := 0x10000, size := 8, op := op, desc := 0x4020, operand := 1, bytes := leBytes 8 7, groups := [1] }
/-- Lines of core 0, of bytes and of entries; a store on its way, one of the same bytes behind it, one to the block's pad, and one to the
host that waited as long as it may. -/
def storing : State := { demo with
  cores := [(0, { wcb := [{ line := 0x200, bytes := [(0x10000, 1), (0x1007F, 2)], groups := [1], scope := 3, last := 0, page := 1 },
    { line := 0x201, bytes := [], groups := [1], scope := 3, last := 0, page := 1, ae := true, entries := [anEntry 17] }] })]
  stores := [{ core := 0, part := 0, groups := [1], scope := 3, bytes := [(0x10000, 9)], since := 0 },
    { core := 0, part := 0, groups := [1], scope := 3, bytes := [(0x10000, 8)], since := 0 },
    { core := 0, part := 0, groups := [1], scope := 3, bytes := [], since := 0, pads := [(.pad 0 0xFFF, 8)] },
    { core := 0, part := 0, groups := [1], scope := 5, bytes := [(Config.apertureBase, 9)], since := 0 }]
  linkUp := false, cycle := Config.linkTimeout }
/-- Store `i` of `storing`. -/
def storeAt (i : Nat) : Store := (storing.stores[i]?).getD { core := 0, part := 0, groups := [], scope := 0, bytes := [], since := 0 }
/-- A core has a line with every byte in it. -/
theorem wcbOk_storing : WcbOk storing := by
  intro c
  by_cases h : c = 0
  · subst h; unfold LineOk; decide +kernel
  · have e : (getCore storing c).wcb = [] := by simp [storing, getCore, kgetD, kfind, Ne.symm h]
    simp [e]
/-- An amplitude operation whose shards hold the byte that the first store writes. -/
def claiming : State := { storing with ops := [(3, { fabOp with cls := 2, body := .amp {
  cmd := 1, handle := 0, record := 0x10040, count := 1, raw := [], before := [], after := [], swaps := [], targets := [], controls := 0
  arg := 0, keep := false, runs := [{ pa := 0x10000, bytes := 1, loose := true }] } })] }
theorem witness_MemoryEvents_stores : WcbOk storing ∧ (((getCore storing 0).wcb.map (·.ae)) = [false, true] ∧
      (∀ i < 4, storing.stores[i]? = some (storeAt i)) ∧ (∀ i ∈ [0, 2], ∀ j < i, mustPrecede (storeAt j) (storeAt i) = false) ∧
      mustPrecede (storeAt 0) (storeAt 1) = true) ∧
    ((storeAt 0).bytes.head? = some (0x10000, 9) ∧ (storeAt 0).pads = [] ∧ answerFor storing 0x10000 3 (dieOfCore 0) = .served ∧
      inApertures 0x10000 = false ∧ copyHeld storing (storeAt 0) = false ∧ Unclaimed storing [0x10000]) ∧
    ((storeAt 2).bytes = [] ∧ (storeAt 2).whole = [] ∧ locAnswer storing (.pad 0 0xFFF) = .served ∧ Reachable storing (.pad 0 0xFFF)) ∧
    ((storeAt 3).bytes.head? = some (Config.apertureBase, 9) ∧ inApertures Config.apertureBase = true ∧
      storing.linkUp = false ∧ (storeAt 3).since + Config.linkTimeout ≤ storing.cycle) ∧
    (let s := { storing with dies := [(0, { getDie demo 0 with state := 3 })] };
      ∃ d ∈ s.dies, d.2.state = 3) ∧
    (let e := { anEntry 17 with addr := Config.apertureBase };
      let s := { storing with sent := [e] };
      s.sent[0]? = some e ∧ e.op = 17 ∧ inApertures e.addr = true ∧ e.since + Config.linkTimeout ≤ s.cycle) ∧
    (ksorted claiming.ops = true ∧ ∃ e ∈ claiming.ops, e.2.claims claiming [0x10000] = true) :=
  ⟨wcbOk_storing, by decide +kernel, by unfold Unclaimed; decide +kernel, by unfold Reachable; decide +kernel, by decide +kernel, by decide +kernel, by decide +kernel, by decide +kernel⟩
/-- A page that is there and one that is not, at the last core of the die and the last address. -/
theorem witness_MemoryEvents_walks : partOfDie demo (dieOfCore 39) = some 0 ∧ 39 < Config.coreCount ∧ dieRuns demo (dieOfCore 39) = true ∧
    (let r := (getPart demo 0).ctx.ptroot;
      walkRoot demo r 0x1FFFF = .leaf 4 0x8008 0x1007F ∧ walkRoot demo r 0xFFFFFFFFFFFFFF = .stop 0 1 0x3FF8 0) := by decide +kernel
/-- Entries on their way, the second behind the first, and at their landing: a store, a load, an operation of a slot, two that a table lets
merge, and one whose storage held an error. -/
def arriving : State := { demo with
  sent := [anEntry 17, anEntry 17], algTables := [(0, { slots := [(0, 0x4020)], cross := [(0, 15)] })], landing := [] }
def atLanding (op : Nat) : State := { arriving with landing := [anEntry op, anEntry op] }
theorem front_of (s : State) (e : Entry) (h : s.landing[0]? = some e ∧ e.inSet = false ∧ e.addr = 0x10000 ∧ e.size = 8)
    (hs : answerFor s e.addr e.scope (dieOfCore e.core) = .served) : FrontEntry s 0x10000 8 0 e := ⟨h, fun j hj => absurd hj (by omega), hs⟩
theorem fronts : ∀ op ∈ [0, 16, 17], FrontEntry (atLanding op) 0x10000 8 0 (anEntry op) := by
  intro op h
  refine front_of _ _ ?_ ?_ <;> revert op <;> decide +kernel
theorem witness_MemoryEvents : (∀ op ∈ [0, 16, 17], FrontEntry (atLanding op) 0x10000 8 0 (anEntry op)) ∧
    (arriving.sent = [anEntry 17, anEntry 17] ∧ waitsForCaches arriving (anEntry 17) = false ∧ entryServed arriving (anEntry 17) = true ∧
      (anEntry 17).drift = false ∧ (anEntry 17).op < 18 ∧ NoSetAt arriving (anEntry 17) ∧ arrivesBefore arriving (anEntry 17) (anEntry 17) = true) ∧
    ((isPoisoned (atLanding 0) (.mem 0x10000) || isPoisoned (atLanding 0) (.mem (0x10000 + 7))) = false ∧ mixed (atLanding 0) 0x10000 = false ∧
      Unclaimed (atLanding 0) ((List.range 8).map (0x10000 + ·)) ∧
      (let s : State := { atLanding 0 with poison := [0x400] };
        (isPoisoned s (.mem 0x10000) || isPoisoned s (.mem (0x10000 + 7))) = true)) ∧
    ((wordIdx (atLanding 0) 0x10000 8)[landPos (.swap 0)]? = some 0 ∧ (wordIdx (atLanding 0) 0x10000 8)[landPos (.swap 0) + 1]? = some 1 ∧
      crowded (atLanding 0) 0x10000 8 = false) ∧ MayStep (atLanding 0) 0 1 (anEntry 0) (anEntry 0) ∧
    (StepOf (getTable (atLanding 0) 0) (atLanding 0).landing (atLanding 0).landing 0 1 (anEntry 0) (anEntry 0) (.swap 0) ∧
      StepOf (getTable (atLanding 0) 0) (atLanding 0).landing [anEntry 0] 0 1 (anEntry 0) (anEntry 0) (.absorb 0)) ∧
    (let s : State := { atLanding 0 with landing := [anEntry 0, { anEntry 0 with operand := 2 ^ 64 - 1 }] };
      StepOf (getTable s 0) s.landing [] 0 1 (anEntry 0) { anEntry 0 with operand := slotInverse 0x4020 1 false } (.cancel 0)) ∧
    ∃ q, ({ demo with openPackets := [{ owner := .host, window := 0 }], cycle := Config.packetLimit } : State).openPackets[0]? = some q ∧
      q.last + Config.packetLimit ≤ Config.packetLimit :=
  ⟨fronts, by unfold NoSetAt; decide +kernel, by unfold Unclaimed; decide +kernel, by decide +kernel,
    ⟨by decide +kernel, by decide +kernel, by decide +kernel⟩, by unfold StepOf; decide +kernel, by unfold StepOf; decide +kernel, _, rfl, by decide +kernel⟩

/-! ## Drift -/

/-- Region 0x80 of bound 1 with `slots` granted and `queue` waiting. -/
def drifting (bound : Word) (slots : KMap (CacheId × Nat)) (queue : List DirRequest) (state : DirState) : State :=
  { demo with regions := [(0x80, { bound := bound, g := 1, slots := slots, queue := queue, state := state })] }
def c0 : CacheId := .l1 0
def c1 : CacheId := .l1 1
def c2 : CacheId := .l2 0
/-- One half free, one half granted, and two halves granted. -/
def grants (n : Nat) : State := drifting 0x3F800000 (([(0, (c1, 1)), (1, (c2, 1))]).take n) [.grant c0] .open_
theorem witness_DriftEvents_grants :
    ((getRegion (drifting 0 [] [.grant c0] .open_) 0x80).queue.find? isGrant = some (.grant c0) ∧
      (getRegion (drifting 0 [] [.grant c0] .open_) 0x80).bound = 0 ∧ (∀ n, (grants n).messages = []) ∧
      ({ grants 0 with messages := [{ cache := c0, region := 0x80, entries := [], answer := .released }] } : State).messages.any
        (fun m => m.cache == c0 && m.region == 0x80) = true) ∧
    (∀ n ∈ [0, 1], let x := getRegion (grants n) 0x80
      x.queue.find? isGrant = some (.grant c0) ∧ (∀ q ∈ x.queue, isGrant q = true) ∧ x.state = .open_ ∧ x.bound ≠ 0 ∧ x.slots.length < 8 ∧
      x.g ≤ 1 ∧ ShareFits x 1 ∧ lowestFree x = some n) ∧
    (let x := getRegion (grants 2) 0x80;
      (∀ k < 8, x.g ≤ k → ¬ ShareFits x k) ∧ LargestShare x 0 1 ∧ kfind x.slots 0 = some (c1, 1) ∧ ksorted x.slots = true) ∧
    LargestShare (getRegion (drifting 0x3F800000 [(0, (c1, 7))] [.grant c0] .open_) 0x80) 0 7 :=
  ⟨⟨by decide +kernel, by decide +kernel, fun _ => rfl, by decide +kernel⟩, by unfold ShareFits; decide +kernel,
    ⟨by unfold ShareFits; decide +kernel, ⟨⟨c1, by decide +kernel⟩, by decide +kernel⟩, by decide +kernel⟩,
    ⟨⟨c1, by decide +kernel⟩, by decide +kernel⟩⟩
/-- An element of the region: 1.0, of an f32 sum. -/
def element (operand : Nat) : Entry := { addr := 0x10000, size := 4, op := 0, desc := 0x6040, operand := operand, drift := true }
def cached (st : HolderState) (c : Call) : State :=
  { drifting 0x3F800000 [(0, (c0, 1))] [] .open_ with
    holders := [{ cache := c0, region := 0x80, state := st }], calls := [{ cache := c0, region := 0x80, call := c }] }
theorem fp_one (n : Nat) (h : n = 0x3F000000 ∨ n = 0x3F800000) : (∃ b k, Fp.decode Fp.f32 n = .fin false b k ∧ b ≠ 0) := by
  rcases h with rfl | rfl <;> exact ⟨_, _, rfl, by decide +kernel⟩
/-- What reaches the directory entry: an element, a tolerant load's request, a load and a dset, at an Open region with a holder and with
none, and at one that drains. -/
def reaching (e : Entry) (slots : KMap (CacheId × Nat)) (state : DirState) : State := { drifting 0x3F800000 slots [] state with sent := [e] }
theorem witness_DriftEvents_arrivals : (∀ e ∈ [element 0x3F000000, { element 0 with op := 21, tol := 0x3F800000 }, { element 0 with op := 16 },
      { element 0 with op := 18, bound := some (0x3F800000, 2) }], ∀ sl ∈ [[], [(0, (c1, 1))]], ∀ st ∈ [DirState.open_, .draining [c1] (.entry e)],
      let s := reaching e sl st
      s.sent = [e] ∧ waitsForCaches s e = false ∧ entryServed s e = true ∧ regionOf e.addr = 0x80 ∧ e.drift = true ∧ e.flushed = false ∧
        (getRegion s 0x80).queue = [] ∧ (getRegion s 0x80).slots = sl ∧ (getRegion s 0x80).state = st ∧ (getRegion s 0x80).bound ≠ 0) := by
  decide +kernel
/-- The regions of a list with a bound, region `r` without one, and an element of a dset of `r` on its way. -/
def crowdedBounds (l : List Nat) (r : Nat) : State :=
  { demo with
    regions := (l.filter (· != r)).map fun i => (i, ({ bound := 1 } : Region))
    sent := [{ element 0 with addr := 512 * r, op := 18, bound := some (0x3F800000, 2) }] }
theorem kfind_map_none {α : Type} (l : List Nat) (v : α) (r : Nat) (h : r ∉ l) : kfind (l.map fun i => (i, v)) r = none := by
  induction l with
  | nil => rfl
  | cons a l ih =>
    have hne : a ≠ r := fun e => h (e ▸ List.mem_cons_self)
    simp only [List.map_cons, kfind, hne, if_false]
    exact ih fun m => h (List.mem_cons_of_mem _ m)
theorem region_none (l : List Nat) (r : Nat) : getRegion (crowdedBounds l r) r = {} := by
  have hk : kfind (crowdedBounds l r).regions r = none := kfind_map_none _ _ _ (by simp)
  unfold getRegion kgetD
  rw [hk]
  rfl
/-- Of 2^21 + 1 regions one base die is the home of more than it holds bounds for. -/
theorem bounds_full (l : List Nat) (hnd : l.Nodup) (hlen : l.length = 2097153) : ∃ r ∈ l, boundsFull (crowdedBounds l r) r = true := by
  have hd : ∀ i, baseDieOf i = 0 ∨ baseDieOf i = 1 := fun i => by
    have := (Config.landingSlice (4 * i)).isLt
    unfold baseDieOf Config.slicesPerBaseDie; omega
  have hc : ∃ c, 1048577 ≤ (l.filter fun i => baseDieOf i == c).length := by
    by_contra hn
    have h0 := fun c => not_exists.1 hn c
    have hs : (l.filter fun i => !(baseDieOf i == 0)) = l.filter fun i => baseDieOf i == 1 :=
      List.filter_congr fun i _ => by rcases hd i with h | h <;> simp [h]
    have hl := List.length_eq_length_filter_add (l := l) fun i => baseDieOf i == 0
    rw [hs, hlen] at hl
    have a := h0 0
    have b := h0 1
    omega
  obtain ⟨c, hc⟩ := hc
  obtain ⟨r, hr⟩ := List.exists_mem_of_length_pos (Nat.lt_of_lt_of_le (Nat.succ_pos _) hc)
  have hm := List.mem_filter.1 hr
  have hrc : baseDieOf r = c := by simpa using hm.2
  refine ⟨r, hm.1, ?_⟩
  have hb : (crowdedBounds l r).regions.filter (fun e => e.2.bound != 0) = (crowdedBounds l r).regions :=
    List.filter_eq_self.2 fun e he => by
      obtain ⟨i, _, rfl⟩ := List.mem_map.1 he
      rfl
  have hn : ((crowdedBounds l r).regions.filter fun e => baseDieOf e.1 == baseDieOf r).length =
      ((l.filter fun i => baseDieOf i == c).erase r).length := by
    rw [(hnd.filter _).erase_eq_filter, List.filter_filter]
    simp only [crowdedBounds, List.filter_map, List.length_map, List.filter_filter, hrc, Function.comp_def]
    congr 1
    exact List.filter_congr fun i _ => Bool.and_comm _ _
  rw [List.length_erase_of_mem hr] at hn
  have hle := List.length_filter_le (fun e => baseDieOf e.1 == baseDieOf r) (crowdedBounds l r).regions
  unfold boundsFull Config.boundedRegions
  simp only [hb, Bool.and_eq_true, decide_eq_true_eq]
  omega
theorem witness_DriftEvents_full : ∃ l r e p, boundsFull (crowdedBounds l r) r = true ∧ (getRegion (crowdedBounds l r) r).bound = 0 ∧
    (getRegion (crowdedBounds l r) r).slots = [] ∧ (crowdedBounds l r).sent = [e] ∧ regionOf e.addr = r ∧ e.op = 18 ∧
    e.bound = some (0x3F800000, 2) ∧ waitsForCaches (crowdedBounds l r) e = false ∧ entryServed (crowdedBounds l r) e = true ∧
    kfind (crowdedBounds l r).parts e.part = some p := by
  obtain ⟨l, hnd, hlen, hlt⟩ : ∃ l : List Nat, l.Nodup ∧ l.length = 2097153 ∧ ∀ i ∈ l, i < 2097153 :=
    ⟨List.range _, List.nodup_range, List.length_range, fun i h => List.mem_range.1 h⟩
  obtain ⟨r, hr, h⟩ := bounds_full l hnd hlen
  have hl : ¬ Config.diePadBase ≤ 512 * r := by
    have := hlt r hr
    unfold Config.diePadBase; omega
  have hp : inDiePads (512 * r) = false := by simp [inDiePads, hl]
  refine ⟨l, r, _, getPart demo 0, h, by rw [region_none], by rw [region_none], rfl, Nat.mul_div_cancel_left _ (by decide), rfl, rfl, rfl, ?_, rfl⟩
  simp [entryServed, answerFor, servingDie, element, hp, show (crowdedBounds l r).linkUp = true from rfl]
theorem witness_DriftEvents : let asks := cached (.asking [element 0x3F000000]) (.reply (some 1))
    findHolder asks c0 0x80 = some { cache := c0, region := 0x80, state := .asking [element 0x3F000000] } ∧ CallAt asks c0 0x80 (.reply (some 1)) ∧
    (cached (.asking []) (.reply none)).calls = [] ++ ({ cache := c0, region := 0x80, call := .reply none } : CallTo) :: [] ∧
    regionOf (element 0).addr = 0x80 ∧ (element 0).drift = true ∧
    magLt (shareVal (getRegion asks 0x80).bound 1) (magOf false 0x3F800000) = true ∧ slotMp (element 0).desc = false ∧
    magLt (shareVal (getRegion asks 0x80).bound 1) (magOf false 0x3F000000) = false ∧
    (∃ b k, Fp.decode Fp.f32 0x3F000000 = .fin false b k ∧ b ≠ 0) ∧ (∃ b k, Fp.decode Fp.f32 0x3F800000 = .fin false b k ∧ b ≠ 0) ∧
    findHolder (cached (.refused 0) .drain) c0 0x80 = some { cache := c0, region := 0x80, state := .refused 0 } ∧ 0 ≤ demo.cycle ∧
    (∀ q ∈ [Call.cut 2, .drain], CallAt (cached (.holding 1 {}) q) c0 0x80 q ∧ Holds (cached (.holding 1 {}) q) c0 0x80 1 {}) := by
  refine ⟨by decide +kernel, ⟨[], [], rfl, by simp⟩, rfl, by decide +kernel, by decide +kernel, by decide +kernel, by decide +kernel, by decide +kernel,
    fp_one _ (.inl rfl), fp_one _ (.inr rfl), by decide +kernel, by decide +kernel, fun q _ => ⟨⟨[], [], rfl, by simp⟩, rfl⟩⟩
/-- A message of each sort, with the state of the region that it answers. -/
def told (m : Message) (state : DirState) (slots : KMap (CacheId × Nat)) : State :=
  { drifting 0x3F800000 slots [] state with messages := [m] }
def message (a : Answer) (es : List Entry) : Message := { cache := c0, region := 0x80, entries := es, answer := a }
theorem witness_DriftEvents_messages :
    (∀ a st sl, (told (message a []) st sl).messages.find? (fun m => m.cache == c0 && m.region == 0x80) = some (message a []) ∧
      (message a []).entries = [] ∧ (getRegion (told (message a []) st sl) 0x80).queue = []) ∧
    (getRegion (told (message .cut []) (.cutting 0 c1) [(0, (c0, 1))]) 0x80).state = .cutting 0 c1 ∧
    kfind (getRegion (told (message .cut []) (.cutting 0 c1) [(0, (c0, 1))]) 0x80).slots 0 = some (c0, 1) ∧
    kfind (getRegion (told (message .cut []) (.cutting 0 c1) []) 0x80).slots 0 = none ∧
    (getRegion (told (message .cut []) (.cutting 0 c1) []) 0x80).bound ≠ 0 ∧
    ShareFits (getRegion (told (message .cut []) (.cutting 0 c1) []) 0x80) 1 ∧
    (∀ k < 8, 1 ≤ k → ¬ ShareFits (getRegion (told (message .cut []) (.cutting 0 c1) [(1, (c1, 1)), (2, (c2, 1))]) 0x80) k) ∧
    lowestFree { getRegion (told (message .cut []) (.cutting 0 c1) [(0, (c0, 1))]) 0x80 with slots := kput [(0, (c0, 1))] 0 (c0, 2) } = some 1 ∧
    (getRegion (told (message .drained []) (.draining [c0, c1] (.entry (element 0))) []) 0x80).state = .draining [c0, c1] (.entry (element 0)) ∧
    [c0, c1].erase c0 ≠ [] ∧ [c0].erase c0 = [] ∧ (element 0).op < 18 ∧ (∀ m st sl, NoSetAt (told m st sl) (element 0)) :=
  ⟨fun _ _ _ => ⟨rfl, rfl, rfl⟩, rfl, rfl, rfl, by decide +kernel, by unfold ShareFits; decide +kernel, by unfold ShareFits; decide +kernel,
    by decide +kernel, rfl, by decide +kernel, by decide +kernel, by decide +kernel,
    fun _ _ _ => ⟨by decide, fun _ h => absurd h List.not_mem_nil⟩⟩
/-- A load whose tolerance covers no share, and one that covers the one there is. -/
def loading (tol : Word) : State := drifting 0x3F800000 [(0, (c1, 1))] [.ldv [element 0] tol] .open_
theorem witness_DriftEvents_load : (∀ tol, (getRegion (loading tol) 0x80).state = .open_ ∧ (getRegion (loading tol) 0x80).queue = [.ldv [element 0] tol]) ∧
    toDrain (getRegion (loading 0) 0x80) 0 = [c1] ∧ toDrain (getRegion (loading 0) 0x80) 0x3F000000 = [] ∧ NoSetAt (loading 0) (element 0) ∧
    (loading 0).messages = [] :=
  ⟨fun _ => ⟨rfl, rfl⟩, by decide +kernel, by decide +kernel, ⟨by decide, fun _ h => absurd h (List.not_mem_nil)⟩, rfl⟩

end Sys2Proof.Machine
end

