-- ==== Sys2Proof/Tests/WitnessFerry.lean ====
section
/-! SUPPORT. States that meet the hypotheses of the statements about events of the ferry. -/

set_option maxRecDepth 20000
set_option Elab.async false

namespace Sys2Proof.Machine

/-- A fill of 16 words of the pad, and the gate of `gated` where `gate` says so. -/
def fillOp (gate : Bool) : FerryOp := {
  kind := .fill, gate := if gate then some 0xFF0 else none, tags := if gate then [(0, 255)] else [], lane := 0, coords := [0], pattern := 7, seq := 1
  lay := { gb := 0, fd := 0, cv := 0, esz := 2, dims := 1, dir := 0, pl := 1, po := 256, box := [16, 0, 0, 0, 0], pp := 0, ext := [16, 0, 0, 0, 0]
           str := [0, 0, 0, 0, 0] } }
def ferryOp (st : OpState) (f : FerryOp) : Op := { cls := 0, group := 1, block := 0, part := 0, issued := 0, state := st, body := .ferry f }
/-- `gated` with an operation 3 of class f, and a captured matrix command 2. -/
def ferrying (o : Op) : State := { gated with ops := [(2, { o with cls := 1, state := .captured, body := .matrix { cmd := 2, ref := 0, ctl := 0 } }), (3, o)] }
theorem live (s : State) (k : Nat) (o : Op) (st : OpState) (h : kfind s.ops k = some o ∧ (o.done = none ∧ o.state = st ∧ o.fault = none) ∧
    (getBlock s o.block).shadow = false ∧ engineRuns s (coreOfBlock s o.block) = true ∧ o.saved = false) : Live s k o st :=
  ⟨h.1, h.2.1, .inl h.2.2.1, h.2.2.2.1, .inr (.inr h.2.2.2.2)⟩

theorem witness_FerryEvents : let o := fun st g => ferryOp st (fillOp g)
    Live (ferrying (o .queued true)) 3 (o .queued true) .queued ∧ Live (ferrying (o .active true)) 3 (o .active true) .active ∧
    (notStarting (ferrying (o .queued true)) (o .queued true) = false ∧ behindSaved (ferrying (o .queued true)) 3 (o .queued true) = false ∧
      (fillOp true).decided = true ∧ ({ fillOp true with done := [(0, 16)] } : FerryOp).moved = true ∧
      ({ fillOp true with captured := some 2 } : FerryOp).captured = some 2 ∧ (kfind (ferrying (o .active true)).ops 2).isSome = true) ∧
    (let s := ferrying (ferryOp .active { fillOp true with deliveries := [(0, 64)] });
      gateHeld s 0 (some 0xFF0) = false ∧ padPlaces s 0 0 0 (refLvl 0xFF0) (refOff 0xFF0) 16 = some (gatePlace s 0xFF0) ∧
      (∀ l ∈ gatePlace s 0xFF0, isPoisoned s l = false) ∧ kgetD [(0, 255)] 0 0 = (readGate s (gatePlace s 0xFF0)).gen) ∧
    olderDone (ferrying (o .performed true)) 3 (o .performed true) = true ∧ (fillOp true).deliveries = [] :=
  ⟨live _ _ _ _ (by decide +kernel), live _ _ _ _ (by decide +kernel), by decide +kernel, by decide +kernel, by decide +kernel, by decide +kernel⟩
/-- No amplitude operation claims a byte where there is none. -/
theorem neverClaimed_of (s : State) (l : List Nat) (h : ∀ o ∈ s.ops, (match o.2.body with | .amp _ => true | _ => false) = false) :
    NeverClaimed s l := by
  intro o ho m
  have hb := h o ho
  unfold Op.claims
  split
  · next a ha => rw [ha] at hb; cases hb
  · rfl
/-- The last word of the fill. -/
def cellPlace (i : Nat) : List Loc := ((fillOp false).padRun (ferrying (ferryOp .active (fillOp false))) 0 0 0 ((fillOp false).padAt i).1 4).getD []
theorem witness_FerryEvents_span : let o := ferryOp .active (fillOp false)
    Live (ferrying o) 3 o .active ∧ Span (ferrying o) o (fillOp false) 15 1 (fun _ => 7) (fun _ => 0) cellPlace := by
  refine ⟨live _ _ _ _ (by decide +kernel), ?_⟩
  exact {
    kind := by decide +kernel
    free := by decide +kernel
    pages := ⟨[], rfl, fun i h1 h2 => by obtain rfl : i = 15 := by omega
                                         rfl⟩
    source := fun h => absurd rfl h
    here := by
      intro p h
      have e : p = (((fillOp false).padRun (ferrying (ferryOp .active (fillOp false))) 0 0 0 256 1).getD []) := by
        have h' : (fillOp false).padRun (ferrying (ferryOp .active (fillOp false))) 0 0 0 256 1 = some p := h
        rw [h']; rfl
      rw [e]; decide +kernel
    places := fun i h1 h2 => by
      obtain rfl : i = 15 := by omega
      decide +kernel
    clean := fun i h1 h2 => by
      obtain rfl : i = 15 := by omega
      have h : ∀ l ∈ cellPlace 15, isPoisoned (ferrying (ferryOp .active (fillOp false))) l = false ∧
        locAnswer (ferrying (ferryOp .active (fillOp false))) l = .served ∧ (match l with | .mem _ => false | _ => true) = true := by decide +kernel
      intro l hl
      refine ⟨(h l hl).1, (h l hl).2.1, fun a => .inl ?_⟩
      intro e
      subst e
      exact absurd (h _ hl).2.2 Bool.false_ne_true
    unclaimed := fun i h1 h2 => by
      obtain rfl : i = 15 := by omega
      exact neverClaimed_of _ _ (by decide +kernel) }
/-- A fill of global memory whose page cannot be had. -/
theorem witness_FerryEvents_lost : let f : FerryOp := { fillOp false with lay := { (fillOp false).lay with gb := 0x20000, dir := 1 } }
    let o := { ferryOp .active f with unmappable := [2] }
    let s := ferrying o
    Live s 3 o .active ∧ (f.outward = true ∧ f.captured = none ∧ f.moved = false ∧ f.takers ≠ [] ∧
      locatePages s o (f.needs 0 f.total) .write = (s, [(2, none)], false) ∧ f.writeFails s [(2, none)] = true) :=
  ⟨live _ _ _ _ (by decide +kernel), by decide +kernel⟩
/-- A gather of a page that is not there; a handler that has returned, with the page still missing and with it there; a receiver. -/
def faultingCopy : FerryOp := { fillOp false with kind := .copy, lay := { (fillOp false).lay with gb := 0x20000 } }
theorem witness_FerryEvents_faults : let o := ferryOp .active faultingCopy
    let h := fun (page : Nat) => { ferryOp .faulting faultingCopy with fault := some { page := page, served := true } }
    Live (ferrying o) 3 o .active ∧ (getBlock (ferrying o) o.block).shadow = false ∧
    (faultGroup (ferrying o) o = some 1 ∧ (kfind (ferrying o).groups 1).isSome = true ∧ notStarting (ferrying (h 2)) (h 2) = false) ∧
    o.needs.findSome? (fun q => match (engineLocate (ferrying o) o q.1 q.2).2 with
      | .fault e => some (q.1, e)
      | _ => none) = some (0x20000, 0) ∧
    (∃ kind, (engineTranslate (ferrying (h 2)) 0 0x20000 .read).2 = .error (4, kind)) ∧
    (∀ kind, (engineTranslate (ferrying (h 1)) 0 0x10000 .read).2 ≠ .error (4, kind)) := by
  refine ⟨live _ _ _ _ (by decide +kernel), by decide +kernel, by decide +kernel, by decide +kernel, ⟨0, ?_⟩, ?_⟩
  · rfl
  · intro kind e
    have h : (match (engineTranslate (ferrying { ferryOp .faulting faultingCopy with fault := some { page := 1, served := true } }) 0 0x10000 .read).2 with
      | .ok _ => true
      | .error _ => false) = true := by decide +kernel
    have e' : (engineTranslate (ferrying { ferryOp .faulting faultingCopy with fault := some { page := 1, served := true } }) 0 0x10000 .read).2 = .error (4, kind) := e
    rw [e'] at h
    cases h
/-- A receiver that has not answered, its gate armed and not. -/
theorem witness_FerryEvents_receivers : let f : FerryOp := { fillOp true with kind := .mcast, ranks := [0] }
    let s := ferrying (ferryOp .active f)
    Live s 3 (ferryOp .active f) .active ∧ (f.gate = some 0xFF0 ∧ 0 ∈ f.ranks ∧ 0 ∉ f.accepted ∧ 0 ∉ f.refused ∧
      (rankPlaces s 0 0 (refOff 0xFF0) 16).isSome = true) :=
  ⟨live _ _ _ _ (by decide +kernel), by decide +kernel⟩

end Sys2Proof.Machine
end

