-- ==== Sys2Proof/Tests/WitnessMatrix.lean ====
section
/-! SUPPORT. States that meet the hypotheses of the statements about events of the matrix and the amplitude engine. -/

set_option maxRecDepth 20000
set_option Elab.async false

namespace Sys2Proof.Machine

/-! ## A page whose translation is held, accessed and dirty -/

def warmLeaf : TlbEntry := { base := 0x10000, shift := 16, leaf := 0x1007F + 2 ^ 46 + 2 ^ 47, pte := 0x8008 }
/-- `s` with the module page in the TLBs of core 0 and die 0. -/
def warm (s : State) : State := { s with cores := [(0, { tlb := [warmLeaf] })], dies := [(0, { tlb := [warmLeaf] })] }
def heldPage : Phys := { pa := 0x10000, attr := attrOf warmLeaf.leaf, page := 0x10000 }

/-! ## Matrix engine -/

/-- A command of the class m of group 1. -/
def mxOp (st : OpState) (m : MatrixOp) : Op := { cls := 1, group := 1, block := 0, part := 0, issued := 0, state := st, body := .matrix m }
/-- `gated` with it as operation 3, sub-array 0 awake with the block's weights, bound as a tile of bf16. -/
def working (st : OpState) (m : MatrixOp) : State :=
  let s := modBlock gated 0 fun b => { b with bindings := [(0, { ref := 0, kind := 1, desc := 0, bbs := false, sb := 0 })] }
  { s with ops := [(3, mxOp st m)], cores := [(0, { subs := [(0, { awake := true, owner := some 0 })] })] }
/-- A command of two rows from row 30 on: the last two of the tile. -/
def rows2 (cmd : Nat) : MatrixOp := { cmd := cmd, ref := 0x10000, ctl := 0x3C1020, kind := 1, gate := none }
theorem working_live (st : OpState) (m : MatrixOp) : Live (working st m) 3 (mxOp st m) st := ⟨rfl, ⟨rfl, rfl, rfl⟩, .inl rfl, rfl, .inr (.inr rfl)⟩
theorem atWork (m : MatrixOp) : AtWork (working .executing m) 3 (mxOp .executing m) m m.cmd where
  live := working_live _ _
  body := ⟨rfl, rfl⟩
  free := fun i _ => by simp [subBusy, working, mxOp]
  tiles := by
    intro e he _
    have : e = (3, mxOp .executing m) := by simpa [working] using he
    subst this
    rfl
theorem witness_MatrixEvents : Live (working .ordered (rows2 1)) 3 (mxOp .ordered (rows2 1)) .ordered ∧
    (mxBehind (working .ordered (rows2 1)) 3 (mxOp .ordered (rows2 1)) (rows2 1) = false ∧
      behindSaved (working .ordered (rows2 1)) 3 (mxOp .ordered (rows2 1)) = false ∧
      notStarting (working .ordered (rows2 1)) (mxOp .ordered (rows2 1)) = false) ∧ (∀ c, AtWork (working .executing (rows2 c)) 3 (mxOp .executing (rows2 c)) (rows2 c) c) ∧
    (∃ b, kfind (working .executing (rows2 1)).blocks 0 = some b ∧ ∃ bd, kfind b.bindings 0 = some bd ∧ ((rows2 1).form.depth = (Mx.Form.mk bd.kind bd.desc).depth ∧
      (kgetD b.scales 0 {}).abs = false ∧ (kgetD b.scales 0 {}).bbs = false ∧ 62 ∉ b.rowPoison)) ∧
    ((getSub (working .executing (rows2 1)) 0 0).awake = true ∧ (getSub (working .executing (rows2 1)) 0 0).owner = some 0 ∧
      (rows2 1).count = 2 ∧ (rows2 1).row0 + (rows2 1).count = 32 ∧ (rows2 3).carry = [] ∧
      olderDone (working .performed (rows2 1)) 3 (mxOp .performed (rows2 1)) = true ∧ (rows2 1).deliveries = []) :=
  ⟨working_live _ _, by decide +kernel, fun c => atWork (rows2 c), ⟨_, rfl, _, rfl, by decide +kernel⟩, by decide +kernel⟩
/-- A binding of another depth, block scales that the issue did not know; a sub-array that wakes now, and one that idled long enough. -/
theorem witness_MatrixEvents_sub : (rows2 1).form.depth ≠ (Mx.Form.mk 3 0x4).depth ∧
    ({ sa := 0, sb := 0, abs := false, bbs := true } : Scale).bbs = true ∧ (rows2 0).issued.2 = false ∧
    (let s := { demo with cores := [(0, { subs := [(0, { wakeAt := some 0 }), (1, { awake := true })] })], cycle := demo.mxIdle };
      (getSub s 0 0).wakeAt = some 0 ∧ 0 ≤ s.cycle ∧ (getSub s 0 1).awake = true ∧ s.mxIdle ≠ 0 ∧ (getSub s 0 1).lastUse + s.mxIdle ≤ s.cycle ∧
      subBusy s 0 1 (fun _ _ => true) = false) := by decide +kernel
/-- The places of the two rows of a read-out to the pad, and the page of a store of the tile, mapped and not. -/
def readPlaces (i : Nat) : List Loc :=
  (padPlaces (working .executing { rows2 3 with ref := 0 }) 0 0 0 1 (i * { rows2 3 with ref := 0 : MatrixOp }.pitch) (rows2 3).outRow).getD []
theorem witness_MatrixEvents_moves : let m := { rows2 3 with ref := 0 }
    (∀ i < m.count, padPlaces (working .executing m) 0 0 0 (refLvl m.ref) (refOff m.ref + i * m.pitch) m.outRow = some (readPlaces i) ∧
      (∀ l ∈ readPlaces i, locAnswer (working .executing m) l = .served) ∧ NeverClaimed (working .executing m) ((readPlaces i).filterMap Loc.pa)) ∧
    NeverClaimed (warm (working .executing (rows2 4)))
      ((tileWrites (warm (working .executing (rows2 4))) (mxOp .executing (rows2 4)) (rows2 4) fun _ => heldPage).map (·.1)) ∧
    (rows2 4).pages = [0x10000] ∧
    engineLocate (warm (working .executing (rows2 4))) (mxOp .executing (rows2 4)) 0x10000 .write = (warm (working .executing (rows2 4)), .at_ heldPage) ∧
    inApertures heldPage.pa = false ∧ attrAE heldPage.attr = false ∧ 3 ≤ attrScope heldPage.attr ∧ inDiePads heldPage.pa = false ∧
    heldPage.pa % 65536 = 0 ∧
    (let o := { mxOp .executing { rows2 4 with ref := 0x20000 } with unmappable := [2] };
      (engineLocate (warm (working .executing (rows2 4))) o 0x20000 .write).2 = .failed) := by
  refine ⟨fun i hi => ⟨?_, ?_, neverClaimed_of _ _ (by decide +kernel)⟩, neverClaimed_of _ _ (by decide +kernel), by decide +kernel⟩
  all_goals revert i; decide +kernel
/-- Contributions: to no arm; to one of two ranks, out of turn and in turn, of its last rank and of the first that it has not. -/
def contribution (rank : Nat) : Contribution :=
  { dev := 9, op := 4, core := 0, launch := 0, block := 0, tile := 0, rank := rank, poisoned := false, data := List.replicate 2048 0 }
def armed (turn : Bool) : MatrixOp := { cmd := 6, ref := 0, ctl := if turn then 0x21000 else 0x20000 }
theorem witness_MatrixEvents_arms : (contribution 1).data.length = 2048 ∧ (armed false).kept = [] ∧ (contribution 0).dev.toNat ≠ demo.dev ∧
    findArm demo (contribution 0) = none ∧ NoUnread (working .executing (armed true)) 1 ∧ (∀ t ∈ [false, true], findArm (working .executing (armed t)) (contribution 1) = some (3, mxOp .executing (armed t), armed t)) ∧
    ((armed true).contributors = 2 ∧ (armed true).ctl.getLsbD 12 = true ∧ (armed false).ctl.getLsbD 12 = false ∧ 1 ≠ (armed true).added.length ∧
      0 = (armed true).added.length ∧ (insertNat (armed false).added 1).length ≠ 2 ∧
      (armed true).began + Config.linkTimeout ≤ { demo with cycle := Config.linkTimeout }.cycle) :=
  ⟨List.length_replicate, rfl, by decide +kernel, by decide +kernel, by unfold NoUnread; decide +kernel, by decide +kernel, by decide +kernel⟩

/-- A contribution in time and for the first time, one that is known, one of this module, and one that has expired. -/
theorem witness_MatrixEvents_new : (demo.cycle < (contribution 0).issued + Config.packetLimit ∧ (9, 4, 0) ∉ demo.handled) ∧
    (let s := { demo with handled := [(9, 4, 0)] };
      ((contribution 0).dev.toNat, (contribution 0).op, (contribution 0).issued) ∈ s.handled) ∧
    (let c := { contribution 0 with dev := BitVec.ofNat 18 demo.dev };
      let s := { demo with contributions := [(demo.dev, c)] };
      c.dev.toNat = s.dev ∧ (s.dev, c) ∈ s.contributions) ∧
    ¬ ({ demo with cycle := Config.packetLimit } : State).cycle < (contribution 0).issued + Config.packetLimit := by decide +kernel

/-! ## Amplitude engine -/

/-- Two qubits in the module page on die 0. -/
def rawHeld : List DWord := ((List.range 16).map fun i => if i = 0 then 0x202 else if i = 2 then 0x10000 else if i = 10 then 0x100 else 0) ++ [0, 0]
def ampHeld (cmd : Nat) (after : List Nat) (swaps : List (Nat × Nat)) : AmpOp :=
  { cmd := cmd, handle := 0, record := 0x10040, count := 1, raw := rawHeld, before := [0, 1], after := after, swaps := swaps, targets := [1]
    arg := 0x10100 }
def ampOp (st : OpState) (a : AmpOp) : Op := { cls := 2, group := 1, block := 0, part := 0, issued := 0, state := st, body := .amp a }
def sited (st : OpState) (a : AmpOp) : State := warm { demo with ops := [(3, ampOp st a)] }
theorem sited_live (st : OpState) (a : AmpOp) : Live (sited st a) 3 (ampOp st a) st := by
  have e : coreOfBlock (sited st a) (ampOp st a).block = 0 := by
    have hb : (sited st a).blocks = demo.blocks := rfl
    have ho : (ampOp st a).block = 0 := rfl
    unfold coreOfBlock getBlock
    rw [hb, ho]
    decide +kernel
  exact ⟨rfl, ⟨rfl, rfl, rfl⟩, .inl rfl, (by rw [e]; rfl), .inr (.inr rfl)⟩
theorem plain_page (s : State) (h : s.scopes = []) : PlainPage s heldPage := by
  have e : heldPage.pa = 65536 := rfl
  have r : attrR heldPage.attr = true ∧ attrAE heldPage.attr = false ∧ 3 ≤ attrScope heldPage.attr := by decide +kernel
  refine ⟨r.1, r.2.1, r.2.2, rfl, fun i hi => ⟨?_, ?_, by simp [mixed, h]⟩⟩
  all_goals
    simp only [inDiePads, inApertures, e, Config.diePadBase, Config.diePadSize, Config.apertureBase, Config.apertureEnd,
      Bool.and_eq_false_iff, decide_eq_false_iff_not]
    omega
theorem amp_sited (s : State) (o : Op) (a : AmpOp) (js : List Nat) (acc : Access) (hm : s.scopes = []) (hs : still? s = true)
    (h : (∀ q ∈ a.pagesAt js, engineLocate s o q.1 acc = (s, .at_ { heldPage with pa := 0x10000 + q.1 % 65536 })) ∧ a.spoilt = false ∧
      (∀ i ∈ a.here, ∀ j ∈ a.here, i ≠ j → ampSite a (fun _ => heldPage) i + recSize a.raw ≤ ampSite a (fun _ => heldPage) j ∨
        ampSite a (fun _ => heldPage) j + recSize a.raw ≤ ampSite a (fun _ => heldPage) i) ∧
      (∀ j ∈ a.here, a.addr j % recSize a.raw = 0) ∧
      (∀ j ∈ js, ∀ i < recSize a.raw, isPoisoned s (.mem (ampSite a (fun _ => heldPage) j + i)) = false) ∧ ampEnginesRun s a = true) :
    AmpSited s o a js acc (fun _ => heldPage) where
  pages := by
    exact fun q hq => ⟨_, h.1 q hq, rfl, rfl⟩
  plain := fun _ _ => plain_page s hm
  kept := h.2.1
  quiet := fun m => by
    obtain ⟨hw, ht, he, _⟩ := of_still s hs
    simp only [storesComing, ht, he, List.any_nil, Bool.or_false]
    exact Bool.eq_false_iff.2 fun hx => by
      obtain ⟨c, hc, hx⟩ := List.any_eq_true.1 hx
      simp [hw c hc] at hx
  apart := h.2.2.1
  aligned := h.2.2.2.1
  clean := h.2.2.2.2.1
  engines := h.2.2.2.2.2
theorem witness_AmplitudeEvents : (let a := ampHeld 1 [0, 1] [];
      Live (sited .queued a) 3 (ampOp .queued a) .queued ∧ ampBehind (sited .queued a) 3 (ampOp .queued a) a = false ∧
      ampEnginesRun (sited .queued a) a = true ∧ notStarting (sited .queued a) (ampOp .queued a) = false ∧
      behindSaved (sited .queued a) 3 (ampOp .queued a) = false) ∧
    (∀ c ∈ [1, 2, 4, 5], let a := ampHeld c [0, 1] []
      Live (sited .applying a) 3 (ampOp .applying a) .applying ∧
      AmpSited (sited .applying a) (ampOp .applying a) a (a.touched false) a.access (fun _ => heldPage)) ∧
    GateFits (ampHeld 1 [0, 1] []) ∧ LocalBits (ampHeld 1 [1, 0] [(0, 1)]) (0, 1) ∧ { ampHeld 1 [1, 0] [(0, 1)] with moved := 1 }.moved = [(0, 1)].length ∧
    olderDone (sited .performed (ampHeld 1 [0, 1] [])) 3 (ampOp .performed (ampHeld 1 [0, 1] [])) = true := by
  refine ⟨⟨sited_live _ _, by decide +kernel⟩, ?_, ⟨by decide +kernel, by decide +kernel⟩, by unfold LocalBits; decide +kernel, rfl, by decide +kernel⟩
  intro c hc
  refine ⟨sited_live _ _, amp_sited _ _ _ _ _ rfl rfl ?_⟩
  revert c; decide +kernel
/-- An operation one of whose engines is gone when it would start. -/
theorem witness_AmplitudeEvents_lost : let o := ampOp .queued (ampHeld 1 [0, 1] [])
    let s := { sited .queued (ampHeld 1 [0, 1] []) with dies := [(0, { tlb := [warmLeaf], state := 7 })] }
    (kfind s.ops 3 = some o ∧ o.done = none ∧ o.state = .queued ∧ o.fault = none ∧ 2 ≤ o.cls ∧ engineRuns s (coreOfBlock s o.block) = true) ∧
      ampBehind s 3 o (ampHeld 1 [0, 1] []) = false ∧ ampEngineLost s (ampHeld 1 [0, 1] []) = true ∧ notStarting s o = false ∧
      behindSaved s 3 o = false := by decide +kernel
/-- The result of the measurement lies in the page behind the state. -/
theorem witness_AmplitudeEvents_prob : let a := ampHeld 4 [0, 1] []
    a.access = .read ∧
    engineLocate (sited .applying a) (ampOp .applying a) 0x10100 .write = (sited .applying a, .at_ { heldPage with pa := 0x10100 }) ∧
    attrAE heldPage.attr = false ∧ 3 ≤ attrScope heldPage.attr ∧ inDiePads 0x10100 = false ∧ inApertures 0x10100 = false ∧ 0x10100 % 8 = 0 := by
  decide +kernel
/-- Where the map of the record lies. -/
def mapSite : Phys := { heldPage with pa := 0x10090 }
theorem exchanging_of (a : AmpOp) (h : (∀ q ∈ a.pagesAt (a.touched true),
      engineLocate (sited .exchanging a) (ampOp .exchanging a) q.1 .write = (sited .exchanging a, .at_ { heldPage with pa := 0x10000 + q.1 % 65536 })) ∧ a.spoilt = false ∧
      (∀ i ∈ a.here, ∀ j ∈ a.here, i ≠ j → ampSite a (fun _ => heldPage) i + recSize a.raw ≤ ampSite a (fun _ => heldPage) j ∨
        ampSite a (fun _ => heldPage) j + recSize a.raw ≤ ampSite a (fun _ => heldPage) i) ∧
      (∀ j ∈ a.here, a.addr j % recSize a.raw = 0) ∧
      (∀ j ∈ a.touched true, ∀ i < recSize a.raw, isPoisoned (sited .exchanging a) (.mem (ampSite a (fun _ => heldPage) j + i)) = false) ∧
      ampEnginesRun (sited .exchanging a) a = true) (hr : a.record = 0x10040)
    (hm : engineLocate (sited .exchanging a) (ampOp .exchanging a) 0x10090 .write = (sited .exchanging a, .at_ mapSite)) :
    Exchanging (sited .exchanging a) 3 (ampOp .exchanging a) a (fun _ => heldPage) mapSite := by
  refine ⟨sited_live _ _, amp_sited _ _ _ _ _ rfl rfl h, ?_, ?_, ?_, ?_⟩
  · rw [hr]; exact hm
  · rw [hr]; exact plain_page _ rfl
  · rw [hr]; decide +kernel
  · rw [hr]; rfl
/-- The exchange of the two bits, whose record lies in the same page, before it and when the map is to be written; the exchange of bit 0
with a device bit, whose partner is module 5, before and after its own half has left. -/
def swapping (n : Nat) : AmpOp := { ampHeld 3 [1, 0] [(0, 1)] with moved := n }
def parting (sent : Nat) : AmpOp :=
  { ampHeld 3 [2, 1, 0] [(0, 2)] with raw := 0x100203 :: (rawHeld.drop 1).take 15 ++ [5 * 2 ^ 32, 0], sentOut := sent }
/-- What the partner sends. -/
def half (count : Nat) : Transfer := { dev := 5, count := count, p := 2, q := 0, data := List.replicate 16 1, poisoned := [] }
theorem witness_AmplitudeEvents_exchange :
    (∀ n ∈ [0, 1], Exchanging (sited .exchanging (swapping n)) 3 (ampOp .exchanging (swapping n)) (swapping n) (fun _ => heldPage) mapSite) ∧
    ((swapping 0).swaps[(swapping 0).moved]? = some (0, 1) ∧ (swapping 0).incoming (0, 1) = [] ∧ LocalBits (swapping 0) (0, 1) ∧
      (swapping 1).swaps.length ≤ (swapping 1).moved ∧ (List.range 3).filter (fun i => i ∉ (swapping 1).mapParts) ≠ []) :=
  ⟨fun n hn => by
    refine exchanging_of _ ?_ rfl ?_
    all_goals revert n; decide +kernel, by unfold LocalBits; decide +kernel⟩
theorem witness_AmplitudeEvents_devices : let shut : KMap Port := (List.range 24).map fun i => (i, { lo := 9, hi := 8 })
    (∀ n ∈ [0, 1], Exchanging (sited .exchanging (parting n)) 3 (ampOp .exchanging (parting n)) (parting n) (fun _ => heldPage) mapSite) ∧
    ((parting 0).swaps[(parting 0).moved]? = some (0, 2) ∧ (parting 0).incoming (0, 2) ≠ [] ∧ (parting 0).sentOut ≤ (parting 0).moved ∧
      (parting 1).moved < (parting 1).sentOut ∧ (parting 0).partner (0, 2) = 5) ∧
    (route (sited .exchanging (parting 0)) 5 = .open_ ∧ route { sited .exchanging (parting 0) with ports := shut } 5 = .denied) ∧
    ((half 1).dev.toNat = (parting 1).partner (0, 2) ∧ (half 1).count = (parting 1).count ∧ (parting 1).accepts (half 1) (0, 2) = true ∧
      (parting 1).accepts { half 1 with data := [] } (0, 2) = false ∧ (half 1).poisoned = []) ∧
    ((parting 1).moved < (parting 1).swaps.length ∧
      (parting 1).began + Config.linkTimeout ≤ { sited .exchanging (parting 1) with cycle := Config.linkTimeout }.cycle) :=
  ⟨fun n hn => by
    refine exchanging_of _ ?_ rfl ?_
    all_goals revert n; decide +kernel, by decide +kernel⟩

end Sys2Proof.Machine
end

