-- ==== Sys2Proof/Tests/WitnessMachine.lean ====
section
/-! SUPPORT. States that meet the hypotheses of the statements about events of the fabric, the dispatcher and the host's side. -/

set_option maxRecDepth 20000
set_option Elab.async false

namespace Sys2Proof.Machine

/-! ## Fabric -/

/-- `demo` with an ingress table that admits the module page in fabric scope, with algebra. -/
def admitting : State := modPart (writeWord64 demo 0x8008 0x1209F) 0 fun p => { p with ingress := 0x2001 }
def packet (b : FabBody) : FabPacket := { dev := 9, group := 0, op := 4, issued := 0, context := 1, generation := 0, body := b }
theorem undisturbed_demo (s : State) (a n : Nat) (h : s.landing = [] ∧ s.regions = []) : Undisturbed s a n :=
  ⟨fun e he => absurd he (by rw [h.1]; exact List.not_mem_nil), fun r _ _ => by rw [h.2]; rfl⟩
theorem arrives_of (s : State) (p : FabPacket) (h : p.dev.toNat ≠ s.dev ∧ fabBytes p.body ≤ 256 ∧ packetWaits s p.body = false ∧
    s.cycle < p.issued + Config.packetLimit ∧ (p.dev.toNat, p.op, p.issued) ∉ s.handled ∧ ksorted s.parts = true) : Arrives s p := h
/-- The last bytes of the page read, written and operated on, and the first byte beyond; a packet that comes too late, and one that has
been handled. -/
theorem witness_FabricEvents_packets : let s := admitting
    (∀ b ∈ [FabBody.read 0x1FFF8 8, .write [(0x1FFFF, 1)] false, .alg 0 0x4040 true [(0x1FFFC, 1)], .read 0x20000 8], Arrives s (packet b)) ∧
    (∀ b ∈ [FabBody.read 0x1FFF8 8, .write [(0x1FFFF, 1)] false, .alg 0 0x4040 true [(0x1FFFC, 1)]], ∀ r ∈ fabRuns b,
      (refusal s b r = none ∧ inWindows r.1 = false) ∧ Undisturbed s r.1 r.2) ∧
    ((∀ i < slotSize 0x4040, isPoisoned s (.mem (0x1FFFC + i)) = false) ∧ inDiePads 0x1FFFC = false ∧ Quiet s 0x1FFFC ∧ Unmixed s 0x1FFF8 8 ∧
      Unclaimed s ((List.range (slotSize 0x4040)).map (0x1FFFC + ·)) ∧ Unclaimed s [0x1FFFF]) ∧
    (fabRuns (.read 0x20000 8) = [] ++ (0x20000, 8) :: [] ∧ refusal s (.read 0x20000 8) (0x20000, 8) = some (1, none) ∧
      refusalLog s 0x20000 none = some 0) ∧
    ((packet (.read 0 8)).issued + Config.packetLimit ≤ { s with cycle := Config.packetLimit }.cycle ∧
      (9, 4, 0) ∈ ({ s with handled := [(9, 4, 0)] } : State).handled) :=
  ⟨fun b hb => arrives_of _ _ (by revert b; decide +kernel), fun b hb r hr => ⟨by revert r; revert b; decide +kernel, undisturbed_demo _ _ _ ⟨rfl, rfl⟩⟩,
    by unfold Quiet Unmixed Unclaimed; decide +kernel, by decide +kernel, by decide +kernel⟩
/-- Operations that wait for module 9: a read, and a fence that nothing holds back, its device in order and failed. -/
def remoteBody (cmd : Nat) : FabricOp := { cmd := cmd, waiting := [9], addr := 0x2400000010000, first := [2] }
def remoteOp (st : OpState) (cmd : Nat) : Op := { cls := 3, group := 1, block := 0, part := 0, issued := 0, state := st, body := .fabric (remoteBody cmd) }
def remote (st : OpState) (cmd : Nat) (failed : Bool) : State :=
  let gs := (demoWith fun x => { x with xFailed := if failed then [(9, 2)] else [] }).groups
  { demo with groups := gs, ops := [(3, remoteOp st cmd)], cycle := Config.linkTimeout, outbound := [{ dest := 9, packet := packet (.read 0 4) }] }
theorem remote_dev (st : OpState) (cmd : Nat) (f : Bool) : 9 ≠ (remote st cmd f).dev := by
  have h : 9 ≠ demo.dev := by decide +kernel
  simpa only [remote] using h
theorem witness_FabricEvents_remote : (∀ st cmd f, cmd ≠ 6 → ∃ x, AwaitsOne (remote st cmd f) 3 (remoteOp st cmd) x 9 ∧ x.cmd = cmd) ∧
    ((remoteOp .pending 0).issued + Config.linkTimeout ≤ (remote .pending 0 false).cycle ∧ (remoteOp .pending 0).saved = false ∧
      devOf 0x2400000010000 = 9 ∧ (∀ f, fenceCovers (remote .queued 3 f) (remoteBody 3) 9 = true ∧ fenceClear (remote .queued 3 f) 1 3 9 = true)) ∧
    (route (remote .queued 3 false) 9 = .open_ ∧ ((grp (remote .queued 3 true)).xFailed.any fun e => e.1 == 9 && [2].contains e.2) = true ∧
      ((grp (remote .queued 3 false)).xFailed.any fun e => e.1 == 9 && [2].contains e.2) = false) ∧
    (∃ q, (remote .pending 0 false).outbound[0]? = some q ∧ q.packet.issued + Config.packetLimit ≤ Config.packetLimit) ∧
    -- a fence behind an operation that is not complete, and behind one whose packet has still to leave
    (let s := { remote .queued 3 false with ops := [(2, remoteOp .pending 1), (3, remoteOp .queued 3)] };
      fenceCovers s { remoteBody 3 with after := [2] } 9 = false) ∧
    (let s := { remote .queued 3 false with outbound := [{ dest := 9, packet := { packet (.read 0 4) with group := 1, op := 2 } }] };
      fenceClear s 1 3 9 = false) ∧
    (∃ q, ({ demo with contributions := [(9, contribution 0)] } : State).contributions[0]? = some q ∧
      q.2.issued + Config.packetLimit ≤ Config.packetLimit) ∧
    (let x := { remoteBody 4 with waiting := [8, 9] };
      9 ∈ x.waiting ∧ x.waiting.erase 9 ≠ [] ∧ x.cmd ≠ 6) :=
  ⟨fun _ _ _ h => ⟨_, ⟨rfl, ⟨rfl, rfl, h⟩, rfl, remote_dev _ _ _⟩, rfl⟩, by decide +kernel, by decide +kernel, ⟨_, rfl, by decide +kernel⟩, by decide +kernel, by decide +kernel,
    ⟨_, rfl, by decide +kernel⟩, by decide +kernel⟩
/-- A contribution to an empty slot, to the round before, to a round that it fits and to one that it does not; a round at its deadline; a
round of one rank whose result goes to the module page. -/
def reduceBody : FabricOp := { cmd := 6, control := 0x1000, addr := 0x10000, data := List.replicate 32 0 }
def reduceOp : Op := { cls := 3, group := 1, block := 0, part := 0, issued := 0, state := .queued, body := .fabric reduceBody }
def aRound (tag : DWord) : Round := { part := 0, ctx := 1, tag := tag, kept := [(1, { op := 3, data := List.replicate 32 0 })], deadline := 0 }
def reducing (d : DieSlot) : State := warm { demo with ops := [(3, reduceOp)], dieSlots := [(0, d)] }
theorem live_reducing (d : DieSlot) : Live (reducing d) 3 reduceOp .queued := by
  have e : coreOfBlock (reducing d) reduceOp.block = 0 := by
    have h : (reducing d).blocks = demo.blocks := rfl
    unfold coreOfBlock getBlock
    rw [h]
    decide +kernel
  exact ⟨rfl, ⟨rfl, rfl, rfl⟩, .inr (by decide +kernel), (by rw [e]; rfl), .inl rfl⟩
theorem witness_FabricEvents_dred : let x := reduceBody
    (∀ d, Live (reducing d) 3 reduceOp .queued ∧ getSlot (reducing d) 0 = d) ∧
    (reduceOp.body = .fabric x ∧ fld x.control 0 7 = 0 ∧ fld x.control 24 8 = 0 ∧ fld x.control 18 6 = 0 ∧ 2 ≤ reduceOp.cls) ∧
    ((aRound (dredTag 0x1000)).tag = dredTag 0x1000 ∧ kfind (aRound 0).kept 0 = none ∧ (aRound 0).tag ≠ dredTag 0x1000 ∧
      (ctxOfBlock (reducing {}) (getBlock (reducing {}) 0)).id = 1 ∧ (aRound 0).deadline ≤ demo.cycle) ∧
    (let s := reducing { round := some { aRound 0 with writing := true } };
      engineLocate s reduceOp 0x10000 .write = (s, .at_ heldPage) ∧ attrAE heldPage.attr = false ∧ 3 ≤ attrScope heldPage.attr ∧
        inDiePads heldPage.pa = false ∧ inApertures heldPage.pa = false ∧ runAllowed s heldPage 144 true = true ∧
        Unclaimed s ((List.range 144).map (heldPage.pa + ·))) :=
  ⟨fun d => ⟨live_reducing d, rfl⟩, by decide +kernel, by decide +kernel, by unfold Unclaimed; decide +kernel⟩
theorem witness_FabricEvents : (kgetD demo.ports 23 {}).failed = false := by decide +kernel

/-! ## Dispatcher -/

/-- Queue 0 of partition 0 with one packet, launch 1 of graph 1, an open graph 1 in phase 2. -/
def queued (w : List DWord) (ls : KMap Launch) : State := modPart demo 0 fun p => { p with
  lq := [(0, 0x8000000000000001)], rings := [(0, [{ words := w }])], launches := ls, nextLaunch := 5, poolHead := 0x10800, poolLeft := 1
  ctx := { p.ctx with levels := [(levelKey 1 1, { phase := 2, counter := 1 }), (levelKey 2 2, { counter := 2 })] } }
/-- A launch of one block of 112 registers in graph 1, with its ranges in the page. -/
def launchWords (ranges : Nat) (d0 : DWord) : List DWord :=
  [d0 ||| BitVec.ofNat 64 (ranges * 2 ^ 48) ||| 0xD0000000000, 0, 0x10000, 0, 0, 0, 1, if ranges = 0 then 0 else 0x10400]
theorem witness_SchedEvents_launch : let w := launchWords 0 0
    let s := queued w []
    headPacket s 0 0 = some w ∧ pkKind w = 0 ∧ launchFieldsOk w = true ∧ readRanges s 0 w = some [] ∧
    levelsOpen (getPart s 0).ctx [(1, pkGraph w), (2, pkPhase w), (3, pkJob w)] = true ∧ stageOk (getPart s 0).ctx w = true ∧
    (placeIn w Room.empty).isSome = true ∧ pkCoop w = false ∧ pkParent w = 0 ∧ tableUsed (getPart s 0) + 0 ≤ 4096 ∧
    launchAt s 0 (getPart s 0).nextLaunch = none ∧
    -- the rejections, in their order
    pkKind (launchWords 0 4) = 4 ∧ launchFieldsOk (launchWords 0 0x8000) = false ∧
    (placeIn (launchWords 0 0x1F00000000) Room.empty).isSome = false ∧
    (pkCoop ((launchWords 0 0x400).set 1 0xFFFFFFFF) = true ∧
      blocksPerCore ((launchWords 0 0x400).set 1 0xFFFFFFFF) 64 Room.empty * (40 * 1) < pkGrid ((launchWords 0 0x400).set 1 0xFFFFFFFF)) ∧
    (pkParent ((launchWords 0 0).set 5 3) = 3 ∧ launchAt s 0 3 = none) := by decide +kernel
/-- The page's range record at 0x10400: the page at 0x10000, written and renamed. -/
def ranged (ls : KMap Launch) : State := writeWord64 (writeWord64 (queued (launchWords 1 0) ls) 0x10400 0x300000000010000) 0x10408 0x10000
def theRange : Range := { base := 0x10000, len := 0x10000, w := true, rn := true }
theorem witness_SchedEvents_ranges : readRanges (ranged []) 0 (launchWords 1 0) = some [theRange] ∧ theRange.rn = true ∧
    (∀ m, ¬ ConflictsWith (ranged []) 0 1 theRange m) ∧
    (∃ m, ConflictsWith (ranged [(3, { packet := launchWords 1 0, queue := 0, ctx := 1, ranges := [theRange] })]) 0 1 theRange m) ∧
    1 ≤ (getPart (ranged []) 0).poolLeft ∧ (∃ pte e, walkRoot (ranged []) (getPart (ranged []) 0).ctx.ptroot 0x10000 = .leaf 4 pte e) := by
  refine ⟨by decide +kernel, rfl, ?_, ⟨3, _, List.mem_cons_self .., rfl, rfl, by decide +kernel, theRange, List.mem_cons_self .., by decide +kernel, by decide +kernel, .inl rfl⟩,
    by decide +kernel, ⟨0x8008, 0x1007F, by decide +kernel⟩⟩
  rintro m ⟨l, hl, -⟩
  have : (getPart (ranged []) 0).launches = [] := by decide +kernel
  rw [this] at hl
  exact absurd hl List.not_mem_nil
/-- A cancel of a launch, live and not there; of a level, open and not; an open packet of phase 7 that may be and one of a level that is
open; a close of a level with two items, of one with its last, and of one that is not open. -/
def control (d0 d6 : DWord) : List DWord := [d0, 0, 0, 0, 0, if d6 = 0 then 3 else 0, d6, 0]
theorem witness_SchedEvents_control : let live : KMap Launch := [(3, { packet := launchWords 0 0, queue := 0, ctx := 1 })]
    (∀ w ∈ [control 1 0, control 0x201 0x20000, control 0x202 0x70000, control 0x203 0x20000], headPacket (queued w live) 0 0 = some w ∧ pk w 0 10 54 = 0) ∧
    (pkKind (control 1 0) = 1 ∧ pkLevel (control 1 0) = 0 ∧ zeroWords (control 1 0) [1, 2, 3, 4, 6, 7] = true ∧ pkParent (control 1 0) = 3 ∧
      liveLaunch (getPart (queued (control 1 0) live) 0) 3 ≠ none ∧ liveLaunch (getPart (queued (control 1 0) []) 0) 3 = none) ∧
    (pkLevel (control 0x201 0x20000) = 2 ∧ zeroWords (control 0x201 0x20000) [1, 2, 3, 4, 5, 7] = true ∧ ownOnly (control 0x201 0x20000) = true ∧
      ownId (control 0x201 0x20000) = 2 ∧ (levelAt (queued (control 0x201 0x20000) live) 0 (levelKey 2 2)).isSome = true ∧
      levelAt (queued (control 0x201 0x30000) live) 0 (levelKey 2 3) = none) ∧
    (openOk (getPart (queued (control 0x202 0x70000) live) 0).ctx (control 0x202 0x70000) = true ∧
      openOk (getPart (queued (control 0x202 0x20000) live) 0).ctx (control 0x202 0x20000) = false) ∧
    (pkKind (control 0x203 0x20000) = 3 ∧ ownOnly (control 0x203 0x20000) = true ∧ ownOnly (control 0x103 1) = true ∧
      (levelAt (queued (control 0x203 0x20000) live) 0 (levelKey 2 2)).map (·.counter) = some 2 ∧
      (levelAt (queued (control 0x103 1) live) 0 (levelKey 1 1)).map (·.counter) = some 1 ∧
      outerLevel (levelKey 1 1) { phase := 2 } = some (levelKey 2 2) ∧ outerLevel (levelKey 2 2) {} = none) := by decide +kernel
/-- A block of a set of launch 3 that is kept for its mates, which have all retired. -/
theorem witness_SchedEvents_kept : let s := { queued (control 1 0) [(3, { packet := launchWords 0 0, queue := 0, ctx := 1 })] with
      blocks := [(4, { part := 0, launch := 3, retired := true })] }
    ksorted s.blocks = true ∧ ∃ e ∈ s.blocks, e.2.part = 0 ∧ e.2.launch = 3 ∧ e.2.retired = true ∧
      ∀ k ∈ setMates s e.1, (getBlock s k).retired = true := by decide +kernel
/-- A launch that may be placed on the last core of the die, and one whose two blocks stand on two cores of its last cluster; one that is
over; a rename that may be committed, and its old frame. -/
def placing (w : List DWord) : State := queued [] [(3, { packet := w, queue := 0, ctx := 1 })]
/-- Launch 3 of a state. -/
def third (s : State) : Launch := (launchAt s 0 3).getD { packet := [], queue := 0, ctx := 0 }
def setWords : List DWord := (launchWords 0 0x100000).set 1 1
def overLaunch : Launch := { packet := (launchWords 0 0).set 6 0, queue := 0, ctx := 1, retired := 1 }
def overState : State := queued [] [(3, overLaunch)]
theorem noRival_placing (w : List DWord) (cores : List Nat) (h : (getPart (placing w) 0).launches.map (·.1) = [3]) :
    NoRival (placing w) 0 3 (third (placing w)) cores := by
  intro m x hm hn
  have : m ∈ (getPart (placing w) 0).launches.map (·.1) := List.mem_map_of_mem (f := (·.1)) hm
  rw [h] at this
  exact absurd (by simpa using this) hn
theorem witness_SchedEvents_placement : NoRival (placing (launchWords 0 0)) 0 3 (third (placing (launchWords 0 0))) [39] ∧
    NoRival (placing setWords) 0 3 (third (placing setWords)) [38, 39] ∧
    (∀ w ∈ [launchWords 0 0, setWords], let s := placing w
      launchAt s 0 3 = some (third s) ∧ (getPart s 0).formed = true ∧ placeable s 0 3 (third s) = true ∧ (third s).requeued = []) ∧
    (let s := placing (launchWords 0 0);
      pkSpan (third s).packet = 1 ∧ pkCoop (third s).packet = false ∧ fitsOn s 0 (third s).packet 39 = true ∧
        (placeIn (third s).packet (roomOf s 39)).isSome = true) ∧
    (let s := placing setWords;
      pkSpan (third s).packet = 2 ∧ nextBlocks (third s) = [0, 1] ∧ keptMates s 0 3 = [] ∧ (38 ≠ 39 ∧ clusterOfCore 38 = clusterOfCore 39) ∧
        (placeAll s 0 3 (third s) [(0, 38), (1, 39)]).isSome = true) :=
  ⟨noRival_placing _ _ (by decide +kernel), noRival_placing _ _ (by decide +kernel), by decide +kernel⟩
/-- What the completion of a launch of partition 0 makes visible first. -/
def beforeCompletion (s : State) : State :=
  applyWhere (flushCaches (performPart s 0) (fun c => (getPart s 0).dies.contains (cacheDie c)) false) fun e => e.part == 0
/-- The status of one that failed, one that was cancelled with a block unrun, and one whose predecessor was. -/
theorem witness_SchedEvents : let s1 := beforeCompletion overState
    (launchAt overState 0 3 = some overLaunch ∧ launchOver overLaunch = true ∧ overLaunch.shadow = false ∧ launchLevel overLaunch.packet = none ∧
        pkParent overLaunch.packet ≠ 3 ∧ partPending s1 0 = false ∧ (getPart s1 0).launches = (getPart overState 0).launches) ∧
    (StatusOf overState 0 overLaunch 0 ∧ StatusOf overState 0 { overLaunch with failed := true } 5 ∧
      StatusOf overState 0 { overLaunch with cancelled := true, unrun := 1 } 4 ∧ StatusOf overState 0 { overLaunch with predGone := true } 5) ∧
    ({ demo with cycle := 4096 }.cycle / 4096 ≠ (getDie demo 0).govTick ∧ dieRuns demo 0 = true ∧ partOfDie demo 0 = some 0 ∧ partOfDie demo 7 = none) :=
  ⟨by decide +kernel, by simp [StatusOf, overLaunch], by decide +kernel⟩
def renamedLaunch : Launch := { overLaunch with complete := true, ranges := [{ theRange with fresh := [(1, 0x30000)] }] }
def renamingState : State := queued [] [(3, renamedLaunch)]
theorem witness_SchedEvents_renames : launchAt renamingState 0 3 = some renamedLaunch ∧ renamedLaunch.complete = true ∧
    renamedLaunch.ranges.find? Range.renamed = some { theRange with fresh := [(1, 0x30000)] } ∧
    earlierUsers (getPart renamingState 0) 3 { theRange with fresh := [(1, 0x30000)] } = [] ∧
    partPending (performPart renamingState 0) 0 = false ∧ (getPart (performPart renamingState 0) 0).launches = (getPart renamingState 0).launches ∧
    walkRoot (performPart renamingState 0) (getPart (performPart renamingState 0) 0).ctx.ptroot 0x10000 = .leaf 4 0x8008 0x1007F ∧
    (performPart renamingState 0).regions = [] ∧ (performPart renamingState 0).landing = [] ∧ 0x30000 % 65536 = 0 ∧
    (∀ r ∈ overLaunch.ranges, Range.renamed r = false) ∧ ({ overLaunch with oldFrames := [0x10000] } : Launch).oldFrames = [0x10000] := by
  decide +kernel
/-- A graph of two stages whose occupancy word lies at the start of the share: at HIGH, at LOW and between. -/
def governed (lo hi : Nat) : State := modCtx { demo with cycle := 4096 } 0 false fun c => { c with
  dpad := 1, levels := [(levelKey 1 1, { rings := [(0, lo, hi)], quota := [(0, 2), (1, 2)] })] }
theorem witness_SchedEvents_governor : let n := readLE (governed 0 0) (.mem Config.diePadBase) 4
    n = 0 ∧ (share (getPart (governed 0 0) 0).ctx).2 = 65536 ∧ isPoisoned (governed 0 0) (.mem Config.diePadBase) = false ∧
    (levelAt (governed 0 1) 0 (levelKey 1 1)).map (·.rings) = some [(0, 0, 1)] ∧ (0 ≤ n ∧ n < 1 ∧ n ≤ 0) := by decide +kernel

/-! ## Host -/

/-- The module page granted to the host, its firmware running. -/
def hosting : State := { demo with grants := [(0, { base := 0x10000, size := 0x10000, r := true, w := true })], firmware := { demo.firmware with running := true } }
theorem witness_PlatformEvents : Undisturbed hosting 0x1FFF8 8 ∧ (hosting.firmware.running = true ∧ hosting.linkUp = true) ∧
    (Granted hosting 0x1FFF8 8 false ∧ Granted hosting 0x1FFF8 8 true ∧ HostReaches 0x1FFF8 8 ∧ ¬ Granted hosting 0x1FFF9 8 false ∧
      ¬ Granted hosting 0x1FFF9 8 true) ∧
    ((inDiePads 0x1FFF8 = true → dieAnswer hosting (diePadOf 0x1FFF8) = .served) ∧
      (∃ i < 8, isPoisoned { hosting with poison := [0x7FF] } (.mem (0x1FFF8 + i)) = true) ∧
      (∀ i < 8, isPoisoned hosting (.mem (0x1FFF8 + i)) = false ∧ mixed hosting (0x1FFF8 + i) = false)) ∧
    ((getPart hosting 0).formed = true ∧ ¬ HostIdle hosting 0 ∧ HostIdle { hosting with groups := [] } 0 ∧ (∀ e ∈ State.reset.parts, e.2.formed = false) ∧
      4 * (1 + 1) ≤ 8 ∧ 0 ∈ (getPart hosting 0).dies ∧ diesOfMask 1 = [0] ∧ partDies 0 1 = some [0]) :=
  ⟨undisturbed_demo _ _ _ ⟨rfl, rfl⟩, by decide +kernel, by unfold Granted HostReaches; decide +kernel, by decide +kernel, by unfold HostIdle; decide +kernel⟩
/-- A die that is still hot and one that has cooled; a dirty line; a mean over the cap and at it; what the host reads. -/
theorem witness_PlatformEvents_dies : let s := { hosting with dies := [(3, { tripped := true, hot := true, trippedAt := 5, dirty := [0x200] }), (4, { tripped := true })] }
    ((getDie s 3).tripped = true ∧ (getDie s 3).hot = true ∧ (getDie s 4).tripped = true ∧ (getDie s 4).hot = false) ∧
    (siteExists s (.l2 3 0x200) = true ∧ siteExists s (.l2 3 0x201) = true ∧ 0x200 ∈ (getDie s 3).dirty ∧ 0x201 ∉ (getDie s 3).dirty ∧
      entriesUnderWay s = []) ∧ s.powerCap < s.powerCap + 1 ∧
    ((getPart s 0).formed = true ∧ Legal.sysListed 0xFFF = false ∧ kfind s.grants 0 = some { base := 0x10000, size := 0x10000, r := true, w := true }) ∧
    (HostIdle { s with groups := [] } 0 ∧ 3 ∉ (getPart s 0).dies ∧ 0 ∈ (getPart s 0).dies ∧ fld (7 : DWord) 0 4 = 7 ∧ fld (0x101 : DWord) 0 4 ≠ 7) := by
  unfold HostIdle; decide +kernel
/-- An image under the last key of the oldest version that may run; one that no key verifies, one under a revoked key, one too old. -/
theorem witness_PlatformEvents_images : let f := { demo.firmware with rollback := 1, revoked := 2 }
    let runs := fun (key : Option (BitVec 2)) (i : FirmwareImage) => ∃ k, key = some k ∧ f.revoked.getLsbD k.toNat = false ∧ f.rollback ≤ i.version.toNat
    runs (some 3) { version := 1, digest := 7 } ∧ ¬ runs none { version := 1, digest := 7 } ∧
      ¬ runs (some 1) { version := 1, digest := 7 } ∧ ¬ runs (some 3) { version := 0, digest := 7 } := by
  refine ⟨⟨3, rfl, by decide +kernel⟩, ?_, ?_, ?_⟩
  · rintro ⟨k, h, -⟩; cases h
  · rintro ⟨k, h, hr, -⟩; cases h; revert hr; decide +kernel
  · rintro ⟨k, h, -, hv⟩; cases h; revert hv; decide +kernel
/-- Sites that exist, the last of each sort; a die of a partition and one of none; a point that settles; a supply that comes up. -/
theorem witness_PlatformEvents_errors : ((∀ e ∈ [ErrSite.corePad 0 63, .accumulator 0 0 31, .registerFile 0, .groupState 0, .l1 319 0, .icache 319 0,
      .l2 7 0, .tlb 319 0xFFFFFFFFFFFFFF, .hbm 0, .landing 0x10000], siteExists demo e = true) ∧
      siteExists (modBlock demo 0 fun b => { b with shadow := true }) (.shadowBank 0) = true ∧
      siteExists driftHeld (.deltaLine (.l1 0) (0x1FFFC / 512)) = true ∧ (kfind demo.blocks 0).isSome = true) ∧
    ((getDie demo 7).state ≠ 7 ∧ partOfDie demo 7 = none ∧ partOfDie demo 0 = some 0 ∧
      ({ getDie demo 0 with change := some (3, 22000) } : Die).change = some (3, 22000) ∧ (getDie demo 0).tripped = false ∧ demo.powerCap < 2801) ∧
    (({ demo with supplied := false } : State).supplied = false ∧ (0 : Byte).toNat < ({ demo.firmware with rollback := 1 } : Firmware).rollback ∧
      demo.firmware.rollback ≤ (255 : Byte).toNat) := by decide +kernel

end Sys2Proof.Machine
end

