-- ==== Sys2Proof/Tests/WitnessRuns.lean ====
section
/-! SUPPORT. States that meet the hypotheses of the statements about the step, the encoding and the invariant. -/

set_option maxRecDepth 20000
set_option Elab.async false

namespace Sys2Proof.Machine

/-- The module page's code begins with `bs`; its translation is held, and group 1 issues next. -/
def coded (bs : List Byte) : State :=
  let s := warm (placeBytes demo 0x10000 bs)
  { s with current := none, schedule := [.issue 1 1] }
/-- The state in which its cycle has passed, and that in which it fetches. -/
def passed (bs : List Byte) : State := passTime { coded bs with schedule := [] } 1
def fetching (bs : List Byte) : State := { passed bs with
  current := some 1, groups := kmodify (passed bs).groups 1 fun y => { y with lastIssue := (passed bs).cycle } }
/-- A legal word, a compact one, an illegal word and an illegal half. -/
theorem witness_StepRunsDecoded : ∀ bs ∈ [leBytes 4 0x3A810201, leBytes 2 (encode .nop), leBytes 4 0xFFFFFFFF, leBytes 2 0xFFFE],
    Selected (coded bs) 1 1 [] 1 (grp (passed bs)) (passed bs) (fetching bs) ∧ Fetches (fetching bs) 1 (grp (passed bs)).pc.toNat heldPage ∧
    Fetches (fetching bs) 1 ((grp (passed bs)).pc.toNat + 2) { heldPage with pa := 0x10002 } ∧
    ∃ s2 f, fetchAt (fetching bs) 1 (grp (passed bs)).pc.toNat = (s2, f) := by
  have h : ∀ bs ∈ [leBytes 4 0x3A810201, leBytes 2 (encode .nop), leBytes 4 0xFFFFFFFF, leBytes 2 0xFFFE], let s0 := passed bs
      (selectGroup s0 (slotGroups s0 (coreOf s0 1) (getGroup s0 1).place) = some 1 ∧ kfind s0.groups 1 = some (grp s0) ∧
        (haltReady (grp s0) = false ∧ takePending s0 1 = none) ∧ available s0 1 = true ∧ issueHeld s0 1 = false) ∧ (grp s0).pc.toNat = 0x10000 ∧
      (∀ k ∈ [0, 2], (translate (fetching bs) (spaceOf (fetching bs) 1) (0x10000 + k) .fetch 2).1 = fetching bs ∧
        (translate (fetching bs) (spaceOf (fetching bs) 1) (0x10000 + k) .fetch 2).2.toOption = some { heldPage with pa := 0x10000 + k } ∧
        isPoisoned (fetching bs) (.mem (0x10000 + k)) = false) ∧ 3 ≤ attrScope heldPage.attr := by decide +kernel
  intro bs hb
  obtain ⟨⟨h1, h2, h3, h4⟩, hpc, ht, hs⟩ := h bs hb
  have fetches : ∀ k ∈ [0, 2], Fetches (fetching bs) 1 (0x10000 + k) { heldPage with pa := 0x10000 + k } := by
    intro k hk
    obtain ⟨t1, t2, t3⟩ := ht k hk
    refine ⟨?_, t3, hs⟩
    generalize translate (fetching bs) (spaceOf (fetching bs) 1) (0x10000 + k) .fetch 2 = r at t1 t2 ⊢
    obtain ⟨s, c⟩ := r
    cases c with
    | error e => cases t2
    | ok p =>
      simp only [Except.toOption, Option.some.injEq] at t2
      simp only at t1
      rw [t1, t2]
  rw [hpc]
  exact ⟨⟨rfl, rfl, h1, h2, h3, h4, rfl⟩, fetches 0 (by simp), fetches 2 (by simp), _, _, rfl⟩
/-- `fetching` where the group stands at `pc`. -/
def fetchingAt (pc : DWord) : State := modGroup (fetching []) 1 fun x => { x with pc := pc }
/-- Its leaf without X. -/
def sealedLeaf : TlbEntry := { warmLeaf with leaf := warmLeaf.leaf - 16 }
/-- A page that is not mapped, one that is not executable, and one with poison. -/
theorem witness_StepRunsDecoded_faults : let s := handled (fetchingAt 0x20000)
    let sealed := { handled (fetchingAt 0x10000) with cores := [(0, { tlb := [sealedLeaf] })] }
    let bad := { handled (fetchingAt 0x10000) with poison := [0x400] }
    (∃ kind, LeafOf s (spaceOf s 1) 0x20000 (fun _ => false) (.error kind)) ∧
    LeafOf sealed (spaceOf sealed 1) 0x10000 (fun _ => false) (.ok (sealedLeaf.leaf, 16)) ∧ sealedLeaf.leaf.testBit 4 = false ∧
    ((kfind (translate s (spaceOf s 1) 0x20000 .fetch 2).1.groups 1).isSome = true ∧ vectorOf (translate s (spaceOf s 1) 0x20000 .fetch 2).1 1 ≠ 0) ∧
    (vectorOf (translate sealed (spaceOf sealed 1) 0x10000 .fetch 2).1 1 ≠ 0) ∧
    (∃ p, (translate bad (spaceOf bad 1) 0x10000 .fetch 2).2.toOption = some p ∧
      isPoisoned (translate bad (spaceOf bad 1) 0x10000 .fetch 2).1 (.mem p.pa) = true) :=
  ⟨⟨_, .walked (by decide +kernel) (by decide +kernel)⟩, .held sealedLeaf (by decide +kernel) fun h => absurd h Bool.false_ne_true,
    by decide +kernel, by decide +kernel, by decide +kernel, heldPage, by decide +kernel⟩
theorem witness_StepRunsDecoded_words : bitAt (codeByte (fetching (leBytes 4 0x3A810201)) heldPage 0).toNat 0 = true ∧
    bitAt (codeByte (fetching (leBytes 2 (encode .nop))) heldPage 0).toNat 0 = false ∧
    (decode (leBytes 4 0x3A810201)).isSome = true ∧ (decode (leBytes 2 (encode .nop))).isSome = true ∧ decode (leBytes 4 0xFFFFFFFF) = none ∧
    decode (leBytes 2 0xFFFE) = none ∧ bitAt (codeByte (fetching (leBytes 2 0xFFFE)) heldPage 0).toNat 0 = false := by decide +kernel
/-- No turn named, nothing due, one group that may be selected. -/
theorem witness_StepRunsDecoded_default : let s := { coded [] with schedule := [] }
    s.schedule = [] ∧ firstDue s (dueEvents s) = none ∧ longest s ((kkeys s.groups).filter (selectable s)) = some 1 := by decide +kernel

theorem witness_DecodeEncode : (Instr.addI32 111 125 127 3 true).bytes ≠ 0 ∧ (Instr.addI32 104 96 96 3 true).wellFormed = true ∧
    (∀ d a, ¬ IsDieCtl (.addI32 104 96 96 3 true) d a) ∧ IsDieCtl (.dieCtlResume 63 63) 63 63 ∧ (decode (leBytes 2 (encode .nop))).isSome = true :=
  ⟨by decide +kernel, by decide +kernel, (fun _ _ h => nomatch h), .resume _ _, by decide +kernel⟩

/-- A state with bytes in memory and a buffered line, from which a step goes on. -/
theorem witness_InvKept : let s := { coded (leBytes 2 (encode .nop)) with
      cores := [(0, { tlb := [warmLeaf], wcb := [{ line := 0x200, bytes := [(0x1007F, 1)], groups := [1], scope := 3, last := 0, page := 1 }] })] }
    Sys2Proof.Machine.Inv s ∧ ∃ t, step s = .next t := by
  refine ⟨⟨by decide +kernel, ?_⟩, ?_⟩
  · intro c
    by_cases hc : c = 0
    · subst hc
      unfold LineOk; decide +kernel
    · have : (getCore { coded (leBytes 2 (encode .nop)) with
          cores := [(0, { tlb := [warmLeaf], wcb := [{ line := 0x200, bytes := [(0x1007F, 1)], groups := [1], scope := 3, last := 0, page := 1 }] })] } c).wcb = [] := by
        simp [getCore, kgetD, kfind, Ne.symm hc]
      rw [this]
      simp
  · have h : ∀ o : Outcome, (match o with | .next _ => true | _ => false) = true → ∃ t, o = .next t := by
      intro o ho
      cases o <;> simp_all
    exact h _ (by decide +kernel)

end Sys2Proof.Machine
end

