-- ==== Sys2Proof/Tests/Machine.lean ====
section
/-! SUPPORT. One step of one instruction or event: memory, pads, algebra, drift, waits, gates, engines, privileged instructions, and
what the rest of the module does; results worked out by hand from the rules. -/

set_option maxRecDepth 20000
set_option Elab.async false

namespace Sys2Proof.Machine

/-- Bytes of memory, of the block's pad, of its lane slices. -/
def memAt (s : State) (a n : Nat) : Nat := readLE s (.mem a) n
def padAt (s : State) (o n : Nat) : Nat := readLE s (.pad 0 o) n

/-! ## Pads and translation registers (R92 to R94, R101) -/

/-- Lane 0 stores at offset 8 and lane 1 at 16; the group sees its stores, and the bytes change when they take effect. -/
theorem test_pad_store : (let t := after (.stp 3 2 4 1 0) (demoV 8 16 0x11223344 0x55667788);
    ([8, 16].map fun o => seenValue t 1 ((Loc.pad 0 o).run 4), padAt t 8 4, padAt (after (.storeTakesEffectAtHome 0) t) 8 4)) =
    ([0x11223344, 0x55667788], 0, 0x11223344) := by decide +kernel
/-- A byte sign-extended, the same zero-extended, a halfword. -/
theorem test_pad_load : [0, 1, 2, 3].map (fun sz => inFlight0 (modBlock demo 0 fun b => { b with pad := [(0, 0x80), (1, 0xFF)] })
    (.ldp 1 2 sz 1 0)) = [[0x80], [0xFFFFFF80], [0xFF80], [0xFFFFFF80]] := by decide +kernel
theorem test_xset : (let x := (grp (after (.xsetCap 1 1 2) (demoS 0x10040 0x20))).xreg 1; (x.base, x.frame, x.limit)) = (0x10040, 0x10040, 0x20) := by
  decide +kernel

/-! ## Global memory (R102, R103) -/

/-- A store waits in its line of the write-combining buffer; the line drains; the store takes effect at its home. -/
theorem test_store : ((getCore (after (.st 2 2 1 4 0) (demoX 0x10000 8)) 0).wcb.map fun l => (l.line, l.bytes.map (·.1))) =
    [(0x200, [0x10008, 0x10009, 0x1000A, 0x1000B])] := by decide +kernel
theorem test_drain : (let t := after (.wcbDrain 0 0) storing; ((getCore t 0).wcb.length, t.stores.map fun n => n.bytes.length)) =
    (1, [1, 1, 0, 1, 2]) := by decide +kernel
theorem test_takes_effect : memAt (after (.storeTakesEffectAtHome 0) storing) 0x10000 4 = 9 := by decide +kernel
/-- s3 := the doubleword at s1 + s2; a store of s2. -/
theorem test_sld : (getGroup (after (.sld 3 1 2 false) (placeBytes (demoS 0x10000 8) 0x10008 [5, 0, 0, 0, 0, 0, 0, 0x80])) 1).inFlight.map
    (fun e => e.2.s) = [some (3, 0x8000000000000005)] := by decide +kernel

/-! ## Landings (R195 to R203) -/

/-- A pending store is applied; a sum of N64 with operand 1; a load changes nothing. -/
theorem test_landing_apply : [17, 0, 16].map (fun op => memAt (after (.landingApply 0x10000 8 []) (atLanding op)) 0x10000 8) = [7, 1, 0] := by
  decide +kernel
/-- Two entries of a sum: the earlier one merged with the later, dropped before it, swapped with it (R193). -/
theorem test_landing_steps : [LandStep.merge 0, .absorb 0, .swap 0].map (fun k =>
    memAt (after (.landingApply 0x10000 8 [k]) (atLanding 0)) 0x10000 8) = [2, 1, 1] := by decide +kernel
/-- An operation of two lanes on one word is on its way, and the group goes on. -/
theorem test_alg_op : (let t := after (.algOp 4 2 1 0 15 false) algebraPage; (t.sent.all fun e => e.addr == 0x1FFF8 && e.op == 15, pcOf t)) =
    (true, 0x10008) := by decide +kernel

/-! ## Waits and gates (R131, R136 to R141) -/

theorem test_sleep : (grp (after (.sleep 3 true) { demo with cycle := 5 })).status = .blocked (.sleep 53) := by decide +kernel
/-- One class-x operation counted beyond 1 lets wait.oc pass; beyond 0 it waits. -/
theorem test_wait_oc : (let s := { waiting with ops := [(6, fabOp)] };
    ((grp (after (.waitOc 1 true 3) s)).status, (grp (after (.waitOc 0 true 3) s)).status)) =
    (.ready, .blocked (.oc 3 0 none)) := by decide +kernel
/-- The arrival of both participants of phase 0 flips the phase and reloads the counts; one of one participant does not. -/
theorem test_gate_arrive : (let x := readGate (after (.gateArrive 1 2) gated) (gatePlace gated 0xFF0); (x.phase, x.pendArr, x.gen)) =
    (true, 2, 255) := by decide +kernel
theorem test_gate_arrive_one : (let x := readGate (after (.gateArrive 1 3) (modGroup gated 1 fun x => { x with s := kput x.s 3 1 })) (gatePlace gated 0xFF0);
    (x.phase, x.pendArr)) = (false, 1) := by decide +kernel
theorem test_gate_wait : ((grp (after (.gateWait 1 0) gated)).status, pcOf (after (.gateWait 1 3)
    (modGroup gated 1 fun x => { x with s := kput x.s 3 1 }))) = (.blocked (.gate 0xFF0 false), 0x10004) := by decide +kernel

/-! ## Traps, critical sections, exit (R149, R330) -/

theorem test_critical : ((grp (after .critOn demo)).critical, (grp (after .critOff (demoWith fun x => { x with critical := true }))).critical) =
    (true, false) := by decide +kernel
theorem test_exit : (grp (after .exit demo)).status = .exited := by decide +kernel
/-- A privileged instruction in user mode takes trap 5 (R39). -/
theorem test_user_mode : (trapOf (after (.sysrd 3 6) (handled demo)), pcOf (after (.sysrd 3 6) (handled demo))) = (5, 0x40140) := by decide +kernel
/-- The return restores the mode, the lanes and the program counter (R299). -/
theorem test_fret : (let x := grp (after .fret (modGroup (super []) 1 fun x => { x with trap := { pc := 0x12344, em := 3, cause := 0xD } }));
    (x.pc, x.em, x.sup)) = (0x12344, 3, false) := by decide +kernel

/-! ## System registers and page maintenance (R292 to R297) -/

theorem test_sysrd : sv (after (.sysrd 3 0x041) (super [])) 3 = 0x2001 := by decide +kernel
theorem test_syswr : (getPart (after (.syswr 0x043 1) (super [(1, 0x80040)])) 0).ctx.trapVec = 0x80040 := by decide +kernel
/-- All addresses: a translation register loses its frame, its limit and its attributes and keeps its base (R296, R312). -/
theorem test_xinval : (let r := (grp (after (.xinval 2) (modGroup (super [(2, 3)]) 1 fun x => x.setX 1
    { base := 0x10000, frame := 0x20000, limit := 64, attr := 0x7F }))).xreg 1; (r.base, r.limit, r.attr)) = (0x10000, 0, 0) := by decide +kernel

/-! ## Engines (R151 to R161, R173) -/

/-- Issue puts one operation of its class behind the group's others. -/
theorem test_issue : ([Instr.mxZero 0, .mxRead 0 0].map fun i => (after i matrixed).ops.map fun o => (o.2.cls, o.2.group)) =
    [[(1, 1)], [(1, 1)]] := by decide +kernel
theorem test_ferry_issue : (after (.fyFill 3 0 5) ferried).ops.map (fun o => (o.2.cls, o.2.group)) = [(0, 1)] := by decide +kernel
/-- A reference that names no place is trap 3. -/
theorem test_ferry_trap : trapOf (after (.fyFill 5 0 5) ferried) = 3 := by decide +kernel

/-! ## The platform (R345 to R357) -/

theorem test_power_cap : ([100, 300, 900].map fun w => (after (.powerCapWrite w) demo).powerCap) = [300, 300, 900] := by decide +kernel
theorem test_evt_clear : (getPart (after (.sysEvtClear 0 1) (modCtx demo 0 false fun c => { c with evt := 3 })) 0).ctx.evt = 2 := by decide +kernel
theorem test_trap_entry : (let x := grp (after (.trapEntry 1) trapping); (x.pc, x.trap.vaddr, x.sup)) = (0x40180, 8, true) := by decide +kernel
theorem test_result : v0 (after (.resultArrival 1 5 0) flying) 1 = 7 := by decide +kernel

/-- `step` decodes what stands at the program counter: smov s3, 5. -/
theorem test_step : (match step (State.withFetchWord State.reset 32 (encode (.smov 3 5 true))) with
    | .next t => (getGroup t 1).sreg 3
    | _ => 0) = 5 := by decide +kernel

end Sys2Proof.Machine
end

section
/-! What memory traffic leaves alone: the clock, and every group but for its results in flight. A translation settles what its group has
sent to the entries that its walk reads (R309), so this covers stores and entries taking effect, the landings and the drift regions. -/

namespace Sys2Proof.Machine

/-- A group apart from its results in flight. -/
def Group.apart (x : Group) : Group := { x with inFlight := [] }

/-- The groups by their numbers, each apart from its results in flight. -/
def groupsApart (m : KMap Group) : Nat → Option Group := fun g => (kfind m g).map Group.apart

/-- Memory traffic between two states: no time passes, and of the groups it changes the results in flight alone. -/
abbrev Still (s t : State) : Prop := t.cycle = s.cycle ∧ groupsApart t.groups = groupsApart s.groups

theorem Still.trans {s t u : State} (h : Still s t) (k : Still t u) : Still s u := ⟨k.1.trans h.1, k.2.trans h.2⟩

theorem Still.foldl {α : Type} {f : State → α → State} (h : ∀ s a, Still s (f s a)) (l : List α) (s : State) : Still s (l.foldl f s) := by
  induction l generalizing s with
  | nil => exact ⟨rfl, rfl⟩
  | cons a l ih => exact (h s a).trans (ih _)

theorem Still.foldl_fst {α β : Type} {f : State × β → α → State × β} (h : ∀ r a, Still r.1 (f r a).1) (l : List α) (r : State × β) :
    Still r.1 (l.foldl f r).1 := by
  induction l generalizing r with
  | nil => exact ⟨rfl, rfl⟩
  | cons a l ih => exact (h r a).trans (ih _)

/-- The record of a group behind memory traffic is the earlier one apart from the results in flight. -/
theorem Still.group {s t : State} (h : Still s t) {g : Nat} {x y : Group} (hx : kfind s.groups g = some x)
    (hy : kfind t.groups g = some y) : y.apart = x.apart := by
  have := congrFun h.2 g
  simpa [groupsApart, hx, hy] using this

theorem Still.pc {s t : State} (h : Still s t) {g : Nat} {x y : Group} (hx : kfind s.groups g = some x)
    (hy : kfind t.groups g = some y) : y.pc = x.pc := by simpa [Group.apart] using congrArg Group.pc (h.group hx hy)

/-- A change of a group's results in flight. -/
theorem modGroup_still (s : State) (g : Nat) {f : Group → Group} (h : ∀ x, (f x).apart = x.apart) : Still s (modGroup s g f) := by
  refine ⟨rfl, funext fun j => ?_⟩
  by_cases hj : j = g
  · subst hj
    cases hx : kfind s.groups j <;> simp [groupsApart, modGroup, kfind_kmodify, hx, h]
  · simp [groupsApart, modGroup, kfind_kmodify, hj]

/-! ## Bytes, poison, logs -/

@[simp] theorem writeByte_still (s : State) (l : Loc) (v : Byte) : Still s (writeByte s l v) := by cases l <;> exact ⟨rfl, rfl⟩
@[simp] theorem markPoison_still (s : State) (l : Loc) (on : Bool) : Still s (markPoison s l on) := by cases l <;> exact ⟨rfl, rfl⟩
@[simp] theorem poisonAt_still (s : State) (l : Loc) : Still s (poisonAt s l) := markPoison_still s _ _
@[simp] theorem writeRaw_still (s : State) (ws : List (Loc × Byte)) : Still s (writeRaw s ws) := Still.foldl (fun _ _ => writeByte_still ..) ws s
@[simp] theorem writeBytes_still (s : State) (ws : List (Loc × Byte)) : Still s (writeBytes s ws) :=
  (writeRaw_still s ws).trans (Still.foldl (fun _ _ => markPoison_still ..) _ _)
@[simp] theorem writeLE_still (s : State) (l : Loc) (v n : Nat) : Still s (writeLE s l v n) := writeBytes_still ..
@[simp] theorem writeWord64_still (s : State) (pa v : Nat) : Still s (writeWord64 s pa v) := writeLE_still ..
@[simp] theorem modCtx_still (s : State) (p : Nat) (b : Bool) (f : Ctx → Ctx) : Still s (modCtx s p b f) := ⟨rfl, rfl⟩
@[simp] theorem raiseEvt_still (s : State) (p n : Nat) : Still s (raiseEvt s p n) := ⟨rfl, rfl⟩

@[simp] theorem logAppendFrom_still (s : State) (p dev addr kind cause : Nat) : Still s (logAppendFrom s p dev addr kind cause) := by
  simp only [logAppendFrom]
  split_ifs <;> simp [Still]
@[simp] theorem logAppend_still (s : State) (p addr kind cause : Nat) : Still s (logAppend s p addr kind cause) := logAppendFrom_still ..

/-! ## Stores at their homes -/

@[simp] theorem spoilRuns_still (s : State) (runs : List PhysRun) : Still s (spoilRuns s runs) := by simp [Still, spoilRuns]
@[simp] theorem spoilAmp_still (before s : State) (addrs : List Nat) : Still s (spoilAmp before s addrs) := by
  refine Still.foldl (fun s e => ?_) _ _
  split
  · split_ifs <;> simp [Still]
  · simp [Still]
@[simp] theorem storeRaw_still (s : State) (ws : List (Loc × Byte)) : Still s (storeRaw s ws) := by simp [Still, storeRaw]
@[simp] theorem dirtyLine_still (d : Nat) (s : State) (line : Nat) : Still s (dirtyLine d s line) := by
  simp only [dirtyLine]
  split_ifs <;> simp [Still]
@[simp] theorem keepDirty_still (s : State) (core scope : Nat) (addrs : List Nat) : Still s (keepDirty s core scope addrs) := by
  unfold keepDirty
  split_ifs
  · exact Still.foldl (fun _ _ => dirtyLine_still ..) _ _
  · simp [Still]
@[simp] theorem homeWrite_still (s : State) (core part scope : Nat) (bytes : KMap Byte) (stray : Bool) :
    Still s (homeWrite s core part scope bytes stray) := by
  unfold homeWrite
  split
  · simp [Still]
  · split
    · split_ifs <;> simp [Still]
    · simp [Still]
@[simp] theorem healWhole_still (s : State) (later : List Entry) (k : Loc × Nat) : Still s (healWhole s later k) := by
  unfold healWhole
  split_ifs <;> simp [Still]

/-! ## The landings -/

@[simp] theorem returnValue_still (s : State) (r : Return) (size v : Nat) (bad : Bool) : Still s (returnValue s r size v bad) := by
  cases r <;> exact modGroup_still _ _ fun _ => rfl
@[simp] theorem returnAll_still (rs : List Return) (size v : Nat) (bad : Bool) (s : State) :
    Still s (rs.foldl (fun s r => returnValue s r size v bad) s) := Still.foldl (fun _ _ => returnValue_still ..) _ _
@[simp] theorem applyEntry_still (s : State) (e : Entry) (later : List Entry) : Still s (applyEntry s e later) := by
  simp only [applyEntry]
  split_ifs
  · split <;> simp [Still]
  · split <;> simp [Still]
  all_goals simp [Still]
@[simp] theorem applyInTurn_still (es : List Entry) (s : State) : Still s (applyInTurn es s) := by
  induction es generalizing s with
  | nil => exact ⟨rfl, rfl⟩
  | cons e es ih => exact (applyEntry_still s e es).trans (ih _)
@[simp] theorem applyAt_still (s : State) (is : List Nat) : Still s (applyAt s is) := by simp [Still, applyAt]
@[simp] theorem flushSets_still (s : State) (addr size : Nat) (slots : List Nat) : Still s (flushSets s addr size slots) :=
  (applyAt_still ..).trans (Still.foldl (fun _ _ => applyAt_still ..) _ _)
@[simp] theorem flushWords_still (ws : List (Nat × Nat)) (s : State) :
    Still s (ws.foldl (fun s w => flushSets s w.1 w.2 (setSlots s w.1 w.2)) s) := Still.foldl (fun _ _ => flushSets_still ..) _ _
@[simp] theorem flushRange_still (s : State) (addr n : Nat) : Still s (flushRange s addr n) := flushWords_still ..
@[simp] theorem placeEntry_still (s : State) (e : Entry) : Still s (placeEntry s e) := by
  simp only [placeEntry]
  split_ifs
  any_goals split
  all_goals simp [Still]
theorem placeAll_still (es : List Entry) (s : State) : Still s (es.foldl placeEntry s) := Still.foldl placeEntry_still es s

/-! ## Drift regions -/

@[simp] theorem modRegion_still (s : State) (r : Nat) (f : Region → Region) : Still s (modRegion s r f) := ⟨rfl, rfl⟩
@[simp] theorem setHolder_still (s : State) (h : Holder) : Still s (setHolder s h) := ⟨rfl, rfl⟩
@[simp] theorem dropHolder_still (s : State) (c : CacheId) (r : Nat) : Still s (dropHolder s c r) := ⟨rfl, rfl⟩
@[simp] theorem freeSlot_still (s : State) (r : Nat) (c : CacheId) : Still s (freeSlot s r c) := ⟨rfl, rfl⟩
@[simp] theorem reply_still (s : State) (c : CacheId) (r : Nat) (k : Option Nat) : Still s (reply s c r k) := ⟨rfl, rfl⟩
@[simp] theorem startDrain_still (s : State) (r : Nat) (cs : List CacheId) (q : DirRequest) : Still s (startDrain s r cs q) := ⟨rfl, rfl⟩

@[simp] theorem flushHolder_still (s : State) (c : CacheId) (r : Nat) (gs : List Nat) (a : Answer) : Still s (flushHolder s c r gs a) := by
  unfold flushHolder
  split
  · dsimp only; split_ifs <;> simp [Still]
  · split_ifs <;> simp [Still]
@[simp] theorem releaseHolder_still (s : State) (c : CacheId) (r : Nat) (a : Answer) : Still s (releaseHolder s c r a) := by
  unfold releaseHolder
  split
  · simp [Still]
  · split_ifs <;> simp [Still]
@[simp] theorem acceptHeld_still (s : State) (c : CacheId) (e : Entry) : Still s (acceptHeld s c e) := by
  simp only [acceptHeld]
  split
  · split
    · split_ifs <;> simp [Still]
    · split_ifs <;> simp [Still]
  · simp [Still]
@[simp] theorem grantShare_still (s : State) (r : Nat) (c : CacheId) (k : Nat) : Still s (grantShare s r c k) := by
  simp only [grantShare]
  split <;> simp [Still]
@[simp] theorem serveEntry_still (s : State) (e : Entry) : Still s (serveEntry s e) := by
  simp only [serveEntry]
  split
  · split_ifs <;> simp [Still]
  · exact Still.foldl (fun _ _ => returnValue_still ..) _ _
  · exact flushRange_still ..
  · exact placeEntry_still ..
@[simp] theorem serveRequest_still (s : State) (q : DirRequest) : Still s (serveRequest s q) := by
  cases q with
  | grant c => exact ⟨rfl, rfl⟩
  | ldv es tol => exact placeAll_still es s
  | entry e => exact serveEntry_still s e
@[simp] theorem arriveAtHome_still (s : State) (e : Entry) : Still s (arriveAtHome s e) := by
  simp only [arriveAtHome]
  split_ifs <;> simp [Still]
@[simp] theorem serveQueue_still (r fuel : Nat) (s : State) : Still s (serveQueue r fuel s) := by
  induction fuel generalizing s with
  | zero => exact ⟨rfl, rfl⟩
  | succ n ih =>
    simp only [serveQueue]
    split
    · split_ifs
      · simp [Still]
      · exact Still.trans (by simp [Still]) (ih _)
    · simp [Still]
@[simp] theorem openAgain_still (s : State) (r : Nat) : Still s (openAgain s r) := by simp [Still, openAgain]

theorem evGrantRequest_still {s t : State} {r : Nat} (h : evGrantRequest r s = some t) : Still s t := by
  simp only [evGrantRequest] at h
  split at h
  · split_ifs at h
    · cases h; simp [Still]
    · split at h
      · cases h; simp [Still]
      · cases h; simp [Still]
      · split at h <;> cases h <;> simp [Still]
  · cases h
theorem takeCall_still {s t : State} {c : CacheId} {r : Nat} {p : Call → Bool} {k : Call} (h : takeCall s c r p = some (k, t)) : Still s t := by
  unfold takeCall at h
  split at h
  · split_ifs at h; cases h; exact ⟨rfl, rfl⟩
  · cases h
theorem evGrantReply_still {s t : State} {c : CacheId} {r : Nat} (h : evGrantReply c r s = some t) : Still s t := by
  unfold evGrantReply at h
  split at h
  · rename_i hc
    refine (takeCall_still hc).trans ?_
    split at h
    · split at h
      · cases h
        exact Still.trans (setHolder_still ..) (Still.foldl (fun _ _ => acceptHeld_still ..) _ _)
      · cases h; simp [Still]
    · cases h; simp [Still]
  · cases h
theorem evShareCutCall_still {s t : State} {c : CacheId} {r : Nat} (h : evShareCutCall c r s = some t) : Still s t := by
  unfold evShareCutCall at h
  split at h
  · rename_i hc
    refine (takeCall_still hc).trans ?_
    split at h
    · cases h
      split_ifs <;> simp [Still]
    · cases h; simp [Still]
  · cases h
theorem evDrainCall_still {s t : State} {c : CacheId} {r : Nat} (h : evDrainCall c r s = some t) : Still s t := by
  unfold evDrainCall at h
  split at h
  · rename_i hc
    cases h
    exact (takeCall_still hc).trans (releaseHolder_still ..)
  · cases h
theorem receiveEntries_still (es : List Entry) (s : State) : Still s (es.foldl (fun s e => placeEntry s { e with groups := [] }) s) :=
  Still.foldl (fun _ _ => placeEntry_still ..) es s
theorem evHolderMessage_still {s t : State} {c : CacheId} {r : Nat} (h : evHolderMessage c r s = some t) : Still s t := by
  unfold evHolderMessage at h
  split at h
  · cases h
  · next m _ =>
    refine (receiveEntries_still m.entries { s with messages := s.messages.erase m }).trans ?_
    dsimp only at h
    generalize m.entries.foldl _ _ = u at h ⊢
    split at h
    · cases h; simp [Still]
    · cases h; simp [Still]
    · split at h
      · split at h
        · cases h; simp [Still]
        · split at h <;> cases h <;> simp [Still]
      · cases h; simp [Still]
    · split at h
      · split_ifs at h <;> cases h <;> simp [Still]
      · cases h; simp [Still]
theorem evLdvRequest_still {s t : State} {r : Nat} (h : evLdvRequest r s = some t) : Still s t := by
  simp only [evLdvRequest] at h
  split at h
  · split at h <;> cases h <;> simp [Still]
  · cases h
theorem regionStep_still {s t : State} {r : Nat} (h : regionStep r s = some t) : Still s t := by
  unfold regionStep at h
  split at h
  · exact evHolderMessage_still h
  · split at h
    · split at h
      · exact evShareCutCall_still h
      · exact evDrainCall_still h
      · exact evGrantReply_still h
    · split at h
      · next hg => cases h; exact evGrantRequest_still hg
      · exact evLdvRequest_still h
@[simp] theorem settleRegion_still (r fuel : Nat) (s : State) : Still s (settleRegion r fuel s) := by
  induction fuel generalizing s with
  | zero => exact ⟨rfl, rfl⟩
  | succ n ih =>
    unfold settleRegion
    split
    · next h => exact (regionStep_still h).trans (ih _)
    · exact ⟨rfl, rfl⟩
@[simp] theorem settle_still (s : State) (r : Nat) : Still s (settle s r) := settleRegion_still ..
theorem settleAll_still (rs : List Nat) (s : State) : Still s (rs.foldl settle s) := Still.foldl settle_still rs s

/-! ## Buffers, stores and entries on their way -/

@[simp] theorem drainTo_still (s : State) (core part : Nat) (l : WcbLine) : Still s (drainTo s core part l) := by
  unfold drainTo
  split_ifs <;> simp [Still]
@[simp] theorem drainLines_still (s : State) (core : Nat) (p : WcbLine → Bool) : Still s (drainLines s core p) :=
  Still.trans (t := modCore s core fun c => { c with wcb := c.wcb.filter fun l => !p l }) ⟨rfl, rfl⟩ (Still.foldl (fun _ _ => drainTo_still ..) _ _)
@[simp] theorem takeEffect_still (s : State) (t : Store) : Still s (takeEffect s t) := by
  unfold takeEffect
  split_ifs
  · split <;> simp [Still]
  · exact Still.trans (by simp [Still]) (Still.foldl (fun _ _ => healWhole_still ..) _ _)
@[simp] theorem applyStores_still (s : State) (p : Store → Bool) : Still s (applyStores s p) := by
  refine Still.foldl_fst (fun r t => ?_) _ (s, [])
  split_ifs <;> simp [Still]
@[simp] theorem arriveWhere_still (s : State) (p : Entry → Bool) (all : Bool) : Still s (arriveWhere s p all) := by
  refine Still.foldl (fun s e => ?_) _ _
  dsimp only
  split_ifs <;> simp [Still]
@[simp] theorem applyPending_still (s : State) (p : Entry → Bool) (all : Bool) : Still s (applyPending s p all) := applyAt_still ..
@[simp] theorem applyWhere_still (s : State) (p : Entry → Bool) (all : Bool) : Still s (applyWhere s p all) := by
  unfold applyWhere
  exact (settleAll_still _ _).trans <| (arriveWhere_still ..).trans <| (settleAll_still _ _).trans <| (arriveWhere_still ..).trans <|
    (settleAll_still _ _).trans (applyPending_still ..)
@[simp] theorem settleStores_still (s : State) (g : Nat) (ps : List Loc) : Still s (settleStores s g ps) :=
  (drainLines_still ..).trans (applyStores_still ..)
@[simp] theorem settleEntries_still (s : State) (g : Nat) (ps : List Loc) : Still s (settleEntries s g ps) := by
  unfold settleEntries
  dsimp only
  split_ifs
  · exact (drainLines_still ..).trans ((applyWhere_still ..).trans (flushWords_still ..))
  · exact ⟨rfl, rfl⟩
@[simp] theorem settlePlaces_still (s : State) (g : Nat) (ps : List Loc) : Still s (settlePlaces s g ps) :=
  (settleStores_still ..).trans (settleEntries_still ..)
@[simp] theorem fixOverlap_still (s : State) (g : Nat) (ls : List Loc) : Still s (fixOverlap s g ls) := modGroup_still _ _ fun _ => rfl

/-! ## Translation -/

@[simp] theorem settleWord_still (s : State) (g : Option Nat) (pte : Nat) : Still s (settleWord s g pte) := by
  cases g with
  | none => exact ⟨rfl, rfl⟩
  | some g => exact (fixOverlap_still ..).trans (settlePlaces_still ..)
@[simp] theorem settleWalk_still (s : State) (g : Option Nat) (va fuel level t : Nat) : Still s (settleWalk s g va fuel level t) := by
  induction fuel generalizing s level t with
  | zero => exact ⟨rfl, rfl⟩
  | succ n ih =>
    simp only [settleWalk]
    split_ifs
    · exact (settleWord_still ..).trans (ih ..)
    · exact settleWord_still ..
@[simp] theorem settleRoot_still (s : State) (g : Option Nat) (root va : Nat) : Still s (settleRoot s g root va) := by
  unfold settleRoot
  split_ifs <;> simp [Still]
theorem setLeafBits_still {s t : State} {e e' : TlbEntry} {n : Nat} (h : setLeafBits s e n = some (t, e')) : Still s t := by
  simp only [setLeafBits] at h
  split_ifs at h <;> cases h <;> exact ⟨rfl, rfl⟩
@[simp] theorem tlbInstall_still (s : State) (c : Nat) (t : TlbEntry) : Still s (tlbInstall s c t) := ⟨rfl, rfl⟩
@[simp] theorem tlbInstallL1_still (s : State) (c : Nat) (t : TlbEntry) : Still s (tlbInstallL1 s c t) := ⟨rfl, rfl⟩
@[simp] theorem tlbRefresh_still (s : State) (c : Nat) (t : TlbEntry) : Still s (tlbRefresh s c t) := ⟨rfl, rfl⟩
@[simp] theorem tlbDiscard_still (s : State) (c va : Nat) : Still s (tlbDiscard s c va) := ⟨rfl, rfl⟩
@[simp] theorem walkFill_still (s : State) (sp : Space) (va : Nat) : Still s (walkFill s sp va).1 := by
  unfold walkFill
  dsimp only
  split
  · exact settleRoot_still ..
  · split
    · next h => exact Still.trans (settleRoot_still ..) (Still.trans (setLeafBits_still h) (tlbInstall_still ..))
    · exact settleRoot_still ..
@[simp] theorem takeLeaf_still (s : State) (sp : Space) (va : Nat) (t : TlbEntry) : Still s (takeLeaf s sp va t).1 := by
  unfold takeLeaf
  split
  · next h => exact Still.trans (settleWord_still ..) (Still.trans (setLeafBits_still h) (tlbInstallL1_still ..))
  · exact Still.trans (settleWord_still s sp.group t.pte) (walkFill_still (tlbDiscard _ _ _) ..)
@[simp] theorem lookup_still (s : State) (sp : Space) (va : Nat) : Still s (lookup s sp va).1 := by
  unfold lookup
  split
  · exact ⟨rfl, rfl⟩
  · split
    · exact takeLeaf_still ..
    · exact walkFill_still ..
@[simp] theorem lookupDirty_still (s : State) (sp : Space) (va : Nat) : Still s (lookupDirty s sp va).1 := by
  have hl := lookup_still s sp va
  unfold lookupDirty
  split
  · next h => rw [h] at hl; exact hl
  · next u t h =>
    rw [h] at hl
    refine Still.trans hl ?_
    dsimp only
    split_ifs
    · exact ⟨rfl, rfl⟩
    · have hw := settleWord_still u sp.group t.pte
      refine Still.trans hw ?_
      split
      · next hb => exact Still.trans (setLeafBits_still hb) (tlbRefresh_still ..)
      · have hf := walkFill_still (tlbDiscard (settleWord u sp.group t.pte) sp.core va) sp va
        split
        · next h => rw [h] at hf; exact hf
        · next h =>
          rw [h] at hf
          refine Still.trans hf ?_
          split
          · next hb => exact Still.trans (setLeafBits_still hb) (tlbRefresh_still ..)
          · exact ⟨rfl, rfl⟩
theorem translate_still (s : State) (sp : Space) (va : Nat) (acc : Access) (n : Nat) : Still s (translate s sp va acc n).1 := by
  unfold translate
  split_ifs with hva hw
  · exact ⟨rfl, rfl⟩
  · have hl := lookup_still s sp va
    split
    · next h => rw [h] at hl; exact hl
    · next u t h =>
      rw [h] at hl
      have hd := Still.trans hl (lookupDirty_still u sp va)
      dsimp only
      split_ifs
      · exact hl
      · split
        · next h => rw [h] at hd; exact hd
        · next h => rw [h] at hd; split_ifs <;> exact hd
  · have hl := lookup_still s sp va
    split
    · next h => rw [h] at hl; exact hl
    · next u t h =>
      rw [h] at hl
      dsimp only
      split_ifs <;> exact hl

end Sys2Proof.Machine
end

section
/-! What moves the clock: time alone, by the cycles that pass (log entry 84); no deadline, arrival or trap on the way does. -/

namespace Sys2Proof.Machine

theorem foldl_cycle {α : Type} {f : State → α → State} (h : ∀ s a, (f s a).cycle = s.cycle) (l : List α) (s : State) :
    (l.foldl f s).cycle = s.cycle := by
  induction l generalizing s with
  | nil => rfl
  | cons a l ih => rw [List.foldl_cons, ih, h]

@[simp] theorem advance_cycle (s : State) (g len : Nat) : (advance s g len).cycle = s.cycle := rfl

@[simp] theorem endBlock_cycle (s : State) (b : Nat) (how : BlockEnd) : (endBlock s b how).cycle = s.cycle := by
  unfold endBlock
  split_ifs
  · rfl
  · exact foldl_cycle (f := askHalt) (fun _ _ => rfl) _ _
@[simp] theorem enterTrap_cycle (s : State) (g : Nat) (t : Trap) : (enterTrap s g t).cycle = s.cycle := by
  unfold enterTrap
  dsimp only
  split
  · exact (logAppend_still ..).1.trans (endBlock_cycle ..)
  · rfl
@[simp] theorem raiseAfter_cycle (s : State) (g num code : Nat) : (raiseAfter s g num code).cycle = s.cycle := enterTrap_cycle ..
@[simp] theorem completeSleepUntil_cycle (s : State) (g dl : Nat) : (completeSleepUntil s g dl).cycle = s.cycle := by
  unfold completeSleepUntil
  split
  · rfl
  · dsimp only
    split_ifs
    · rfl
    · rfl
    · exact raiseAfter_cycle ..
theorem evDeadlineReached_cycle {g : Nat} {s t : State} (h : evDeadlineReached g s = some t) : t.cycle = s.cycle := by
  unfold evDeadlineReached at h
  split_ifs at h
  split at h
  · split_ifs at h; cases h; rfl
  · split_ifs at h; cases h; exact completeSleepUntil_cycle ..
  · split_ifs at h; cases h; rfl
  · cases h

@[simp] theorem passTime_cycle (s : State) (n : Nat) : (passTime s n).cycle = (s.cycle + n) % 2 ^ 64 := by
  refine foldl_cycle (fun s e => ?_) _ _
  split
  · cases h : evDeadlineReached e.1 s with
    | none => rfl
    | some t => exact evDeadlineReached_cycle h
  · rfl

@[simp] theorem writeGate_still (s : State) (p : List Loc) (x : Gate) : Still s (writeGate s p x) := writeBytes_still ..
@[simp] theorem staleArrival_cycle (s : State) (b : Nat) (p : List Loc) (x : Gate) : (staleArrival s b p x).cycle = s.cycle := by
  simp only [staleArrival]
  split_ifs
  · exact (writeGate_still ..).1
  · rw [foldl_cycle fun _ _ => modGroup_cycle ..]
    exact (writeGate_still ..).1
@[simp] theorem applyArrival_cycle (s : State) (b : Nat) (p : List Loc) (c n : Nat) (tag : Option Nat) (ex : Bool) :
    (applyArrival s b p c n tag ex).1.cycle = s.cycle := by
  simp only [applyArrival]
  split_ifs
  · rfl
  · exact staleArrival_cycle ..
  all_goals exact (writeGate_still ..).1
@[simp] theorem applyArrivals_cycle (s : State) : (applyArrivals s).cycle = s.cycle := by
  refine foldl_cycle (fun s a => ?_) _ _
  split
  · rfl
  · dsimp only
    split_ifs <;> simp
@[simp] theorem afterTurn_cycle (s : State) : (afterTurn s).cycle = s.cycle := applyArrivals_cycle s

end Sys2Proof.Machine
end

section
/-! The leaf that a translation finds (R308 to R310), and the traps of a fetch that it stops (R109, R313). -/

namespace Sys2Proof.Machine

/-- A leaf that a walk finds is the valid entry at its place. -/
theorem walkFrom_leaf {s : State} {va fuel level t l pte e : Nat} (h : walkFrom s va fuel level t = .leaf l pte e) :
    e = readWord64 s pte ∧ bitAt e 0 = true ∧ bitAt e 1 = true := by
  induction fuel generalizing level t with
  | zero => cases h
  | succ n ih =>
    simp only [walkFrom] at h
    split_ifs at h with h0 hm h1
    · cases h
      exact ⟨rfl, by simpa using h0, h1⟩
    · exact ih h
theorem walkRoot_leaf {s : State} {root va l pte e : Nat} (h : walkRoot s root va = .leaf l pte e) :
    e = readWord64 s pte ∧ bitAt e 0 = true ∧ bitAt e 1 = true := by
  unfold walkRoot at h
  split_ifs at h
  exact walkFrom_leaf h

theorem bitAt_eq_testBit (n i : Nat) : bitAt n i = n.testBit i := by
  rw [bitAt, Nat.testBit_eq_decide_div_mod_eq]
  rfl

/-- Bits of a leaf entry are set where it is still valid with the same FRAME (R310). -/
theorem setLeafBits_valid {s : State} {t : TlbEntry} (n : Nat) (h0 : bitAt (readWord64 s t.pte) 0 = true)
    (h1 : bitAt (readWord64 s t.pte) 1 = true) (hf : bitsOf (readWord64 s t.pte) 16 30 = bitsOf t.leaf 16 30) :
    ∃ u, setLeafBits s t n = some (u, { t with leaf := t.leaf ||| n }) := by
  simp [setLeafBits, h0, h1, hf]
theorem standing_iff (s : State) (sp : Space) (t : TlbEntry) : Standing s sp t ↔
    bitAt (readWord64 (settleWord s sp.group t.pte) t.pte) 0 = true ∧ bitAt (readWord64 (settleWord s sp.group t.pte) t.pte) 1 = true ∧
      bitsOf (readWord64 (settleWord s sp.group t.pte) t.pte) 16 30 = bitsOf t.leaf 16 30 := by
  simp only [Standing, bitAt_eq_testBit, bitsOf]
theorem setLeafBits_standing {s : State} {sp : Space} {t : TlbEntry} (n : Nat) (h : Standing s sp t) :
    ∃ u, setLeafBits (settleWord s sp.group t.pte) t n = some (u, { t with leaf := t.leaf ||| n }) := by
  obtain ⟨h0, h1, hf⟩ := (standing_iff s sp t).1 h
  exact setLeafBits_valid n h0 h1 hf
theorem setLeafBits_stale {s : State} {sp : Space} {t : TlbEntry} (n : Nat) (h : ¬ Standing s sp t) :
    setLeafBits (settleWord s sp.group t.pte) t n = none := by
  refine if_neg fun hc => h ((standing_iff s sp t).2 ?_)
  simpa [and_assoc] using hc

/-- What a lookup answers for a leaf entry and log2 of its page, or a fault kind: A may be set in the entry, no other bit. -/
def Finds : Except Nat (Nat × Nat) → Except Nat TlbEntry → Prop
  | .ok (f, sh), .ok t => (t.leaf = f ∨ t.leaf = f ||| accessedBit) ∧ t.shift = sh
  | .error k, .error k' => k' = k
  | _, _ => False

theorem walkFill_finds (s : State) (sp : Space) (va : Nat) : Finds (walkedLeaf s sp va) (walkFill s sp va).2 := by
  unfold walkedLeaf walkFill
  dsimp only
  cases hw : walkRoot (settleRoot s sp.group sp.root va) sp.root va with
  | stop => rfl
  | leaf level pte e =>
    obtain ⟨he, h0, h1⟩ := walkRoot_leaf hw
    obtain ⟨u, hu⟩ := setLeafBits_valid (s := settleRoot s sp.group sp.root va)
      (t := { base := va / 2 ^ levelShift level * 2 ^ levelShift level, shift := levelShift level, leaf := e, pte := pte })
      accessedBit (he ▸ h0) (he ▸ h1) (he ▸ rfl)
    dsimp only
    rw [hu]
    exact ⟨.inr rfl, rfl⟩

theorem takeLeaf_finds (s : State) (sp : Space) (va : Nat) (t : TlbEntry) :
    (Standing s sp t → Finds (.ok (t.leaf, t.shift)) (takeLeaf s sp va t).2) ∧
      (¬ Standing s sp t → Finds (walkedLeaf (tlbDiscard (settleWord s sp.group t.pte) sp.core va) sp va) (takeLeaf s sp va t).2) := by
  constructor
  · intro h
    obtain ⟨u, hu⟩ := setLeafBits_standing accessedBit h
    rw [takeLeaf, hu]
    exact ⟨.inr rfl, rfl⟩
  · intro h
    rw [takeLeaf, setLeafBits_stale accessedBit h]
    exact walkFill_finds ..

/-- A lookup finds the leaf that `LeafOf` names where it sets no bit of a leaf in the L1 TLB. -/
theorem LeafOf.finds {s : State} {sp : Space} {va : Nat} {q : Except Nat (Nat × Nat)} (h : LeafOf s sp va (fun _ => false) q) :
    Finds q (lookup s sp va).2 := by
  cases h with
  | held t h1 => simp [lookup, h1, Finds]
  | taken t h1 h2 hst =>
    simp only [lookup, h1, h2]
    exact (takeLeaf_finds s sp va t).1 hst
  | stale t ht hst =>
    obtain ⟨-, h⟩ | ⟨h1, h2⟩ := ht
    · cases h
    · simp only [lookup, h1, h2]
      exact (takeLeaf_finds s sp va t).2 hst
  | walked h1 h2 =>
    simp only [lookup, h1, h2]
    exact walkFill_finds ..

/-! ## A fetch that its translation stops -/

theorem translate_high {s : State} {sp : Space} {va : Nat} (acc : Access) (n : Nat) (h : 2 ^ 56 ≤ va) : (translate s sp va acc n).2 = .error (5, 0) := by
  rw [translate, if_pos h]
theorem translate_unmapped {s : State} {sp : Space} {va kind : Nat} (acc : Access) (n : Nat) (h : va < 2 ^ 56)
    (hl : LeafOf s sp va (fun _ => false) (.error kind)) : (translate s sp va acc n).2 = .error (4, kind) := by
  have hf := hl.finds
  rw [translate, if_neg (Nat.not_le.mpr h)]
  generalize lookup s sp va = r at hf ⊢
  obtain ⟨u, e | t⟩ := r
  · cases hf; rfl
  · cases hf
theorem translate_sealed {s : State} {sp : Space} {va f sh : Nat} (n : Nat) (h : va < 2 ^ 56)
    (hl : LeafOf s sp va (fun _ => false) (.ok (f, sh))) (hx : f.testBit 4 = false) : (translate s sp va .fetch n).2 = .error (5, 0) := by
  have hf := hl.finds
  rw [translate, if_neg (Nat.not_le.mpr h)]
  generalize lookup s sp va = r at hf ⊢
  obtain ⟨u, e | t⟩ := r
  · cases hf
  · have ht : leafX t.leaf = false := by
      have ha : accessedBit.testBit 4 = false := by decide
      obtain ⟨h | h, -⟩ := hf <;> simp [leafX, bitAt_eq_testBit, h, hx, ha]
    simp [ht]

end Sys2Proof.Machine
end

section
/-! What a turn does, and what a group fetches that it selects (R18, R327, R369). -/

namespace Sys2Proof.Machine

/-- A step whose turn goes on: what follows from the turn comes behind it. -/
theorem step_of_turn {s t : State} {r : Turn} {rest : List Turn} (hs : s.schedule = r :: rest)
    (ht : runTurn r { s with schedule := rest } = .next t) : step s = .next (afterTurn t) := by
  simp [step, advanceMachine, hs, ht]

/-- With no turn named and nothing due, the group that has waited longest issues a cycle later. -/
theorem step_default {s : State} {g : Nat} (hs : s.schedule = []) (hd : firstDue s (dueEvents s) = none)
    (hg : longest s ((kkeys s.groups).filter (selectable s)) = some g) : step s = step { s with schedule := [.issue g 1] } := by
  have h : ({ s with schedule := [] } : State) = s := by rw [← hs]
  simp only [step, advanceMachine, hs, defaultTurn, hd, hg, h]

/-- The group that a turn selects fetches and executes. -/
theorem Selected.step_eq {s s0 s1 : State} {g dt h : Nat} {rest : List Turn} {x : Group} (hs : Selected s g dt rest h x s0 s1) :
    step s = issued s0 h (fetchRun s1 h) := by
  obtain ⟨hturn, hpass, hsel, hx, ⟨hhalt, hpend⟩, ⟨hav, hheld⟩, hfetch⟩ := hs
  have h1 : evGroupHalted h s0 = none := by simp [evGroupHalted, hx, hhalt]
  have h2 : evTrapEntry h s0 = none := by simp [evTrapEntry, hx, hpend]
  have h3 : modGroup { s0 with current := some h } h (fun y => { y with lastIssue := s0.cycle }) = s1 := by rw [hfetch]; rfl
  simp only [step, advanceMachine, hturn, runTurn, hpass, hsel, issueGroup, h1, h2, hav, hheld, h3, Bool.not_true, Bool.false_eq_true, if_false]
  cases fetchRun s1 h <;> rfl

theorem Selected.found_fetching {s s0 s1 : State} {g dt h : Nat} {rest : List Turn} {x : Group} (hs : Selected s g dt rest h x s0 s1) :
    kfind s1.groups h = some { x with lastIssue := s0.cycle } := by
  rw [hs.fetching]
  simp [kfind_kmodify, hs.found]

/-! ## Fetching -/

theorem touchScope_wide {s : State} {scope : Nat} (h : 3 ≤ scope) (part ctx core : Nat) (p : Phys) : touchScope s part ctx scope core p = s := by
  obtain ⟨n, rfl⟩ := Nat.exists_eq_add_of_le' h
  rfl

/-- A halfword of a page that is mapped, clean and of module scope or wider. -/
theorem Fetches.fetchHalf {s : State} {h va : Nat} {p : Phys} (hf : Fetches s h va p) :
    fetchHalf s h va = (s, .ok [codeByte s p 0, codeByte s p 1]) := by
  obtain ⟨ht, hc, hw⟩ := hf
  simp [Machine.fetchHalf, ht, hc, touchScope_wide hw, Loc.run, Loc.add, List.range_succ, readByte, codeByte]

/-- What the bytes of an instruction decode to. -/
def decoded (bs : List Byte) : Fetched := match decode bs with
  | some r => .instr r.1
  | none => .illegal

theorem bitAt_leNat_cons (b c : Byte) : bitAt (leNat [b, c]) 0 = bitAt b.toNat 0 := by
  simp [bitAt, leNat]
  omega

theorem fetchAt_half {s : State} {h va : Nat} {p : Phys} (hp : Fetches s h va p) (hb : bitAt (codeByte s p 0).toNat 0 = false) :
    fetchAt s h va = (s, decoded [codeByte s p 0, codeByte s p 1]) := by
  simp only [fetchAt, hp.fetchHalf, bitAt_leNat_cons, hb, decoded, Bool.false_eq_true, if_false]
  cases decode [codeByte s p 0, codeByte s p 1] <;> rfl

theorem fetchAt_word {s : State} {h va : Nat} {p q : Phys} (hp : Fetches s h va p) (hq : Fetches s h (va + 2) q)
    (hb : bitAt (codeByte s p 0).toNat 0 = true) :
    fetchAt s h va = (s, decoded [codeByte s p 0, codeByte s p 1, codeByte s q 0, codeByte s q 1]) := by
  simp only [fetchAt, hp.fetchHalf, hq.fetchHalf, bitAt_leNat_cons, hb, decoded, if_true, List.cons_append, List.nil_append]
  cases decode [codeByte s p 0, codeByte s p 1, codeByte s q 0, codeByte s q 1] <;> rfl

/-- The halfwords of the instruction at `va`: the first, and the second of one that the first says is a word. -/
def Halfword (s : State) (h va a : Nat) : Prop :=
  a = va ∨ a = va + 2 ∧ ∃ p, Fetches s h va p ∧ bitAt (codeByte s p 0).toNat 0 = true

/-- A halfword that cannot be fetched stops the fetch of its instruction, at its own address. -/
theorem Halfword.stops {s s2 : State} {h va a : Nat} {e : Nat × Nat} (hw : Halfword s h va a) (he : fetchHalf s h a = (s2, .error e)) :
    fetchAt s h va = (s2, .trap e.1 e.2 a) := by
  obtain rfl | ⟨rfl, p, hp, hb⟩ := hw
  · simp [fetchAt, he]
  · simp [fetchAt, hp.fetchHalf, bitAt_leNat_cons, hb, he]

theorem fetchHalf_error {s s2 : State} {h a : Nat} {e : Nat × Nat} (ht : translate s (spaceOf s h) a .fetch 2 = (s2, .error e)) :
    fetchHalf s h a = (s2, .error e) := by
  simp [fetchHalf, ht]
theorem fetchHalf_poisoned {s s2 : State} {h a : Nat} {p : Phys} (ht : translate s (spaceOf s h) a .fetch 2 = (s2, .ok p))
    (hp : isPoisoned s2 (.mem p.pa) = true) : fetchHalf s h a = (s2, .error (6, 0)) := by
  simp [fetchHalf, ht, hp]

/-! ## The step that fetches -/

section
variable {s s0 s1 : State} {g dt h : Nat} {rest : List Turn} {x : Group} (hs : Selected s g dt rest h x s0 s1)
include hs

theorem Selected.step_instr {s2 : State} {i : Instr} (hf : fetchAt s1 h x.pc.toNat = (s2, .instr i)) : step s = issued s0 h (exec i s2) := by
  rw [hs.step_eq, fetchRun, getGroup_of hs.found_fetching, hf]

theorem Selected.step_decoded {bs : List Byte} (hf : fetchAt s1 h x.pc.toNat = (s1, decoded bs)) :
    (∀ i l, decode bs = some (i, l) → step s = issued s0 h (exec i s1)) ∧
      (decode bs = none → step s = issued s0 h (.next (raise s1 h 0))) := by
  constructor
  · intro i l hd
    exact hs.step_instr (by rw [hf, decoded, hd])
  · intro hd
    rw [hs.step_eq, fetchRun, getGroup_of hs.found_fetching, hf, decoded, hd]

/-- A fetch that stops takes the trap of its halfword, em as it is (R18, R313). -/
theorem Selected.step_trap {s2 : State} {a num code : Nat} {y0 : Group} (hf : fetchAt s1 h x.pc.toNat = (s2, .trap num code a))
    (hst : Still s1 s2) (hy : kfind s2.groups h = some y0) (hv : vectorOf s2 h ≠ 0) :
    ∃ t y, step s = issued s0 h (.next t) ∧ OnlyGroup s2 t h y ∧ Entered s2 h y0 y num code x.pc x.pc (BitVec.ofNat 64 a) 0 y0.em := by
  have hpc : y0.pc = x.pc := by simpa using hst.pc hs.found_fetching hy
  obtain ⟨y, hy1, hy2⟩ := enterTrap_enters hy hv
    { num := num, code := code, pc := x.pc, addr := x.pc, vaddr := BitVec.ofNat 64 a, fetch := true } rfl
  refine ⟨_, y, ?_, hy1, by simpa using hy2⟩
  rw [hs.step_eq, fetchRun, getGroup_of hs.found_fetching, hf]
  simp only [raiseFetch, getGroup_of hy, hpc]
end

end Sys2Proof.Machine
end

section
/-! The statements of scope: reset and the step. -/

namespace Sys2Proof.Machine

/-- Settles O55: nothing is listed at reset, so every register reads as its default. -/
theorem resetValues : Obligations.ResetValues := by
  unfold Obligations.ResetValues
  have hd : ∀ d, getDie State.reset d = { state := 0, point := 7 } := fun _ => rfl
  have hp : ∀ p, getPart State.reset p = {} := fun _ => rfl
  refine ⟨rfl, rfl, rfl, rfl, rfl, rfl, fun d => ⟨hd d, ?_⟩, fun p => ?_, rfl, rfl, rfl, rfl, rfl, rfl, fun r l => ⟨rfl, rfl, rfl, rfl⟩⟩
  · simp [dieRuns, hd]
  · rw [hp]
    exact ⟨rfl, rfl, rfl, rfl, rfl, rfl, rfl, rfl, rfl, rfl, fun q => ⟨rfl, rfl, rfl⟩⟩

/-- Settles O57: the selected group's step is its `fetchRun`, whose fetch is read off the halfwords' translations; a walk before a fetch
that fails leaves the group's program counter alone (`translate_still`). -/
theorem stepRunsDecoded : Obligations.StepRunsDecoded := by
  unfold Obligations.StepRunsDecoded
  refine ⟨fun s g dt rest h x s0 s1 hs => ⟨?_, ?_, ?_, ?_, ?_, ?_⟩, ?_, ?_, ?_⟩
  · intro p i l hp hb hd
    exact (hs.step_decoded (fetchAt_half hp hb)).1 i l hd
  · intro p q i l hp hq hb hd
    exact (hs.step_decoded (fetchAt_word hp hq hb)).1 i l hd
  · intro p hp hb hd
    exact (hs.step_decoded (fetchAt_half hp hb)).2 hd
  · intro p q hp hq hb hd
    exact (hs.step_decoded (fetchAt_word hp hq hb)).2 hd
  · intro s2 i hf
    exact hs.step_instr hf
  · intro a ha s2 r y0 ht hy hv
    have hst : Still s1 s2 := by simpa only [ht] using translate_still s1 (spaceOf s1 h) a .fetch 2
    have fails {num code : Nat} (he : fetchHalf s1 h a = (s2, .error (num, code))) := hs.step_trap (Halfword.stops ha he) hst hy hv
    have stopped : ∀ e, (translate s1 (spaceOf s1 h) a .fetch 2).2 = .error e → fetchHalf s1 h a = (s2, .error e) := by
      intro e he
      rw [ht] at he
      exact fetchHalf_error (he ▸ ht)
    refine ⟨fun hhigh => ?_, fun hlow q hq => ⟨?_, ?_⟩, ?_⟩
    · exact fails (stopped _ (translate_high .fetch 2 hhigh))
    · rintro kind rfl
      exact fails (stopped _ (translate_unmapped .fetch 2 hlow hq))
    · rintro f sh rfl hx
      exact fails (stopped _ (translate_sealed 2 hlow hq hx))
    · rintro p rfl hp
      exact fails (fetchHalf_poisoned ht hp)
  · intro s e rest hs
    refine ⟨fun t ht => step_of_turn hs ?_, fun ht => step_of_turn hs ?_⟩
    · simp only [runTurn, ht, Option.getD_some]
    · simp only [runTurn, ht, Option.getD_none]
  · intro s n rest hs
    exact ⟨_, step_of_turn hs rfl, by rw [afterTurn_cycle, passTime_cycle]⟩
  · intro s g hs hd hg
    exact step_default hs hd hg

end Sys2Proof.Machine
end

section
/-! Uniform instructions that change their group's record alone, and the statement about single values (R84 to R86, R34). -/

namespace Sys2Proof.Machine

/-- The group runs an instruction that ends its chain, changes its record by `f` and goes on by `len` bytes. -/
theorem Issues.leaves_scalar {s : State} {g : Nat} {x : Group} (h : Issues s g x) {i : Instr} {len : Nat} (f : Group → Group)
    (hi : exec i s = .next (advance (modGroup (endChain s g) g f) g len))
    (hs : ∀ y, (f y).status = y.status) (hr : ∀ y, (f y).readySince = y.readySince) (hp : ∀ y, (f y).pc = y.pc) :
    Leaves i s g { f { x with latch := {} } with
      pc := x.pc + BitVec.ofNat 64 len, status := .ready, hostWait := none
      readySince := if x.status = .ready then x.readySince else s.cycle } :=
  ⟨_, hi, OnlyGroup.scalar h.2 f len hs hr hp⟩

/-- One that writes `v` of the record into uniform register `d`. -/
theorem Issues.sets_uniform {s : State} {g : Nat} {x : Group} (h : Issues s g x) {i : Instr} {d : Nat} (v : Group → DWord)
    (hi : exec i s = .next (advance (modGroup (endChain s g) g fun y => y.setS d (v y)) g 4)) :
    ∃ y, Leaves i s g y ∧ SetsUniform s x y 4 d (v { x with latch := {} }) := by
  refine ⟨_, h.leaves_scalar _ hi (fun _ => rfl) (fun _ => rfl) (fun _ => rfl), ?_, fun r hr => ?_, rfl⟩
  · exact (Group.sreg_setS ..).trans (if_pos rfl)
  · exact (Group.sreg_setS ..).trans (if_neg hr)

theorem laneScalar_declared {s : State} {g : Nat} {x : Group} (h : Issues s g x) {r : Nat} (hr : r < (blockOf s g).regs)
    (f : Nat → State → State) : laneScalar s r f = .next (advance (f g (endChain s g)) g 4) := by
  rw [laneScalar, withGroup_issues h, if_pos hr]

theorem identifier_endChain (s : State) {g : Nat} {x : Group} (h : kfind s.groups g = some x) (c : BitVec 6) (hc : c.toNat ≤ 5) :
    identifier (endChain s g) g c.toNat = BitVec.ofNat 64
      ([(blockOf s g).number, x.index, (blockOf s g).launch, (blockOf s g).core, (blockOf s g).core / 40, s.cycle].getD c.toNat 0) := by
  have hg : getGroup (endChain s g) g = { x with latch := {} } := getGroup_modGroup _ h
  have hb : blockOf (endChain s g) g = blockOf s g := by rw [blockOf, hg, blockOf, getGroup_of h]; rfl
  unfold identifier
  rw [hb, hg]
  interval_cases c.toNat <;> rfl

/-- A lane's write of vput, where the lane is active (R85). -/
def putLane (x : Group) (d l : Nat) (w : Word) : Group := if x.active l then x.setV d l w else x

theorem putLane_rest (x : Group) (d l : Nat) (w : Word) : putLane x d l w = { x with v := (putLane x d l w).v } := by
  unfold putLane
  split <;> rfl

theorem putLane_vreg (x : Group) {d l : Nat} (w : Word) (hl : l < 32) (r : Nat) {j : Nat} (hj : j < 32) :
    (putLane x d l w).vreg r j = if x.active l = true ∧ r = d ∧ j = l then w else x.vreg r j := by
  unfold putLane
  by_cases ha : x.active l = true
  · simp [ha, Group.vreg_setV _ _ _ _ _ _ hl hj]
  · simp [ha]

/-- Settles O17: each is a change of the group's record behind the end of its chain. -/
theorem uniformMoves : Obligations.UniformMoves := by
  unfold Obligations.UniformMoves
  intro s g x h
  refine ⟨fun d c hc => ?_, fun d a b i ha => ?_, fun d a b i hd hb => ?_, fun d a => ?_, fun d a => ?_, ?_⟩
  · rw [← identifier_endChain s h.2 c hc]
    exact h.sets_uniform (fun _ => identifier (endChain s g) g c.toNat) (withGroup_issues h _)
  · exact h.sets_uniform (fun y => (y.vreg a.toNat (laneOperand y b i)).setWidth 64) 
      (laneScalar_declared h ha fun g t => modGroup t g fun y => y.setS d.toNat ((y.vreg a.toNat (laneOperand y b i)).setWidth 64))
  · intro l
    have hl : l < 32 := by
      cases i with
      | true => exact hb rfl
      | false => exact Nat.mod_lt _ (by decide)
    have hi : exec (.vput d a b i) s = .next (advance (modGroup (endChain s g) g fun y =>
        putLane y d.toNat (laneOperand y b i) ((y.sreg a.toNat).setWidth 32)) g 4) :=
      laneScalar_declared h hd fun g t => modGroup t g fun y => putLane y d.toNat (laneOperand y b i) ((y.sreg a.toNat).setWidth 32)
    refine ⟨_, h.leaves_scalar _ hi (fun y => ?_) (fun y => ?_) (fun y => ?_), ?_, fun r j hj hne => ?_, fun ha => ?_⟩
    · rw [putLane_rest]
    · rw [putLane_rest]
    · rw [putLane_rest]
    · rw [putLane_rest]; rfl
    · refine (putLane_vreg _ _ hl r hj).trans (if_neg ?_)
      rintro ⟨ha, hr, hj⟩
      rcases hne with hne | hne | hne
      · exact hne hr
      · exact hne hj
      · subst hj
        exact Bool.false_ne_true (hne.symm.trans ha)
    · exact (putLane_vreg _ _ hl _ hl).trans (if_pos ⟨ha, rfl, rfl⟩)
  · refine ⟨_, h.leaves_scalar (fun y => y.setFmt d.toNat ((y.sreg a.toNat).setWidth 16)) (withGroup_issues h _) (fun _ => rfl) (fun _ => rfl)
      (fun _ => rfl), rfl, ?_, fun r hr => ?_⟩
    · exact (Group.fmtReg_setFmt ..).trans (if_pos rfl)
    · exact (Group.fmtReg_setFmt ..).trans (if_neg hr)
  · exact h.sets_uniform (fun y => (y.fmtReg a.toNat).setWidth 64) (withGroup_issues h _)
  · exact ⟨_, ⟨_, withGroup_issues h _, ((OnlyGroup.refl h.2).modGroup _).advance 2⟩, rfl⟩

end Sys2Proof.Machine
end

section
/-! Bytes written and read back, and changes of bytes and of one group's record (R109, R132). -/

namespace Sys2Proof.Machine

theorem leBytes_length (n w : Nat) : (leBytes n w).length = n := by
  induction n generalizing w with
  | zero => rfl
  | succ n ih => simp [leBytes, ih]

theorem leNat_leBytes (n w : Nat) : leNat (leBytes n w) = w % 256 ^ n := by
  induction n generalizing w with
  | zero => simp [leBytes, leNat, Nat.mod_one]
  | succ n ih =>
    rw [leBytes, leNat, ih, Nat.pow_succ', Nat.mod_mul]
    simp

theorem Loc.mem_run {l p : Loc} {n : Nat} : p ∈ l.run n ↔ ∃ i < n, l.add i = p := by simp [Loc.run]

theorem Loc.add_inj (l : Loc) {i j : Nat} (h : l.add i = l.add j) : i = j := by
  cases l <;> simpa [Loc.add] using h

theorem Loc.run_nodup (l : Loc) (n : Nat) : (l.run n).Nodup := List.nodup_range.map fun _ _ h => l.add_inj h

theorem Loc.run_length (l : Loc) (n : Nat) : (l.run n).length = n := by simp [Loc.run]

theorem readByte_writeByte_same {s : State} {l : Loc} (h : Reachable s l) (v : Byte) : readByte (writeByte s l v) l = v := by
  cases l with
  | mem a => rw [readByte_writeByte_mem, if_pos rfl]
  | pad b o =>
    obtain ⟨blk, hb⟩ := Option.isSome_iff_exists.1 h
    rw [readByte_writeByte_pad hb, if_pos rfl]
  | slice b o =>
    obtain ⟨blk, hb⟩ := Option.isSome_iff_exists.1 h
    rw [readByte_writeByte_slice hb, if_pos rfl]

/-- Two states hold the same blocks but for their bytes and poison. -/
def SameBlocks (s t : State) : Prop := ∀ b, (kfind t.blocks b).map Block.bare = (kfind s.blocks b).map Block.bare

theorem SameBlocks.found {s t : State} (h : SameBlocks s t) (b : Nat) : (kfind t.blocks b).isSome = (kfind s.blocks b).isSome := by
  simpa using congrArg Option.isSome (h b)

theorem SameBlocks.bare_getBlock {s t : State} (h : SameBlocks s t) (b : Nat) : (getBlock t b).bare = (getBlock s b).bare := by
  have hb := h b
  unfold getBlock kgetD
  cases hs : kfind s.blocks b <;> cases ht : kfind t.blocks b <;> simp_all

theorem SameBlocks.reachable {s t : State} (h : SameBlocks s t) {l : Loc} : Reachable s l → Reachable t l := by
  cases l with
  | mem a => exact id
  | pad b o => exact fun hr => (h.found b).trans hr
  | slice b o => exact fun hr => (h.found b).trans hr

theorem SameBlocks.kmodify (s : State) (b : Nat) {f : Block → Block} (hf : ∀ x, (f x).bare = x.bare) :
    SameBlocks s { s with blocks := kmodify s.blocks b f } := by
  intro j
  rw [kfind_kmodify]
  split
  · next hj => subst hj; cases kfind s.blocks j <;> simp [hf]
  · rfl

/-! ## Bytes and a record -/

/-- A change of bytes, their poison and the record of one group, step by step. -/
theorem OnlyBytes.refl {s : State} {g : Nat} {x : Group} (h : kfind s.groups g = some x) : OnlyBytes s s g x :=
  ⟨h, fun _ _ => rfl, fun _ => rfl, rfl⟩

section
variable {s t : State} {g : Nat} {y : Group} (h : OnlyBytes s t g y)
include h

theorem OnlyBytes.cycle : t.cycle = s.cycle := by rw [h.rest]
theorem OnlyBytes.parts : t.parts = s.parts := by rw [h.rest]
theorem OnlyBytes.sameBlocks : SameBlocks s t := h.blocks

theorem OnlyBytes.modGroup (f : Group → Group) : OnlyBytes s (modGroup t g f) g (f y) where
  group := by simp [kfind_modGroup, h.group]
  others := fun j hj => by simp [kfind_modGroup, hj, h.others j hj]
  blocks := h.blocks
  rest := by rw [Machine.modGroup]; rw [h.rest]

theorem OnlyBytes.advance (len : Nat) : OnlyBytes s (advance t g len) g (Past s y len) := by
  rw [Past, ← h.cycle]
  exact h.modGroup _

/-- Bytes and poison, apart from the groups. -/
theorem OnlyBytes.bytes {u : State} (hu : u = { t with blocks := u.blocks, mem := u.mem, poison := u.poison }) (hb : SameBlocks t u) :
    OnlyBytes s u g y where
  group := by rw [hu]; exact h.group
  others := fun j hj => by rw [hu]; exact h.others j hj
  blocks := fun b => (hb b).trans (h.blocks b)
  rest := by rw [hu]; dsimp only; rw [h.rest]

theorem OnlyBytes.writeByte (l : Loc) (v : Byte) : OnlyBytes s (writeByte t l v) g y := by
  cases l with
  | mem a => exact h.bytes rfl fun _ => rfl
  | pad b o => exact h.bytes rfl (SameBlocks.kmodify t b fun _ => rfl)
  | slice b o => exact h.bytes rfl (SameBlocks.kmodify t b fun _ => rfl)

theorem OnlyBytes.markPoison (l : Loc) (on : Bool) : OnlyBytes s (markPoison t l on) g y := by
  cases l with
  | mem a => exact h.bytes rfl fun _ => rfl
  | pad b o => exact h.bytes rfl (SameBlocks.kmodify t b fun _ => rfl)
  | slice b o => exact h.bytes rfl (SameBlocks.kmodify t b fun _ => rfl)

theorem OnlyBytes.writeRaw (ws : List (Loc × Byte)) : OnlyBytes s (writeRaw t ws) g y := by
  induction ws generalizing t with
  | nil => exact h
  | cons w ws ih => exact ih (h.writeByte w.1 w.2)

theorem OnlyBytes.writeBytes (ws : List (Loc × Byte)) : OnlyBytes s (writeBytes t ws) g y := by
  have hclear : ∀ (gs : List Loc) (u : State), OnlyBytes s u g y → OnlyBytes s (gs.foldl (fun s g => Machine.markPoison s g false) u) g y := by
    intro gs
    induction gs with
    | nil => exact fun _ hu => hu
    | cons k gs ih => exact fun u hu => ih _ (hu.markPoison k false)
  exact hclear _ _ (h.writeRaw ws)

/-- The context of the group stays, its block being the same. -/
theorem OnlyBytes.ctxOf {x : Group} (hx : kfind s.groups g = some x) (hb : y.block = x.block) : ctxOf t g = ctxOf s g := by
  have hblk : (blockOf t g).bare = (blockOf s g).bare := by
    rw [blockOf, blockOf, getGroup_of h.group, getGroup_of hx, hb]
    exact h.sameBlocks.bare_getBlock x.block
  have hsh : (blockOf t g).shadow = (blockOf s g).shadow := (congrArg Block.shadow hblk :)
  have hp : (blockOf t g).part = (blockOf s g).part := (congrArg Block.part hblk :)
  simp only [Machine.ctxOf, ctxOfBlock, getPart, hsh, hp, h.parts]

end

/-! ## Reading back a run -/

theorem writeByte_reachable (s : State) (l : Loc) (v : Byte) {p : Loc} (h : Reachable s p) : Reachable (writeByte s l v) p := by
  refine SameBlocks.reachable ?_ h
  cases l with
  | mem a => exact fun _ => rfl
  | pad b o => exact SameBlocks.kmodify s b fun _ => rfl
  | slice b o => exact SameBlocks.kmodify s b fun _ => rfl

/-- Distinct places read back what was written. -/
theorem readByte_writeRaw_same (ws : List (Loc × Byte)) (s : State) (hn : (ws.map (·.1)).Nodup) (hr : ∀ w ∈ ws, Reachable s w.1) :
    ∀ w ∈ ws, readByte (writeRaw s ws) w.1 = w.2 := by
  induction ws generalizing s with
  | nil => exact fun _ h => absurd h List.not_mem_nil
  | cons a ws ih =>
    rw [List.map_cons, List.nodup_cons] at hn
    obtain ⟨ha, hn⟩ := hn
    intro w hw
    rcases List.mem_cons.1 hw with rfl | hw
    · refine (readByte_writeRaw_other ws (writeByte s w.1 w.2) w.1 fun k hk he => ha ?_).trans ?_
      · exact he ▸ List.mem_map_of_mem hk
      · exact readByte_writeByte_same (hr w List.mem_cons_self) w.2
    · exact ih (writeByte s a.1 a.2) hn (fun k hk => writeByte_reachable s a.1 a.2 (hr k (List.mem_cons_of_mem _ hk))) w hw

/-- A store of bytes to distinct places that are there reads back as those bytes. -/
theorem map_readByte_writeBytes {s : State} {p : List Loc} {bs : List Byte} (hl : p.length = bs.length) (hn : p.Nodup)
    (hr : ∀ l ∈ p, Reachable s l) : p.map (readByte (writeBytes s (p.zip bs))) = bs := by
  have hp : (p.zip bs).map (·.1) = p := List.map_fst_zip hl.le
  have hb : (p.zip bs).map (·.2) = bs := List.map_snd_zip hl.ge
  calc p.map (readByte (writeBytes s (p.zip bs)))
      = ((p.zip bs).map (·.1)).map (readByte (writeBytes s (p.zip bs))) := by rw [hp]
    _ = (p.zip bs).map fun w => readByte (writeBytes s (p.zip bs)) w.1 := by rw [List.map_map]; rfl
    _ = (p.zip bs).map (·.2) := List.map_congr_left fun w hw => by
        rw [writeBytes, readByte_clear]
        exact readByte_writeRaw_same _ s (by rw [hp]; exact hn) (fun k hk => hr _ (List.of_mem_zip hk).1) w hw
    _ = bs := hb

end Sys2Proof.Machine
end

section
/-! The gate record (R132), and what a write of it leaves. -/

namespace Sys2Proof.Machine

theorem bit_le_one (b : Bool) : bit b ≤ 1 := by cases b <;> decide

theorem bitAt_of_bit {n i : Nat} {b : Bool} (h : n / 2 ^ i % 2 = bit b) : bitAt n i = b := by
  rw [bitAt, h]
  cases b <;> rfl

theorem bitsOf_lt (n lo len : Nat) : bitsOf n lo len < 2 ^ len := Nat.mod_lt _ (Nat.two_pow_pos len)

theorem bitAt_toNat {w : Nat} (x : BitVec w) (i : Nat) : bitAt x.toNat i = x.getLsbD i := by
  rw [bitAt_eq_testBit, BitVec.testBit_toNat]

/-- The numbers of a gate fit their fields. -/
structure Gate.Fits (x : Gate) : Prop where
  pendArr : x.pendArr < 2 ^ 16
  expArr : x.expArr < 2 ^ 16
  pendBytes : x.pendBytes < 2 ^ 32
  expBytes : x.expBytes < 2 ^ 32
  gen : x.gen < 2 ^ 8

theorem Gate.toNat_lt {x : Gate} (h : x.Fits) : x.toNat < 256 ^ 16 := by
  obtain ⟨h1, h2, h3, h4, h5⟩ := h
  have b1 := bit_le_one x.phase
  have b2 := bit_le_one x.armed
  have b3 := bit_le_one x.exitcnt
  have b4 := bit_le_one x.underflow
  have b5 := bit_le_one x.stale
  unfold Gate.toNat
  omega

theorem gateOf_toNat {x : Gate} (h : x.Fits) : gateOf x.toNat = x := by
  obtain ⟨h1, h2, h3, h4, h5⟩ := h
  have b1 := bit_le_one x.phase
  have b2 := bit_le_one x.armed
  have b3 := bit_le_one x.exitcnt
  have b4 := bit_le_one x.underflow
  have b5 := bit_le_one x.stale
  have e0 : bitsOf x.toNat 0 16 = x.pendArr := by unfold bitsOf Gate.toNat; omega
  have e1 : bitsOf x.toNat 16 16 = x.expArr := by unfold bitsOf Gate.toNat; omega
  have e2 : bitsOf x.toNat 32 32 = x.pendBytes := by unfold bitsOf Gate.toNat; omega
  have e3 : bitsOf x.toNat 64 32 = x.expBytes := by unfold bitsOf Gate.toNat; omega
  have e4 : bitAt x.toNat 96 = x.phase := bitAt_of_bit (by unfold Gate.toNat; omega)
  have e5 : bitAt x.toNat 97 = x.armed := bitAt_of_bit (by unfold Gate.toNat; omega)
  have e6 : bitAt x.toNat 98 = x.exitcnt := bitAt_of_bit (by unfold Gate.toNat; omega)
  have e7 : bitAt x.toNat 99 = x.underflow := bitAt_of_bit (by unfold Gate.toNat; omega)
  have e8 : bitAt x.toNat 100 = x.stale := bitAt_of_bit (by unfold Gate.toNat; omega)
  have e9 : bitsOf x.toNat 104 8 = x.gen := by unfold bitsOf Gate.toNat; omega
  simp only [gateOf, e0, e1, e2, e3, e4, e5, e6, e7, e8, e9]

theorem readGate_fits (s : State) (p : List Loc) : (readGate s p).Fits :=
  ⟨bitsOf_lt .., bitsOf_lt .., bitsOf_lt .., bitsOf_lt .., bitsOf_lt ..⟩

theorem readGate_congr {s t : State} {p : List Loc} (h : ∀ l, readByte t l = readByte s l) : readGate t p = readGate s p := by
  rw [readGate, readGate, List.map_congr_left fun l _ => h l]

@[simp] theorem readGate_modGroup (s : State) (g : Nat) (f : Group → Group) (p : List Loc) : readGate (modGroup s g f) p = readGate s p :=
  readGate_congr fun _ => readByte_modGroup ..

/-- The places of a gate: 16 distinct ones that are there. -/
structure GatePlaces (s : State) (p : List Loc) : Prop where
  length : p.length = 16
  nodup : p.Nodup
  there : ∀ l ∈ p, Reachable s l

theorem GatePlaces.of_same {s t : State} {p : List Loc} (h : GatePlaces s p) (hb : ∀ l ∈ p, Reachable s l → Reachable t l) : GatePlaces t p :=
  ⟨h.length, h.nodup, fun l hl => hb l hl (h.there l hl)⟩

theorem readGate_writeGate {s : State} {p : List Loc} {x : Gate} (h : GatePlaces s p) (hx : x.Fits) : readGate (writeGate s p x) p = x := by
  have hb := map_readByte_writeBytes (bs := leBytes 16 x.toNat) (h.length.trans (leBytes_length 16 _).symm) h.nodup h.there
  rw [readGate, writeGate, hb, leNat_leBytes, Nat.mod_eq_of_lt (Gate.toNat_lt hx), gateOf_toNat hx]

theorem readByte_writeGate_other {s : State} {p : List Loc} {x : Gate} {l : Loc} (h : l ∉ p) : readByte (writeGate s p x) l = readByte s l :=
  readByte_writeBytes_other _ _ _ fun _ hw he => h (he ▸ (List.of_mem_zip hw).1)

/-- A write of a gate. -/
theorem GateBecomes.write {s t : State} {g : Nat} {y : Group} {p : List Loc} {gt : Gate} (h : OnlyBytes s t g y)
    (hb : ∀ l, readByte t l = readByte s l) (hp : GatePlaces s p) (hx : gt.Fits) : GateBecomes s (writeGate t p gt) g y p gt where
  only := h.writeBytes _
  gate := readGate_writeGate (hp.of_same fun _ _ => h.sameBlocks.reachable) hx
  bytes := fun l hl => (readByte_writeGate_other hl).trans (hb l)

section
variable {s t : State} {g : Nat} {y : Group} {p : List Loc} {gt : Gate} (h : GateBecomes s t g y p gt)
include h

theorem GateBecomes.modGroup (f : Group → Group) : GateBecomes s (modGroup t g f) g (f y) p gt where
  only := h.only.modGroup f
  gate := (readGate_modGroup ..).trans h.gate
  bytes := fun l hl => (readByte_modGroup ..).trans (h.bytes l hl)

theorem GateBecomes.advance (len : Nat) : GateBecomes s (advance t g len) g (Past s y len) p gt where
  only := h.only.advance len
  gate := (readGate_modGroup ..).trans h.gate
  bytes := fun l hl => (readByte_modGroup ..).trans (h.bytes l hl)

end

/-! ## Trap 8 behind an update (R145) -/

/-- An exception behind the instruction changes the group's record alone. -/
theorem raiseAfter_modGroup {s : State} {g : Nat} {x : Group} (h : kfind s.groups g = some x) (hv : vectorOf s g ≠ 0) {num : Nat} (code : Nat)
    (hn : 6 < num) : ∃ f, raiseAfter s g num code = modGroup s g f ∧ Entered s g x (f x) num code (x.pc + 4) x.pc 0 0 x.em := by
  obtain ⟨y, hy, he⟩ := raiseAfter_enters h hv code hn
  obtain ⟨f, hf⟩ : ∃ f, raiseAfter s g num code = modGroup s g f := by
    rw [raiseAfter, enterTrap, if_neg (by simp [no_vector hv])]
    exact ⟨_, rfl⟩
  have hyf : f x = y := by simpa [hf, kfind_modGroup, h] using hy.group
  exact ⟨f, hf, hyf ▸ he⟩

/-- What a group's record shows of an exception depends on its vector and the clock alone. -/
theorem Entered.congr {s t : State} {g : Nat} {x y : Group} {num code : Nat} {pc addr vaddr : DWord} {lanes em : Word}
    (h : Entered t g x y num code pc addr vaddr lanes em) (hv : vectorOf t g = vectorOf s g) (hc : t.cycle = s.cycle) :
    Entered s g x y num code pc addr vaddr lanes em :=
  ⟨hv ▸ h.target, h.saved, h.mask, h.mode, h.chain, h.ready, hc ▸ h.rest⟩

/-- An update of a gate goes on at the next instruction, or raises trap 8 behind its own where it sets underflow and the context enables it. -/
theorem GateBecomes.afterUpdate {s t : State} {g : Nat} {x y : Group} {p : List Loc} {gt : Gate} (h : GateBecomes s t g y p gt)
    (hx : kfind s.groups g = some x) (hb : y.block = x.block) (under : Bool) :
    (under = false ∨ bitAt (ctxOf s g).trapEn 8 = false → GateBecomes s (afterUpdate t g under) g (Past s y 4) p gt) ∧
    (under = true → bitAt (ctxOf s g).trapEn 8 = true → vectorOf s g ≠ 0 → ∃ z,
      GateBecomes s (afterUpdate t g under) g z p gt ∧ Entered s g y z 8 0 (y.pc + 4) y.pc 0 0 y.em) := by
  have hctx : ctxOf t g = ctxOf s g := h.only.ctxOf hx hb
  have hvec : vectorOf t g = vectorOf s g := by rw [vectorOf, vectorOf, hctx]
  constructor
  · intro hno
    have : (under && bitAt (ctxOf t g).trapEn 8) = false := by rw [hctx]; exact Bool.and_eq_false_iff.2 hno
    rw [Machine.afterUpdate, this]
    exact h.advance 4
  · intro hu he hv
    obtain ⟨f, hf, hent⟩ := raiseAfter_modGroup h.only.group (hvec ▸ hv) 0 (num := 8) (by decide)
    rw [Machine.afterUpdate, hu, hctx, he, Bool.and_self, if_pos rfl, hf]
    exact ⟨f y, h.modGroup f, hent.congr hvec h.only.cycle⟩

end Sys2Proof.Machine
end

section
/-! References to gates (R133), the access of a group to its gate (R116, R138), arrivals and those kept (R136, R141). -/

namespace Sys2Proof.Machine

/-! ## The places of a gate -/

theorem found_of_padSize {s : State} {b : Nat} (h : 0 < (getBlock s b).padSize) : (kfind s.blocks b).isSome = true := by
  cases hb : kfind s.blocks b with
  | some blk => rfl
  | none => simp [getBlock, kgetD, hb] at h

/-- A place of a die pad, or of the pad window of a block that is there. -/
def Loc.InPads (s : State) : Loc → Prop
  | .mem _ => True
  | .pad b _ => (kfind s.blocks b).isSome = true
  | .slice _ _ => False

theorem padPlaces_run {s : State} {b gi lane lvl off size : Nat} {p : List Loc} (hl : lvl = 1 ∨ lvl = 2 ∨ lvl = 3) (hs : 0 < size)
    (h : padPlaces s b gi lane lvl off size = some p) : ∃ l : Loc, p = l.run size ∧ l.InPads s := by
  rcases hl with rfl | rfl | rfl
  · simp only [padPlaces, Option.ite_none_right_eq_some, Option.some.injEq] at h
    obtain ⟨hle, rfl⟩ := h
    exact ⟨.pad b off, rfl, found_of_padSize (by omega)⟩
  · simp only [padPlaces] at h
    split_ifs at h
    split at h
    · cases h
    · next c _ =>
      split_ifs at h with hle
      cases h
      exact ⟨.pad c _, rfl, found_of_padSize (by omega)⟩
  · simp only [padPlaces, Option.ite_none_right_eq_some, Option.some.injEq] at h
    obtain ⟨-, rfl⟩ := h
    exact ⟨.mem _, rfl, trivial⟩

theorem refLvl_pad {r : DWord} (h : refLvl r ≠ 4) : refLvl r = 1 ∨ refLvl r = 2 ∨ refLvl r = 3 := by
  have : fld r 32 2 < 4 := bitsOf_lt ..
  unfold refLvl at h ⊢
  omega

section
variable {s : State} {g : Nat} {x : Group} {r : DWord} {p : List Loc} (h : GateAt s g x r p)
include h

theorem GateAt.run : ∃ l : Loc, p = l.run 16 ∧ l.InPads s := padPlaces_run (refLvl_pad h.level.1) (by decide) h.inside

/-- In every state that still has the pads of the gate, its places are there. -/
theorem GateAt.places {t : State} (ht : ∀ l ∈ p, ∀ b o, l = .pad b o → (kfind t.blocks b).isSome = true) : GatePlaces t p := by
  obtain ⟨l, rfl, hl⟩ := h.run
  refine ⟨l.run_length 16, l.run_nodup 16, fun k hk => ?_⟩
  obtain ⟨i, -, rfl⟩ := Loc.mem_run.1 hk
  cases l with
  | mem a => trivial
  | pad c o => exact ht _ hk _ _ rfl
  | slice c o => exact hl.elim

theorem GateAt.places_here : GatePlaces s p := by
  refine h.places fun k hk b o hb => ?_
  obtain ⟨l, rfl, hl⟩ := h.run
  obtain ⟨i, -, rfl⟩ := Loc.mem_run.1 hk
  cases l with
  | mem a => cases hb
  | pad c o => cases hb; exact hl
  | slice c o => cases hb

end

/-! ## The checks of a reference -/

theorem placePoisoned_iff (s : State) (p : List Loc) :
    placePoisoned s p = true ↔ ∃ l ∈ p, isPoisoned s l = true ∨ locAnswer s l = .error := by
  simp [placePoisoned]

theorem gatePlaces_outside {s : State} {b : Nat} {r : DWord} (hn : refLvl r ≠ 4 ∧ fld r 34 30 = 0) (ha : refOff r % 16 = 0)
    (hp : padPlaces s b 0 0 (refLvl r) (refOff r) 16 = none) : gatePlaces s b r = .error 3 := by
  unfold gatePlaces
  rw [if_neg (by simp [hn.1, hn.2]), if_neg (by simp [ha]), hp]

theorem gatePlaces_inside {s : State} {b : Nat} {r : DWord} {p : List Loc} (hn : refLvl r ≠ 4 ∧ fld r 34 30 = 0) (ha : refOff r % 16 = 0)
    (hp : padPlaces s b 0 0 (refLvl r) (refOff r) 16 = some p) : gatePlaces s b r = if placePoisoned s p then .error 6 else .ok p := by
  unfold gatePlaces
  rw [if_neg (by simp [hn.1, hn.2]), if_neg (by simp [ha]), hp]

theorem GateAt.gatePlaces {s : State} {g : Nat} {x : Group} {r : DWord} {p : List Loc} (h : GateAt s g x r p) :
    gatePlaces s x.block r = .ok p := by
  have hc : placePoisoned s p = false := by
    rw [Bool.eq_false_iff, ne_eq, placePoisoned_iff]
    rintro ⟨l, hl, hp | ha⟩
    · exact absurd hp (by simp [h.clean l hl])
    · exact h.answers l hl ha
  rw [gatePlaces_inside h.level h.aligned h.inside, hc]
  rfl

theorem gatePlaces_unnamed {s : State} {b : Nat} {r : DWord} (hn : ¬ (refLvl r ≠ 4 ∧ fld r 34 30 = 0)) : gatePlaces s b r = .error 3 := by
  unfold gatePlaces
  rw [if_pos]
  by_cases h : refLvl r = 4
  · simp [h]
  · have : fld r 34 30 ≠ 0 := fun he => hn ⟨h, he⟩
    simp [this]

theorem gatePlaces_misaligned {s : State} {b : Nat} {r : DWord} (hn : refLvl r ≠ 4 ∧ fld r 34 30 = 0) (ha : refOff r % 16 ≠ 0) :
    gatePlaces s b r = .error 2 := by
  unfold gatePlaces
  rw [if_neg (by simp [hn.1, hn.2]), if_pos (by simpa using ha)]

theorem gatePlaces_poisoned {s : State} {b : Nat} {r : DWord} {p : List Loc} (hn : refLvl r ≠ 4 ∧ fld r 34 30 = 0) (ha : refOff r % 16 = 0)
    (hp : padPlaces s b 0 0 (refLvl r) (refOff r) 16 = some p) (hb : ∃ l ∈ p, isPoisoned s l = true ∨ locAnswer s l = .error) :
    gatePlaces s b r = .error 6 := by
  rw [gatePlaces_inside hn ha hp, (placePoisoned_iff s p).2 hb, if_pos rfl]

/-! ## The access -/

@[simp] theorem gateBusy_widenPad (s : State) (g lvl : Nat) (p : List Loc) : gateBusy (widenPad s g lvl) g p = gateBusy s g p := rfl
@[simp] theorem readGate_widenPad (s : State) (g lvl : Nat) (p : List Loc) : readGate (widenPad s g lvl) p = readGate s p := readGate_modGroup ..

section
variable {s s1 : State} {g : Nat} {x : Group} {r : DWord} (hs : settleGate s g r = s1) (hx : kfind s1.groups g = some x)
include hs hx

theorem gateChecked_stops {num : Nat} (h : gatePlaces s1 x.block r = .error num) (k : State → List Loc → State) :
    gateChecked s g r k = raise s1 g num (refOff r) := by
  rw [gateChecked, hs, getGroup_of hx, h]

variable {p : List Loc} (h : GateAt s1 g x r p)
include h

theorem gateChecked_reaches (k : State → List Loc → State) : gateChecked s g r k = k (widenPad s1 g (refLvl r)) p := by
  rw [gateChecked, hs, getGroup_of hx, h.gatePlaces]

theorem withGate_busy (hb : gateBusy s1 g p = true) (k : State → List Loc → State) :
    withGate s g r k = waitHere (widenPad s1 g (refLvl r)) g := by
  rw [withGate, gateChecked_reaches hs hx h, gateBusy_widenPad, hb, if_pos rfl]

theorem withGate_free (hb : gateBusy s1 g p = false) (k : State → List Loc → State) :
    withGate s g r k = k (widenPad s1 g (refLvl r)) p := by
  rw [withGate, gateChecked_reaches hs hx h, gateBusy_widenPad, hb]
  rfl

end

/-- A reference that fails a check raises its trap (R133, R330). -/
theorem raise_reference {s : State} {g : Nat} {x : Group} (hx : kfind s.groups g = some x) (hv : vectorOf s g ≠ 0) {num : Nat}
    (hn : 2 ≤ num ∧ num ≤ 6) (va : Nat) :
    ∃ y, OnlyGroup s (raise s g num va) g y ∧ Entered s g x y num 0 x.pc x.pc (BitVec.ofNat 64 va) 0 0 := by
  obtain ⟨y, hy, he⟩ := raise_enters hx hv num va 0 0
  rw [if_pos (by simpa using hn)] at he
  exact ⟨y, hy, he⟩

/-! ## Arrivals (R136) -/

/-- An arrival of gate.arrive, which is never stale. -/
theorem applyArrival_untagged (s : State) (b : Nat) (p : List Loc) (c n : Nat) :
    applyArrival s b p c n none false =
      (writeGate s p (arrivedGate (readGate s p) c n), decide ((readGate s p).pendArr < c ∨ (readGate s p).pendBytes < n)) := by
  simp only [applyArrival, arrivedGate, Bool.false_and, Option.any_none, Bool.false_eq_true, if_false, Bool.and_eq_true, beq_iff_eq,
    Bool.or_assoc, Bool.decide_or]

theorem arrivedGate_fits {x : Gate} (h : x.Fits) (c n : Nat) : (arrivedGate x c n).Fits := by
  obtain ⟨h1, h2, h3, h4, h5⟩ := h
  unfold arrivedGate
  dsimp only
  split
  · exact ⟨h2, h2, h4, h4, h5⟩
  · exact ⟨(Nat.sub_le ..).trans_lt h1, h2, (Nat.sub_le ..).trans_lt h3, h4, h5⟩

/-! ## Arrivals kept for later (R141) -/

/-- The groups of an access with the tag among them, where `g` is. -/
def tagged (g tag : Nat) (l : List Nat) : List Nat := if l.contains g then l ++ [tag] else l

theorem tagged_contains {g tag : Nat} {l : List Nat} (h : l.contains g = true) : (tagged g tag l).contains tag = true := by
  simp only [tagged, h, if_true, List.contains_append, Bool.or_eq_true]
  exact .inr (by simp)

def Entry.tagged (g tag : Nat) (e : Entry) : Entry := { e with groups := Machine.tagged g tag e.groups }

theorem entriesUnderWay_tagAccesses (s : State) (g tag : Nat) :
    entriesUnderWay (tagAccesses s g tag) = (entriesUnderWay s).map (Entry.tagged g tag) := by
  simp only [entriesUnderWay, tagAccesses, List.map_append, List.flatMap_map, List.map_flatMap]
  congr 3
  · refine congrArg (List.flatMap · s.holders) (funext fun ⟨c, r, st⟩ => ?_)
    cases st <;> rfl
  · refine funext fun ⟨k, x⟩ => ?_
    simp only [Region.entries, List.map_append, List.flatMap_map, List.map_flatMap]
    congr 1
    · cases x.state with
      | draining cs q => cases q <;> rfl
      | open_ => rfl
      | cutting slot c => rfl
    · refine congrArg (List.flatMap · x.queue) (funext fun q => ?_)
      cases q <;> rfl

/-- What a group has outstanding: lines and stores of its own, entries and messages with entries of its own, arrivals (R114). -/
theorem outstanding_iff (s : State) (g : Nat) : outstanding s g = true ↔
    (∃ c ∈ s.cores, ∃ l ∈ c.2.wcb, l.groups.contains g = true) ∨ (∃ t ∈ s.stores, t.groups.contains g = true) ∨
      (∃ e ∈ entriesUnderWay s, (e.inSet = false ∨ e.ret ≠ []) ∧ e.groups.contains g = true) ∨
      (∃ m ∈ s.messages, ∃ e ∈ m.entries, e.groups.contains g = true) ∨ ∃ a ∈ s.arrivals, a.groups.contains g = true := by
  simp only [outstanding, WcbLine.of, Entry.of, Bool.or_eq_true, List.any_eq_true, Bool.and_eq_true, Bool.not_eq_true', List.isEmpty_eq_false_iff,
    or_assoc, ne_eq]

/-- What a group has outstanding bears the tag as well. -/
theorem outstanding_tagAccesses {s : State} {g : Nat} (tag : Nat) (h : outstanding s g = true) : outstanding (tagAccesses s g tag) tag = true := by
  rw [outstanding_iff] at h ⊢
  rcases h with ⟨c, hc, l, hl, hg⟩ | ⟨t, ht, hg⟩ | ⟨e, he, hret, hg⟩ | ⟨m, hm, e, he, hg⟩ | ⟨a, ha, hg⟩
  · exact .inl ⟨_, List.mem_map_of_mem hc, _, List.mem_map_of_mem hl, tagged_contains hg⟩
  · exact .inr (.inl ⟨_, List.mem_map_of_mem ht, tagged_contains hg⟩)
  · refine .inr (.inr (.inl ⟨e.tagged g tag, ?_, hret, tagged_contains hg⟩))
    rw [entriesUnderWay_tagAccesses]
    exact List.mem_map_of_mem he
  · exact .inr (.inr (.inr (.inl ⟨_, List.mem_map_of_mem hm, _, List.mem_map_of_mem he, tagged_contains hg⟩)))
  · exact .inr (.inr (.inr (.inr ⟨_, List.mem_map_of_mem ha, tagged_contains hg⟩)))

/-- More arrivals leave outstanding what is. -/
theorem outstanding_arrivals {s : State} {g : Nat} (as : List Arrival) (h : outstanding s g = true) :
    outstanding { s with arrivals := s.arrivals ++ as } g = true := by
  rw [outstanding_iff] at h ⊢
  refine h.imp_right (Or.imp_right (Or.imp_right (Or.imp_right ?_)))
  rintro ⟨a, ha, hg⟩
  exact ⟨a, List.mem_append_left _ ha, hg⟩

/-- The accesses of a group under a tag that nothing has used. -/
def underTag (s : State) (g : Nat) : State := tagAccesses { s with nextId := s.nextId + 1 } g s.nextId

theorem keepArrival_eq {s : State} {g : Nat} {x : Group} (hx : kfind s.groups g = some x) (a : Arrival) :
    keepArrival s g a = { underTag s g with
      arrivals := (underTag s g).arrivals ++ [{ a with tag := s.nextId, group := g, block := x.block, groups := [g] }] } := by
  have hg : getGroup (underTag s g) g = x := getGroup_of hx
  rw [← hg]
  rfl

/-- An arrival kept for later (R141), whatever the records of the groups become. -/
theorem keepArrival_kept {s : State} {g : Nat} {x : Group} (hx : kfind s.groups g = some x) (a : Arrival) (gs : KMap Group) :
    ∃ n, ArrivalKept s { keepArrival s g a with groups := gs } g x a.ref a.c a.n a.exits n ∧ n.addr = a.addr := by
  rw [keepArrival_eq hx]
  refine ⟨{ a with tag := s.nextId, group := g, block := x.block, groups := [g] },
    ⟨⟨List.getLast?_concat, ?_⟩, ⟨rfl, rfl, rfl⟩, ⟨rfl, rfl, rfl, rfl⟩, fun h => ?_, rfl, rfl⟩, rfl⟩
  · simp [underTag, tagAccesses]
  · exact outstanding_arrivals (s := underTag s g) _ (outstanding_tagAccesses _ (s := { s with nextId := s.nextId + 1 }) h)

end Sys2Proof.Machine
end

section
/-! The gate instructions (R138 to R146), and the statement about them. -/

namespace Sys2Proof.Machine

theorem Group.sreg_of_s {x y : Group} (h : x.s = y.s) (j : Nat) : x.sreg j = y.sreg j := by rw [Group.sreg, Group.sreg, h]

theorem OnlyGroup.past {s t : State} {g : Nat} {y : Group} (h : OnlyGroup s t g y) (len : Nat) :
    OnlyGroup s (Machine.advance t g len) g (Past s y len) :=
  h.advance len

/-! ## What each instruction runs -/

theorem exec_gateWait_waiter (a b : BitVec 6) (s : State) :
    exec (.gateWait a b) s = gateWaiter s a (fun x => bitAt (x.sreg b.toNat).toNat 0) fun t g yes =>
      if yes then advance t g 4
      else block t g (.gate ((getGroup t g).sreg a.toNat) (bitAt ((getGroup t g).sreg b.toNat).toNat 0)) := rfl

theorem exec_gateTwait_waiter (a : BitVec 6) (q : BitVec 5) (s : State) :
    exec (.gateTwait a q) s = gateWaiter s a (fun x => bitAt (x.sreg (2 * q.toNat)).toNat 0) fun t g yes =>
      if yes then advance (modGroup t g fun x => x.setS (2 * q.toNat + 1) 0) g 4
      else block t g (.gateT ((getGroup t g).sreg a.toNat) (bitAt ((getGroup t g).sreg (2 * q.toNat)).toNat 0)
        (deadlineFrom t ((getGroup t g).sreg (2 * q.toNat + 1)).toNat) (2 * q.toNat + 1)) := rfl

/-- The forms that wait where their access is held, with the control word of gate.enlist. -/
def WaitsAtGate (a b : BitVec 6) (q : BitVec 5) (c : DWord) (i : Instr) : Prop :=
  i ∈ [Instr.gateInit a b, .gateArm a, .gateExpect a b, .gateTest a q, .gateTestM a q] ∨ (i = .gateEnlist a b ∧ c.getLsbD 2 = false)

section
variable {s : State} {g : Nat} {x0 : Group} {a b : BitVec 6} {q : BitVec 5} (hi : Issues s g x0)
include hi

theorem getGroup_endChain : getGroup (endChain s g) g = { x0 with latch := {} } := getGroup_modGroup _ hi.2

theorem gateOp_eq (f : State → Nat → List Loc → State) :
    gateOp s a f = .next (withGate (endChain s g) g (x0.sreg a.toNat) fun t p => f t g p) := by
  rw [gateOp, withGroup_issues hi]
  dsimp only
  rw [getGroup_endChain hi]
  rfl

theorem gateWaiter_eq (ph : Group → Bool) (k : State → Nat → Bool → State) :
    gateWaiter s a ph k = .next (gateChecked (endChain s g) g (x0.sreg a.toNat) fun t p => k t g (flipped t g p (ph { x0 with latch := {} }))) := by
  rw [gateWaiter, withGroup_issues hi]
  dsimp only
  rw [getGroup_endChain hi]
  rfl

theorem exec_gateArrive : exec (.gateArrive a b) s =
    .next (gateChecked (endChain s g) g (x0.sreg a.toNat) fun t p =>
      let t := performAll t g
      if arrivalWaits t g p then
        advance (resetReach (keepArrival t g
          { ref := x0.sreg a.toNat, c := fld (x0.sreg b.toNat) 0 16, n := fld (x0.sreg b.toNat) 32 32, addr := x0.pc }) g) g 4
      else
        let r := applyArrival t x0.block p (fld (x0.sreg b.toNat) 0 16) (fld (x0.sreg b.toNat) 32 32) none false
        afterUpdate (resetReach r.1 g) g r.2) := by
  show execGateArrive a b s = _
  rw [execGateArrive, withGroup_issues hi]
  dsimp only
  rw [getGroup_endChain hi]
  rfl

theorem exec_gateEnlist_fill (hc : (x0.sreg b.toNat).getLsbD 2 = false) : exec (.gateEnlist a b) s =
    .next (withGate (endChain s g) g (x0.sreg a.toNat) fun t p =>
      advance (modGroup t g fun x => { x with
        enlist := kput x.enlist (fld (x0.sreg b.toNat) 0 2) (x0.sreg a.toNat, BitVec.ofNat 8 (readGate t p).gen) }) g 4) := by
  show execGateEnlist a b s = _
  rw [execGateEnlist, withGroup_issues hi]
  dsimp only
  rw [getGroup_endChain hi]
  refine congrArg Host.Outcome.next (if_neg ?_)
  rw [bitAt_toNat]
  exact Bool.eq_false_iff.1 hc

theorem exec_gateEnlist_empty (hc : (x0.sreg b.toNat).getLsbD 2 = true) : exec (.gateEnlist a b) s =
    .next (advance (modGroup (endChain s g) g fun x => { x with enlist := kerase x.enlist (fld (x0.sreg b.toNat) 0 2) }) g 4) := by
  show execGateEnlist a b s = _
  rw [execGateEnlist, withGroup_issues hi]
  dsimp only
  rw [getGroup_endChain hi]
  refine congrArg Host.Outcome.next (if_pos ?_)
  rw [bitAt_toNat]
  exact hc

theorem exec_waitsAtGate {i : Instr} (h : WaitsAtGate a b q (x0.sreg b.toNat) i) :
    ∃ k, exec i s = .next (withGate (endChain s g) g (x0.sreg a.toNat) k) := by
  rcases h with h | ⟨rfl, hc⟩
  · simp only [List.mem_cons, List.not_mem_nil, or_false] at h
    rcases h with rfl | rfl | rfl | rfl | rfl
    all_goals exact ⟨_, gateOp_eq hi _⟩
  · exact ⟨_, exec_gateEnlist_fill hi hc⟩

theorem exec_gateChecked {i : Instr}
    (h : WaitsAtGate a b q (x0.sreg b.toNat) i ∨ i ∈ [Instr.gateArrive a b, .gateWait a b, .gateTwait a q]) :
    ∃ k, exec i s = .next (gateChecked (endChain s g) g (x0.sreg a.toNat) k) := by
  rcases h with h | h
  · obtain ⟨k, hk⟩ := exec_waitsAtGate hi h
    exact ⟨_, hk⟩
  · simp only [List.mem_cons, List.not_mem_nil, or_false] at h
    rcases h with rfl | rfl | rfl
    · exact ⟨_, exec_gateArrive hi⟩
    · exact ⟨_, (exec_gateWait_waiter a b s).trans (gateWaiter_eq hi _ _)⟩
    · exact ⟨_, (exec_gateTwait_waiter a q s).trans (gateWaiter_eq hi _ _)⟩

/-- A reference that fails a check of R133 traps, whatever the gate instruction. -/
theorem gate_traps {s1 : State} {x : Group} (hs : settleGate (endChain s g) g (x0.sreg a.toNat) = s1) (hx : kfind s1.groups g = some x)
    (hv : vectorOf s1 g ≠ 0) {num : Nat} (hn : 2 ≤ num ∧ num ≤ 6) (he : gatePlaces s1 x.block (x0.sreg a.toNat) = .error num) {i : Instr}
    (h : WaitsAtGate a b q (x0.sreg b.toNat) i ∨ i ∈ [Instr.gateArrive a b, .gateWait a b, .gateTwait a q]) :
    TrapsFrom i s s1 g x num 0 (BitVec.ofNat 64 (refOff (x0.sreg a.toNat))) 0 0 := by
  obtain ⟨k, hk⟩ := exec_gateChecked hi h
  obtain ⟨y, hy, hent⟩ := raise_reference hx hv hn (refOff (x0.sreg a.toNat))
  exact ⟨y, ⟨_, hk.trans (congrArg _ (gateChecked_stops hs hx he k)), hy⟩, hent⟩

end

/-! ## At the gate -/

section
variable {s s1 : State} {g : Nat} {x0 x : Group} {a b : BitVec 6} {q : BitVec 5} {p : List Loc} (hi : Issues s g x0)
  (hs : settleGate (endChain s g) g (x0.sreg a.toNat) = s1) (hx : kfind s1.groups g = some x) (hg : GateAt s1 g x (x0.sreg a.toNat) p)
include hi hs hx hg

/-- The record of a group whose access to a gate has widened its reach. -/
def reached (x : Group) (r : DWord) : Group := x.widen (padScope (refLvl r))

omit hi hs hg in
theorem widenPad_onlyGroup (r : DWord) : OnlyGroup s1 (widenPad s1 g (refLvl r)) g (reached x r) := (OnlyGroup.refl hx).modGroup _

omit hi hs hg in
theorem widenPad_onlyBytes (r : DWord) : OnlyBytes s1 (widenPad s1 g (refLvl r)) g (reached x r) := (OnlyBytes.refl hx).modGroup _

omit hi hs in
/-- A write of the gate by the access. -/
theorem writeGate_reached {gt : Gate} (hf : gt.Fits) :
    GateBecomes s1 (writeGate (widenPad s1 g (refLvl (x0.sreg a.toNat))) p gt) g (reached x (x0.sreg a.toNat)) p gt :=
  GateBecomes.write (widenPad_onlyBytes hx _) (fun _ => readByte_modGroup ..) hg.places_here hf

/-- An access that is held waits at its instruction. -/
theorem gate_held (hb : gateBusy s1 g p = true) {i : Instr} (h : WaitsAtGate a b q (x0.sreg b.toNat) i) :
    LeavesFrom i s s1 g (Stalled (reached x (x0.sreg a.toNat))) := by
  obtain ⟨k, hk⟩ := exec_waitsAtGate hi h
  exact ⟨_, hk.trans (congrArg _ (withGate_busy hs hx hg hb k)), (widenPad_onlyGroup hx _).modGroup _⟩

theorem gateOp_free (hb : gateBusy s1 g p = false) (f : State → Nat → List Loc → State) :
    gateOp s a f = .next (f (widenPad s1 g (refLvl (x0.sreg a.toNat))) g p) := by
  rw [gateOp_eq hi, withGate_free hs hx hg hb]

theorem gateWaiter_reaches (ph : Group → Bool) (k : State → Nat → Bool → State) :
    gateWaiter s a ph k = .next (k (widenPad s1 g (refLvl (x0.sreg a.toNat))) g (flipped s1 g p (ph { x0 with latch := {} }))) := by
  rw [gateWaiter_eq hi, gateChecked_reaches hs hx hg]
  simp only [flipped, gateBusy_widenPad, readGate_widenPad]

theorem gateArm_becomes (hb : gateBusy s1 g p = false) : ∃ t, exec (.gateArm a) s = .next t ∧
    GateBecomes s1 t g (gatePast s1 x (x0.sreg a.toNat)) p { readGate s1 p with armed := true } := by
  have hf := readGate_fits s1 p
  refine ⟨_, ?_, (writeGate_reached hx hg (gt := { readGate s1 p with armed := true }) ⟨hf.1, hf.2, hf.3, hf.4, hf.5⟩).advance 4⟩
  refine (gateOp_free hi hs hx hg hb _).trans ?_
  rw [readGate_widenPad]

variable (hr : x.s = x0.s)
include hr

omit hi hs hg in
theorem sreg_widenPad (r : DWord) (j : Nat) : (getGroup (widenPad s1 g (refLvl r)) g).sreg j = x0.sreg j := by
  rw [(widenPad_onlyGroup hx r).getGroup]
  exact Group.sreg_of_s hr j

theorem gateInit_becomes (hb : gateBusy s1 g p = false) : ∃ t, exec (.gateInit a b) s = .next t ∧
    GateBecomes s1 t g (gatePast s1 x (x0.sreg a.toNat)) p { readGate s1 p with
      expArr := fld (x0.sreg b.toNat) 0 16, pendArr := fld (x0.sreg b.toNat) 0 16
      expBytes := fld (x0.sreg b.toNat) 32 32, pendBytes := fld (x0.sreg b.toNat) 32 32
      exitcnt := (x0.sreg b.toNat).getLsbD 16, armed := false, underflow := false, stale := false, gen := ((readGate s1 p).gen + 1) % 256 } := by
  refine ⟨_, ?_, (writeGate_reached hx hg ⟨bitsOf_lt .., bitsOf_lt .., bitsOf_lt .., bitsOf_lt .., Nat.mod_lt _ (by decide)⟩).advance 4⟩
  refine (gateOp_free hi hs hx hg hb _).trans ?_
  simp only [sreg_widenPad hx hr, bitAt_toNat, readGate_widenPad]

theorem exec_gateExpect_free (hb : gateBusy s1 g p = false) {n : Nat} (hn : n = (readGate s1 p).pendBytes + fld (x0.sreg b.toNat) 32 32) :
    exec (.gateExpect a b) s = .next (afterUpdate (writeGate (widenPad s1 g (refLvl (x0.sreg a.toNat))) p { readGate s1 p with
      pendBytes := min n (2 ^ 32 - 1), underflow := (readGate s1 p).underflow || decide (2 ^ 32 ≤ n) }) g (decide (2 ^ 32 ≤ n))) := by
  subst hn
  refine (gateOp_free hi hs hx hg hb _).trans ?_
  simp only [sreg_widenPad hx hr, readGate_widenPad]

theorem gateExpect_becomes (hb : gateBusy s1 g p = false) {n : Nat} (hn : n = (readGate s1 p).pendBytes + fld (x0.sreg b.toNat) 32 32) :
    (n < 2 ^ 32 → ∃ t, exec (.gateExpect a b) s = .next t ∧
      GateBecomes s1 t g (gatePast s1 x (x0.sreg a.toNat)) p { readGate s1 p with pendBytes := n }) ∧
    (2 ^ 32 ≤ n → ∀ full, full = { readGate s1 p with pendBytes := 2 ^ 32 - 1, underflow := true } →
      (bitAt (ctxOf s1 g).trapEn 8 = false → ∃ t, exec (.gateExpect a b) s = .next t ∧
        GateBecomes s1 t g (gatePast s1 x (x0.sreg a.toNat)) p full) ∧
      (bitAt (ctxOf s1 g).trapEn 8 = true → vectorOf s1 g ≠ 0 → ∃ t z, exec (.gateExpect a b) s = .next t ∧
        GateBecomes s1 t g z p full ∧ Entered s1 g (reached x (x0.sreg a.toNat)) z 8 0 (x.pc + 4) x.pc 0 0 x.em)) := by
  have hf := readGate_fits s1 p
  have hexec := exec_gateExpect_free hi hs hx hg hr hb hn
  constructor
  · intro hlt
    have hmin : min n (2 ^ 32 - 1) = n := by omega
    rw [hmin, decide_eq_false (Nat.not_le.2 hlt), Bool.or_false] at hexec
    have hw := (writeGate_reached hx hg (gt := { readGate s1 p with pendBytes := n }) ⟨hf.1, hf.2, hlt, hf.4, hf.5⟩).afterUpdate hx rfl false
    exact ⟨_, hexec, hw.1 (.inl rfl)⟩
  · rintro hle full rfl
    have hmin : min n (2 ^ 32 - 1) = 2 ^ 32 - 1 := by omega
    rw [hmin, decide_eq_true hle, Bool.or_true] at hexec
    have hw := (writeGate_reached hx hg (gt := { readGate s1 p with pendBytes := 2 ^ 32 - 1, underflow := true })
      ⟨hf.1, hf.2, Nat.sub_lt (Nat.two_pow_pos 32) Nat.one_pos, hf.4, hf.5⟩).afterUpdate hx rfl true
    constructor
    · intro hno
      exact ⟨_, hexec, hw.1 (.inr hno)⟩
    · intro hen hv
      obtain ⟨z, hz, hent⟩ := hw.2 rfl hen hv
      exact ⟨_, z, hexec, hz, hent⟩

omit hi hs hg hr in
/-- An instruction that writes `v` into the odd register of its pair behind the access. -/
theorem sets_odd {i : Instr} {r : DWord} {odd : Nat} {v : DWord}
    (h : exec i s = .next (advance (modGroup (widenPad s1 g (refLvl r)) g fun y => y.setS odd v) g 4)) :
    ∃ z, LeavesFrom i s s1 g z ∧ z = { gatePast s1 x r with s := z.s } ∧ z.sreg odd = v ∧ ∀ j, j ≠ odd → z.sreg j = x.sreg j := by
  refine ⟨_, ⟨_, h, ((widenPad_onlyGroup hx r).modGroup _).past 4⟩, rfl, ?_, fun j hj => ?_⟩
  · exact (Group.sreg_setS ..).trans (if_pos rfl)
  · exact (Group.sreg_setS ..).trans (if_neg hj)

theorem exec_gateSample (hb : gateBusy s1 g p = false) (yes : DWord) : gateSample s a q yes =
    .next (advance (modGroup (widenPad s1 g (refLvl (x0.sreg a.toNat))) g fun y => y.setS (2 * q.toNat + 1)
      (if (readGate s1 p).phase ≠ (x.sreg (2 * q.toNat)).getLsbD 0 then yes else 0)) g 4) := by
  refine (gateOp_free hi hs hx hg hb _).trans ?_
  simp only [sreg_widenPad hx hr, bitAt_toNat, Group.sreg_of_s hr, bne_iff_ne, readGate_widenPad]

theorem exec_gateWait : exec (.gateWait a b) s = .next
    (let u := widenPad s1 g (refLvl (x0.sreg a.toNat))
     if flipped s1 g p ((x0.sreg b.toNat).getLsbD 0) then advance u g 4 else block u g (.gate (x0.sreg a.toNat) ((x0.sreg b.toNat).getLsbD 0))) := by
  rw [exec_gateWait_waiter, gateWaiter_reaches hi hs hx hg]
  simp only [sreg_widenPad hx hr, bitAt_toNat]
  rfl

theorem exec_gateTwait : exec (.gateTwait a q) s = .next
    (let u := widenPad s1 g (refLvl (x0.sreg a.toNat))
     let ph := (x.sreg (2 * q.toNat)).getLsbD 0
     let odd := 2 * q.toNat + 1
     if flipped s1 g p ph then advance (modGroup u g fun y => y.setS odd 0) g 4
     else block u g (.gateT (x0.sreg a.toNat) ph (min (s1.cycle + (x.sreg odd).toNat) (2 ^ 64 - 1)) odd)) := by
  rw [exec_gateTwait_waiter, gateWaiter_reaches hi hs hx hg]
  simp only [sreg_widenPad hx hr, bitAt_toNat, Group.sreg_of_s hr]
  rfl

omit hi hs hx hg hr in
theorem flipped_true_iff {ph : Bool} : flipped s1 g p ph = true ↔ gateBusy s1 g p = false ∧ (readGate s1 p).phase ≠ ph := by
  simp [flipped]

omit hi hs hx hg hr in
theorem flipped_false_iff {ph : Bool} : flipped s1 g p ph = false ↔ gateBusy s1 g p = true ∨ (readGate s1 p).phase = ph := by
  rw [← Bool.not_eq_true, flipped_true_iff]
  cases gateBusy s1 g p <;> simp

theorem gateWait_flipped (h : flipped s1 g p ((x0.sreg b.toNat).getLsbD 0) = true) :
    LeavesFrom (.gateWait a b) s s1 g (gatePast s1 x (x0.sreg a.toNat)) := by
  refine ⟨_, exec_gateWait hi hs hx hg hr, ?_⟩
  dsimp only
  rw [if_pos h]
  exact (widenPad_onlyGroup hx _).past 4

theorem gateWait_blocks (h : flipped s1 g p ((x0.sreg b.toNat).getLsbD 0) = false) :
    LeavesFrom (.gateWait a b) s s1 g
      { reached x (x0.sreg a.toNat) with status := .blocked (.gate (x0.sreg a.toNat) ((x0.sreg b.toNat).getLsbD 0)) } := by
  refine ⟨_, exec_gateWait hi hs hx hg hr, ?_⟩
  dsimp only
  rw [if_neg (Bool.eq_false_iff.1 h)]
  exact (widenPad_onlyGroup hx _).modGroup _

theorem gateTwait_flipped (h : flipped s1 g p ((x.sreg (2 * q.toNat)).getLsbD 0) = true) :
    exec (.gateTwait a q) s =
      .next (advance (modGroup (widenPad s1 g (refLvl (x0.sreg a.toNat))) g fun y => y.setS (2 * q.toNat + 1) 0) g 4) := by
  rw [exec_gateTwait hi hs hx hg hr]
  dsimp only
  rw [if_pos h]

theorem gateTwait_blocks (h : flipped s1 g p ((x.sreg (2 * q.toNat)).getLsbD 0) = false) :
    LeavesFrom (.gateTwait a q) s s1 g { reached x (x0.sreg a.toNat) with
      status := .blocked (.gateT (x0.sreg a.toNat) ((x.sreg (2 * q.toNat)).getLsbD 0)
        (min (s1.cycle + (x.sreg (2 * q.toNat + 1)).toNat) (2 ^ 64 - 1)) (2 * q.toNat + 1)) } := by
  refine ⟨_, exec_gateTwait hi hs hx hg hr, ?_⟩
  dsimp only
  rw [if_neg (Bool.eq_false_iff.1 h)]
  exact (widenPad_onlyGroup hx _).modGroup _

omit hr in
theorem gateEnlist_fills (hb : gateBusy s1 g p = false) (hc : (x0.sreg b.toNat).getLsbD 2 = false) :
    LeavesFrom (.gateEnlist a b) s s1 g { gatePast s1 x (x0.sreg a.toNat) with
      enlist := kput x.enlist (fld (x0.sreg b.toNat) 0 2) (x0.sreg a.toNat, BitVec.ofNat 8 (readGate s1 p).gen) } := by
  refine ⟨_, (exec_gateEnlist_fill hi hc).trans (congrArg _ (withGate_free hs hx hg hb _)), ?_⟩
  rw [readGate_widenPad]
  exact ((widenPad_onlyGroup hx _).modGroup _).past 4

end

end Sys2Proof.Machine
end

section
/-! gate.arrive (R141), and the statement about the gate instructions. -/

namespace Sys2Proof.Machine

theorem settleGate_still (s : State) (g : Nat) (r : DWord) : Still s (settleGate s g r) := by
  unfold settleGate
  split
  · exact (fixOverlap_still ..).trans (settlePlaces_still ..)
  · exact ⟨rfl, rfl⟩

theorem fixLoads_still (s : State) (g : Nat) : Still s (fixLoads s g) := modGroup_still s g fun _ => rfl

theorem performAll_still (s : State) (g : Nat) : Still s (performAll s g) := by
  unfold performAll applyEntries
  exact (fixLoads_still s g).trans <| (drainLines_still ..).trans <| (applyStores_still ..).trans (applyWhere_still ..)

section
variable {s s1 s2 : State} {g : Nat} {x0 x x2 : Group} {a b : BitVec 6} {p : List Loc} (hi : Issues s g x0)
  (hs : settleGate (endChain s g) g (x0.sreg a.toNat) = s1) (hx : kfind s1.groups g = some x) (hg : GateAt s1 g x (x0.sreg a.toNat) p)
  (h2 : performAll (widenPad s1 g (refLvl (x0.sreg a.toNat))) g = s2) (hx2 : kfind s2.groups g = some x2)

include hi hs hx in
theorem settleGate_pc : x.pc = x0.pc := by
  have hx1 : kfind (endChain s g).groups g = some { x0 with latch := {} } := ((OnlyGroup.refl hi.2).modGroup _).group
  have hpc := (settleGate_still (endChain s g) g (x0.sreg a.toNat)).pc hx1 (hs.symm ▸ hx)
  exact hpc

include hx h2 hx2 in
theorem performAll_block : x2.block = x.block := by
  have hgrp := (performAll_still _ g).group (widenPad_onlyGroup hx (x0.sreg a.toNat)).group (h2 ▸ hx2)
  exact (congrArg Group.block hgrp :)

include hi hs hx hg h2

theorem exec_gateArrive_free (hw : arrivalWaits s2 g p = false) : exec (.gateArrive a b) s =
    .next (afterUpdate (resetReach (writeGate s2 p (arrivedGate (readGate s2 p) (fld (x0.sreg b.toNat) 0 16) (fld (x0.sreg b.toNat) 32 32))) g) g
      (decide ((readGate s2 p).pendArr < fld (x0.sreg b.toNat) 0 16 ∨ (readGate s2 p).pendBytes < fld (x0.sreg b.toNat) 32 32))) := by
  rw [exec_gateArrive hi, gateChecked_reaches hs hx hg]
  dsimp only
  rw [h2, hw, applyArrival_untagged]
  rfl

theorem exec_gateArrive_kept (hw : arrivalWaits s2 g p = true) : exec (.gateArrive a b) s =
    .next (advance (resetReach (keepArrival s2 g
      { ref := x0.sreg a.toNat, c := fld (x0.sreg b.toNat) 0 16, n := fld (x0.sreg b.toNat) 32 32, addr := x0.pc }) g) g 4) := by
  rw [exec_gateArrive hi, gateChecked_reaches hs hx hg]
  dsimp only
  rw [h2, hw, if_pos rfl]

include hx2

theorem gateArrive_becomes (hw : arrivalWaits s2 g p = false) (hp : ∀ l ∈ p, ∀ b o, l = .pad b o → (kfind s2.blocks b).isSome) :
    let old := readGate s2 p
    let now := arrivedGate old (fld (x0.sreg b.toNat) 0 16) (fld (x0.sreg b.toNat) 32 32)
    let under := decide (old.pendArr < fld (x0.sreg b.toNat) 0 16 ∨ old.pendBytes < fld (x0.sreg b.toNat) 32 32)
    (under = false ∨ bitAt (ctxOf s2 g).trapEn 8 = false → ∃ t, exec (.gateArrive a b) s = .next t ∧
      GateBecomes s2 t g { Past s2 x2 4 with reach := 0 } p now) ∧
    (under = true → bitAt (ctxOf s2 g).trapEn 8 = true → vectorOf s2 g ≠ 0 → ∃ t z, exec (.gateArrive a b) s = .next t ∧
      GateBecomes s2 t g z p now ∧ Entered s2 g { x2 with reach := 0 } z 8 0 (x2.pc + 4) x2.pc 0 0 x2.em) := by
  intro old now under
  have hexec := exec_gateArrive_free (b := b) hi hs hx hg h2 hw
  have hwrite : GateBecomes s2 (writeGate s2 p now) g x2 p now :=
    GateBecomes.write (OnlyBytes.refl hx2) (fun _ => rfl) (hg.places hp) (arrivedGate_fits (readGate_fits s2 p) _ _)
  have hafter := (hwrite.modGroup fun y => { y with reach := 0 }).afterUpdate hx2 rfl under
  constructor
  · intro hno
    exact ⟨_, hexec, hafter.1 hno⟩
  · intro hu he hv
    obtain ⟨z, hz, hent⟩ := hafter.2 hu he hv
    exact ⟨_, z, hexec, hz, hent⟩

theorem gateArrive_keeps (hw : arrivalWaits s2 g p = true) :
    ∃ t n, exec (.gateArrive a b) s = .next t ∧ kfind t.groups g = some { Past s2 x2 4 with reach := 0 } ∧
      ArrivalKept s2 t g x (x0.sreg a.toNat) (fld (x0.sreg b.toNat) 0 16) (fld (x0.sreg b.toNat) 32 32) none n ∧ n.addr = x.pc := by
  obtain ⟨n, hn, haddr⟩ := keepArrival_kept hx2
    { ref := x0.sreg a.toNat, c := fld (x0.sreg b.toNat) 0 16, n := fld (x0.sreg b.toNat) 32 32, addr := x0.pc }
    (advance (resetReach s2 g) g 4).groups
  refine ⟨_, n, exec_gateArrive_kept hi hs hx hg h2 hw, ?_, ⟨hn.last, ?_, hn.effect, hn.behind, hn.bytes⟩, ?_⟩
  · exact (((OnlyGroup.refl hx2).modGroup fun y => { y with reach := 0 }).past 4).group
  · rw [← performAll_block hx h2 hx2]
    exact hn.source
  · rw [haddr, settleGate_pc hi hs hx]

end

/-! ## The statement -/

section
variable {s s1 : State} {g : Nat} {x0 x : Group} {a b : BitVec 6} {q : BitVec 5} (hi : Issues s g x0)
include hi

theorem gateEnlist_empties (hc : (x0.sreg b.toNat).getLsbD 2 = true) :
    Leaves (.gateEnlist a b) s g { Behind s x0 4 with enlist := kerase x0.enlist (fld (x0.sreg b.toNat) 0 2) } :=
  Issues.leaves_scalar hi _ (exec_gateEnlist_empty hi hc) (fun _ => rfl) (fun _ => rfl) fun _ => rfl

/-- The traps of R133, one for each check. -/
theorem gate_reference_traps (hs : settleGate (endChain s g) g (x0.sreg a.toNat) = s1) (hx : kfind s1.groups g = some x)
    (hv : vectorOf s1 g ≠ 0) {i : Instr}
    (h : WaitsAtGate a b q (x0.sreg b.toNat) i ∨ i ∈ [Instr.gateArrive a b, .gateWait a b, .gateTwait a q]) :
    let r := x0.sreg a.toNat
    let places := padPlaces s1 x.block 0 0 (refLvl r) (refOff r) 16
    let named := refLvl r ≠ 4 ∧ fld r 34 30 = 0
    let va := BitVec.ofNat 64 (refOff r)
    (¬ named → TrapsFrom i s s1 g x 3 0 va 0 0) ∧
    (named → refOff r % 16 ≠ 0 → TrapsFrom i s s1 g x 2 0 va 0 0) ∧
    (named → refOff r % 16 = 0 → places = none → TrapsFrom i s s1 g x 3 0 va 0 0) ∧
    (named → refOff r % 16 = 0 → ∀ p, places = some p → (∃ l ∈ p, isPoisoned s1 l = true ∨ locAnswer s1 l = .error) →
      TrapsFrom i s s1 g x 6 0 va 0 0) := by
  intro r places named va
  refine ⟨fun hn => ?_, fun hn ha => ?_, fun hn ha hp => ?_, fun hn ha p hp hb => ?_⟩
  · exact gate_traps hi hs hx hv (by decide) (gatePlaces_unnamed hn) h
  · exact gate_traps hi hs hx hv (by decide) (gatePlaces_misaligned hn ha) h
  · exact gate_traps hi hs hx hv (by decide) (gatePlaces_outside hn ha hp) h
  · exact gate_traps hi hs hx hv (by decide) (gatePlaces_poisoned hn ha hp hb) h

end

/-- Settles O34: behind `settleGate` each instruction is its own equation, and a write of the gate reads back as the 16 bytes written. -/
theorem gates : Obligations.Gates := by
  unfold Obligations.Gates
  intro s g x0 a b q hi r c others
  refine ⟨?_, gateEnlist_empties hi, ?_⟩
  · intro s1 x p hs hx hg hr gt y ph odd busy here SetsOdd
    refine ⟨fun hb i h => gate_held hi hs hx hg hb h, fun hb => ?_, fun hb hne => ?_, fun h => ?_, fun hb hne => ?_, fun h => ?_, ?_⟩
    · refine ⟨gateInit_becomes hi hs hx hg hr hb, gateArm_becomes hi hs hx hg hb, fun n hn => gateExpect_becomes hi hs hx hg hr hb hn,
        ?_, ?_, gateEnlist_fills hi hs hx hg hb⟩
      · exact sets_odd hx (exec_gateSample hi hs hx hg hr hb 1)
      · exact sets_odd hx (exec_gateSample hi hs hx hg hr hb 0xFFFFFFFF)
    · exact gateWait_flipped hi hs hx hg hr (flipped_true_iff.2 ⟨hb, hne⟩)
    · exact gateWait_blocks hi hs hx hg hr (flipped_false_iff.2 h)
    · exact sets_odd hx (gateTwait_flipped hi hs hx hg hr (flipped_true_iff.2 ⟨hb, hne⟩))
    · exact gateTwait_blocks hi hs hx hg hr (flipped_false_iff.2 h)
    · exact fun s2 x2 h2 hx2 => ⟨gateArrive_becomes hi hs hx hg h2 hx2, gateArrive_keeps hi hs hx hg h2 hx2⟩
  · intro i h s1 x hs hx hv
    refine gate_reference_traps (b := b) (q := q) hi hs hx hv ?_
    rcases h with h | h | h
    · exact .inl (.inl h)
    · exact .inr h
    · exact .inl (.inr h)

end Sys2Proof.Machine
end

section
/-! A result in flight arrives (R10, R117, R204). -/

namespace Sys2Proof.Machine

/-! ## Events and records -/

theorem modGroup_found {s : State} {g : Nat} {x : Group} (h : kfind s.groups g = some x) (f : Group → Group) :
    modGroup s g f = modGroup s g fun _ => f x := by
  rw [modGroup, modGroup, kmodify, kmodify, h]

theorem blockOf_modGroup {s : State} {g : Nat} {x : Group} (h : kfind s.groups g = some x) {f : Group → Group} (hf : (f x).block = x.block) :
    blockOf (modGroup s g f) g = blockOf s g := by
  rw [blockOf, blockOf, getGroup_modGroup f h, getGroup_of h, hf]
  rfl

theorem coreOf_modGroup {s : State} {g : Nat} {x : Group} (h : kfind s.groups g = some x) {f : Group → Group} (hf : (f x).block = x.block) :
    coreOf (modGroup s g f) g = coreOf s g := by rw [coreOf, coreOf, blockOf_modGroup h hf]

/-! ## A list of writes and its last one -/

theorem lastValue_cons {α : Type} (e : Nat × α) (ws : List (Nat × α)) (k : Nat) :
    lastValue (e :: ws) k = (lastValue ws k).or (if e.1 = k then some e.2 else none) := by
  simp only [lastValue, List.reverse_cons, List.find?_append, List.find?_singleton]
  cases ws.reverse.find? fun w => w.1 = k
  · by_cases he : e.1 = k <;> simp [he]
  · rfl

theorem lastValue_absent {α : Type} {ws : List (Nat × α)} {k : Nat} (h : ∀ e ∈ ws, e.1 ≠ k) : lastValue ws k = none := by
  induction ws with
  | nil => rfl
  | cons e ws ih =>
    rw [lastValue_cons, ih fun a ha => h a (List.mem_cons_of_mem _ ha), if_neg (h e List.mem_cons_self)]
    rfl

theorem lastValue_sorted {α : Type} {m : KMap α} (h : ksorted m = true) (k : Nat) : lastValue m k = kfind m k := by
  induction m with
  | nil => rfl
  | cons e m ih =>
    obtain ⟨hlt, hm⟩ := (ksorted_cons e m).1 h
    rw [lastValue_cons, kfind]
    split
    · next he => rw [lastValue_absent fun a ha => by have := hlt a ha; omega]; rfl
    · rw [ih hm, Option.or_none]

/-- Writes to the keys that pass a test leave their last values. -/
theorem kgetD_stores {α : Type} [DecidableEq α] (c : Nat → Bool) (ws : List (Nat × α)) (m : KMap α) (k : Nat) (d : α) :
    kgetD (ws.foldl (fun m w => if c w.1 then m else kstore m w.1 w.2 d) m) k d =
      if c k then kgetD m k d else (lastValue ws k).getD (kgetD m k d) := by
  induction ws generalizing m with
  | nil => exact (ite_self _).symm
  | cons w ws ih =>
    rw [List.foldl_cons, ih, lastValue_cons]
    by_cases hw : c w.1 = true
    · rw [if_pos hw]
      by_cases hk : w.1 = k
      · rw [if_pos (hk ▸ hw), if_pos (hk ▸ hw)]
      · rw [if_neg hk, Option.or_none]
    · rw [if_neg hw, kgetD_kstore]
      by_cases hk : w.1 = k
      · rw [if_pos hk.symm, if_pos hk, if_neg (hk ▸ hw), if_neg (hk ▸ hw)]
        cases lastValue ws k <;> rfl
      · rw [if_neg (Ne.symm hk), if_neg hk, Option.or_none]

/-! ## What a result writes -/

/-- The record of a group in whose registers a result has come back: those that no later instruction has written. -/
def Group.receive (x : Group) (e : InFlight) : Group :=
  let x := { x with v := e.v.foldl (fun v r => if e.passed.contains r.1 then v else kstore v r.1 r.2 0) x.v }
  match e.s with
  | some (d, v) => if e.spassed then x else x.setS d v
  | none => x

theorem Group.receive_rest (x : Group) (e : InFlight) : x.receive e = { x with v := (x.receive e).v, s := (x.receive e).s } := by
  unfold Group.receive
  dsimp only
  split
  · split <;> rfl
  · rfl

theorem Group.receive_v (x : Group) (e : InFlight) :
    (x.receive e).v = e.v.foldl (fun v r => if e.passed.contains r.1 then v else kstore v r.1 r.2 0) x.v := by
  unfold Group.receive
  dsimp only
  split
  · split <;> rfl
  · rfl

theorem Group.vreg_receive (x : Group) (e : InFlight) (n l : Nat) : (x.receive e).vreg n l =
    if 32 * n + l ∈ e.passed then x.vreg n l else (lastValue e.v (32 * n + l)).getD (x.vreg n l) := by
  rw [Group.vreg, Group.receive_v, kgetD_stores]
  simp only [List.contains_iff_mem]
  rfl

theorem Group.sreg_receive_none (x : Group) {e : InFlight} (h : e.s = none) (n : Nat) : (x.receive e).sreg n = x.sreg n := by
  rw [Group.receive, h]
  rfl

theorem Group.sreg_receive_some (x : Group) {e : InFlight} {d : Nat} {v : DWord} (h : e.s = some (d, v)) (n : Nat) :
    (x.receive e).sreg n = if d = n ∧ e.spassed = false then v else x.sreg n := by
  rw [Group.receive, h]
  dsimp only
  cases e.spassed
  · simp only [Bool.false_eq_true, if_false, and_true, Group.sreg_setS, eq_comm]
    rfl
  · simp only [if_true, Bool.true_eq_false, and_false, if_false]
    rfl

/-! ## The event -/

/-- The record of a group without the result in flight `slot`. -/
def Group.without (x : Group) (slot : Nat) : Group := { x with inFlight := kerase x.inFlight slot, acquires := x.acquires.erase slot }

theorem exec_resultArrival (g slot : Nat) (late : Word) (s : State) :
    exec (.resultArrival g slot late) s = .next ((evResultArrival g slot late s).getD s) := rfl

section
variable {s : State} {g slot : Nat} {x : Group} {e : InFlight} (hx : kfind s.groups g = some x) (he : kfind x.inFlight slot = some e)
  (ha : e.awaiting = 0) (hd : e.due ≤ s.cycle) (hp : earlierPending s g e.gen = false)
include hx he ha hd hp

theorem resultArrival_values (late : Word) (hok : e.poisoned = []) {s1 : State} {r : InFlight}
    (hr : arrived (modGroup s g fun _ => x.without slot) g e late = (s1, r)) :
    Happens (.resultArrival g slot late) s (modGroup s1 g fun y => y.receive r) := by
  rw [Happens, exec_resultArrival, evResultArrival, hx, Option.bind_some, he]
  dsimp only
  rw [if_neg (by simp [ha, hp]; omega), hok, modGroup_found hx]
  change Host.Outcome.next (Option.getD (some (modGroup (arrived (modGroup s g fun _ => x.without slot) g e late).1 g fun y =>
    y.receive (arrived (modGroup s g fun _ => x.without slot) g e late).2)) s) = _
  rw [hr]
  rfl

/-- The trap 6 of a result whose returning entries met poison. -/
def Pending.ofPoison (e : InFlight) : Pending := {
  num := 6, addr := e.addr, vaddr := BitVec.ofNat 64 ((e.poisoned.headD (0, 0)).2)
  lanes := if e.s.isSome then 0 else maskOf fun l => (kfind e.poisoned l).isSome }

theorem resultArrival_poison (late : Word) (hbad : e.poisoned ≠ []) :
    EventLeaves (.resultArrival g slot late) s g { x.without slot with pending := x.pending ++ [Pending.ofPoison e] } := by
  refine ⟨_, ?_, ((OnlyGroup.refl hx).modGroup fun y => y.without slot).modGroup fun y => { y with pending := y.pending ++ [Pending.ofPoison e] }⟩
  rw [Happens, exec_resultArrival, evResultArrival, hx, Option.bind_some, he]
  dsimp only
  rw [if_neg (by simp [ha, hp]; omega), if_pos (by simpa using hbad)]
  rfl

end

end Sys2Proof.Machine
end

section
/-! A result whose elements are read anew as it arrives (R110, R117), and the lanes that poison touched (R204). -/

namespace Sys2Proof.Machine

/-! ## Observed stores -/

@[simp] theorem observe_groups (s : State) (g : Nat) (ps : List Loc) : (observe s g ps).groups = s.groups := by
  unfold observe
  dsimp only
  split_ifs <;> rfl

@[simp] theorem observe_blocks (s : State) (g : Nat) (ps : List Loc) : (observe s g ps).blocks = s.blocks := by
  unfold observe
  dsimp only
  split_ifs <;> rfl

theorem mem_insertNat (l : List Nat) (k : Nat) : k ∈ insertNat l k := by
  induction l with
  | nil => exact List.mem_cons_self
  | cons e l ih =>
    rw [insertNat]
    split_ifs with h1 h2
    · exact List.mem_cons_self
    · exact h2 ▸ List.mem_cons_self
    · exact List.mem_cons_of_mem _ ih

/-- A mark that leaves the test alone, on what passes it. -/
theorem marked_of_any {α : Type} {l : List α} {p : α → Bool} {f : α → α} {a : α}
    (ha : a ∈ if l.any p then l.map (fun a => if p a then f a else a) else l) (hp : p a = true) : ∃ b, a = f b := by
  split at ha
  · obtain ⟨b, -, rfl⟩ := List.mem_map.1 ha
    split at hp
    · next hb => exact ⟨b, by rw [if_pos hb]⟩
    · next hb => exact absurd hp hb
  · next hany => exact absurd (List.any_eq_true.2 ⟨a, ha, hp⟩) hany

/-- A line with a group among those that have seen it. -/
def WcbLine.mark (g : Nat) (l : WcbLine) : WcbLine := { l with groups := insertNat l.groups g }
/-- A store with a group among those that have seen it. -/
def Store.mark (g : Nat) (t : Store) : Store := { t with groups := insertNat t.groups g }
/-- A line that a load of some places meets. -/
def WcbLine.met (ps : List Loc) (l : WcbLine) : Bool := !l.ae && ps.any l.holds
/-- A store that a load of some places meets. -/
def Store.met (core g : Nat) (ps : List Loc) (t : Store) : Bool := t.seenBy core g && ps.any fun p => (t.byteAt p).isSome

/-- The first half of an observation: the stores. -/
def observeStores (s : State) (g : Nat) (ps : List Loc) : State :=
  if s.stores.any (Store.met (coreOf s g) g ps) then
    { s with stores := s.stores.map fun t => if t.met (coreOf s g) g ps then t.mark g else t }
  else s

theorem observe_eq (s : State) (g : Nat) (ps : List Loc) : observe s g ps =
    if (getCore (observeStores s g ps) (coreOf s g)).wcb.any (WcbLine.met ps) then
      modCore (observeStores s g ps) (coreOf s g) fun c => { c with wcb := c.wcb.map fun l => if l.met ps then l.mark g else l }
    else observeStores s g ps := rfl

theorem observeStores_core (s : State) (g : Nat) (ps : List Loc) (c : Nat) : getCore (observeStores s g ps) c = getCore s c := by
  unfold observeStores
  split <;> rfl

theorem observe_stores (s : State) (g : Nat) (ps : List Loc) : (observe s g ps).stores =
    if s.stores.any (Store.met (coreOf s g) g ps) then s.stores.map fun t => if t.met (coreOf s g) g ps then t.mark g else t else s.stores := by
  have hstores : (observe s g ps).stores = (observeStores s g ps).stores := by
    rw [observe_eq]
    split <;> rfl
  rw [hstores, observeStores]
  split <;> rfl

theorem observe_wcb (s : State) (g : Nat) (ps : List Loc) : (getCore (observe s g ps) (coreOf s g)).wcb =
    if (getCore s (coreOf s g)).wcb.any (WcbLine.met ps) then (getCore s (coreOf s g)).wcb.map fun l => if l.met ps then l.mark g else l
    else (getCore s (coreOf s g)).wcb := by
  rw [observe_eq, observeStores_core]
  split
  · rw [getCore_modCore, if_pos rfl, observeStores_core]
  · rw [observeStores_core]

/-- What a group has observed it has seen, whatever its registers. -/
theorem hasSeen_observe {s t : State} {g : Nat} (ps : List Loc) (hc : coreOf t g = coreOf s g) (hs : t.stores = (observe s g ps).stores)
    (hw : t.cores = (observe s g ps).cores) : HasSeen t g ps := by
  refine ⟨fun l hl hae hps => ?_, fun u hu hseen hps => ?_⟩
  · rw [getCore, hw, hc, ← getCore, observe_wcb] at hl
    obtain ⟨b, rfl⟩ := marked_of_any hl (by simpa [WcbLine.met, hae] using hps)
    exact List.contains_iff_mem.2 (mem_insertNat ..)
  · rw [hs, observe_stores] at hu
    rw [hc] at hseen
    obtain ⟨b, rfl⟩ := marked_of_any hu (by simpa [Store.met, hseen] using hps)
    exact mem_insertNat ..

/-! ## Reading anew -/

/-- The elements that are read anew (R117): those of the places that an asked lane reads, where nothing stops a load now. -/
def readAnew (s : State) (g : Nat) (e : InFlight) (late : Word) : List LoadElem :=
  let asked := fun (l : LoadElem) => if l.lane < 32 then late.getLsbD l.lane else late != 0
  let clean := fun (p : Loc) => !poisonSeen s g p && locAnswer s p = .served
  e.elems.filter fun l => (e.elems.any fun m => m.places == l.places && asked m) && l.places.all clean

/-- A result with an element read anew. -/
def reread (s : State) (g : Nat) (e : InFlight) (l : LoadElem) : InFlight :=
  if l.lane < 32 then
    { e with v := (valueRegs l.lane l.reg l.places.length l.sgn (seenValue s g l.places)).foldl (fun m r => kput m r.1 r.2) e.v }
  else { e with s := some (l.reg, BitVec.ofNat 64 (seenValue s g l.places)) }

theorem arrived_eq (s : State) (g : Nat) (e : InFlight) (late : Word) : arrived s g e late =
    if (readAnew s g e late).isEmpty then (s, e)
    else (observe { s with fresh := s.fresh + 1 } g ((readAnew s g e late).flatMap (·.places)), (readAnew s g e late).foldl (reread s g) e) := rfl

theorem arrived_groups {s s1 : State} {g : Nat} {e r : InFlight} {late : Word} (h : arrived s g e late = (s1, r)) : s1.groups = s.groups := by
  rw [arrived_eq] at h
  split at h <;> cases h
  · rfl
  · exact observe_groups ..

theorem reread_passed (s : State) (g : Nat) (e : InFlight) (l : LoadElem) :
    (reread s g e l).passed = e.passed ∧ (reread s g e l).spassed = e.spassed := by
  unfold reread
  split <;> exact ⟨rfl, rfl⟩

/-- What later instructions have written stays marked. -/
theorem arrived_passed {s s1 : State} {g : Nat} {e r : InFlight} {late : Word} (h : arrived s g e late = (s1, r)) :
    r.passed = e.passed ∧ r.spassed = e.spassed := by
  have hfold : ∀ (ls : List LoadElem) (f : InFlight),
      (ls.foldl (reread s g) f).passed = f.passed ∧ (ls.foldl (reread s g) f).spassed = f.spassed := by
    intro ls
    induction ls with
    | nil => exact fun _ => ⟨rfl, rfl⟩
    | cons l ls ih =>
      intro f
      obtain ⟨h1, h2⟩ := ih (reread s g f l)
      obtain ⟨k1, k2⟩ := reread_passed s g f l
      exact ⟨h1.trans k1, h2.trans k2⟩
  rw [arrived_eq] at h
  split at h <;> cases h
  · exact ⟨rfl, rfl⟩
  · exact hfold ..

theorem arrived_early (s : State) (g : Nat) (e : InFlight) : arrived s g e 0 = (s, e) := by
  have : readAnew s g e 0 = [] := by simp [readAnew]
  rw [arrived_eq, this]
  rfl

/-- One element of 4 bytes, asked for, that nothing stops. -/
theorem arrived_one {s : State} {g : Nat} {e : InFlight} {late : Word} {l : LoadElem} (hl : e.elems = [l]) (hlane : l.lane < 32)
    (ha : late.getLsbD l.lane = true) (hr : Readable s g l.places) :
    arrived s g e late = (observe { s with fresh := s.fresh + 1 } g l.places, reread s g e l) := by
  have : readAnew s g e late = [l] := by
    have hclean : ∀ p ∈ l.places, poisonSeen s g p = false ∧ locAnswer s p = .served := fun p hp => ⟨(hr p hp).2, (hr p hp).1⟩
    simp [readAnew, hl, hlane, ha]
    exact hclean
  rw [arrived_eq, this]
  simp

theorem reread_word {s : State} {g : Nat} {e : InFlight} {l : LoadElem} (hs : ksorted e.v = true) (hlane : l.lane < 32)
    (h4 : l.places.length = 4) : lastValue (reread s g e l).v (32 * l.reg + l.lane) = some (BitVec.ofNat 32 (seenValue s g l.places)) := by
  have hv : ∃ w, valueRegs l.lane l.reg l.places.length l.sgn (seenValue s g l.places) = [(32 * l.reg + l.lane, w)] ∧
      w = BitVec.ofNat 32 (seenValue s g l.places) := by
    refine ⟨_, by rw [valueRegs, if_pos (by omega)], ?_⟩
    rw [h4]
    split
    · exact BitVec.signExtend_eq _
    · rfl
  obtain ⟨w, hw, rfl⟩ := hv
  rw [reread, if_pos hlane, hw, List.foldl_cons, List.foldl_nil]
  rw [lastValue_sorted (ksorted_kput _ _ _ hs), kfind_kput_same]

/-! ## Lanes of a mask -/

theorem maskOf_sum (p : Nat → Bool) (n : Nat) : (List.range n).foldl (fun m l => if p l then m + 2 ^ l else m) 0 < 2 ^ n ∧
    ∀ l < n, ((List.range n).foldl (fun m l => if p l then m + 2 ^ l else m) 0).testBit l = p l := by
  induction n with
  | zero => exact ⟨Nat.one_pos, fun l hl => absurd hl (Nat.not_lt_zero l)⟩
  | succ n ih =>
    rw [List.range_succ, List.foldl_append]
    set m := (List.range n).foldl (fun m l => if p l then m + 2 ^ l else m) 0
    obtain ⟨hlt, hbit⟩ := ih
    simp only [List.foldl_cons, List.foldl_nil]
    have hpow : 2 ^ (n + 1) = 2 ^ n + 2 ^ n := by rw [Nat.pow_succ]; omega
    refine ⟨by split <;> omega, fun l hl => ?_⟩
    rcases Nat.lt_succ_iff_lt_or_eq.1 hl with hl | rfl
    · rw [← hbit l hl]
      split
      · rw [Nat.add_comm, Nat.testBit_two_pow_add_gt hl]
      · rfl
    · split
      · next hp => rw [Nat.add_comm, Nat.testBit_two_pow_add_eq, Nat.testBit_lt_two_pow hlt, hp]; rfl
      · next hp => rw [Nat.testBit_lt_two_pow hlt, Bool.eq_false_iff.2 hp]

theorem getLsbD_maskOf (p : Nat → Bool) {l : Nat} (h : l < 32) : (maskOf p).getLsbD l = p l := by
  rw [maskOf, BitVec.getLsbD_ofNat, decide_eq_true h, Bool.true_and]
  exact (maskOf_sum p 32).2 l h

theorem kfind_isSome_iff {α : Type} (m : KMap α) (k : Nat) : (kfind m k).isSome = true ↔ ∃ f ∈ m, f.1 = k := by
  induction m with
  | nil => simp [kfind]
  | cons e m ih =>
    rw [kfind]
    by_cases h : e.1 = k <;> simp [h, ih]

theorem Pending.lanes_ofPoison {e : InFlight} (h : e.s = none) {l : Nat} (hl : l < 32) :
    (Pending.ofPoison e).lanes.getLsbD l = true ↔ ∃ f ∈ e.poisoned, f.1 = l := by
  have hm : (Pending.ofPoison e).lanes = maskOf fun l => (kfind e.poisoned l).isSome := by simp [Pending.ofPoison, h]
  rw [hm, getLsbD_maskOf _ hl]
  exact kfind_isSome_iff ..

end Sys2Proof.Machine
end

section
/-! The statement about a result in flight that has come back. -/

namespace Sys2Proof.Machine

/-! ## What a load sees does not depend on the group's record -/

section
variable {s : State} {g : Nat} {x : Group} (hx : kfind s.groups g = some x) {f : Group → Group} (hf : (f x).block = x.block)
include hx hf

theorem seenByte_modGroup (p : Loc) : seenByte (modGroup s g f) g p = seenByte s g p := by
  unfold seenByte
  rw [coreOf_modGroup hx hf, readByte_modGroup]
  rfl

theorem seenValue_modGroup (ps : List Loc) : seenValue (modGroup s g f) g ps = seenValue s g ps := by
  unfold seenValue
  rw [funext (seenByte_modGroup hx hf)]
  rfl

theorem poisonSeen_modGroup (p : Loc) : poisonSeen (modGroup s g f) g p = poisonSeen s g p := by
  unfold poisonSeen
  rw [coreOf_modGroup hx hf]
  rfl

theorem readable_modGroup {ps : List Loc} (h : Readable s g ps) : Readable (modGroup s g f) g ps :=
  fun p hp => ⟨(h p hp).1, (poisonSeen_modGroup hx hf p).trans (h p hp).2⟩

end

section
variable {s : State} {g slot : Nat} {x : Group} {e : InFlight} (hx : kfind s.groups g = some x) (he : kfind x.inFlight slot = some e)
  (ha : e.awaiting = 0) (hd : e.due ≤ s.cycle) (hp : earlierPending s g e.gen = false)
include hx he ha hd hp

/-- The registers behind a result that has come back. -/
theorem resultArrival_registers (late : Word) (hok : e.poisoned = []) {s1 : State} {r : InFlight}
    (hr : arrived (modGroup s g fun _ => x.without slot) g e late = (s1, r)) :
    ∃ t y, Happens (.resultArrival g slot late) s t ∧ OnlyGroup s1 t g y ∧ y = { x.without slot with v := y.v, s := y.s } ∧
      (∀ n l, l < 32 → y.vreg n l =
        if 32 * n + l ∈ e.passed then x.vreg n l else (lastValue r.v (32 * n + l)).getD (x.vreg n l)) ∧
      (r.s = none → ∀ n, y.sreg n = x.sreg n) ∧
      ∀ d v, r.s = some (d, v) → ∀ n, y.sreg n = if d = n ∧ e.spassed = false then v else x.sreg n := by
  have hx1 : kfind s1.groups g = some (x.without slot) := by
    rw [arrived_groups hr]
    exact ((OnlyGroup.refl hx).modGroup _).group
  obtain ⟨hpassed, hspassed⟩ := arrived_passed hr
  refine ⟨_, _, resultArrival_values hx he ha hd hp late hok hr, (OnlyGroup.refl hx1).modGroup _, Group.receive_rest .., ?_, ?_, ?_⟩
  · intro n l _
    rw [Group.vreg_receive, hpassed]
    rfl
  · intro hs n
    exact Group.sreg_receive_none _ hs n
  · intro d v hs n
    rw [Group.sreg_receive_some _ hs, hspassed]
    rfl

/-- A single element of 4 bytes that is read as it arrives. -/
theorem resultArrival_late (late : Word) {l : LoadElem} (hok : e.poisoned = []) (hpass : e.passed = []) (hs : ksorted e.v = true)
    (hl : e.elems = [l]) (hlane : l.lane < 32) (hask : late.getLsbD l.lane = true) (h4 : l.places.length = 4) (hread : Readable s g l.places) :
    ∃ t y, Happens (.resultArrival g slot late) s t ∧ kfind t.groups g = some y ∧
      y.vreg l.reg l.lane = BitVec.ofNat 32 (seenValue s g l.places) ∧ HasSeen t g l.places := by
  set s0 := modGroup s g fun _ => x.without slot with hs0
  have harr := arrived_one (s := s0) hl hlane hask (readable_modGroup hx rfl hread)
  obtain ⟨t, y, ht, honly, hrest, hv, -⟩ := resultArrival_registers hx he ha hd hp late hok harr
  refine ⟨t, y, ht, honly.group, ?_, ?_⟩
  · rw [hv _ _ hlane, hpass, if_neg List.not_mem_nil, reread_word hs hlane h4, Option.getD_some, hs0, seenValue_modGroup hx rfl]
  · have hcore : coreOf t g = coreOf s0 g := by
      have hblock : (getGroup t g).block = (getGroup s0 g).block := by
        rw [getGroup_of honly.group, hrest, hs0, getGroup_modGroup _ hx]
      rw [coreOf, coreOf, blockOf, blockOf, hblock, getBlock, honly.blocks, observe_blocks]
      rfl
    refine hasSeen_observe (s := { s0 with fresh := s0.fresh + 1 }) _ hcore ?_ ?_
    · rw [honly.rest]
    · rw [honly.rest]

end

end Sys2Proof.Machine
end

section
/-! Blocked instructions that complete (R10, R11, R129 to R131). -/

namespace Sys2Proof.Machine

/-! ## The context of a group, whatever its registers -/

theorem blockOf_congr {s t : State} {g : Nat} (hb : t.blocks = s.blocks) (hg : (getGroup t g).block = (getGroup s g).block) :
    blockOf t g = blockOf s g := by rw [blockOf, blockOf, hg, getBlock, getBlock, hb]

theorem ctxOf_congr {s t : State} {g : Nat} (hb : t.blocks = s.blocks) (hp : t.parts = s.parts)
    (hg : (getGroup t g).block = (getGroup s g).block) : ctxOf t g = ctxOf s g := by
  rw [ctxOf, ctxOf, blockOf_congr hb hg, ctxOfBlock, ctxOfBlock, getPart, getPart, hp]

theorem vectorOf_congr {s t : State} {g : Nat} (hb : t.blocks = s.blocks) (hp : t.parts = s.parts)
    (hg : (getGroup t g).block = (getGroup s g).block) : vectorOf t g = vectorOf s g := by
  rw [vectorOf, vectorOf, ctxOf_congr hb hp hg]

section
variable {s t : State} {g : Nat} {x y : Group} (hx : kfind s.groups g = some x) (h : OnlyGroup s t g y) (hb : y.block = x.block)
include hx h hb

theorem OnlyGroup.sameBlock : (Machine.getGroup t g).block = (Machine.getGroup s g).block := by rw [getGroup_of h.group, getGroup_of hx, hb]
theorem OnlyGroup.blockOf : blockOf t g = blockOf s g := blockOf_congr h.blocks (h.sameBlock hx hb)
theorem OnlyGroup.partOf : partOf t g = partOf s g := by rw [Machine.partOf, Machine.partOf, h.blockOf hx hb]
theorem OnlyGroup.vectorOf : vectorOf t g = vectorOf s g := vectorOf_congr h.blocks h.parts (h.sameBlock hx hb)

end

/-! ## Results that no longer write the register -/

theorem kfind_map_vals {α β : Type} (m : KMap α) (f : Nat → α → β) (k : Nat) :
    kfind (m.map fun e => (e.1, f e.1 e.2)) k = (kfind m k).map (f k) := by
  induction m with
  | nil => rfl
  | cons e m ih =>
    rw [List.map_cons, kfind, kfind]
    split
    · next h => rw [← h]; rfl
    · exact ih

/-- A result in flight that an instruction overtakes which writes uniform registers. -/
def InFlight.overtaken (before k : Nat) (uni : List Nat) (e : InFlight) : InFlight :=
  if before ≤ k then e else { e with spassed := e.spassed || uni.any fun r => e.sdst == some r }

theorem passResults_uniform (x : Group) (before : Nat) (uni : List Nat) :
    passResults x before 0 [] uni = { x with inFlight := x.inFlight.map fun e => (e.1, e.2.overtaken before e.1 uni) } := by
  have : ∀ e : Nat × InFlight, (if before ≤ e.1 then e else (e.1, { e.2 with
      passed := e.2.passed ++ ([] : List Nat).flatMap fun r => ((List.range 32).filter (0 : Word).getLsbD).map (32 * r + ·)
      spassed := e.2.spassed || uni.any fun r => e.2.sdst == some r })) = (e.1, e.2.overtaken before e.1 uni) := by
    intro e
    unfold InFlight.overtaken
    split
    · rfl
    · rw [List.flatMap_nil, List.append_nil]
  exact congrArg (fun l => { x with inFlight := l }) (List.map_congr_left fun e _ => this e)

theorem passResults_nothing (x : Group) (before : Nat) : passResults x before 0 [] [] = x := by
  have : ∀ e : Nat × InFlight, (e.1, e.2.overtaken before e.1 []) = e := by
    intro e
    unfold InFlight.overtaken
    split
    · rfl
    · rw [List.any_nil, Bool.or_false]
  rw [passResults_uniform, funext this, List.map_id']

theorem passResults_overtakes (s : State) (x : Group) (d : Nat) : Overtakes s x (passResults x s.nextId 0 [] [d]) d := by
  intro k
  have hfind : kfind (passResults x s.nextId 0 [] [d]).inFlight k = (kfind x.inFlight k).map (InFlight.overtaken s.nextId k [d]) := by
    rw [passResults_uniform]
    exact kfind_map_vals x.inFlight (fun k e => InFlight.overtaken s.nextId k [d] e) k
  rw [hfind]
  refine congrArg (Option.map · _) (funext fun e => ?_)
  unfold InFlight.overtaken
  by_cases hk : s.nextId ≤ k
  · rw [if_pos hk, if_neg (by omega)]
  · rw [if_neg hk]
    by_cases hd : e.sdst = some d
    · rw [if_pos ⟨by omega, hd⟩]
      simp [hd]
    · have hno : ([d].any fun r => e.sdst == some r) = false := by simp [hd]
      rw [if_neg (fun h => hd h.2), hno, Bool.or_false]

/-- The record that `passBlocked` leaves of a group blocked by `w`. -/
def Group.passed (s : State) (x : Group) (w : Wait) : Group := passResults x s.nextId 0 [] w.dst.toList

theorem passBlocked_only {s : State} {g : Nat} {x : Group} (hx : kfind s.groups g = some x) {w : Wait} (hw : x.status = .blocked w) :
    OnlyGroup s (passBlocked s g) g (x.passed s w) := by
  have h := (OnlyGroup.refl hx).modGroup fun x => match x.status with
    | .blocked w => passResults x s.nextId 0 [] w.dst.toList
    | _ => x
  rw [hw] at h
  exact h

/-- A completed instruction that has written `v` into its register. -/
theorem completesWith {s t : State} {g : Nat} {x : Group} {d : Nat} (h : OnlyGroup s t g (passResults x s.nextId 0 [] [d])) (v : DWord) :
    ∃ y, OnlyGroup s (advance (modGroup t g fun x => x.setS d v) g 4) g y ∧ CompletesWith s x y d v := by
  refine ⟨_, (h.modGroup fun x => x.setS d v).past 4, ?_, fun r hr => ?_, ?_, passResults_overtakes s x d⟩
  · exact (Group.sreg_setS ..).trans (if_pos rfl)
  · exact (Group.sreg_setS ..).trans (if_neg hr)
  · rw [passResults_uniform]
    rfl

/-! ## Completing -/

theorem exec_waitCompletes (g : Nat) (s : State) : exec (.waitCompletes g) s = .next ((evWaitCompletes g s).getD s) := rfl

theorem exec_deadlineReached (g : Nat) (s : State) : exec (.deadlineReached g) s = .next ((evDeadlineReached g s).getD s) := rfl

section
variable {s : State} {g : Nat} {x : Group} (hx : kfind s.groups g = some x)
include hx

/-- A wait that is no operation of R332. -/
theorem waitCompletes_wait (hup : heldUp s g = false) (hr : haltReady x = false) {w : Wait} (hw : x.status = .blocked w)
    (ho : w.operation = false) (hh : waitHolds s g w = true) : Happens (.waitCompletes g) s (completeWait (passBlocked s g) g w) := by
  rw [Happens, exec_waitCompletes, evWaitCompletes, hx]
  dsimp only
  rw [hw]
  dsimp only
  rw [if_neg (by simp [ho, hup, hr, hh]), afterOperation, if_neg (by simp [ho])]
  rfl

theorem passBlocked_silent {w : Wait} (hw : x.status = .blocked w) (hd : w.dst = none) : OnlyGroup s (passBlocked s g) g x := by
  have h := passBlocked_only hx hw
  rw [Group.passed, hd, Option.toList_none, passResults_nothing] at h
  exact h

theorem passBlocked_writes {w : Wait} (hw : x.status = .blocked w) {d : Nat} (hd : w.dst = some d) :
    OnlyGroup s (passBlocked s g) g (passResults x s.nextId 0 [] [d]) := by
  have h := passBlocked_only hx hw
  rw [Group.passed, hd, Option.toList_some] at h
  exact h

variable (hup : heldUp s g = false) (hr : haltReady x = false)
include hup hr

theorem gate_completes {r : DWord} {ph : Bool} (hw : x.status = .blocked (.gate r ph)) (hf : gateFlipped s g r ph = true) :
    EventLeaves (.waitCompletes g) s g (Past s x 4) :=
  ⟨_, waitCompletes_wait hx hup hr hw rfl hf, (passBlocked_silent hx hw rfl).past 4⟩

theorem gateT_completes {r : DWord} {ph : Bool} {dl d : Nat} (hw : x.status = .blocked (.gateT r ph dl d)) (hf : gateFlipped s g r ph = true) :
    ∃ y, EventLeaves (.waitCompletes g) s g y ∧ CompletesWith s x y d 0 := by
  obtain ⟨y, hy, hc⟩ := completesWith (passBlocked_writes hx hw rfl) 0
  exact ⟨y, ⟨_, waitCompletes_wait hx hup hr hw rfl hf, hy⟩, hc⟩

theorem fence_completes (hw : x.status = .blocked .fence) (ho : outstanding s g = false) :
    EventLeaves (.waitCompletes g) s g { Past s x 4 with reach := 0 } :=
  ⟨_, waitCompletes_wait hx hup hr hw rfl (by simp [waitHolds, ho]),
    ((passBlocked_silent hx hw rfl).modGroup fun x => { x with reach := 0 }).past 4⟩

theorem wfi_completes {m d : Nat} (hw : x.status = .blocked (.wfi m d)) (he : (getPart s (partOf s g)).ctx.evt &&& m ≠ 0) :
    ∃ y, EventLeaves (.waitCompletes g) s g y ∧ CompletesWith s x y d (BitVec.ofNat 64 (getPart s (partOf s g)).ctx.evt) := by
  have hpass := passBlocked_writes hx hw (d := d) rfl
  have hblock : (passResults x s.nextId 0 [] [d]).block = x.block := by rw [passResults_uniform]
  have hevt : (getPart (passBlocked s g) (partOf (passBlocked s g) g)).ctx.evt = (getPart s (partOf s g)).ctx.evt := by
    rw [hpass.partOf hx hblock, getPart, getPart, hpass.parts]
  have hhap := waitCompletes_wait hx hup hr hw rfl (by simpa [waitHolds] using he)
  obtain ⟨y, hy, hc⟩ := completesWith hpass (BitVec.ofNat 64 (getPart s (partOf s g)).ctx.evt)
  rw [completeWait, hevt] at hhap
  exact ⟨y, ⟨_, hhap, hy⟩, hc⟩

theorem bind_completes {h : Nat} (hw : x.status = .blocked (.bind h)) (hb : handleBusy s g h = false) :
    EventLeaves (.waitCompletes g) s g { x with status := .ready, readySince := s.cycle } := by
  have hpass := passBlocked_silent hx hw rfl
  have hmod := hpass.modGroup fun x => { x with status := .ready, readySince := (passBlocked s g).cycle }
  rw [hpass.cycle] at hmod
  refine ⟨_, waitCompletes_wait hx hup hr hw rfl (by simp [waitHolds, hb]), ?_⟩
  rw [completeWait, hpass.cycle]
  exact hmod

end

end Sys2Proof.Machine
end

section
/-! Counter waits and batches (R53, R129, R130), deadlines (R11, R93, R164), the deferral of a critical group (R13). -/

namespace Sys2Proof.Machine

/-! ## Flags merged into every lane -/

/-- The lanes of a list, each with some flags more. -/
theorem Group.mergeLanes (f : BitVec 5) (ls : List Nat) (x : Group) :
    (ls.foldl (fun g l => g.setFlags l (g.flags l ||| f)) x = { x with fsr := (ls.foldl (fun g l => g.setFlags l (g.flags l ||| f)) x).fsr }) ∧
    ∀ l b, ((ls.foldl (fun g l => g.setFlags l (g.flags l ||| f)) x).flags l).getLsbD b =
      ((x.flags l).getLsbD b || (decide (l ∈ ls) && f.getLsbD b)) := by
  induction ls generalizing x with
  | nil => exact ⟨rfl, fun l b => by simp⟩
  | cons a ls ih =>
    obtain ⟨hrest, hbits⟩ := ih (x.setFlags a (x.flags a ||| f))
    refine ⟨hrest, fun l b => (hbits l b).trans ?_⟩
    rw [Group.flags_setFlags]
    by_cases hl : l = a
    · subst hl
      simp only [if_pos, BitVec.getLsbD_or, List.mem_cons, true_or, decide_true, Bool.true_and]
      cases (x.flags l).getLsbD b <;> cases f.getLsbD b <;> simp
    · simp [hl]

theorem Group.mergeFlags_rest (x : Group) (f : BitVec 5) : x.mergeFlags f = { x with fsr := (x.mergeFlags f).fsr } := by
  unfold Group.mergeFlags
  split
  · rfl
  · exact (Group.mergeLanes f _ x).1

theorem Group.flags_mergeFlags (x : Group) (f : BitVec 5) {l : Nat} (hl : l < 32) (b : Nat) :
    ((x.mergeFlags f).flags l).getLsbD b = ((x.flags l).getLsbD b || f.getLsbD b) := by
  unfold Group.mergeFlags
  split
  · next hf => simp [hf]
  · rw [(Group.mergeLanes f _ x).2, decide_eq_true (List.mem_range.2 hl), Bool.true_and]

theorem flags_union (ops : KMap Op) (f : BitVec 5) (b : Nat) :
    (ops.foldl (fun f e => f ||| e.2.flags) f).getLsbD b = true ↔ f.getLsbD b = true ∨ ∃ e ∈ ops, e.2.flags.getLsbD b = true := by
  induction ops generalizing f with
  | nil => simp
  | cons e ops ih => rw [List.foldl_cons, ih]; simp [or_assoc]

/-! ## Covered operations -/

theorem OnlyGroup.onlyOps {s t : State} {g : Nat} {y : Group} (h : OnlyGroup s t g y) : OnlyOps s t g y := ⟨h.group, h.others, by
  rw [h.rest]⟩

theorem OnlyOps.modGroup {s t : State} {g : Nat} {y : Group} (h : OnlyOps s t g y) (f : Group → Group) :
    OnlyOps s (modGroup t g f) g (f y) where
  group := by simp [kfind_modGroup, h.group]
  others := fun j hj => by simp [kfind_modGroup, hj, h.others j hj]
  rest := by rw [Machine.modGroup]; rw [h.rest]

theorem OnlyOps.withOps {s t : State} {g : Nat} {y : Group} (h : OnlyOps s t g y) (ops : KMap Op) : OnlyOps s { t with ops := ops } g y :=
  ⟨h.group, h.others, by rw [h.rest]⟩

theorem OnlyOps.cycle {s t : State} {g : Nat} {y : Group} (h : OnlyOps s t g y) : t.cycle = s.cycle := by rw [h.rest]

theorem OnlyOps.past {s t : State} {g : Nat} {y : Group} (h : OnlyOps s t g y) (len : Nat) :
    OnlyOps s (advance t g len) g (Past s y len) := by
  rw [Past, ← h.cycle]
  exact h.modGroup _

theorem OnlyOps.ctxOf {s t : State} {g : Nat} {x y : Group} (hx : kfind s.groups g = some x) (h : OnlyOps s t g y) (hb : y.block = x.block) :
    ctxOf t g = ctxOf s g :=
  ctxOf_congr (by rw [h.rest]) (by rw [h.rest]) (by rw [getGroup_of h.group, getGroup_of hx, hb])

/-- The record of a group that covers some operations. -/
theorem coverOps_only {s t : State} {g : Nat} {x : Group} (h : OnlyGroup s t g x) (covered : KMap Op) :
    ∃ y, OnlyOps s (coverOps t g covered) g y ∧ FlagsOf x y covered ∧ y = { x with fsr := y.fsr, ferryStatus := y.ferryStatus } := by
  refine ⟨_, (h.onlyOps.withOps _).modGroup _, fun l hl b => ?_, ?_⟩
  · refine Eq.to_iff (congrArg (· = true) (Group.flags_mergeFlags x _ hl b)) |>.trans ?_
    rw [Bool.or_eq_true, flags_union]
    simp
  · rw [Group.mergeFlags_rest]

/-- A group that goes on behind a wait which has covered some operations. -/
theorem covered_goes_on {s t : State} {g : Nat} {x : Group} (h : OnlyGroup s t g x) (covered : KMap Op) :
    ∃ y, OnlyOps s (advance (coverOps t g covered) g 4) g y ∧ FlagsOf x y covered ∧
      y = { Past s x 4 with fsr := y.fsr, ferryStatus := y.ferryStatus } := by
  obtain ⟨y, hy, hfl, hrest⟩ := coverOps_only h covered
  exact ⟨Past s y 4, hy.past 4, hfl, congrArg (Past s · 4) hrest⟩

/-- A counter wait without a status register whose trap 10 is not due. -/
theorem completeOc_quiet {t : State} {g cls n : Nat} (h : cls = 3 → bitAt (ctxOf (coverOps t g (coveredOps t g cls n)) g).trapEn 10 = false) :
    completeOc t g cls n none = advance (coverOps t g (coveredOps t g cls n)) g 4 := by
  refine if_neg ?_
  rw [Bool.and_eq_true, Bool.and_eq_true, beq_iff_eq]
  rintro ⟨⟨h3, -⟩, h10⟩
  exact absurd h10 (Bool.eq_false_iff.1 (h h3))

section
variable {s : State} {g : Nat} {x : Group} (hx : kfind s.groups g = some x)
include hx

theorem oc_completes (hup : heldUp s g = false) (hr : haltReady x = false) {c n : Nat} (hw : x.status = .blocked (.oc c n none))
    (hn : ocOf s g c ≤ n) (h10 : c = 3 → bitAt (ctxOf s g).trapEn 10 = false) :
    ∃ t y, Happens (.waitCompletes g) s t ∧ OnlyOps s t g y ∧ FlagsOf x y (coveredOps s g c n) ∧
      y = { Past s x 4 with fsr := y.fsr, ferryStatus := y.ferryStatus } := by
  have hpass := passBlocked_silent hx hw rfl
  have hcov : coveredOps (passBlocked s g) g c n = coveredOps s g c n := rfl
  have hhap := waitCompletes_wait hx hup hr hw rfl (decide_eq_true hn)
  obtain ⟨z, hz, -, hzrest⟩ := coverOps_only hpass (coveredOps s g c n)
  rw [completeWait, completeOc_quiet (by rw [hcov, hz.ctxOf hx (by rw [hzrest])]; exact h10), hcov] at hhap
  obtain ⟨y, hy⟩ := covered_goes_on hpass (coveredOps s g c n)
  exact ⟨_, y, hhap, hy⟩

theorem batch_completes (hup : heldUp s g = false) (hr : haltReady x = false) {n : Nat} (hw : x.status = .blocked (.batch n))
    (hn : batchDone s g n = true) : ∃ t y, Happens (.waitCompletes g) s t ∧ OnlyOps s t g y ∧ FlagsOf x y (batchOps s g n) ∧
      y = { Past s x 4 with fsr := y.fsr, ferryStatus := y.ferryStatus } := by
  obtain ⟨y, hy⟩ := covered_goes_on (passBlocked_silent hx hw rfl) (batchOps s g n)
  exact ⟨_, y, waitCompletes_wait hx hup hr hw rfl hn, hy⟩

/-! ## Deadlines -/

theorem deadline_gateT (hup : heldUp s g = false) {r : DWord} {ph : Bool} {dl d : Nat} (hw : x.status = .blocked (.gateT r ph dl d))
    (hf : gateFlipped s g r ph = false) (hd : dl < s.cycle) : ∃ y, EventLeaves (.deadlineReached g) s g y ∧ CompletesWith s x y d 1 := by
  obtain ⟨y, hy, hc⟩ := completesWith (passBlocked_writes hx hw rfl) 1
  refine ⟨y, ⟨_, ?_, hy⟩, hc⟩
  rw [Happens, exec_deadlineReached, evDeadlineReached, if_neg (by simp [hx, hup]), getGroup_of hx, hw]
  dsimp only
  rw [if_pos (by simp [hd, hf])]
  rfl

theorem deadline_sleep (hup : heldUp s g = false) {dl : Nat} (hd : dl ≤ s.cycle) (hw : x.status = .blocked (.sleep dl)) :
    EventLeaves (.deadlineReached g) s g (Past s x 4) := by
  refine ⟨_, ?_, (OnlyGroup.refl hx).past 4⟩
  rw [Happens, exec_deadlineReached, evDeadlineReached, if_neg (by simp [hx, hup]), getGroup_of hx, hw]
  dsimp only
  rw [if_pos hd]
  rfl

theorem happens_sleepUntil (hup : heldUp s g = false) {dl : Nat} (hd : dl ≤ s.cycle) (hw : x.status = .blocked (.sleepUntil dl)) :
    Happens (.deadlineReached g) s (completeSleepUntil s g dl) := by
  rw [Happens, exec_deadlineReached, evDeadlineReached, if_neg (by simp [hx, hup]), getGroup_of hx, hw]
  dsimp only
  rw [if_pos hd]
  rfl

theorem completeSleepUntil_later {dl : Nat} (h : ∀ q, x.promise = some q → dl < q.cycle) : completeSleepUntil s g dl = advance s g 4 := by
  rw [completeSleepUntil, getGroup_of hx]
  cases hq : x.promise with
  | none => rfl
  | some q =>
    dsimp only
    rw [if_pos (h q hq)]

theorem completeSleepUntil_due {dl : Nat} {q : Promise} (hq : x.promise = some q) (h : q.cycle ≤ dl) : completeSleepUntil s g dl =
    if landed s q.op then advance (modGroup s g fun x => { x with promise := none }) g 4
    else raiseAfter (modGroup s g fun x => { x with promise := none }) g 9 := by
  rw [completeSleepUntil, getGroup_of hx, hq]
  dsimp only
  rw [if_neg (by omega)]
  rfl

theorem deadline_sleepUntil (hup : heldUp s g = false) {dl : Nat} (hd : dl ≤ s.cycle) (hw : x.status = .blocked (.sleepUntil dl)) :
    ((∀ q, x.promise = some q → dl < q.cycle) → EventLeaves (.deadlineReached g) s g (Past s x 4)) ∧
    ∀ q, x.promise = some q → q.cycle ≤ dl →
      (landed s q.op = true → EventLeaves (.deadlineReached g) s g { Past s x 4 with promise := none }) ∧
      (landed s q.op = false → vectorOf s g ≠ 0 → ∃ y, EventLeaves (.deadlineReached g) s g y ∧
        Entered s g { x with promise := none } y 9 0 (x.pc + 4) x.pc 0 0 x.em) := by
  have hhap := happens_sleepUntil hx hup hd hw
  refine ⟨fun h => ?_, fun q hq hle => ?_⟩
  · rw [completeSleepUntil_later hx h] at hhap
    exact ⟨_, hhap, (OnlyGroup.refl hx).past 4⟩
  · have hclear := (OnlyGroup.refl hx).modGroup fun x => { x with promise := none }
    rw [completeSleepUntil_due hx hq hle] at hhap
    refine ⟨fun hl => ?_, fun hl hv => ?_⟩
    · rw [if_pos hl] at hhap
      exact ⟨_, hhap, hclear.past 4⟩
    · rw [if_neg (Bool.eq_false_iff.1 hl)] at hhap
      obtain ⟨f, hf, hent⟩ := raiseAfter_modGroup hclear.group (by rw [hclear.vectorOf hx rfl]; exact hv) 0 (num := 9) (by decide)
      rw [hf] at hhap
      exact ⟨_, ⟨_, hhap, hclear.modGroup f⟩, hent.congr (hclear.vectorOf hx rfl) hclear.cycle⟩

/-! ## The deferral of a critical group -/

omit hx in
theorem exec_critDeferralExpired (g : Nat) (s : State) :
    exec (.critDeferralExpired g) s = .next ((evCritDeferralExpired g s).getD s) := rfl

theorem deferral_expires (hc : x.critical = true) (hf : x.forced = false) {c : Nat} (ha : x.haltAsked = some c) (hl : c + s.critLimit ≤ s.cycle) :
    EventLeaves (.critDeferralExpired g) s g { x with forced := true } := by
  refine ⟨_, ?_, (OnlyGroup.refl hx).modGroup fun x => { x with forced := true }⟩
  rw [Happens, exec_critDeferralExpired, evCritDeferralExpired, hx]
  dsimp only
  rw [ha]
  dsimp only
  rw [if_pos (by simp [hc, hf, hl])]
  rfl

/-! ## Host loads -/

omit hx in
theorem exec_hostLoadTimeout (g slot : Nat) (s : State) :
    exec (.hostLoadTimeout g slot) s = .next ((evHostLoadTimeout g slot s).getD s) := rfl

theorem hostLoad_times_out (slot : Nat) {since va : Nat} {lanes : Word} (hw : x.hostWait = some (since, lanes, va)) (hs : x.still = false)
    (hl : s.linkUp = false) (hd : since + Config.linkTimeout ≤ s.cycle) (hv : vectorOf s g ≠ 0) :
    ∃ y, EventLeaves (.hostLoadTimeout g slot) s g y ∧ Entered s g x y 6 0 x.pc x.pc (BitVec.ofNat 64 va) lanes lanes := by
  obtain ⟨y, hy, hent⟩ := raise_enters hx hv 6 va lanes 0
  refine ⟨y, ⟨_, ?_, hy⟩, hent⟩
  rw [Happens, exec_hostLoadTimeout, evHostLoadTimeout, hx]
  dsimp only
  rw [hw]
  dsimp only
  rw [if_pos (by simp [hs, hl, hd])]
  rfl

end

end Sys2Proof.Machine
end

section
/-! Operations of R332 that complete, and the halt of die.ctl (R301, R304). -/

namespace Sys2Proof.Machine

/-! ## The halt of some dies -/

theorem pairwise2_map {α β : Type} {R : α → β → Prop} {f : α → β} (h : ∀ a, R a (f a)) (l : List α) : Pairwise2 R l (l.map f) := by
  induction l with
  | nil => trivial
  | cons a l ih => exact ⟨h a, ih⟩

theorem mem_kput_other {α : Type} {m : KMap α} {k : Nat} (v : α) {e : Nat × α} (he : e ∈ m) (hk : e.1 ≠ k) : e ∈ kput m k v := by
  induction m with
  | nil => exact absurd he List.not_mem_nil
  | cons a m ih =>
    rw [kput]
    rcases List.mem_cons.1 he with rfl | he
    · split_ifs
      · exact List.mem_cons_of_mem _ List.mem_cons_self
      · exact List.mem_cons_self
    · split_ifs
      · exact List.mem_cons_of_mem _ (List.mem_cons_of_mem _ he)
      · exact List.mem_cons_of_mem _ he
      · exact List.mem_cons_of_mem _ (ih he)

theorem mem_modGroup_other {s : State} {g : Nat} (f : Group → Group) {e : Nat × Group} (he : e ∈ s.groups) (hk : e.1 ≠ g) :
    e ∈ (modGroup s g f).groups := by
  rw [modGroup, kmodify]
  dsimp only
  split
  · exact mem_kput_other _ he hk
  · exact he

/-- Groups other than `g` that a halt names, where the record of `g` alone has changed. -/
theorem haltNamed_kept {s t : State} {g : Nat} {y : Group} (hy : OnlyGroup s t g y) (hp : partOf t g = partOf s g)
    (hmem : ∀ e ∈ s.groups, e.1 ≠ g → e ∈ t.groups) {dies : List Nat} {h : Nat} (hh : h ∈ haltNamed s g dies) :
    h ∈ haltNamed t g dies ∧ dieOf t h = dieOf s h ∧ (getGroup t h).forced = (getGroup s h).forced := by
  obtain ⟨e, he, rfl⟩ := List.mem_map.1 hh
  obtain ⟨hs, hf⟩ := List.mem_filter.1 he
  simp only [Bool.and_eq_true, bne_iff_ne] at hf
  obtain ⟨hout, hne, hdie⟩ := hf
  have hgrp : getGroup t e.1 = getGroup s e.1 := by rw [getGroup, kgetD, hy.others e.1 hne, getGroup, kgetD]
  have hd : dieOf t e.1 = dieOf s e.1 := by rw [dieOf, dieOf, coreOf, coreOf, blockOf_congr hy.blocks (congrArg Group.block hgrp)]
  refine ⟨List.mem_map.2 ⟨e, List.mem_filter.2 ⟨hmem e hs hne, ?_⟩, rfl⟩, hd, congrArg Group.forced hgrp⟩
  simp only [Bool.and_eq_true, bne_iff_ne, hp, getBlock, hy.blocks, hd]
  exact ⟨hout, hne, hdie⟩

/-- The marks of forced groups are taken back. -/
theorem unforced_group {s : State} {g : Nat} {y : Group} (hs : List Nat) (hy : kfind s.groups g = some y) :
    ∃ b, kfind (hs.foldl (fun s h => modGroup s h fun x => { x with forced := false }) s).groups g = some { y with forced := b } := by
  induction hs generalizing s y with
  | nil => exact ⟨y.forced, hy⟩
  | cons h hs ih =>
    by_cases hg : h = g
    · subst hg
      have hmod := ((OnlyGroup.refl hy).modGroup fun x => { x with forced := false }).group
      obtain ⟨b, hb⟩ := ih hmod
      exact ⟨b, hb⟩
    · refine ih ?_
      rw [kfind_modGroup, if_neg (Ne.symm hg)]
      exact hy

theorem modDies_groups (f : Die → Die) (ds : List Nat) (s : State) : (ds.foldl (fun s d => modDie s d f) s).groups = s.groups := by
  induction ds generalizing s with
  | nil => rfl
  | cons d ds ih => exact ih _

/-- The traps 14 of a halt: one for each die on which it had to force a critical group. -/
def forcedTraps (s : State) (dies gs : List Nat) (a : DWord) : List Pending :=
  (((gs.filter fun h => (getGroup s h).forced).map (dieOf s) ++ dies.filter fun d => (getDie s d).forced).eraseDups).map fun d =>
    { num := 14, code := d, addr := a }

theorem forcedTraps_each {s : State} {dies gs : List Nat} {a : DWord} {h : Nat} (hh : h ∈ gs) (hf : (getGroup s h).forced = true) :
    ∃ q ∈ forcedTraps s dies gs a, q.num = 14 ∧ q.code = dieOf s h ∧ q.addr = a :=
  ⟨_, List.mem_map_of_mem (List.mem_eraseDups.2 (List.mem_append_left _ (List.mem_map_of_mem (List.mem_filter.2 ⟨hh, hf⟩)))), rfl, rfl, rfl⟩

/-- The traps are pending in the group that asked (R301). -/
theorem raiseForced_group {s : State} {g : Nat} {y : Group} (hy : kfind s.groups g = some y) (dies gs : List Nat) :
    ∃ b, kfind (raiseForced s g dies gs).groups g = some { y with forced := b, pending := y.pending ++ forcedTraps s dies gs y.pc } := by
  obtain ⟨b, hb⟩ := unforced_group (gs.filter fun h => (getGroup s h).forced) hy
  refine ⟨b, ?_⟩
  rw [raiseForced, kfind_modGroup, if_pos rfl, modDies_groups, hb, getGroup_of hy]
  rfl

/-! ## An operation completes -/

/-- Pending traps that have waited for an operation keep its address. -/
def Group.waited (x : Group) : Group := { x with pending := x.pending.map fun p => { p with after := some (p.after.getD x.pc) } }

section
variable {s : State} {g : Nat} {x : Group} (hx : kfind s.groups g = some x) {w : Wait} (hw : x.status = .blocked w) (ho : w.operation = true)
include hx hw ho

theorem afterOperation_only : OnlyGroup s (afterOperation (passBlocked s g) g w) g (x.passed s w).waited := by
  rw [afterOperation, if_pos ho]
  exact (passBlocked_only hx hw).modGroup Group.waited

omit hx hw in
theorem mem_afterOperation {e : Nat × Group} (he : e ∈ s.groups) (hk : e.1 ≠ g) : e ∈ (afterOperation (passBlocked s g) g w).groups := by
  rw [afterOperation, if_pos ho]
  exact mem_modGroup_other _ (mem_modGroup_other _ he hk) hk

variable (hrun : dieRuns s (dieOf s g) = true) (hsh : (blockOf s g).shadow = false) (hr : haltReady x = false)
include hrun hsh hr

theorem waitCompletes_operation (hh : waitHolds s g w = true) :
    Happens (.waitCompletes g) s (completeWait (afterOperation (passBlocked s g) g w) g w) := by
  rw [Happens, exec_waitCompletes, evWaitCompletes, hx]
  dsimp only
  rw [hw]
  dsimp only
  rw [if_neg (by simp [ho, hrun, hsh, hr, hh])]
  rfl

theorem operation_completes (hh : waitHolds s g w = true) : ∃ s1, Happens (.waitCompletes g) s (completeWait s1 g w) ∧
    ∃ y, OnlyGroup s s1 g y ∧ WaitedAt x.pc x.pending y.pending ∧ y = { x with pending := y.pending, inFlight := y.inFlight } ∧
      ∀ d, w.dst = some d → Overtakes s x y d := by
  refine ⟨_, waitCompletes_operation hx hw ho hrun hsh hr hh, _, afterOperation_only hx hw ho, ?_, ?_, fun d hd => ?_⟩
  · rw [Group.waited, Group.passed, passResults_uniform]
    exact pairwise2_map (R := fun p q : Pending => q = { p with after := some (p.after.getD x.pc) }) (fun _ => rfl) x.pending
  · rw [Group.waited, Group.passed, passResults_uniform]
  · rw [Group.waited, Group.passed, hd]
    exact passResults_overtakes s x d

end

/-- A halt of some dies is complete (R301, R336). -/
theorem halt_completes {s : State} {g : Nat} {x : Group} (hx : kfind s.groups g = some x) {m d : Nat} (hw : x.status = .blocked (.halt m d))
    (hrun : dieRuns s (dieOf s g) = true) (hsh : (blockOf s g).shadow = false) (hr : haltReady x = false)
    (hh : haltComplete s (haltNamed s g (maskDies s (partOf s g) m)) = true) :
    ∃ t y, Happens (.waitCompletes g) s t ∧ kfind t.groups g = some y ∧ y.pc = x.pc + 4 ∧ y.status = .ready ∧
      y.sreg d = BitVec.ofNat 64 ((maskDies s (partOf s g) m).foldl (fun n i => n + 2 ^ i) 0) ∧
      ∀ h ∈ haltNamed s g (maskDies s (partOf s g) m), (getGroup s h).forced = true →
        ∃ q ∈ y.pending, q.num = 14 ∧ q.code = dieOf s h ∧ q.addr = x.pc := by
  have hhap := waitCompletes_operation hx hw rfl hrun hsh hr hh
  have honly := afterOperation_only hx hw rfl
  set u := afterOperation (passBlocked s g) g (.halt m d)
  have hblock : ((x.passed s (.halt m d)).waited).block = x.block := by rw [Group.waited, Group.passed, passResults_uniform]
  have hpc : ((x.passed s (.halt m d)).waited).pc = x.pc := by rw [Group.waited, Group.passed, passResults_uniform]
  have hpart : partOf u g = partOf s g := honly.partOf hx hblock
  have hmask : maskDies u (partOf u g) m = maskDies s (partOf s g) m := by rw [hpart, maskDies, maskDies, getPart, getPart, honly.parts]
  obtain ⟨b, hz⟩ := raiseForced_group honly.group (maskDies u (partOf u g) m) (haltNamed u g (maskDies u (partOf u g) m))
  refine ⟨_, _, hhap, (((OnlyGroup.refl hz).modGroup fun x => x.setS d _).past 4).group, ?_, rfl, ?_, fun h hm hf => ?_⟩
  · exact congrArg (· + BitVec.ofNat 64 4) hpc
  · refine (Group.sreg_setS ..).trans ((if_pos rfl).trans ?_)
    rw [hmask]
  · obtain ⟨hnamed, hdie, hfor⟩ := haltNamed_kept honly hpart (fun e he hk => mem_afterOperation rfl he hk) hm
    rw [← hmask] at hnamed
    obtain ⟨q, hq, hnum, hcode, haddr⟩ := forcedTraps_each (dies := maskDies u (partOf u g) m) (a := ((x.passed s (.halt m d)).waited).pc)
      hnamed (hfor.trans hf)
    exact ⟨q, List.mem_append_right _ hq, hnum, hcode.trans hdie, haddr.trans hpc⟩

end Sys2Proof.Machine
end

section
/-! A pending trap is taken (R331, R332). -/

namespace Sys2Proof.Machine

/-! ## Sorting by a number -/

section
variable {α : Type} (f : α → Nat)

theorem mem_insertBy {le : α → α → Bool} {a b : α} {l : List α} : b ∈ insertBy le a l ↔ b = a ∨ b ∈ l := by
  induction l with
  | nil => simp [insertBy]
  | cons c l ih =>
    rw [insertBy]
    split
    · rw [List.mem_cons, ih, List.mem_cons, or_left_comm]
    · rw [List.mem_cons]

theorem insertBy_pairwise {a : α} {l : List α} (h : l.Pairwise fun a b => f a ≤ f b) :
    (insertBy (fun a b => f a ≤ f b) a l).Pairwise fun a b => f a ≤ f b := by
  induction l with
  | nil => exact List.pairwise_singleton ..
  | cons c l ih =>
    obtain ⟨hc, hl⟩ := List.pairwise_cons.1 h
    rw [insertBy]
    by_cases hle : f c ≤ f a
    · rw [if_pos (decide_eq_true hle), List.pairwise_cons]
      refine ⟨fun d hd => ?_, ih hl⟩
      rcases mem_insertBy.1 hd with rfl | hd
      · exact hle
      · exact hc d hd
    · rw [if_neg (by simpa using hle), List.pairwise_cons]
      refine ⟨fun d hd => ?_, h⟩
      rcases List.mem_cons.1 hd with rfl | hd
      · omega
      · have := hc d hd
        omega

theorem sortBy_spec (l : List α) : (sortBy (fun a b => f a ≤ f b) l).Pairwise (fun a b => f a ≤ f b) ∧
    ∀ b, b ∈ sortBy (fun a b => f a ≤ f b) l ↔ b ∈ l := by
  have hfold : ∀ (l m : List α), m.Pairwise (fun a b => f a ≤ f b) →
      (l.foldl (fun m x => insertBy (fun a b => f a ≤ f b) x m) m).Pairwise (fun a b => f a ≤ f b) ∧
      ∀ b, b ∈ l.foldl (fun m x => insertBy (fun a b => f a ≤ f b) x m) m ↔ b ∈ m ∨ b ∈ l := by
    intro l
    induction l with
    | nil => exact fun m hm => ⟨hm, by simp⟩
    | cons a l ih =>
      intro m hm
      obtain ⟨hp, hmem⟩ := ih _ (insertBy_pairwise f (a := a) hm)
      refine ⟨hp, fun b => (hmem b).trans ?_⟩
      rw [mem_insertBy, List.mem_cons]
      tauto
  obtain ⟨hp, hmem⟩ := hfold l [] List.Pairwise.nil
  exact ⟨hp, fun b => (hmem b).trans (by simp)⟩

/-- The first of a sorted list is one of the list with the least number. -/
theorem sortBy_head {l r : List α} {a : α} (h : sortBy (fun a b => f a ≤ f b) l = a :: r) : a ∈ l ∧ ∀ b ∈ l, f a ≤ f b := by
  obtain ⟨hp, hmem⟩ := sortBy_spec f l
  rw [h] at hp hmem
  refine ⟨(hmem a).1 List.mem_cons_self, fun b hb => ?_⟩
  rcases List.mem_cons.1 ((hmem b).2 hb) with rfl | hb
  · exact Nat.le_refl _
  · exact (List.pairwise_cons.1 hp).1 b hb

end

/-! ## Taking it -/

theorem takePending_spec {s : State} {g : Nat} {x : Group} (hx : kfind s.groups g = some x) {p : Pending} {rest : List Pending}
    (h : takePending s g = some (p, rest)) :
    p ∈ eligible s g ∧ (∀ q ∈ eligible s g, p.rank ≤ q.rank) ∧ rest = (x.pending.erase p).map (Pending.stay x.serving.length) := by
  rw [takePending, getGroup_of hx] at h
  split at h
  · cases h
  · next q r hq =>
    cases h
    obtain ⟨hmem, hmin⟩ := sortBy_head Pending.rank hq
    exact ⟨hmem, hmin, rfl⟩

/-- Trap entry with a vector, for an engine operation that the handler may serve (R316, R330). -/
theorem enterTrap_serves {s : State} {g : Nat} {x : Group} (h : kfind s.groups g = some x) (hv : vectorOf s g ≠ 0) (t : Trap) :
    ∃ y, OnlyGroup s (enterTrap s g t) g y ∧ y.serving = t.serves :: x.serving ∧ y.pending = x.pending ∧
      Entered s g x { y with serving := none :: x.serving } t.num t.code t.pc t.addr t.vaddr t.lanes
        (if (2 ≤ t.num && t.num ≤ 6 && !t.fetch) = true then t.lanes else x.em) := by
  unfold enterTrap
  rw [if_neg (by simp [no_vector hv])]
  refine ⟨_, (OnlyGroup.refl h).modGroup _, rfl, rfl, ?_⟩
  constructor <;> simp [vectorOf, Nat.mul_comm]

theorem exec_trapEntry (g : Nat) (s : State) : exec (.trapEntry g) s = .next ((evTrapEntry g s).getD s) := rfl

theorem happens_trapEntry {s : State} {g : Nat} {x : Group} {p : Pending} (h : TakesTrap s g x p) {rest : List Pending}
    (hp : takePending s g = some (p, rest)) :
    Happens (.trapEntry g) s (enterTrap (modGroup s g fun x => { x with pending := rest }) g (pendingTrap x p)) := by
  obtain ⟨hx, hpoint, ⟨hrun, hsh⟩, hhalt, hwait, -⟩ := h
  rw [Happens, exec_trapEntry, evTrapEntry, hx]
  dsimp only
  rw [if_neg (by simp [hpoint, hrun, hsh, hhalt]), if_neg, hp]
  · rfl
  · cases hst : x.status with
    | blocked w => simp [hwait w hst]
    | _ => simp

theorem trap_taken {s : State} {g : Nat} {x : Group} (hx : kfind s.groups g = some x) {p : Pending} (h : TakesTrap s g x p)
    (hv : vectorOf s g ≠ 0) : p ∈ eligible s g ∧ (∀ q ∈ eligible s g, p.rank ≤ q.rank) ∧
      ∃ y, EventLeaves (.trapEntry g) s g y ∧ y.serving = p.op :: x.serving ∧
        y.pending = (x.pending.erase p).map (Pending.stay x.serving.length) ∧
        Entered s g { x with pending := y.pending } { y with serving := none :: x.serving } p.num p.code x.pc
          (if p.num = 7 ∨ p.num = 15 then p.after.getD x.pc else p.addr) p.vaddr p.lanes
          (if 2 ≤ p.num ∧ p.num ≤ 6 then p.lanes else x.em) := by
  obtain ⟨rest, hrest⟩ := h.taken
  obtain ⟨hmem, hmin, rfl⟩ := takePending_spec hx hrest
  set rest := (x.pending.erase p).map (Pending.stay x.serving.length)
  have hmod : OnlyGroup s (modGroup s g fun x => { x with pending := rest }) g { x with pending := rest } :=
    (OnlyGroup.refl hx).modGroup fun x => { x with pending := rest }
  have hvec := hmod.vectorOf hx rfl
  obtain ⟨y, hy, hserv, hpend, hent⟩ := enterTrap_serves hmod.group (hvec ▸ hv) (pendingTrap x p)
  refine ⟨hmem, hmin, y, ⟨_, happens_trapEntry h hrest, ?_⟩, hserv, hpend, ?_⟩
  · exact ⟨hy.group, fun j hj => (hy.others j hj).trans (hmod.others j hj), fun q => (hy.bytes q).trans (hmod.bytes q), by
      rw [hy.rest]; rfl⟩
  · have := hent.congr hvec hmod.cycle
    simpa [pendingTrap, hpend] using this

end Sys2Proof.Machine
end

section
/-! A block retires, or goes back to its launch (R12, R325, R344, R345). -/

namespace Sys2Proof.Machine

/-! ## What clearing a block leaves -/

/-- The blocks and the launches are as before. -/
def KeepsPlacement (s t : State) : Prop := t.blocks = s.blocks ∧ ∀ p, (getPart t p).launches = (getPart s p).launches

theorem KeepsPlacement.refl (s : State) : KeepsPlacement s s := ⟨rfl, fun _ => rfl⟩

theorem KeepsPlacement.trans {s t u : State} (h : KeepsPlacement s t) (k : KeepsPlacement t u) : KeepsPlacement s u :=
  ⟨k.1.trans h.1, fun p => (k.2 p).trans (h.2 p)⟩

theorem KeepsPlacement.foldl {α : Type} {f : State → α → State} (h : ∀ s a, KeepsPlacement s (f s a)) (l : List α) (s : State) :
    KeepsPlacement s (l.foldl f s) := by
  induction l generalizing s with
  | nil => exact .refl s
  | cons a l ih => exact (h s a).trans (ih _)

theorem getPart_modPart (s : State) (p q : Nat) (f : Partition → Partition) :
    getPart (modPart s p f) q = if q = p then f (getPart s p) else getPart s q := by
  simp only [getPart, modPart, kgetD, kfind_kput]
  split <;> rfl

theorem countBad_placement (s : State) (p : Nat) : KeepsPlacement s (countBad s p) := by
  refine ⟨rfl, fun q => ?_⟩
  rw [countBad, getPart_modPart]
  split
  · next h => rw [h]
  · rfl

theorem discardPacketsOf_placement (s : State) (g : Nat) : KeepsPlacement s (discardPacketsOf s g) :=
  KeepsPlacement.trans (t := { s with openPackets := s.openPackets.filter fun q => !(q.owner == .group g) }) ⟨rfl, fun _ => rfl⟩
    (KeepsPlacement.foldl (fun s _ => countBad_placement s _) _ _)

theorem drainLines_placement (s : State) (core : Nat) (p : WcbLine → Bool) : KeepsPlacement s (drainLines s core p) := by
  refine KeepsPlacement.trans (t := modCore s core fun c => { c with wcb := c.wcb.filter fun l => !p l }) ⟨rfl, fun _ => rfl⟩
    (KeepsPlacement.foldl (fun s l => ?_) _ _)
  rw [drainTo]
  split <;> exact ⟨rfl, fun _ => rfl⟩

theorem clearBlock_placement (s : State) (b : Nat) : KeepsPlacement s (clearBlock s b) := by
  unfold clearBlock
  dsimp only
  have hdrain := drainLines_placement s (getBlock s b).core fun l => l.groups.any (groupsOf s b).contains
  have hdiscard := hdrain.trans (KeepsPlacement.foldl discardPacketsOf_placement (groupsOf s b) _)
  split <;> exact ⟨hdiscard.1, hdiscard.2⟩

theorem clearBlock_groups {s : State} {b : Nat} {e : Nat × Group} (h : e ∈ (clearBlock s b).groups) : e.2.block ≠ b := by
  simpa using (List.mem_filter.1 h).2

theorem clearBlock_ops {s : State} {b : Nat} {e : Nat × Op} (h : e ∈ (clearBlock s b).ops) : e.2.block ≠ b := by
  simpa using (List.mem_filter.1 h).2

/-! ## What freeing a block leaves -/

theorem freeBlock_rest (s : State) (b : Nat) : freeBlock s b = { s with blocks := (freeBlock s b).blocks } := by
  unfold freeBlock
  dsimp only
  split_ifs <;> rfl

theorem kfind_removed {α : Type} (m : KMap α) (b : Nat) (q : Nat → Bool) : kfind (m.filter fun e => e.1 != b && q e.1) b = none := by
  rw [kfind_filter m (fun k => k != b && q k)]
  simp

theorem freeBlock_gone {s : State} {b : Nat} (h : (getBlock s b).span ≤ 1) : kfind (freeBlock s b).blocks b = none := by
  unfold freeBlock
  dsimp only
  rw [if_neg (by simp; omega)]
  exact kfind_removed s.blocks b fun k => !(decide (1 < (getBlock s b).span) && (setMates s b).contains k)

/-! ## The launch of a block -/

theorem launch_modLaunch {s : State} {p n : Nat} {l : Launch} (h : kfind (getPart s p).launches n = some l) (f : Launch → Launch) :
    kfind (getPart (modLaunch s p n f) p).launches n = some (f l) := by
  rw [modLaunch, getPart_modPart, if_pos rfl]
  exact (kfind_kmodify ..).trans (by rw [if_pos rfl, h]; rfl)

theorem retireBlock_requeued {s : State} {b : Nat} (h : (getBlock s b).ending = some .requeued) :
    retireBlock s b =
      let t := modLaunch (clearBlock s b) (getBlock s b).part (getBlock s b).launch fun l =>
        { l with requeued := insertNat l.requeued (getBlock s b).number }
      { t with blocks := t.blocks.filter fun e => e.1 != b } := by
  rw [retireBlock, h]

theorem retireBlock_retired {s : State} {b : Nat} (h : (getBlock s b).ending ≠ some .requeued) :
    retireBlock s b = modLaunch (freeBlock (clearBlock s b) b) (getBlock s b).part (getBlock s b).launch fun l =>
      { l with retired := l.retired + 1, failed := l.failed || (getBlock s b).ending == some .failed } := by
  unfold retireBlock
  dsimp only
  cases he : (getBlock s b).ending with
  | none => rfl
  | some k =>
    cases k with
    | requeued => exact absurd he h
    | _ => rfl

/-! ## The event -/

theorem exec_blockRetire (b : Nat) (s : State) : exec (.blockRetire b) s = .next ((evBlockRetire b s).getD s) := rfl

section
variable {s : State} {b : Nat} {blk : Block} (h : MayRetire s b blk)
include h

theorem MayRetire.getBlock : getBlock s b = blk := by rw [Machine.getBlock, kgetD, h.found, Option.getD_some]

theorem MayRetire.groupsGone : groupsGone s b = true := by
  rw [Machine.groupsGone]
  refine List.all_eq_true.2 fun g hg => ?_
  obtain ⟨e, he, rfl⟩ := List.mem_map.1 hg
  obtain ⟨hmem, hb⟩ := List.mem_filter.1 he
  rw [h.getBlock]
  rcases h.exited e hmem (by simpa using hb) with hex | ⟨hend, hhalt, hset⟩
  · simp [hex]
  · simp [Option.isSome_iff_ne_none.2 hend, hhalt, hset]

theorem MayRetire.effectsWait : effectsWait s b = false := by
  obtain ⟨harr, hst, hreq⟩ := h.effects
  rw [Machine.effectsWait, h.getBlock]
  simp only [Bool.or_eq_false_iff, List.any_eq_false, Bool.and_eq_false_iff, beq_iff_eq]
  refine ⟨⟨harr, fun t ht => ?_⟩, ?_⟩
  · rw [List.any_eq_true]
    rintro ⟨w, hw, hin⟩
    exact absurd hin (by simp [hst t ht w hw])
  · by_cases hr : blk.ending = some .requeued
    · refine .inr fun g hg => ?_
      obtain ⟨e, he, rfl⟩ := List.mem_map.1 hg
      obtain ⟨hmem, hb⟩ := List.mem_filter.1 he
      obtain ⟨hout, hpkt⟩ := hreq hr e hmem (by simpa using hb)
      simp only [hout, Bool.false_or, List.any_eq_true, Bool.and_eq_true, beq_iff_eq, not_exists, not_and]
      exact fun o ho hg hd => hpkt o ho ⟨hg, hd⟩
    · exact .inl (decide_eq_false hr)

theorem MayRetire.opsDone : (s.ops.any fun e => e.2.block == b && e.2.done.isNone && !(blk.ending.isSome && checkpoints s e.1 e.2)) = false := by
  rw [List.any_eq_false]
  intro e he hno
  simp only [Bool.and_eq_true, beq_iff_eq, Bool.not_eq_true', Bool.and_eq_false_iff] at hno
  obtain ⟨⟨hb, hnone⟩, hchk⟩ := hno
  rcases h.done e he hb with hd | ⟨hend, hc⟩
  · exact hd (Option.isNone_iff_eq_none.1 hnone)
  · rcases hchk with hchk | hchk
    · exact hend (Option.not_isSome_iff_eq_none.1 (by simp [hchk]))
    · rw [hc] at hchk
      cases hchk

theorem happens_blockRetire : Happens (.blockRetire b) s (retireBlock s b) := by
  rw [Happens, exec_blockRetire, evBlockRetire, h.found]
  dsimp only
  rw [if_neg]
  · rfl
  · rw [h.groupsGone, h.effectsWait, h.opsDone, h.packets, h.there.1, h.there.2]
    decide

theorem block_retires {l : Launch} (hl : kfind (getPart s blk.part).launches blk.launch = some l) :
    ∃ t l', Happens (.blockRetire b) s t ∧ kfind (getPart t blk.part).launches blk.launch = some l' ∧
      (∀ e ∈ t.groups, e.2.block ≠ b) ∧ (∀ e ∈ t.ops, e.2.block ≠ b) ∧
      (blk.ending = some .requeued → kfind t.blocks b = none ∧ l' = { l with requeued := insertNat l.requeued blk.number }) ∧
      (blk.ending ≠ some .requeued → (blk.span ≤ 1 → kfind t.blocks b = none) ∧
        l' = { l with retired := l.retired + 1, failed := l.failed || blk.ending == some .failed }) := by
  have hhap := happens_blockRetire h
  obtain ⟨hblocks, hlaunches⟩ := clearBlock_placement s b
  have hclear : kfind (getPart (clearBlock s b) blk.part).launches blk.launch = some l := by rw [hlaunches]; exact hl
  by_cases hr : blk.ending = some .requeued
  · rw [retireBlock_requeued (by rw [h.getBlock]; exact hr), h.getBlock] at hhap
    refine ⟨_, _, hhap, launch_modLaunch hclear _, fun e he => clearBlock_groups he, fun e he => clearBlock_ops he,
      fun _ => ⟨?_, rfl⟩, fun hn => absurd hr hn⟩
    exact (kfind_filter _ (fun k => k != b) b).trans (by simp)
  · rw [retireBlock_retired (by rw [h.getBlock]; exact hr), h.getBlock] at hhap
    have hfree := freeBlock_rest (clearBlock s b) b
    have hlaunch : kfind (getPart (freeBlock (clearBlock s b) b) blk.part).launches blk.launch = some l := by rw [hfree]; exact hclear
    refine ⟨_, _, hhap, launch_modLaunch hlaunch _, fun e he => ?_, fun e he => ?_, fun hn => absurd hn hr, fun _ => ⟨fun hspan => ?_, rfl⟩⟩
    · refine clearBlock_groups (s := s) ?_
      rw [modLaunch, modPart, hfree] at he
      exact he
    · refine clearBlock_ops (s := s) ?_
      rw [modLaunch, modPart, hfree] at he
      exact he
    · refine freeBlock_gone ?_
      rw [Machine.getBlock, hblocks, ← Machine.getBlock, h.getBlock]
      exact hspan

end

end Sys2Proof.Machine
end

section
/-! What traffic at the landings and in the drift regions leaves of the loads in flight and of the buffers: a load that has been fixed stays
so, and no line joins a buffer (R103, R115, R117). -/

namespace Sys2Proof.Machine

/-- Whether every load in flight of a group has been fixed: it has no element left to read anew. -/
def fixedLoads (m : KMap Group) : Nat → Prop := fun g => ∀ x, kfind m g = some x → ∀ e ∈ x.inFlight, e.2.elems = []

/-- The buffers stay as they are, and the groups whose loads have been fixed are the same. -/
abbrev Calm (s t : State) : Prop := t.cores = s.cores ∧ fixedLoads t.groups = fixedLoads s.groups

theorem Calm.trans {s t u : State} (h : Calm s t) (k : Calm t u) : Calm s u := ⟨k.1.trans h.1, k.2.trans h.2⟩

theorem Calm.foldl {α : Type} {f : State → α → State} (h : ∀ s a, Calm s (f s a)) (l : List α) (s : State) : Calm s (l.foldl f s) := by
  induction l generalizing s with
  | nil => exact ⟨rfl, rfl⟩
  | cons a l ih => exact (h s a).trans (ih _)

/-- A change of one value that keeps a property. -/
theorem forall_kmodify {α : Type} {q : α → Prop} {f : α → α} (hq : ∀ v, q (f v) ↔ q v) (m : KMap α) (k : Nat) :
    (∀ e ∈ kmodify m k f, q e.2) ↔ ∀ e ∈ m, q e.2 := by
  have hput : ∀ (m : KMap α) (v : α), kfind m k = some v → ((∀ e ∈ kput m k (f v), q e.2) ↔ ∀ e ∈ m, q e.2) := by
    intro m
    induction m with
    | nil => exact fun v hv => by cases hv
    | cons a m ih =>
      intro v hv
      rw [kfind] at hv
      rw [kput]
      split_ifs at hv with ha
      · cases hv
        rw [if_neg (by omega), if_pos ha]
        simp [hq]
      · split_ifs
        · have hmem : (∀ e ∈ m, q e.2) → q v := fun h => h _ (kfind_mem hv)
          simp only [List.forall_mem_cons, hq]
          tauto
        · simp only [List.forall_mem_cons, ih v hv]
  rw [kmodify]
  cases hv : kfind m k with
  | none => exact Iff.rfl
  | some v => exact hput m v hv

theorem modGroup_calm (s : State) (g : Nat) {f : Group → Group}
    (h : ∀ x, (∀ e ∈ (f x).inFlight, e.2.elems = []) ↔ ∀ e ∈ x.inFlight, e.2.elems = []) : Calm s (modGroup s g f) := by
  refine ⟨rfl, funext fun j => propext ?_⟩
  unfold fixedLoads
  rw [kfind_modGroup]
  split
  · next hj =>
    subst hj
    cases kfind s.groups j with
    | none => simp
    | some x => simpa using h x
  · exact Iff.rfl


@[simp] theorem writeByte_calm (s : State) (l : Loc) (v : Byte) : Calm s (writeByte s l v) := by cases l <;> exact ⟨rfl, rfl⟩
@[simp] theorem markPoison_calm (s : State) (l : Loc) (on : Bool) : Calm s (markPoison s l on) := by cases l <;> exact ⟨rfl, rfl⟩
@[simp] theorem poisonAt_calm (s : State) (l : Loc) : Calm s (poisonAt s l) := markPoison_calm s _ _
@[simp] theorem writeRaw_calm (s : State) (ws : List (Loc × Byte)) : Calm s (writeRaw s ws) := Calm.foldl (fun _ _ => writeByte_calm ..) ws s
@[simp] theorem writeBytes_calm (s : State) (ws : List (Loc × Byte)) : Calm s (writeBytes s ws) :=
  (writeRaw_calm s ws).trans (Calm.foldl (fun _ _ => markPoison_calm ..) _ _)
@[simp] theorem writeLE_calm (s : State) (l : Loc) (v n : Nat) : Calm s (writeLE s l v n) := writeBytes_calm ..
@[simp] theorem writeWord64_calm (s : State) (pa v : Nat) : Calm s (writeWord64 s pa v) := writeLE_calm ..
@[simp] theorem modCtx_calm (s : State) (p : Nat) (b : Bool) (f : Ctx → Ctx) : Calm s (modCtx s p b f) := ⟨rfl, rfl⟩
@[simp] theorem raiseEvt_calm (s : State) (p n : Nat) : Calm s (raiseEvt s p n) := ⟨rfl, rfl⟩

@[simp] theorem logAppendFrom_calm (s : State) (p dev addr kind cause : Nat) : Calm s (logAppendFrom s p dev addr kind cause) := by
  simp only [logAppendFrom]
  split_ifs <;> simp [Calm]
@[simp] theorem logAppend_calm (s : State) (p addr kind cause : Nat) : Calm s (logAppend s p addr kind cause) := logAppendFrom_calm ..

/-! ## Stores at their homes -/

@[simp] theorem spoilRuns_calm (s : State) (runs : List PhysRun) : Calm s (spoilRuns s runs) := by simp [Calm, spoilRuns]
@[simp] theorem spoilAmp_calm (before s : State) (addrs : List Nat) : Calm s (spoilAmp before s addrs) := by
  refine Calm.foldl (fun s e => ?_) _ _
  split
  · split_ifs <;> simp [Calm]
  · simp [Calm]
@[simp] theorem storeRaw_calm (s : State) (ws : List (Loc × Byte)) : Calm s (storeRaw s ws) := by simp [Calm, storeRaw]
@[simp] theorem dirtyLine_calm (d : Nat) (s : State) (line : Nat) : Calm s (dirtyLine d s line) := by
  simp only [dirtyLine]
  split_ifs <;> simp [Calm]
@[simp] theorem keepDirty_calm (s : State) (core scope : Nat) (addrs : List Nat) : Calm s (keepDirty s core scope addrs) := by
  unfold keepDirty
  split_ifs
  · exact Calm.foldl (fun _ _ => dirtyLine_calm ..) _ _
  · simp [Calm]
@[simp] theorem homeWrite_calm (s : State) (core part scope : Nat) (bytes : KMap Byte) (stray : Bool) :
    Calm s (homeWrite s core part scope bytes stray) := by
  unfold homeWrite
  split
  · simp [Calm]
  · split
    · split_ifs <;> simp [Calm]
    · simp [Calm]
@[simp] theorem healWhole_calm (s : State) (later : List Entry) (k : Loc × Nat) : Calm s (healWhole s later k) := by
  unfold healWhole
  split_ifs <;> simp [Calm]

/-! ## The landings -/

@[simp] theorem returnValue_calm (s : State) (r : Return) (size v : Nat) (bad : Bool) : Calm s (returnValue s r size v bad) := by
  cases r <;> refine modGroup_calm _ _ fun x => forall_kmodify (q := fun e : InFlight => e.elems = []) ?_ _ _
  all_goals exact fun _ => Iff.rfl
@[simp] theorem returnAll_calm (rs : List Return) (size v : Nat) (bad : Bool) (s : State) :
    Calm s (rs.foldl (fun s r => returnValue s r size v bad) s) := Calm.foldl (fun _ _ => returnValue_calm ..) _ _
@[simp] theorem applyEntry_calm (s : State) (e : Entry) (later : List Entry) : Calm s (applyEntry s e later) := by
  simp only [applyEntry]
  split_ifs
  · split <;> simp [Calm]
  · split <;> simp [Calm]
  all_goals simp [Calm]
@[simp] theorem applyInTurn_calm (es : List Entry) (s : State) : Calm s (applyInTurn es s) := by
  induction es generalizing s with
  | nil => exact ⟨rfl, rfl⟩
  | cons e es ih => exact (applyEntry_calm s e es).trans (ih _)
@[simp] theorem applyAt_calm (s : State) (is : List Nat) : Calm s (applyAt s is) := by simp [Calm, applyAt]
@[simp] theorem flushSets_calm (s : State) (addr size : Nat) (slots : List Nat) : Calm s (flushSets s addr size slots) :=
  (applyAt_calm ..).trans (Calm.foldl (fun _ _ => applyAt_calm ..) _ _)
@[simp] theorem flushWords_calm (ws : List (Nat × Nat)) (s : State) :
    Calm s (ws.foldl (fun s w => flushSets s w.1 w.2 (setSlots s w.1 w.2)) s) := Calm.foldl (fun _ _ => flushSets_calm ..) _ _
@[simp] theorem flushRange_calm (s : State) (addr n : Nat) : Calm s (flushRange s addr n) := flushWords_calm ..
@[simp] theorem placeEntry_calm (s : State) (e : Entry) : Calm s (placeEntry s e) := by
  simp only [placeEntry]
  split_ifs
  any_goals split
  all_goals simp [Calm]
theorem placeAll_calm (es : List Entry) (s : State) : Calm s (es.foldl placeEntry s) := Calm.foldl placeEntry_calm es s

/-! ## Drift regions -/

@[simp] theorem modRegion_calm (s : State) (r : Nat) (f : Region → Region) : Calm s (modRegion s r f) := ⟨rfl, rfl⟩
@[simp] theorem setHolder_calm (s : State) (h : Holder) : Calm s (setHolder s h) := ⟨rfl, rfl⟩
@[simp] theorem dropHolder_calm (s : State) (c : CacheId) (r : Nat) : Calm s (dropHolder s c r) := ⟨rfl, rfl⟩
@[simp] theorem freeSlot_calm (s : State) (r : Nat) (c : CacheId) : Calm s (freeSlot s r c) := ⟨rfl, rfl⟩
@[simp] theorem reply_calm (s : State) (c : CacheId) (r : Nat) (k : Option Nat) : Calm s (reply s c r k) := ⟨rfl, rfl⟩
@[simp] theorem startDrain_calm (s : State) (r : Nat) (cs : List CacheId) (q : DirRequest) : Calm s (startDrain s r cs q) := ⟨rfl, rfl⟩

@[simp] theorem flushHolder_calm (s : State) (c : CacheId) (r : Nat) (gs : List Nat) (a : Answer) : Calm s (flushHolder s c r gs a) := by
  unfold flushHolder
  split
  · dsimp only; split_ifs <;> simp [Calm]
  · split_ifs <;> simp [Calm]
@[simp] theorem releaseHolder_calm (s : State) (c : CacheId) (r : Nat) (a : Answer) : Calm s (releaseHolder s c r a) := by
  unfold releaseHolder
  split
  · simp [Calm]
  · split_ifs <;> simp [Calm]
@[simp] theorem acceptHeld_calm (s : State) (c : CacheId) (e : Entry) : Calm s (acceptHeld s c e) := by
  simp only [acceptHeld]
  split
  · split
    · split_ifs <;> simp [Calm]
    · split_ifs <;> simp [Calm]
  · simp [Calm]
@[simp] theorem grantShare_calm (s : State) (r : Nat) (c : CacheId) (k : Nat) : Calm s (grantShare s r c k) := by
  simp only [grantShare]
  split <;> simp [Calm]
@[simp] theorem serveEntry_calm (s : State) (e : Entry) : Calm s (serveEntry s e) := by
  simp only [serveEntry]
  split
  · split_ifs <;> simp [Calm]
  · exact Calm.foldl (fun _ _ => returnValue_calm ..) _ _
  · exact flushRange_calm ..
  · exact placeEntry_calm ..
@[simp] theorem serveRequest_calm (s : State) (q : DirRequest) : Calm s (serveRequest s q) := by
  cases q with
  | grant c => exact ⟨rfl, rfl⟩
  | ldv es tol => exact placeAll_calm es s
  | entry e => exact serveEntry_calm s e
@[simp] theorem serveQueue_calm (r fuel : Nat) (s : State) : Calm s (serveQueue r fuel s) := by
  induction fuel generalizing s with
  | zero => exact ⟨rfl, rfl⟩
  | succ n ih =>
    simp only [serveQueue]
    split
    · split_ifs
      · simp [Calm]
      · exact Calm.trans (by simp [Calm]) (ih _)
    · simp [Calm]
@[simp] theorem openAgain_calm (s : State) (r : Nat) : Calm s (openAgain s r) := by simp [Calm, openAgain]

theorem evGrantRequest_calm {s t : State} {r : Nat} (h : evGrantRequest r s = some t) : Calm s t := by
  simp only [evGrantRequest] at h
  split at h
  · split_ifs at h
    · cases h; simp [Calm]
    · split at h
      · cases h; simp [Calm]
      · cases h; simp [Calm]
      · split at h <;> cases h <;> simp [Calm]
  · cases h
theorem takeCall_calm {s t : State} {c : CacheId} {r : Nat} {p : Call → Bool} {k : Call} (h : takeCall s c r p = some (k, t)) : Calm s t := by
  unfold takeCall at h
  split at h
  · split_ifs at h; cases h; exact ⟨rfl, rfl⟩
  · cases h
theorem evGrantReply_calm {s t : State} {c : CacheId} {r : Nat} (h : evGrantReply c r s = some t) : Calm s t := by
  unfold evGrantReply at h
  split at h
  · rename_i hc
    refine (takeCall_calm hc).trans ?_
    split at h
    · split at h
      · cases h
        exact Calm.trans (setHolder_calm ..) (Calm.foldl (fun _ _ => acceptHeld_calm ..) _ _)
      · cases h; simp [Calm]
    · cases h; simp [Calm]
  · cases h
theorem evShareCutCall_calm {s t : State} {c : CacheId} {r : Nat} (h : evShareCutCall c r s = some t) : Calm s t := by
  unfold evShareCutCall at h
  split at h
  · rename_i hc
    refine (takeCall_calm hc).trans ?_
    split at h
    · cases h
      split_ifs <;> simp [Calm]
    · cases h; simp [Calm]
  · cases h
theorem evDrainCall_calm {s t : State} {c : CacheId} {r : Nat} (h : evDrainCall c r s = some t) : Calm s t := by
  unfold evDrainCall at h
  split at h
  · rename_i hc
    cases h
    exact (takeCall_calm hc).trans (releaseHolder_calm ..)
  · cases h
theorem receiveEntries_calm (es : List Entry) (s : State) : Calm s (es.foldl (fun s e => placeEntry s { e with groups := [] }) s) :=
  Calm.foldl (fun _ _ => placeEntry_calm ..) es s
theorem evHolderMessage_calm {s t : State} {c : CacheId} {r : Nat} (h : evHolderMessage c r s = some t) : Calm s t := by
  unfold evHolderMessage at h
  split at h
  · cases h
  · next m _ =>
    refine (receiveEntries_calm m.entries { s with messages := s.messages.erase m }).trans ?_
    dsimp only at h
    generalize m.entries.foldl _ _ = u at h ⊢
    split at h
    · cases h; simp [Calm]
    · cases h; simp [Calm]
    · split at h
      · split at h
        · cases h; simp [Calm]
        · split at h <;> cases h <;> simp [Calm]
      · cases h; simp [Calm]
    · split at h
      · split_ifs at h <;> cases h <;> simp [Calm]
      · cases h; simp [Calm]
theorem evLdvRequest_calm {s t : State} {r : Nat} (h : evLdvRequest r s = some t) : Calm s t := by
  simp only [evLdvRequest] at h
  split at h
  · split at h <;> cases h <;> simp [Calm]
  · cases h
theorem regionStep_calm {s t : State} {r : Nat} (h : regionStep r s = some t) : Calm s t := by
  unfold regionStep at h
  split at h
  · exact evHolderMessage_calm h
  · split at h
    · split at h
      · exact evShareCutCall_calm h
      · exact evDrainCall_calm h
      · exact evGrantReply_calm h
    · split at h
      · next hg => cases h; exact evGrantRequest_calm hg
      · exact evLdvRequest_calm h
@[simp] theorem settleRegion_calm (r fuel : Nat) (s : State) : Calm s (settleRegion r fuel s) := by
  induction fuel generalizing s with
  | zero => exact ⟨rfl, rfl⟩
  | succ n ih =>
    unfold settleRegion
    split
    · next h => exact (regionStep_calm h).trans (ih _)
    · exact ⟨rfl, rfl⟩
@[simp] theorem settle_calm (s : State) (r : Nat) : Calm s (settle s r) := settleRegion_calm ..

end Sys2Proof.Machine
end

section
/-! A halt reaches a group (R13, R336, R337), and the statement about the events of groups and blocks. -/

namespace Sys2Proof.Machine

/-! ## What a halt does first -/

theorem flushHolders_calm (s : State) (p : Holder → Bool) (release : Bool) : Calm s (flushHolders s p release) := by
  refine Calm.foldl (fun s h => ?_) _ _
  split <;> split <;> simp [Calm]

theorem flushHolders_still (s : State) (p : Holder → Bool) (release : Bool) : Still s (flushHolders s p release) := by
  refine Still.foldl (fun s h => ?_) _ _
  split <;> split <;> simp [Still]

/-- The machine before a halt changes the group's status: its loads are fixed, its lines and the holders of its core have drained. -/
def beforeHalt (s : State) (g : Nat) : State :=
  flushHolders (drainLines (fixLoads (markFiring s fun o => o.group == g) g) (coreOf s g) fun l => l.of g)
    (fun h => h.state.addsOf (coreOf s g)) true

theorem drainTo_groups (s : State) (core part : Nat) (l : WcbLine) : (drainTo s core part l).groups = s.groups := by
  unfold drainTo
  split <;> rfl

theorem drainLines_groups (s : State) (core : Nat) (p : WcbLine → Bool) : (drainLines s core p).groups = s.groups := by
  have hdrain : ∀ (ls : List WcbLine) (u : State), (ls.foldl (fun s l => drainTo s core (partOfGroups s l.groups) l) u).groups = u.groups := by
    intro ls
    induction ls with
    | nil => exact fun _ => rfl
    | cons l ls ih => exact fun u => (ih _).trans (drainTo_groups ..)
  exact hdrain _ _

theorem wcb_drainLines (s : State) (core : Nat) (p : WcbLine → Bool) :
    (getCore (drainLines s core p) core).wcb = (getCore s core).wcb.filter fun l => !p l := by
  have hcores := (drainLines_cores_mem ((getCore s core).wcb.filter p)
    (modCore s core fun c => { c with wcb := c.wcb.filter fun l => !p l }) core fun s l => partOfGroups s l.groups).1
  rw [getCore, drainLines, hcores, ← getCore, getCore_modCore, if_pos rfl]

theorem beforeHalt_still (s : State) (g : Nat) : Still s (beforeHalt s g) :=
  Still.trans (t := markFiring s fun o => o.group == g) ⟨rfl, rfl⟩ <|
    (fixLoads_still _ g).trans <| (drainLines_still ..).trans (flushHolders_still ..)

/-- The group's record before the status changes. -/
theorem beforeHalt_group {s : State} {g : Nat} {x : Group} (hx : kfind s.groups g = some x) :
    ∃ l, kfind (beforeHalt s g).groups g = some { x with inFlight := l } ∧ ∀ e ∈ l, e.2.elems = [] := by
  have hstill := beforeHalt_still s g
  have hview := congrFun hstill.2 g
  rw [groupsApart, groupsApart, hx] at hview
  obtain ⟨z, hz, hapart⟩ := Option.map_eq_some_iff.1 hview
  have hrest : z = { x with inFlight := z.inFlight } := congrArg (fun w : Group => { w with inFlight := z.inFlight }) hapart
  refine ⟨z.inFlight, hrest ▸ hz, ?_⟩
  have hcalm := flushHolders_calm (drainLines (fixLoads (markFiring s fun o => o.group == g) g) (coreOf s g) fun l => l.of g)
    (fun h => h.state.addsOf (coreOf s g)) true
  have hfixed : fixedLoads (beforeHalt s g).groups g := by
    rw [beforeHalt, hcalm.2, drainLines_groups]
    intro y hy e he
    rw [fixLoads, kfind_modGroup, if_pos rfl] at hy
    obtain ⟨w, -, rfl⟩ := Option.map_eq_some_iff.1 hy
    obtain ⟨f, -, rfl⟩ := List.mem_map.1 he
    rfl
  exact hfixed z hz

theorem beforeHalt_lines (s : State) (g : Nat) : ∀ l ∈ (getCore (beforeHalt s g) (coreOf s g)).wcb, l.groups.contains g = false := by
  intro l hl
  have hcalm := flushHolders_calm (drainLines (fixLoads (markFiring s fun o => o.group == g) g) (coreOf s g) fun l => l.of g)
    (fun h => h.state.addsOf (coreOf s g)) true
  rw [beforeHalt, getCore, hcalm.1, ← getCore, wcb_drainLines] at hl
  simpa [WcbLine.of] using (List.mem_filter.1 hl).2

/-! ## The group halted -/

/-- The record that a halt leaves (R13, R336). -/
def Group.halt (x : Group) : Group := { x with
  stalled := x.stalled && x.status == .waiting
  status := .halted (match x.status with
    | .blocked w => some w
    | _ => none)
  haltAsked := none, latch := {} }

theorem Group.halt_blocked {x : Group} {w : Wait} (h : x.status = .blocked w) : x.halt.status = .halted (some w) := by rw [halt, h]

theorem Group.halt_running {x : Group} (h : x.status = .ready ∨ x.status = .waiting) : x.halt.status = .halted none := by
  rcases h with h | h <;> rw [halt, h]

theorem haltGroup_eq (s : State) (g : Nat) : haltGroup s g =
    let t := modGroup (beforeHalt s g) g Group.halt
    let b := (getGroup t g).block
    if (getBlock t b).ending.isSome then dropOps t b (· == g) else t := rfl

theorem haltGroup_frame (s : State) (g : Nat) : (haltGroup s g).groups = (modGroup (beforeHalt s g) g Group.halt).groups ∧
    (haltGroup s g).cores = (beforeHalt s g).cores := by
  rw [haltGroup_eq]
  dsimp only
  split <;> exact ⟨rfl, rfl⟩

theorem exec_groupHalted (g : Nat) (s : State) : exec (.groupHalted g) s = .next ((evGroupHalted g s).getD s) := rfl

theorem group_halts {s : State} {g : Nat} {x : Group} (hx : kfind s.groups g = some x) (hr : haltReady x = true) (hpoint : interruptible s g = true)
    (hrun : dieRuns s (dieOf s g) = true) (hsh : (blockOf s g).shadow = false) :
    ∃ t y, Happens (.groupHalted g) s t ∧ kfind t.groups g = some y ∧ y.haltAsked = none ∧ y.latch = {} ∧
      y.stalled = (x.stalled && x.status == .waiting) ∧
      (∀ w, x.status = .blocked w → y.status = .halted (some w)) ∧
      ((x.status = .ready ∨ x.status = .waiting) → y.status = .halted none) ∧
      y.pc = x.pc ∧ y.em = x.em ∧ y.sup = x.sup ∧ y.v = x.v ∧ y.s = x.s ∧ y.k = x.k ∧ y.x = x.x ∧
      (∀ e ∈ y.inFlight, e.2.elems = []) ∧ ∀ l ∈ (getCore t (coreOf s g)).wcb, l.groups.contains g = false := by
  obtain ⟨l, hl, hfixed⟩ := beforeHalt_group hx
  obtain ⟨hgroups, hcores⟩ := haltGroup_frame s g
  have hhap : Happens (.groupHalted g) s (haltGroup s g) := by
    rw [Happens, exec_groupHalted, evGroupHalted, hx]
    dsimp only
    rw [if_pos (by simp [hr, hpoint, hrun, hsh])]
    rfl
  have hy : kfind (haltGroup s g).groups g = some ({ x with inFlight := l } : Group).halt := by
    rw [hgroups, kfind_modGroup, if_pos rfl, hl]
    rfl
  refine ⟨_, _, hhap, hy, rfl, rfl, rfl, fun w hw => Group.halt_blocked hw, fun hw => Group.halt_running hw,
    rfl, rfl, rfl, rfl, rfl, rfl, rfl, hfixed, ?_⟩
  rw [getCore, hcores, ← getCore]
  exact beforeHalt_lines s g

end Sys2Proof.Machine
end

section
/-! The statement about the events of groups and blocks. -/

namespace Sys2Proof

open Machine

/-- Settles O46: each event is its own equation behind its guard; a halt leaves no load to be read anew and no line of its group, since
what it lets drain touches neither. -/
theorem groupEvents : Obligations.GroupEvents := by
  unfold Obligations.GroupEvents
  intro s g x hx
  refine ⟨?_, ?_, ?_, ?_, ?_, ?_, ?_, ?_, ?_⟩
  · intro slot late e he ha hd hp x0
    refine ⟨fun hok s1 r hr => ?_, fun hl => ?_, ?_, fun hbad => ?_⟩
    · obtain ⟨t, y, ht, honly, hrest, hv, hnone, hsome⟩ := resultArrival_registers hx he ha hd hp late hok hr
      refine ⟨t, y, ht, honly, hrest, hv, ?_⟩
      cases hs : r.s with
      | none => exact hnone hs
      | some w => exact hsome w.1 w.2 hs
    · rw [hl]
      exact arrived_early _ g e
    · exact fun l hok hpass hs hl hlane hask h4 hread => resultArrival_late hx he ha hd hp late hok hpass hs hl hlane hask h4 hread
    · exact ⟨_, Pending.ofPoison e, resultArrival_poison hx he ha hd hp late hbad, rfl, rfl, rfl,
        fun hs l hl => Pending.lanes_ofPoison hs hl, rfl⟩
  · exact fun hup hr => ⟨fun r ph hw hf => gate_completes hx hup hr hw hf, fun r ph dl d hw hf => gateT_completes hx hup hr hw hf,
      fun c n hw hn h10 => oc_completes hx hup hr hw hn h10, fun n hw hn => batch_completes hx hup hr hw hn,
      fun hw ho => fence_completes hx hup hr hw ho, fun m d hw he => wfi_completes hx hup hr hw he,
      fun h hw hb => bind_completes hx hup hr hw hb⟩
  · intro w hw ho hrun hsh hr
    refine ⟨operation_completes hx hw ho hrun hsh hr, ?_⟩
    rintro m d rfl dies hh
    exact halt_completes hx hw hrun hsh hr hh
  · exact fun hup => ⟨fun r ph dl d hw hf hd => deadline_gateT hx hup hw hf hd, fun dl hd hw => deadline_sleep hx hup hd hw,
      fun dl hd hw => deadline_sleepUntil hx hup hd hw⟩
  · exact fun c hc hf ha hl => deferral_expires hx hc hf ha hl
  · exact group_halts hx
  · exact fun p h hv => trap_taken hx h hv
  · exact fun slot since lanes va hw hs hl hd hv => hostLoad_times_out hx slot hw hs hl hd hv
  · exact fun b blk l h hl => block_retires h hl

end Sys2Proof
end

section
/-! Words as fixed bits and fields in their places (R19): a row of the encoding tables and its word determine each other. -/

namespace Sys2Proof
namespace Decode

/-! ## Disjoint bits -/

theorem add_eq_or_of_disjoint {a b : Nat} (h : a &&& b = 0) : a + b = a ||| b := by
  have hlt : a + b < 2 ^ (a + b) := Nat.lt_two_pow_self
  have ha : a < 2 ^ (a + b) := by omega
  have hb : b < 2 ^ (a + b) := by omega
  have hz : BitVec.ofNat (a + b) a &&& BitVec.ofNat (a + b) b = 0#(a + b) := by
    apply BitVec.eq_of_toNat_eq
    simp [Nat.mod_eq_of_lt ha, Nat.mod_eq_of_lt hb, h]
  simpa [Nat.mod_eq_of_lt ha, Nat.mod_eq_of_lt hb, Nat.mod_eq_of_lt hlt] using
    congrArg BitVec.toNat (BitVec.add_eq_or_of_and_eq_zero _ _ hz)

/-- Adding bits that a word does not have. -/
theorem add_and_of_disjoint {a b : Nat} (h : a &&& b = 0) (x : Nat) : (a + b) &&& x = (a &&& x) + (b &&& x) := by
  rw [add_eq_or_of_disjoint h, Nat.and_or_distrib_right, add_eq_or_of_disjoint]
  rw [Nat.and_assoc, Nat.and_left_comm x, Nat.and_self, ← Nat.and_assoc, h, Nat.zero_and]

/-- The bits of the field of `n` bits from bit `lo` on. -/
def ones (lo n : Nat) : Nat := (2 ^ n - 1) * 2 ^ lo

theorem testBit_ones (lo n i : Nat) : (ones lo n).testBit i = (decide (lo ≤ i) && decide (i < lo + n)) := by
  rw [ones, Nat.testBit_mul_two_pow, Nat.testBit_two_pow_sub_one]
  by_cases h : lo ≤ i
  · simp [h]; omega
  · simp [h]

theorem and_ones (w lo n : Nat) : w &&& ones lo n = bitsOf w lo n * 2 ^ lo := by
  apply Nat.eq_of_testBit_eq
  intro i
  rw [Nat.testBit_and, testBit_ones, bitsOf, Nat.testBit_mul_two_pow, Nat.testBit_mod_two_pow, Nat.testBit_div_two_pow]
  by_cases h : lo ≤ i
  · have h1 : (i - lo < n) = (i < lo + n) := by simp only [eq_iff_iff]; omega
    simp [h, h1, Bool.and_comm]
  · simp [h]

/-- A number in the place of a field. -/
theorem shifted_and_ones {v n : Nat} (hv : v < 2 ^ n) (lo : Nat) : v * 2 ^ lo &&& ones lo n = v * 2 ^ lo := by
  rw [and_ones, bitsOf, Nat.mul_div_cancel _ (Nat.two_pow_pos lo), Nat.mod_eq_of_lt hv]

/-! ## Fields -/

/-- The place of a field: a number of `n` bits from a bit on, or one bit. -/
inductive Place where
  | bits (lo n : Nat)
  | flag (lo : Nat)

namespace Place

def lo : Place → Nat
  | bits lo _ => lo
  | flag lo => lo

def len : Place → Nat
  | bits _ n => n
  | flag _ => 1

abbrev mask (p : Place) : Nat := ones p.lo p.len

/-- What stands there. -/
abbrev Val : Place → Type
  | bits _ n => BitVec n
  | flag _ => Bool

def num : (p : Place) → p.Val → Nat
  | bits _ _, x => x.toNat
  | flag _, b => b.toNat

/-- What the decoder reads there. -/
def read (w : Nat) : (p : Place) → p.Val
  | bits lo n => fld w lo n
  | flag lo => bit w lo

theorem num_lt (p : Place) (v : p.Val) : p.num v < 2 ^ p.len := by
  cases p with
  | bits lo n => exact BitVec.isLt v
  | flag lo => exact Bool.toNat_lt v

theorem num_inj {p : Place} {u v : p.Val} (h : p.num u = p.num v) : u = v := by
  cases p with
  | bits lo n => exact BitVec.eq_of_toNat_eq h
  | flag lo =>
    change Bool.toNat u = Bool.toNat v at h
    cases u <;> cases v <;> first | rfl | cases h

theorem num_read (p : Place) (w : Nat) : p.num (p.read w) = bitsOf w p.lo p.len := by
  cases p with
  | bits lo n => rfl
  | flag lo =>
    have h2 : w / 2 ^ lo % 2 = 0 ∨ w / 2 ^ lo % 2 = 1 := by omega
    rcases h2 with h2 | h2 <;> simp [num, read, Place.lo, len, bit, bitAt, bitsOf, h2]

/-- The values of some fields. -/
abbrev Vals : List Place → Type
  | [] => Unit
  | p :: ps => p.Val × Vals ps

end Place

open Place

def readAll (w : Nat) : (ps : List Place) → Vals ps
  | [] => ()
  | p :: ps => (p.read w, readAll w ps)

/-- The word with the fixed bits `m` and the fields in their places. -/
def packed : Nat → (ps : List Place) → Vals ps → Nat
  | m, [], _ => m
  | m, p :: ps, (v, vs) => packed (m + p.num v * 2 ^ p.lo) ps vs

/-- The places fill a word of `len` bits beside the bits `m`, each bit once. -/
def fills (len : Nat) : Nat → List Place → Bool
  | m, [] => m == 2 ^ len - 1
  | m, p :: ps => m &&& p.mask == 0 && fills len (m + p.mask) ps

theorem fills_nil {len m : Nat} (h : fills len m [] = true) : m = 2 ^ len - 1 := by simpa [fills] using h
theorem fills_cons {len m : Nat} {p : Place} {ps : List Place} (h : fills len m (p :: ps) = true) :
    m &&& p.mask = 0 ∧ fills len (m + p.mask) ps = true := by simpa [fills] using h

/-- The fields that are read from a word make that word with its other bits. -/
theorem packed_readAll {len w : Nat} (hw : w < 2 ^ len) {ps : List Place} :
    ∀ {m : Nat}, fills len m ps = true → packed (w &&& m) ps (readAll w ps) = w := by
  induction ps with
  | nil =>
    intro m hf
    rw [packed, fills_nil hf, Nat.and_two_pow_sub_one_eq_mod, Nat.mod_eq_of_lt hw]
  | cons p ps ih =>
    intro m hf
    obtain ⟨hd, hf⟩ := fills_cons hf
    have h : (w &&& m) + p.num (p.read w) * 2 ^ p.lo = w &&& (m + p.mask) := by
      rw [num_read, ← and_ones, Nat.and_comm w, Nat.and_comm w, Nat.and_comm w, add_and_of_disjoint hd]
    rw [readAll, packed, h]
    exact ih hf

/-- The word of fixed bits and fields has those bits, and the decoder reads those fields from it. -/
theorem packed_spec {len : Nat} {ps : List Place} : ∀ {m a : Nat}, fills len m ps = true → a &&& m = a → ∀ vs : Vals ps,
    packed a ps vs < 2 ^ len ∧ packed a ps vs &&& m = a ∧ readAll (packed a ps vs) ps = vs := by
  induction ps with
  | nil =>
    intro m a hf ha vs
    rw [packed, ha]
    rw [fills_nil hf, Nat.and_two_pow_sub_one_eq_mod] at ha
    exact ⟨ha ▸ Nat.mod_lt _ (Nat.two_pow_pos len), rfl, rfl⟩
  | cons p ps ih =>
    rintro m a hf ha ⟨v, vs⟩
    obtain ⟨hd, hf⟩ := fills_cons hf
    have hown : p.num v * 2 ^ p.lo &&& p.mask = p.num v * 2 ^ p.lo := shifted_and_ones (p.num_lt v) p.lo
    have hother : p.num v * 2 ^ p.lo &&& m = 0 := by rw [← hown, Nat.and_assoc, Nat.and_comm p.mask, hd, Nat.and_zero]
    have hfree : a &&& p.mask = 0 := by rw [← ha, Nat.and_assoc, hd, Nat.and_zero]
    have hdisj : a &&& p.num v * 2 ^ p.lo = 0 := by rw [← ha, Nat.and_assoc, Nat.and_comm m, hother, Nat.and_zero]
    have hm : ∀ x, (m + p.mask) &&& x = (m &&& x) + (p.mask &&& x) := add_and_of_disjoint hd
    have ha' : (a + p.num v * 2 ^ p.lo) &&& (m + p.mask) = a + p.num v * 2 ^ p.lo := by
      rw [Nat.and_comm, hm, Nat.and_comm m, Nat.and_comm p.mask, add_and_of_disjoint hdisj, add_and_of_disjoint hdisj, ha, hother, hfree, hown,
        Nat.add_zero, Nat.zero_add]
    obtain ⟨hlt, hfix, hread⟩ := ih hf ha' vs
    rw [packed, readAll]
    generalize packed (a + p.num v * 2 ^ p.lo) ps vs = w at hlt hfix hread
    refine ⟨hlt, ?_, Prod.ext (num_inj ?_) hread⟩
    · calc w &&& m = (w &&& (m + p.mask)) &&& m := by rw [Nat.and_assoc, hm, Nat.and_self, Nat.and_comm p.mask, hd, Nat.add_zero]
        _ = a := by rw [hfix, add_and_of_disjoint hdisj, ha, hother, Nat.add_zero]
    · apply Nat.eq_of_mul_eq_mul_right (Nat.two_pow_pos p.lo)
      calc p.num (p.read w) * 2 ^ p.lo = w &&& p.mask := by rw [num_read, and_ones]
        _ = (w &&& (m + p.mask)) &&& p.mask := by rw [Nat.and_assoc, hm, Nat.and_self, hd, Nat.zero_add]
        _ = p.num v * 2 ^ p.lo := by rw [hfix, add_and_of_disjoint hdisj, hfree, hown, Nat.zero_add]

/-! ## Rows -/

section
variable {w mask mat : Nat} (h : w &&& mask = mat)
include h

/-- A selector among the fixed bits of a word. -/
theorem bitsOf_fixed {lo n : Nat} (hs : ones lo n &&& mask = ones lo n) : bitsOf w lo n = mat / 2 ^ lo % 2 ^ n := by
  apply Nat.eq_of_mul_eq_mul_right (Nat.two_pow_pos lo)
  rw [← bitsOf, ← and_ones, ← and_ones, ← h, Nat.and_assoc, Nat.and_comm mask, hs]

/-- A selector whose low `m` bits belong to a field. -/
theorem bitsOf_partly_fixed (lo m n : Nat) (hs : ones (lo + m) n &&& mask = ones (lo + m) n) :
    ∃ q < 2 ^ m, bitsOf w lo (m + n) = q + 2 ^ m * (mat / 2 ^ (lo + m) % 2 ^ n) := by
  refine ⟨bitsOf w lo m, Nat.mod_lt _ (Nat.two_pow_pos m), ?_⟩
  rw [← bitsOf_fixed h hs, bitsOf, bitsOf, bitsOf, Nat.pow_add, Nat.pow_add, Nat.mod_mul, Nat.div_div_eq_div_mul]

theorem row_taken (i : Instr) : row w mask mat i = some i := if_pos h

/-- A row whose fixed bits differ from those of the word. -/
theorem row_passed {mask' mat' : Nat} (hd : mat &&& mask' ≠ mat' &&& mask) (i : Instr) : row w mask' mat' i = none := by
  refine if_neg fun h' => hd ?_
  rw [← h, ← h', Nat.and_assoc, Nat.and_assoc, Nat.and_comm mask]

end

/-! ## Layouts -/

/-- How a word is laid out: the mask of its fixed bits, the places of its fields, and what stands there. -/
structure Layout where
  mask : Nat
  places : List Place
  vals : Vals places

/-- The lane instructions: majors 0x00 to 0x10. -/
def laneLayout : Instr → Option Layout
  | .addI32 d a b w n | .subI32 d a b w n | .mulloI32 d a b w n | .madI32 d a b w n | .mulhiI32 d a b w n | .mulhiN32 d a b w n
  | .addsatI32 d a b w n | .subsatI32 d a b w n | .minI32 d a b w n | .maxI32 d a b w n | .minN32 d a b w n | .maxN32 d a b w n
  | .and d a b w n | .or d a b w n | .xor d a b w n | .andn d a b w n | .shl d a b w n | .shr d a b w n | .sar d a b w n
  | .rot d a b w n | .orn d a b w n | .absdiffI32 d a b w n | .addI64 d a b w n | .subI64 d a b w n | .mulI64 d a b w n
  | .shlI64 d a b w n | .shrI64 d a b w n | .sarI64 d a b w n | .divI32 d a b w n | .divN32 d a b w n | .remI32 d a b w n
  | .remN32 d a b w n | .addF32 d a b w n | .subF32 d a b w n | .mulF32 d a b w n | .fmaF32 d a b w n | .minF32 d a b w n
  | .maxF32 d a b w n | .addF16x2 d a b w n | .mulF16x2 d a b w n | .addF64 d a b w n | .subF64 d a b w n | .mulF64 d a b w n
  | .fmaF64 d a b w n | .fmaF16x2 d a b w n | .addBf16x2 d a b w n | .mulBf16x2 d a b w n | .fmaBf16x2 d a b w n
    => some ⟨0xC000003F, [.bits 9 7, .bits 16 7, .bits 23 7, .bits 7 2, .flag 6], (d, a, b, w, n, ())⟩
  | .set d i n | .setiF32 d i n => some ⟨0x00FFC03F, [.bits 7 7, .bits 24 8, .flag 6], (d, i, n, ())⟩
  | .addi d a i n | .muli d a i n | .andi d a i n | .ori d a i n | .xori d a i n | .shli d a i n | .shri d a i n | .sari d a i n
  | .rsbi d a i n | .mini d a i n | .maxi d a i n | .addiF32 d a i n | .muliF32 d a i n
    => some ⟨0x00E0003F, [.bits 7 7, .bits 14 7, .bits 24 8, .flag 6], (d, a, i, n, ())⟩
  | .mov d a w n | .not d a w n | .negI32 d a w n | .absI32 d a w n | .popc d a w n | .clz d a w n | .ctz d a w n | .brev d a w n
  | .bswap d a w n | .negF32 d a w n | .absF32 d a w n | .rcpF32 d a w n | .rsqrtF32 d a w n | .sqrtF32 d a w n | .exp2F32 d a w n
  | .log2F32 d a w n | .sinpiF32 d a w n | .cospiF32 d a w n | .tanhF32 d a w n | .rcpF64 d a w n | .sqrtF64 d a w n
    => some ⟨0xFF80003F, [.bits 9 7, .bits 16 7, .bits 7 2, .flag 6], (d, a, w, n, ())⟩
  | .rndF32 d a w m n => some ⟨0xFE00003F, [.bits 9 7, .bits 16 7, .bits 7 2, .bits 23 2, .flag 6], (d, a, w, m, n, ())⟩
  | .fsrGet d n => some ⟨0xFFFF01BF, [.bits 9 7, .flag 6], (d, n, ())⟩
  | .fsrClr d a n => some ⟨0xFF8001BF, [.bits 9 7, .bits 16 7, .flag 6], (d, a, n, ())⟩
  | .packNx d a n f | .unpackNx d a n f => some ⟨0xFC0001BF, [.bits 9 7, .bits 16 7, .flag 6, .bits 23 3], (d, a, n, f, ())⟩
  | .cvt d a w y z n => some ⟨0x8000003F, [.bits 9 7, .bits 16 7, .bits 7 2, .bits 27 4, .bits 23 4, .flag 6], (d, a, w, y, z, n, ())⟩
  | .cmp k a b c t => some ⟨0x000001FF, [.bits 9 3, .bits 16 7, .bits 23 7, .bits 12 4, .bits 30 2], (k, a, b, c, t, ())⟩
  | .kand d a b | .kor d a b | .kxor d a b | .shfIdx d a b | .shfUp d a b | .shfDown d a b | .shfXor d a b | .bcast d a b
    => some ⟨0xC00001FF, [.bits 9 7, .bits 16 7, .bits 23 7], (d, a, b, ())⟩
  | .knot d a | .kmov d a | .kpop d a | .kfirst d a => some ⟨0xFF8001FF, [.bits 9 7, .bits 16 7], (d, a, ())⟩
  | .sel d k a b => some ⟨0xC000003F, [.bits 9 7, .bits 6 3, .bits 16 7, .bits 23 7], (d, k, a, b, ())⟩
  | .vote d a => some ⟨0xFF80F1FF, [.bits 9 3, .bits 16 7], (d, a, ())⟩
  | .redAddI32 d a | .redAddF32 d a | .redMinI32 d a | .redMinF32 d a | .redMaxI32 d a | .redMaxF32 d a
    => some ⟨0xFF8081FF, [.bits 9 6, .bits 16 7], (d, a, ())⟩
  | _ => none

/-- Uniform instructions, control and memory: majors 0x11 to 0x16. -/
def memoryLayout : Instr → Option Layout
  | .sadd d a b i | .ssub d a b i | .smul d a b i | .sand d a b i | .sor d a b i | .sxor d a b i | .sshl d a b i | .sshr d a b i
  | .scmpEq d a b i | .scmpNe d a b i | .scmpLtI64 d a b i | .scmpLeI64 d a b i | .scmpGtI64 d a b i | .scmpGeI64 d a b i
  | .scmpLtN64 d a b i | .scmpLeN64 d a b i | .scmpGtN64 d a b i | .scmpGeN64 d a b i | .sld d a b i | .sst d a b i | .vget d a b i
  | .vput d a b i => some ⟨0x7F00003F, [.bits 6 6, .bits 12 6, .bits 18 6, .flag 31], (d, a, b, i, ())⟩
  | .smov d b i => some ⟨0x7F03F03F, [.bits 6 6, .bits 18 6, .flag 31], (d, b, i, ())⟩
  | .sid d c => some ⟨0xFF03F03F, [.bits 6 6, .bits 18 6], (d, c, ())⟩
  | .fmtSet d a => some ⟨0xFFFC0E3F, [.bits 6 3, .bits 12 6], (d, a, ())⟩
  | .fmtGet d a => some ⟨0xFFFF803F, [.bits 6 6, .bits 12 3], (d, a, ())⟩
  | .bra d => some ⟨0x00001FFF, [.bits 13 19], (d, ())⟩
  | .call d k | .bany d k | .ball d k | .bnone d k | .bz d k | .bnz d k | .jmp d k | .jmpL d k
    => some ⟨0x00001C7F, [.bits 13 19, .bits 7 3], (d, k, ())⟩
  | .ret k => some ⟨0xFFFFFC7F, [.bits 7 3], (k, ())⟩
  | .ld d a x s w | .ldAcq d a x s w | .ldnc d a x s w | .st d a x s w | .stRel d a x s w | .stnc d a x s w
    => some ⟨0xE000007F, [.bits 9 7, .bits 16 7, .bits 23 3, .bits 26 3, .bits 7 2], (d, a, x, s, w, ())⟩
  | .ldv d a x w | .ldvAcq d a x w => some ⟨0xFC00007F, [.bits 9 7, .bits 16 7, .bits 23 3, .bits 7 2], (d, a, x, w, ())⟩
  | .pref a x s => some ⟨0xE000FFFF, [.bits 16 7, .bits 23 3, .bits 26 3], (a, x, s, ())⟩
  | .ldp d a s l w | .ldpAcq d a s l w | .stp d a s l w | .stpRel d a s l w
    => some ⟨0xE000007F, [.bits 9 7, .bits 16 7, .bits 26 3, .bits 23 3, .bits 7 2], (d, a, s, l, w, ())⟩
  | .algOp d a x w n o | .algOpRet d a x w n o
    => some ⟨0xC000003F, [.bits 9 7, .bits 16 7, .bits 23 3, .bits 7 2, .bits 26 4, .flag 6], (d, a, x, w, n, o, ())⟩
  | .algLoad x => some ⟨0xFC7FFFFF, [.bits 23 3], (x, ())⟩
  | .algFlush a x | .dflush a x => some ⟨0xFC00FFFF, [.bits 16 7, .bits 23 3], (a, x, ())⟩
  | .algGen d | .tlset d | .tlget d => some ⟨0xFFFF01FF, [.bits 9 7], (d, ())⟩
  | .dset d a x g => some ⟨0xFC00007F, [.bits 9 7, .bits 16 7, .bits 23 3, .bits 7 2], (d, a, x, g, ())⟩
  | .dstat d a x => some ⟨0xFC0001FF, [.bits 9 7, .bits 16 7, .bits 23 3], (d, a, x, ())⟩
  | _ => none

/-- Waits, gates, engines, privileged instructions, prefixes: majors 0x17 to 0x1F. -/
def engineLayout : Instr → Option Layout
  | .imx p => some ⟨0x000000FF, [.bits 8 24], (p, ())⟩
  | .addendPrefix c => some ⟨0xFFFF80FF, [.bits 8 7], (c, ())⟩
  | .fence | .critOn | .critOff | .fret | .brk | .exit => some ⟨0xFFFFFFFF, [], ()⟩
  | .waitOc b i c => some ⟨0x7C03FFFF, [.bits 18 6, .flag 31, .bits 24 2], (b, i, c, ())⟩
  | .waitOcSt d b i c => some ⟨0x7C03F03F, [.bits 6 6, .bits 18 6, .flag 31, .bits 24 2], (d, b, i, c, ())⟩
  | .batch d | .ctxSwap d | .ctxKill d => some ⟨0xFFFFF03F, [.bits 6 6], (d, ())⟩
  | .waitBatch a | .gateArm a | .ampSwap a | .tlbInv a | .xinval a | .sleepUntil a => some ⟨0xFFFC0FFF, [.bits 12 6], (a, ())⟩
  | .sleep b i => some ⟨0x7F03FFFF, [.bits 18 6, .flag 31], (b, i, ())⟩
  | .gateInit a b | .gateArrive a b | .gateExpect a b | .gateWait a b | .gateEnlist a b | .mxWload a b | .mxStream a b | .mxRead a b
  | .mxStore a b | .mxScale a b | .mxArm a b | .ampBind a b | .ampGate a b | .ampDiag a b | .ampProb a b | .ampNorm a b | .ampMap a b
  | .rfenceFlag a b => some ⟨0xFF000FFF, [.bits 12 6, .bits 18 6], (a, b, ())⟩
  | .gateTest a b | .gateTestM a b | .gateTwait a b => some ⟨0xFF040FFF, [.bits 12 6, .bits 19 5], (a, b, ())⟩
  | .fyCopy a b v f g => some ⟨0x00000FBF, [.bits 12 6, .bits 18 6, .bits 24 7, .flag 6, .flag 31], (a, b, v, f, g, ())⟩
  | .fyMcast a b v | .fyGather a b v | .fyFill a b v | .ralg a b v | .ralgRet a b v | .dred a b v
    => some ⟨0x80000FFF, [.bits 12 6, .bits 18 6, .bits 24 7], (a, b, v, ())⟩
  | .fyStat b | .mxZero b => some ⟨0xFF03FFFF, [.bits 18 6], (b, ())⟩
  | .rld a v g | .rst a v g => some ⟨0x00FC0FFF, [.bits 12 6, .bits 24 7, .flag 31], (a, v, g, ())⟩
  | .collPut v => some ⟨0x83FFFFFF, [.bits 26 5], (v, ())⟩
  | .collAcc a b => some ⟨0xFF001FFF, [.bits 13 5, .bits 18 6], (a, b, ())⟩
  | .sysrd d r => some ⟨0xC003F03F, [.bits 6 6, .bits 18 12], (d, r, ())⟩
  | .syswr r a => some ⟨0xC0000FFF, [.bits 18 12, .bits 12 6], (r, a, ())⟩
  | .pgmap d a | .wfi d a | .halt d a | .dieCtlRead d a | .dieCtlStop d a | .dieCtlRequeue d a | .dieCtlQuiesce d a
  | .dieCtlWriteback d a | .dieCtlStray d a | .dieCtlReset d a | .dieCtlAdmit d a | .dieCtlFence d a | .dieCtlResume d a
    => some ⟨0xFFFC003F, [.bits 6 6, .bits 12 6], (d, a, ())⟩
  | .xset d a => some ⟨0xFFFC0E3F, [.bits 6 3, .bits 12 6], (d, a, ())⟩
  | .xsetCap d a b => some ⟨0xFF000E3F, [.bits 6 3, .bits 12 6, .bits 18 6], (d, a, b, ())⟩
  | .xadd d a b i => some ⟨0x7F038E3F, [.bits 6 3, .bits 12 3, .bits 18 6, .flag 31], (d, a, b, i, ())⟩
  | .xget d a f => some ⟨0xFF03803F, [.bits 6 6, .bits 12 3, .bits 18 6], (d, a, f, ())⟩
  | .trap n => some ⟨0xFF03FFFF, [.bits 18 6], (n, ())⟩
  | _ => none

/-- The compact forms. -/
def compactLayout : Instr → Option Layout
  | .movCompact d a | .addI32Compact d a | .subI32Compact d a | .mulloI32Compact d a | .andCompact d a | .orCompact d a
  | .xorCompact d a | .shlCompact d a | .shrCompact d a | .addF32Compact d a | .subF32Compact d a | .mulF32Compact d a
  | .maxF32Compact d a | .minF32Compact d a => some ⟨0x001F, [.bits 5 6, .bits 11 5], (d, a, ())⟩
  | .addiCompact d i => some ⟨0x001F, [.bits 5 6, .bits 11 5], (d, i, ())⟩
  | .nop => some ⟨0xFFFF, [], ()⟩
  | _ => none

/-- The layout of an instruction's word by the encoding tables (R19 to R24, R33). -/
def layout (i : Instr) : Option Layout := laneLayout i <|> memoryLayout i <|> engineLayout i <|> compactLayout i

/-- Every instruction with an encoding has a layout. -/
theorem laid_out {i : Instr} (h : i.bytes ≠ 0) :
    (i.bytes = 4 ∧ ((laneLayout i).isSome ∨ (memoryLayout i).isSome ∨ (engineLayout i).isSome)) ∨ (i.bytes = 2 ∧ (compactLayout i).isSome) := by
  cases i <;> first
    | exact .inl ⟨rfl, .inl rfl⟩
    | exact .inl ⟨rfl, .inr (.inl rfl)⟩
    | exact .inl ⟨rfl, .inr (.inr rfl)⟩
    | exact .inr ⟨rfl, rfl⟩
    | exact absurd rfl h

/-! ## From an instruction to its word and back -/

/-- The encoder's word of `i` has `len` bits, the lowest of them `low`, and `dec` reads `i` from it. -/
structure RoundTrip (dec : Nat → Option Instr) (len low : Nat) (i : Instr) : Prop where
  lt : encode i < 2 ^ len
  low : encode i % 2 = low
  back : dec (encode i) = some i

theorem roundTrip_of_row {dec : Nat → Option Instr} {len low mask mat : Nat} {ps : List Place} {vs : Vals ps}
    {i : Instr} (_ : layout i = some ⟨mask, ps, vs⟩) (he : encode i = packed mat ps vs)
    (hf : fills len mask ps = true ∧ mat &&& mask = mat ∧ ones 0 1 &&& mask = ones 0 1 ∧ mat % 2 = low)
    (hp : ∀ w, w &&& mask = mat → readAll w ps = vs → dec w = some i) : RoundTrip dec len low i := by
  obtain ⟨hfill, hmat, hone, hlow⟩ := hf
  obtain ⟨hlt, hfix, hread⟩ := packed_spec hfill hmat vs
  rw [← he] at hlt hfix hread
  refine ⟨hlt, ?_, hp _ hfix hread⟩
  simpa [bitsOf, hlow] using bitsOf_fixed hfix hone

/-- Each lane instruction: its fixed bits select its major and its row. The selector of rnd.f32, pack.nx and unpack.nx holds bits of a field,
that of cvt nothing else. -/
theorem lane_roundTrip {i : Instr} {l : Layout} (hl : laneLayout i = some l) : RoundTrip word 32 1 i := by
  cases i with
  | rndF32 =>
    refine roundTrip_of_row rfl rfl (by decide) fun w h hr => ?_
    cases hr
    obtain ⟨q, hq, hsel⟩ := bitsOf_partly_fixed h 23 2 7 (by decide)
    interval_cases q <;> simp (disch := decide) [word, major0E, fld9, hsel, bitsOf_fixed h, row_taken h, Place.read]
  | packNx | unpackNx =>
    refine roundTrip_of_row rfl rfl (by decide) fun w h hr => ?_
    cases hr
    obtain ⟨q, hq, hsel⟩ := bitsOf_partly_fixed h 23 3 6 (by decide)
    interval_cases q <;> simp (disch := decide) [word, major0E, fld9, hsel, bitsOf_fixed h, row_taken h, Place.read]
  | cvt =>
    refine roundTrip_of_row rfl rfl (by decide) fun w h hr => ?_
    cases hr
    have hsel : 256 ≤ fld9 w := by
      obtain ⟨q, hlt, hq⟩ := bitsOf_partly_fixed h 23 8 1 (by decide)
      norm_num at hq
      rw [fld9]
      omega
    simp (disch := decide) only [word, bitsOf_fixed h, Nat.reducePow, Nat.reduceDiv, Nat.reduceMod, major0E]
    split
    any_goals omega
    exact row_taken h _
  | _ =>
    cases hl <;>
    · refine roundTrip_of_row rfl rfl (by decide) fun w h hr => ?_
      cases hr
      simp (disch := decide) [word, fld9, major00, major01, major02, major03, major04, major05, major06, major07, major08, major09, major0A,
        major0B, major0C, major0D, major0E, major0F, major10, bitsOf_fixed h, row_taken h, row_passed h, Place.read]

/-- Each uniform, control and memory instruction; the selector of alg.op holds a bit of a field. -/
theorem memory_roundTrip {i : Instr} {l : Layout} (hl : memoryLayout i = some l) : RoundTrip word 32 1 i := by
  cases i with
  | algOp | algOpRet =>
    refine roundTrip_of_row rfl rfl (by decide) fun w h hr => ?_
    cases hr
    obtain ⟨q, hq, hsel⟩ := bitsOf_partly_fixed h 29 1 2 (by decide)
    interval_cases q <;> simp (disch := decide) [word, major16, hsel, bitsOf_fixed h, row_taken h, Place.read]
  | _ =>
    cases hl <;>
    · refine roundTrip_of_row rfl rfl (by decide) fun w h hr => ?_
      cases hr
      simp (disch := decide) [word, major11, major12, major13, major14, major15, major16, bitsOf_fixed h, row_taken h, row_passed h, Place.read]

open Machine in
/-- Each other word; the selector of wait.oc holds bits of a field, and the operations of die.ctl share the word of one of them (R304). -/
theorem engine_roundTrip {i : Instr} {l : Layout} (hl : engineLayout i = some l) (hd : ∀ d a, IsDieCtl i d a → i = .dieCtlRead d a) :
    RoundTrip word 32 1 i := by
  cases i with
  | waitOc | waitOcSt =>
    refine roundTrip_of_row rfl rfl (by decide) fun w h hr => ?_
    cases hr
    obtain ⟨q, hq, hsel⟩ := bitsOf_partly_fixed h 24 2 5 (by decide)
    interval_cases q <;> simp (disch := decide) [word, major17, hsel, bitsOf_fixed h, row_taken h, Place.read]
  | dieCtlStop d a | dieCtlRequeue d a | dieCtlQuiesce d a | dieCtlWriteback d a | dieCtlStray d a | dieCtlReset d a | dieCtlAdmit d a
  | dieCtlFence d a | dieCtlResume d a => exact nomatch hd d a (by constructor)
  | _ =>
    cases hl <;>
    · refine roundTrip_of_row rfl rfl (by decide) fun w h hr => ?_
      cases hr
      simp (disch := decide) [word, major17, major18, major19, major1A, major1B, major1C, major1D, major1E, major1F, bitsOf_fixed h,
        row_taken h, row_passed h, Place.read]

theorem compact_roundTrip {i : Instr} {l : Layout} (hl : compactLayout i = some l) : RoundTrip compact 16 0 i := by
  cases i with
  | _ =>
    cases hl <;>
    · refine roundTrip_of_row rfl rfl (by decide) fun w h hr => ?_
      cases hr
      simp (disch := decide) [compact, bitsOf_fixed h, row_taken h, Place.read]

open Machine in
/-- Every instruction with an encoding, but for the operations of die.ctl that share a word. -/
theorem roundTrip {i : Instr} (h : i.bytes ≠ 0) (hd : ∀ d a, IsDieCtl i d a → i = .dieCtlRead d a) :
    (i.bytes = 4 ∧ RoundTrip word 32 1 i) ∨ (i.bytes = 2 ∧ RoundTrip compact 16 0 i) := by
  rcases laid_out h with ⟨hb, hl | hl | hl⟩ | ⟨hb, hl⟩ <;> obtain ⟨l, hl⟩ := Option.isSome_iff_exists.1 hl
  · exact .inl ⟨hb, lane_roundTrip hl⟩
  · exact .inl ⟨hb, memory_roundTrip hl⟩
  · exact .inl ⟨hb, engine_roundTrip hl hd⟩
  · exact .inr ⟨hb, compact_roundTrip hl⟩

/-! ## From a word to its instruction and back -/

/-- Whatever `o` answers for the word `w` of `len` bits is an instruction of that word. -/
def Sound (len w : Nat) (o : Option Instr) : Prop := ∀ i, o = some i → encode i = w ∧ 8 * i.bytes = len

theorem Sound.none (len w : Nat) : Sound len w none := fun _ h => nomatch h

theorem Sound.orElse {len w : Nat} {a b : Option Instr} (ha : Sound len w a) (hb : Sound len w b) : Sound len w (a <|> b) := by
  cases a with
  | none => simpa using hb
  | some i => simpa using ha

theorem Sound.row {len w mask mat : Nat} {i : Instr} {ps : List Place} (hw : w < 2 ^ len)
    (_ : layout i = some ⟨mask, ps, readAll w ps⟩) (he : encode i = packed mat ps (readAll w ps)) (hb : 8 * i.bytes = len)
    (hf : fills len mask ps = true) : Sound len w (row w mask mat i) := by
  intro j hj
  unfold Decode.row at hj
  split at hj
  · next h =>
    cases hj
    refine ⟨?_, hb⟩
    rw [he, ← h]
    exact packed_readAll hw hf
  · cases hj

/-- Every row of the tables gives back the word that it takes. -/
theorem word_sound {w : Nat} (hw : w < 2 ^ 32) : Sound 32 w (word w) := by
  unfold word major00 major01 major02 major03 major04 major05 major06 major07 major08 major09 major0A major0B major0C major0D major0E major0F
    major10 major11 major12 major13 major14 major15 major16 major17 major18 major19 major1A major1B major1C major1D major1E major1F
  repeat' split
  all_goals repeat' apply Sound.orElse
  all_goals first
    | exact Sound.none _ _
    | exact Sound.row hw rfl rfl rfl rfl

theorem compact_sound {w : Nat} (hw : w < 2 ^ 16) : Sound 16 w (compact w) := by
  unfold compact
  split
  all_goals first
    | exact Sound.none _ _
    | exact Sound.row hw rfl rfl rfl rfl

end Decode
end Sys2Proof
end

section
/-! The decoder and the encoder on bytes (R18), and the two statements about them. -/

namespace Sys2Proof

open Machine

theorem leNat_lt (l : List Byte) : leNat l < 256 ^ l.length := by
  induction l with
  | nil => decide
  | cons b l ih =>
    have := b.isLt
    rw [leNat, List.length_cons, Nat.pow_succ]
    omega

theorem leBytes_leNat (l : List Byte) : leBytes l.length (leNat l) = l := by
  induction l with
  | nil => rfl
  | cons b l ih =>
    have hb := b.isLt
    have hd : leNat (b :: l) / 256 = leNat l := by rw [leNat]; omega
    have hm : BitVec.ofNat 8 (leNat (b :: l)) = b := by
      apply BitVec.eq_of_toNat_eq
      rw [BitVec.toNat_ofNat, leNat]
      omega
    rw [List.length_cons, leBytes, hd, hm, ih]

/-- The first byte holds bit 0 of a number. -/
theorem bitAt_firstByte (w : Nat) : bitAt (BitVec.ofNat 8 w).toNat 0 = (w % 2 == 1) := by
  rw [bitAt, BitVec.toNat_ofNat, Nat.pow_zero, Nat.div_one, Nat.mod_mod_of_dvd w (by decide)]

theorem decode_word {w : Nat} (hw : w < 2 ^ 32) (h1 : w % 2 = 1) (r : List Byte) :
    decode (leBytes 4 w ++ r) = (decodeWord w).map (·, r) := by
  have hb : bitAt (BitVec.ofNat 8 w).toNat 0 = true := by rw [bitAt_firstByte, h1]; rfl
  have hn : leNat (leBytes 4 w) = w := by rw [leNat_leBytes]; exact Nat.mod_eq_of_lt hw
  calc decode (leBytes 4 w ++ r) = (decodeWord (leNat (leBytes 4 w))).map (·, r) := if_pos hb
    _ = (decodeWord w).map (·, r) := by rw [hn]

theorem decode_half {w : Nat} (hw : w < 2 ^ 16) (h0 : w % 2 = 0) (r : List Byte) :
    decode (leBytes 2 w ++ r) = (decodeHalf w).map (·, r) := by
  have hb : bitAt (BitVec.ofNat 8 w).toNat 0 = false := by rw [bitAt_firstByte, h0]; rfl
  have hn : leNat (leBytes 2 w) = w := by rw [leNat_leBytes]; exact Nat.mod_eq_of_lt hw
  calc decode (leBytes 2 w ++ r) = (decodeHalf (leNat (leBytes 2 w))).map (·, r) := if_neg (ne_true_of_eq_false hb)
    _ = (decodeHalf w).map (·, r) := by rw [hn]

/-- What a run of bytes that decodes begins with. -/
theorem decode_cases {l : List Byte} {i : Instr} {r : List Byte} (h : decode l = some (i, r)) :
    ∃ bs, l = bs ++ r ∧ ((bs.length = 4 ∧ decodeWord (leNat bs) = some i) ∨ (bs.length = 2 ∧ decodeHalf (leNat bs) = some i)) := by
  unfold decode at h
  split at h
  · next b0 b1 rest =>
    split at h
    · split at h
      · next b2 b3 rest' =>
        obtain ⟨j, hj, he⟩ := Option.map_eq_some_iff.1 h
        cases he
        exact ⟨[b0, b1, b2, b3], rfl, .inl ⟨rfl, hj⟩⟩
      · cases h
    · obtain ⟨j, hj, he⟩ := Option.map_eq_some_iff.1 h
      cases he
      exact ⟨[b0, b1], rfl, .inr ⟨rfl, hj⟩⟩
  · cases h

/-- The bytes of a well-formed instruction decode to it. -/
theorem decode_encodeBytes {i : Instr} (hb : i.bytes ≠ 0) (hw : i.wellFormed = true) (hd : ∀ d a, IsDieCtl i d a → i = .dieCtlRead d a)
    (r : List Byte) : decode (encodeBytes i ++ r) = some (i, r) := by
  rcases Decode.roundTrip hb hd with ⟨h4, hlt, hlow, hback⟩ | ⟨h2, hlt, hlow, hback⟩
  · rw [encodeBytes, h4, decode_word hlt hlow, decodeWord, hback, Option.filter_some, if_pos hw]
    rfl
  · rw [encodeBytes, h2, decode_half hlt hlow, decodeHalf, hback, Option.filter_some, if_pos hw]
    rfl

/-- The operations of die.ctl have the bytes of one of them. -/
theorem encodeBytes_of_dieCtl {i : Instr} {d a : BitVec 6} (h : IsDieCtl i d a) : encodeBytes i = encodeBytes (.dieCtlRead d a) := by
  cases h <;> rfl

/-- A well-formed instruction whose word is the number of some bytes has those bytes. -/
theorem encodeBytes_of_leNat {i : Instr} {bs : List Byte} (he : encode i = leNat bs) (hb : i.bytes = bs.length) : encodeBytes i = bs := by
  rw [encodeBytes, he, hb, leBytes_leNat]

/-- Settles O59: an instruction and its word determine each other by its layout: the fixed bits and the fields, each bit once. -/
theorem decodeEncode : Obligations.DecodeEncode := by
  unfold Obligations.DecodeEncode
  refine ⟨fun i r hb hw hd => ?_, fun i d a r hi => ?_, fun l i r h => ?_⟩
  · exact decode_encodeBytes hb hw (fun d a hi => absurd hi (hd d a)) r
  · rw [encodeBytes_of_dieCtl hi]
    refine decode_encodeBytes (i := .dieCtlRead d a) (by simp [Instr.bytes]) rfl (fun d' a' hi' => ?_) r
    cases hi'
    rfl
  · obtain ⟨bs, rfl, ⟨hl, h⟩ | ⟨hl, h⟩⟩ := decode_cases h
    · have hlt : leNat bs < 2 ^ 32 := (leNat_lt bs).trans_eq (by rw [hl]; rfl)
      obtain ⟨hi, hw⟩ := Option.filter_eq_some_iff.1 h
      obtain ⟨he, hb⟩ := Decode.word_sound hlt i hi
      exact ⟨hw, by omega, by rw [encodeBytes_of_leNat he (by omega)]⟩
    · have hlt : leNat bs < 2 ^ 16 := (leNat_lt bs).trans_eq (by rw [hl]; rfl)
      obtain ⟨hi, hw⟩ := Option.filter_eq_some_iff.1 h
      obtain ⟨he, hb⟩ := Decode.compact_sound hlt i hi
      exact ⟨hw, by omega, by rw [encodeBytes_of_leNat he (by omega)]⟩

theorem knownWords_encoded : ∀ e ∈ knownWords, encode e.2 = e.1 ∧ e.2.bytes = 4 ∧ e.2.wellFormed = true := by decide

theorem knownWords_apart {e : Nat × Instr} (he : e ∈ knownWords) (d a : BitVec 6) : ¬ IsDieCtl e.2 d a := by
  revert d a
  fin_cases he <;> exact fun d a h => nomatch h

/-- Settles O58: each is the word of its instruction, which the decoder reads back. -/
theorem decodeWords : Obligations.DecodeWords := by
  unfold Obligations.DecodeWords
  intro e he
  obtain ⟨henc, hb, hw⟩ := knownWords_encoded e he
  have hd : ∀ d a, IsDieCtl e.2 d a → e.2 = .dieCtlRead d a := fun d a h => absurd h (knownWords_apart he d a)
  have hb0 : e.2.bytes ≠ 0 := by omega
  refine ⟨?_, fun r => ?_⟩
  · rcases Decode.roundTrip hb0 hd with ⟨_, h⟩ | ⟨h2, _⟩
    · rw [decodeWord, ← henc, h.back, Option.filter_some, if_pos hw]
    · omega
  · have h := decode_encodeBytes hb0 hw hd r
    rwa [encodeBytes, hb, henc] at h

end Sys2Proof
end

section
/-! What the lane instructions do, case by case, follows from one fact about `laneOp`: an instruction that is a `laneOp` has the
effect of R57 where its registers fit. The compact forms (R33) and the prefixed forms (R30 to R32) are read off their definitions. -/

namespace Sys2Proof.Machine

/-! ## Operations and their definitions -/

theorem mul_eq_ofNat (a b : Word) : a * b = BitVec.ofNat 32 (a.toNat * b.toNat) := by
  apply BitVec.eq_of_toNat_eq; simp

theorem compactCode_eq (a : BitVec 5) : compactCode a = compactReg a := by
  unfold compactCode compactReg
  split <;> split <;> omega

/-! ## Lane instructions that are a `laneOp` -/

/-- The effect of R57 uses the results of the elements of the run alone. -/
theorem LaneEffect.congr {s : State} {L M : LaneSpec} {x y : Group} (h : LaneEffect s L x y) (hc : 0 < L.cnt)
    (hM : M = { L with result := M.result }) (hr : ∀ i l, i < L.cnt → M.result x s.fresh i l = L.result x s.fresh i l) :
    LaneEffect s M x y := by
  rw [hM]
  have h0 : ∀ l, M.result x s.fresh 0 l = L.result x s.fresh 0 l := fun l => hr 0 l hc
  constructor
  case low => exact fun hn i l hi hl ha => by rw [h.low hn i l hi hl ha, hr i l hi]
  case high => exact fun hn h2 i l hi hl ha => by rw [h.high hn h2 i l hi hl ha, hr i l hi]
  case kept => exact h.kept
  case flags =>
    intro l b hl
    have : (∃ i < L.cnt, (M.result x s.fresh i l).2.getLsbD b = true) ↔ ∃ i < L.cnt, (L.result x s.fresh i l).2.getLsbD b = true :=
      exists_congr fun i => and_congr_right fun hi => by rw [hr i l hi]
    rw [h.flags l b hl, this]
  case chain => simp only [h0]; exact h.chain
  case rest => exact h.rest

/-- An instruction that is a `laneOp` has the effect of its description. -/
theorem laneRuns_of_laneOp {i : Instr} (L : LaneSpec) (hu : L.unit = 1 ∨ L.unit = 2)
    (hi : ∀ s, exec i s = laneOp s L.len L.d L.unit L.cnt L.n L.srcs L.result) : LaneRuns i L := by
  intro s g x h hf
  obtain ⟨t, y, ht, ho, he⟩ := laneOp_runs h L hu hf
  exact ⟨y, ⟨t, (hi s).trans ht, ho⟩, he⟩

/-! ## Compact forms (R33) -/

/-- A compact form of two sources runs on one element. -/
theorem compact_runs {i : Instr} {d : BitVec 6} {a : BitVec 5} {op : Word → Word → Res}
    (hi : ∀ s, exec i s = alu2 s 2 d.toNat d.toNat (compactCode a) 0 false op) : LaneRuns i (compactSpec d a op) := by
  rw [compactCode_eq] at hi
  intro s g x h hf
  let L : LaneSpec := { compactSpec d a op with
    result := fun x fr i l => op (src x fr d.toNat i l) (src x fr (compactReg a) i l) }
  obtain ⟨y, hy, he⟩ := laneRuns_of_laneOp L (.inl rfl) hi s g x h hf
  refine ⟨y, hy, he.congr Nat.one_pos rfl fun j l hj => ?_⟩
  obtain rfl : j = 0 := Nat.lt_one_iff.mp hj
  rfl

/-- Settles O7: every compact form is its operation on one element, with length 2. -/
theorem compactForms : Obligations.CompactForms := by
  have hmul : opMulloI32 = fun a b => word (BitVec.ofNat 32 (a.toNat * b.toNat)) := by
    funext a b
    rw [← mul_eq_ofNat]; rfl
  refine ⟨?_, fun d a => ?_, fun d i => ?_⟩
  · simp only [compactOps, List.forall_mem_cons, ← hmul]
    exact ⟨fun _ _ => compact_runs fun _ => rfl, fun _ _ => compact_runs fun _ => rfl, fun _ _ => compact_runs fun _ => rfl,
      fun _ _ => compact_runs fun _ => rfl, fun _ _ => compact_runs fun _ => rfl, fun _ _ => compact_runs fun _ => rfl,
      fun _ _ => compact_runs fun _ => rfl, fun _ _ => compact_runs fun _ => rfl, fun _ _ => compact_runs fun _ => rfl,
      fun _ _ => compact_runs fun _ => rfl, fun _ _ => compact_runs fun _ => rfl, fun _ _ => compact_runs fun _ => rfl,
      fun _ _ => compact_runs fun _ => rfl, fun _ h => absurd h List.not_mem_nil⟩
  · rw [← compactCode_eq]
    exact laneRuns_of_laneOp _ (.inl rfl) fun _ => rfl
  · exact laneRuns_of_laneOp _ (.inl rfl) fun _ => rfl

end Sys2Proof.Machine
end

section
/-! The forms that can be prefixed (R30 to R32): each immediate form and each multiply-add has one meaning, which takes its length and
its immediate or addend from the prefixing word where there is one. -/

namespace Sys2Proof.Machine

/-! ## Operations and their definitions -/

theorem plain_mul : (fun x y : Word => plain (x * y)) = fun x y => word (BitVec.ofNat 32 (x.toNat * y.toNat)) := by
  funext x y
  rw [mul_eq_ofNat]; rfl

theorem plain_min : opMinI32 = fun x y => word (BitVec.ofInt 32 (min x.toInt y.toInt)) := by
  funext x y
  rcases lt_or_ge x.toInt y.toInt with h | h
  · simp [opMinI32, BitVec.slt_eq_decide, h, min_eq_left h.le, plain, word]
  · simp [opMinI32, BitVec.slt_eq_decide, not_lt.mpr h, min_eq_right h, plain, word]

theorem plain_max : opMaxI32 = fun x y => word (BitVec.ofInt 32 (max x.toInt y.toInt)) := by
  funext x y
  rcases lt_or_ge x.toInt y.toInt with h | h
  · simp [opMaxI32, BitVec.slt_eq_decide, h, max_eq_right h.le, plain, word]
  · simp [opMaxI32, BitVec.slt_eq_decide, not_lt.mpr h, max_eq_left h, plain, word]

theorem plain_sar : (fun x y : Word => plain (sarW x y)) = fun x y =>
    word (if 32 ≤ y.toNat then (if x.toInt < 0 then 0xFFFFFFFF else 0) else BitVec.ofInt 32 (x.toInt / 2 ^ y.toNat)) := by
  funext x y
  have h : x.sshiftRight y.toNat = BitVec.ofInt 32 (x.toInt / 2 ^ y.toNat) := by
    rw [BitVec.sshiftRight, Int.shiftRight_eq_div_pow]; norm_cast
  simp only [sarW, h, BitVec.msb_eq_toInt, decide_eq_true_eq]; rfl

theorem plain_mad : (fun x y z : Word => plain (z + x * y)) = fun x y z =>
    (BitVec.setWidth 64 (BitVec.ofNat 32 (x.toNat * y.toNat + z.toNat)), 0) := by
  funext x y z
  rw [BitVec.ofNat_add, ← mul_eq_ofNat, BitVec.ofNat_toNat, BitVec.setWidth_eq, BitVec.add_comm]; rfl

/-! ## Immediate forms -/

/-- An immediate form and its meaning `run`, alone and under imx (R31). -/
structure IsImmForm (i : Instr) (m : BitVec 8) (run : Nat → Word → State → Outcome) : Prop where
  alone : exec i = run 4 (m.signExtend 32)
  prefixed : ∀ q, immForm q i = some (run 8 (q ++ m))

/-- The immediate forms of a source. -/
theorem immOps_form : ∀ p ∈ immOps, ∀ d a m n, ∃ run, IsImmForm (p.1 d a m n) m run ∧
    ∀ len imm s, run len imm s = immOp s len d.toNat a.toNat imm n p.2 := by
  simp only [immOps, List.forall_mem_cons, ← plain_mul, ← plain_min, ← plain_max, ← plain_sar]
  exact ⟨
    fun d a m n => ⟨fun len imm => addiForm len imm d a n, ⟨rfl, fun _ => rfl⟩, fun _ _ _ => rfl⟩,
    fun d a m n => ⟨fun len imm => rsbiForm len imm d a n, ⟨rfl, fun _ => rfl⟩, fun _ _ _ => rfl⟩,
    fun d a m n => ⟨fun len imm => muliForm len imm d a n, ⟨rfl, fun _ => rfl⟩, fun _ _ _ => rfl⟩,
    fun d a m n => ⟨fun len imm => andiForm len imm d a n, ⟨rfl, fun _ => rfl⟩, fun _ _ _ => rfl⟩,
    fun d a m n => ⟨fun len imm => oriForm len imm d a n, ⟨rfl, fun _ => rfl⟩, fun _ _ _ => rfl⟩,
    fun d a m n => ⟨fun len imm => xoriForm len imm d a n, ⟨rfl, fun _ => rfl⟩, fun _ _ _ => rfl⟩,
    fun d a m n => ⟨fun len imm => shliForm len imm d a n, ⟨rfl, fun _ => rfl⟩, fun _ _ _ => rfl⟩,
    fun d a m n => ⟨fun len imm => shriForm len imm d a n, ⟨rfl, fun _ => rfl⟩, fun _ _ _ => rfl⟩,
    fun d a m n => ⟨fun len imm => sariForm len imm d a n, ⟨rfl, fun _ => rfl⟩, fun _ _ _ => rfl⟩,
    fun d a m n => ⟨fun len imm => miniForm len imm d a n, ⟨rfl, fun _ => rfl⟩, fun _ _ _ => rfl⟩,
    fun d a m n => ⟨fun len imm => maxiForm len imm d a n, ⟨rfl, fun _ => rfl⟩, fun _ _ _ => rfl⟩,
    fun d a m n => ⟨fun len imm => addiF32Form len imm d a n, ⟨rfl, fun _ => rfl⟩, fun _ _ _ => rfl⟩,
    fun d a m n => ⟨fun len imm => muliF32Form len imm d a n, ⟨rfl, fun _ => rfl⟩, fun _ _ _ => rfl⟩,
    fun _ h => absurd h List.not_mem_nil⟩

/-- The immediate forms without a source. -/
theorem setOps_form : ∀ c ∈ setOps, ∀ d m n, ∃ run, IsImmForm (c d m n) m run ∧
    ∀ len imm s, run len imm s = immOp s len d.toNat 124 imm n fun _ v => word v := by
  simp only [setOps, List.forall_mem_cons]
  exact ⟨
    fun d m n => ⟨fun len imm => setForm len imm d n, ⟨rfl, fun _ => rfl⟩, fun _ _ _ => rfl⟩,
    fun d m n => ⟨fun len imm => setiF32Form len imm d n, ⟨rfl, fun _ => rfl⟩, fun _ _ _ => rfl⟩,
    fun _ h => absurd h List.not_mem_nil⟩

/-- imx admits no other instruction. -/
theorem immForm_none {i : Instr} (hi : ∀ p ∈ immOps, ∀ d a m n, i ≠ p.1 d a m n) (hs : ∀ c ∈ setOps, ∀ d m n, i ≠ c d m n)
    (q : BitVec 24) : immForm q i = none := by
  simp only [immOps, List.forall_mem_cons] at hi
  simp only [setOps, List.forall_mem_cons] at hs
  obtain ⟨addi, rsbi, muli, andi, ori, xori, shli, shri, sari, mini, maxi, addiF32, muliF32, -⟩ := hi
  obtain ⟨set, setiF32, -⟩ := hs
  unfold immForm
  split
  · exact absurd rfl (set _ _ _)
  · exact absurd rfl (addi _ _ _ _)
  · exact absurd rfl (muli _ _ _ _)
  · exact absurd rfl (andi _ _ _ _)
  · exact absurd rfl (ori _ _ _ _)
  · exact absurd rfl (xori _ _ _ _)
  · exact absurd rfl (shli _ _ _ _)
  · exact absurd rfl (shri _ _ _ _)
  · exact absurd rfl (sari _ _ _ _)
  · exact absurd rfl (rsbi _ _ _ _)
  · exact absurd rfl (mini _ _ _ _)
  · exact absurd rfl (maxi _ _ _ _)
  · exact absurd rfl (setiF32 _ _ _)
  · exact absurd rfl (addiF32 _ _ _ _)
  · exact absurd rfl (muliF32 _ _ _ _)
  · rfl

/-! ## Multiply-adds -/

/-- A multiply-add and its meaning `run`, alone and prefixed with an addend whose code is legal (R32). -/
structure IsAddendForm (i : Instr) (legal : BitVec 7 → Bool) (run : Nat → Option Nat → State → Outcome) : Prop where
  alone : exec i = run 4 none
  prefixed : ∀ c, legal c = true → addendForm c i = some (run 8 (some c.toNat))

/-- The multiply-adds on 32-bit sources. -/
theorem maddOps_form : ∀ p ∈ maddOps, ∀ d a b w n, ∃ run, IsAddendForm (p.1 d a b w n) (Legal.src w) run ∧
    ∀ len c s, run len c s = alu3 s len d.toNat a.toNat b.toNat c w.toNat n p.2 := by
  simp only [maddOps, List.forall_mem_cons, ← plain_mad]
  exact ⟨
    fun d a b w n => ⟨fun len c => madI32Form len c d a b w n, ⟨rfl, fun _ h => if_pos h⟩, fun _ _ _ => rfl⟩,
    fun d a b w n => ⟨fun len c => fmaF32Form len c d a b w n, ⟨rfl, fun _ h => if_pos h⟩, fun _ _ _ => rfl⟩,
    fun d a b w n => ⟨fun len c => fmaF16x2Form len c d a b w n, ⟨rfl, fun _ h => if_pos h⟩, fun _ _ _ => rfl⟩,
    fun d a b w n => ⟨fun len c => fmaBf16x2Form len c d a b w n, ⟨rfl, fun _ h => if_pos h⟩, fun _ _ _ => rfl⟩,
    fun _ h => absurd h List.not_mem_nil⟩

/-- The multiply-add on 64-bit sources. -/
theorem fmaF64_form (d a b : BitVec 7) (w : BitVec 2) (n : Bool) :
    IsAddendForm (.fmaF64 d a b w n) (Legal.src64 w) fun len c => fmaF64Form len c d a b w n := ⟨rfl, fun _ h => if_pos h⟩

/-- No other instruction can be prefixed with an addend. -/
theorem addendForm_none {i : Instr} (hi : ∀ p ∈ maddOps, ∀ d a b w n, i ≠ p.1 d a b w n) (h64 : ∀ d a b w n, i ≠ .fmaF64 d a b w n)
    (c : BitVec 7) : addendForm c i = none := by
  simp only [maddOps, List.forall_mem_cons] at hi
  obtain ⟨madI32, fmaF32, fmaF16x2, fmaBf16x2, -⟩ := hi
  unfold addendForm
  split
  · exact absurd rfl (madI32 _ _ _ _ _)
  · exact absurd rfl (fmaF32 _ _ _ _ _)
  · exact absurd rfl (h64 _ _ _ _ _)
  · exact absurd rfl (fmaF16x2 _ _ _ _ _)
  · exact absurd rfl (fmaBf16x2 _ _ _ _ _)
  · rfl

/-! ## The pair (R30) -/

section
variable {s s1 : State} {g : Nat} {x0 : Group} {i : Instr} {legal : Instr → Option (State → Outcome)}

/-- A prefixing word and a successor that it admits run as one instruction. -/
theorem withSuccessor_some (h : Issues s g x0) (hf : fetchAt s g (x0.pc + 4).toNat = (s1, .instr i)) {run : State → Outcome}
    (hl : legal i = some run) : withSuccessor s legal = run s1 := by
  simp only [withSuccessor, h.1, h.2, h.getGroup, Option.isNone_some, Bool.false_eq_true, if_false, hf, hl]

/-- A successor that is not admitted is trap 0 at the prefixing word. -/
theorem withSuccessor_none (h : Issues s g x0) (hf : fetchAt s g (x0.pc + 4).toNat = (s1, .instr i)) (hl : legal i = none) :
    withSuccessor s legal = .next (raise s1 g 0) := by
  simp only [withSuccessor, h.1, h.2, h.getGroup, Option.isNone_some, Bool.false_eq_true, if_false, hf, hl]

end

/-- Settles O14: a prefixed form is its `laneOp` of 8 bytes in the state that the fetch of the successor leaves; a successor that has no
prefixed form raises trap 0 there. -/
theorem prefixes : Obligations.Prefixes := by
  intro s s1 g x0 x i h0 hf h
  have runs : ∀ L : LaneSpec, L.unit = 1 ∨ L.unit = 2 → L.Fits s1 g x → ∀ p : Instr,
      exec p s = laneOp s1 L.len L.d L.unit L.cnt L.n L.srcs L.result →
      ∃ t y, exec p s = .next t ∧ OnlyGroup s1 t g y ∧ LaneEffect s1 L x y := fun L hu hL p hp => by
    rw [hp]; exact laneOp_runs h L hu hL
  have traps : vectorOf s1 g ≠ 0 → ∀ p : Instr, exec p s = .next (raise s1 g 0) →
      ∃ t y, exec p s = .next t ∧ OnlyGroup s1 t g y ∧ Entered s1 g x y 0 0 x.pc x.pc 0 0 x.em := fun hv p hp => by
    obtain ⟨y, ho, he⟩ := raise_enters h.2 hv 0 0 0 0
    exact ⟨_, y, hp, ho, he⟩
  refine ⟨fun q p hp d a m n hi hL => ?_, fun q c hc d m n hi hL => ?_, fun c p hp d a b w n hi hc hL => ?_,
    fun c d a b w n hi hc hL => ?_, fun hv hi hs q => ?_, fun hv hi h64 c => ?_⟩
  · subst hi
    obtain ⟨run, hr, he⟩ := immOps_form p hp d a m n
    exact runs _ (.inl rfl) hL _ ((withSuccessor_some h0 hf (hr.prefixed q)).trans (he ..))
  · subst hi
    obtain ⟨run, hr, he⟩ := setOps_form c hc d m n
    exact runs _ (.inl rfl) hL _ ((withSuccessor_some h0 hf (hr.prefixed q)).trans (he ..))
  · subst hi
    obtain ⟨run, hr, he⟩ := maddOps_form p hp d a b w n
    exact runs _ (.inl rfl) hL _ ((withSuccessor_some h0 hf (hr.prefixed c hc)).trans (he ..))
  · subst hi
    exact runs _ (.inr rfl) hL _ (withSuccessor_some h0 hf ((fmaF64_form d a b w n).prefixed c hc))
  · exact traps hv _ (withSuccessor_none h0 hf (immForm_none hi hs q))
  · exact traps hv _ (withSuccessor_none h0 hf (addendForm_none hi h64 c))

end Sys2Proof.Machine
end

section
/-! Every form that names lane registers checks them before its effect (R22, R29): each is a `laneInstr`, which raises trap 0 or
trap 1 before it runs its body. -/

namespace Sys2Proof.Machine

/-! ## The checks of `laneInstr` -/

/-- A register beyond the declared count is trap 0 (R22). -/
theorem laneInstr_undeclared {s : State} {g : Nat} {x : Group} (h : Issues s g x) (fm : LaneForm)
    (hr : ¬ ∀ r ∈ fm.dst :: fm.srcs, declared (blockOf s g).regs r = true) (f : Nat → Nat → State → Bool → State) :
    laneInstr s fm f = .next (raise s g 0) := by
  unfold laneInstr
  rw [withGroup_issues h]
  have h1 : (declared (blockOf s g).regs fm.dst && fm.srcs.all (declared (blockOf s g).regs)) = false := by
    rw [← Bool.not_eq_true, Bool.and_eq_true, List.all_eq_true]
    simpa only [List.forall_mem_cons] using hr
  simp [h1]

/-- The 33rd reader of a chain is trap 1 (R29). -/
theorem laneInstr_chainFull {s : State} {g : Nat} {x : Group} (h : Issues s g x) (fm : LaneForm)
    (hr : ∀ r ∈ fm.dst :: fm.srcs, declared (blockOf s g).regs r = true) (hl : ∃ r ∈ fm.srcs, isLatchCode r.1 = true)
    (hx : x.latch.readers = 32) (f : Nat → Nat → State → Bool → State) :
    laneInstr s fm f = .next (raise s g 1) := by
  unfold laneInstr
  rw [withGroup_issues h]
  have h1 : (declared (blockOf s g).regs fm.dst && fm.srcs.all (declared (blockOf s g).regs)) = true := by
    rw [Bool.and_eq_true, List.all_eq_true]
    simpa only [List.forall_mem_cons] using hr
  have h2 : (fm.srcs.any fun c => isLatchCode c.1) = true := List.any_eq_true.mpr hl
  simp [h1, h2, h.getGroup, hx]

/-! ## The operand forms -/

/-- An instruction that is a `laneInstr` with this destination run and these operands; code 124, which names no register, may stand
in the place of an operand that the form does not have. -/
def IsLaneInstr (i : Instr) (d : Nat × Nat) (rs : List (Nat × Nat)) : Prop :=
  ∃ len e f, e ⊆ [(124, 1)] ∧ ∀ s, exec i s = laneInstr s { len := len, dst := d, srcs := rs ++ e } f

section
variable {i : Instr} {len d a b w : Nat} {n : Bool}

theorem IsLaneInstr.of_laneInstr {r : Nat × Nat} {rs : List (Nat × Nat)} {f : Nat → Nat → State → Bool → State}
    (h : ∀ s, exec i s = laneInstr s { len := len, dst := r, srcs := rs } f) : IsLaneInstr i r rs :=
  ⟨len, [], f, List.nil_subset _, fun s => by rw [List.append_nil]; exact h s⟩

theorem IsLaneInstr.of_laneOp {unit cnt : Nat} {rs : List (Nat × Nat)} {f : Group → Nat → Nat → Nat → Res}
    (h : ∀ s, exec i s = laneOp s len d unit cnt n rs f) : IsLaneInstr i (d, unit * cnt) rs := .of_laneInstr h

/-- The same for a run of single registers. -/
theorem IsLaneInstr.of_laneOp_one {cnt : Nat} {rs : List (Nat × Nat)} {f : Group → Nat → Nat → Nat → Res}
    (h : ∀ s, exec i s = laneOp s len d 1 cnt n rs f) : IsLaneInstr i (d, cnt) rs := by
  simpa using IsLaneInstr.of_laneOp h

/-- A form without a lane operand. -/
theorem IsLaneInstr.of_laneOp_unread {f : Group → Nat → Nat → Nat → Res}
    (h : ∀ s, exec i s = laneOp s len d 1 1 n [(124, 1)] f) : IsLaneInstr i (d, 1) [] :=
  ⟨len, [(124, 1)], _, List.Subset.refl _, h⟩

theorem IsLaneInstr.of_alu2 {op : Word → Word → Res} (h : ∀ s, exec i s = alu2 s len d a b w n op) :
    IsLaneInstr i (d, 2 ^ w) [(a, 2 ^ w), (b, 2 ^ w)] := .of_laneOp_one h

theorem IsLaneInstr.of_alu3 {op : Word → Word → Word → Res} (h : ∀ s, exec i s = alu3 s len d a b none w n op) :
    IsLaneInstr i (d, 2 ^ w) [(a, 2 ^ w), (b, 2 ^ w), (d, 2 ^ w)] := .of_laneOp_one h

theorem IsLaneInstr.of_alu64 {op : DWord → DWord → Res} (h : ∀ s, exec i s = alu64 s len d a b w n op) :
    IsLaneInstr i (d, 2 * 2 ^ w) [(a, 2 * 2 ^ w), (b, 2 * 2 ^ w)] := .of_laneOp h

theorem IsLaneInstr.of_shift64 {op : DWord → Nat → DWord} (h : ∀ s, exec i s = shift64 s len d a b w n op) :
    IsLaneInstr i (d, 2 * 2 ^ w) [(a, 2 * 2 ^ w), (b, 2 ^ w)] := .of_laneOp h

theorem IsLaneInstr.of_alu64x3 {op : DWord → DWord → DWord → Res} (h : ∀ s, exec i s = alu64x3 s len d a b none w n op) :
    IsLaneInstr i (d, 2 * 2 ^ w) [(a, 2 * 2 ^ w), (b, 2 * 2 ^ w), (d, 2 * 2 ^ w)] := .of_laneOp h

theorem IsLaneInstr.of_immOp {imm : Word} {op : Word → Word → Res} (h : ∀ s, exec i s = immOp s len d a imm n op) :
    IsLaneInstr i (d, 1) [(a, 1)] := .of_laneOp_one h

/-- A form without a source. -/
theorem IsLaneInstr.of_immOp_unread {imm : Word} {op : Word → Word → Res} (h : ∀ s, exec i s = immOp s len d 124 imm n op) :
    IsLaneInstr i (d, 1) [] := .of_laneOp_unread h

theorem IsLaneInstr.of_unary {op : Word → Res} (h : ∀ s, exec i s = unary s len d a w n op) :
    IsLaneInstr i (d, 2 ^ w) [(a, 2 ^ w)] := .of_laneOp_one h

theorem IsLaneInstr.of_unary64 {op : DWord → Res} (h : ∀ s, exec i s = unary64 s len d a w n op) :
    IsLaneInstr i (d, 2 * 2 ^ w) [(a, 2 * 2 ^ w)] := .of_laneOp h

theorem IsLaneInstr.of_division {op : Word → Word → Word} (h : ∀ s, exec i s = division s d a b w n op) :
    IsLaneInstr i (d, 2 ^ w) [(a, 2 ^ w), (b, 2 ^ w)] := .of_laneInstr h

end

theorem IsLaneInstr.of_reduce {i : Instr} {d : BitVec 6} {a : BitVec 7} {e : Word} {op : Word → Word → Res}
    (h : ∀ s, exec i s = reduce s d a e op) : IsLaneInstr i (124, 1) [(a.toNat, 1)] := .of_laneInstr h

theorem IsLaneInstr.of_shuffle {i : Instr} {d a b : BitVec 7} {f : Nat → Nat → Option Nat}
    (h : ∀ s, exec i s = shuffle s d a b f) : IsLaneInstr i (d.toNat, 1) [(a.toNat, 1), (b.toNat, 1)] := .of_laneOp_one h

/-! ## The forms that name lane registers

The constructors of a table share one operand form: they are taken one by one, and the meaning of each is that form by definition. -/

theorem two_isLaneInstr (p : AluCtor) (hp : p ∈ intOps.map Prod.fst ++ floatOps.map Prod.fst) (d a b : BitVec 7) (w : BitVec 2)
    (n : Bool) : IsLaneInstr (p d a b w n) (d.toNat, 2 ^ w.toNat) [(a.toNat, 2 ^ w.toNat), (b.toNat, 2 ^ w.toNat)] := by
  simp only [intOps, floatOps, List.map_cons, List.map_nil, List.cons_append, List.nil_append, List.mem_cons,
    List.not_mem_nil, or_false] at hp
  rcases hp with rfl | rfl | rfl | rfl | rfl | rfl | rfl | rfl | rfl | rfl | rfl | rfl | rfl | rfl | rfl | rfl | rfl |
      rfl | rfl | rfl | rfl | rfl | rfl | rfl | rfl | rfl | rfl | rfl | rfl | rfl
  all_goals
    apply IsLaneInstr.of_alu2
    intro s
    dsimp only [exec]
    rfl

theorem two64_isLaneInstr (p : AluCtor) (hp : p ∈ int64Ops.map Prod.fst ++ float64Ops.map Prod.fst) (d a b : BitVec 7) (w : BitVec 2)
    (n : Bool) : IsLaneInstr (p d a b w n) (d.toNat, 2 * 2 ^ w.toNat) [(a.toNat, 2 * 2 ^ w.toNat), (b.toNat, 2 * 2 ^ w.toNat)] := by
  simp only [int64Ops, float64Ops, List.map_cons, List.map_nil, List.cons_append, List.nil_append, List.mem_cons,
    List.not_mem_nil, or_false] at hp
  rcases hp with rfl | rfl | rfl | rfl | rfl | rfl
  all_goals
    apply IsLaneInstr.of_alu64
    intro s
    dsimp only [exec]
    rfl

theorem shift64_isLaneInstr (p : AluCtor) (hp : p ∈ shift64Ops.map Prod.fst) (d a b : BitVec 7) (w : BitVec 2)
    (n : Bool) : IsLaneInstr (p d a b w n) (d.toNat, 2 * 2 ^ w.toNat) [(a.toNat, 2 * 2 ^ w.toNat), (b.toNat, 2 ^ w.toNat)] := by
  simp only [shift64Ops, List.map_cons, List.map_nil, List.mem_cons, List.not_mem_nil, or_false] at hp
  rcases hp with rfl | rfl | rfl
  all_goals
    apply IsLaneInstr.of_shift64
    intro s
    dsimp only [exec]
    rfl

theorem division_isLaneInstr (p : AluCtor) (hp : p ∈ divOps.map Prod.fst) (d a b : BitVec 7) (w : BitVec 2)
    (n : Bool) : IsLaneInstr (p d a b w n) (d.toNat, 2 ^ w.toNat) [(a.toNat, 2 ^ w.toNat), (b.toNat, 2 ^ w.toNat)] := by
  simp only [divOps, List.map_cons, List.map_nil, List.mem_cons, List.not_mem_nil, or_false] at hp
  rcases hp with rfl | rfl | rfl | rfl
  all_goals
    apply IsLaneInstr.of_division
    intro s
    dsimp only [exec]
    rfl

theorem unary_isLaneInstr (p : UnCtor) (hp : p ∈ unaryIntOps.map Prod.fst ++ unaryFloatOps.map Prod.fst) (d a : BitVec 7) (w : BitVec 2)
    (n : Bool) : IsLaneInstr (p d a w n) (d.toNat, 2 ^ w.toNat) [(a.toNat, 2 ^ w.toNat)] := by
  simp only [unaryIntOps, unaryFloatOps, List.map_cons, List.map_nil, List.cons_append, List.nil_append, List.mem_cons,
    List.not_mem_nil, or_false] at hp
  rcases hp with rfl | rfl | rfl | rfl | rfl | rfl | rfl | rfl | rfl | rfl | rfl | rfl | rfl | rfl | rfl | rfl | rfl |
      rfl | rfl | rfl | rfl | rfl | rfl
  all_goals
    apply IsLaneInstr.of_unary
    intro s
    dsimp only [exec]
    rfl

theorem unary64_isLaneInstr (p : UnCtor) (hp : p ∈ unary64Ops.map Prod.fst) (d a : BitVec 7) (w : BitVec 2)
    (n : Bool) : IsLaneInstr (p d a w n) (d.toNat, 2 * 2 ^ w.toNat) [(a.toNat, 2 * 2 ^ w.toNat)] := by
  simp only [unary64Ops, List.map_cons, List.map_nil, List.mem_cons, List.not_mem_nil, or_false] at hp
  rcases hp with rfl | rfl
  all_goals
    apply IsLaneInstr.of_unary64
    intro s
    dsimp only [exec]
    rfl

theorem exchange_isLaneInstr (p : BitVec 7 → BitVec 7 → BitVec 7 → Instr) (hp : p ∈ exchangeOps.map Prod.fst) (d a b : BitVec 7) :
    IsLaneInstr (p d a b) (d.toNat, 1) [(a.toNat, 1), (b.toNat, 1)] := by
  simp only [exchangeOps, List.map_cons, List.map_nil, List.mem_cons, List.not_mem_nil, or_false] at hp
  rcases hp with rfl | rfl | rfl | rfl | rfl
  all_goals
    apply IsLaneInstr.of_shuffle
    intro s
    dsimp only [exec]
    rfl

theorem reduce_isLaneInstr (p : BitVec 6 → BitVec 7 → Instr) (hp : p ∈ reduceOps.map Prod.fst) (d : BitVec 6) (a : BitVec 7) :
    IsLaneInstr (p d a) (124, 1) [(a.toNat, 1)] := by
  simp only [reduceOps, List.map_cons, List.map_nil, List.mem_cons, List.not_mem_nil, or_false] at hp
  rcases hp with rfl | rfl | rfl | rfl | rfl | rfl
  all_goals
    apply IsLaneInstr.of_reduce
    intro s
    dsimp only [exec]
    rfl

theorem imm_isLaneInstr (p : ImmCtor) (hp : p ∈ immOps.map Prod.fst) (d a : BitVec 7) (i : BitVec 8) (n : Bool) :
    IsLaneInstr (p d a i n) (d.toNat, 1) [(a.toNat, 1)] := by
  obtain ⟨e, he, rfl⟩ := List.mem_map.mp hp
  obtain ⟨run, hr, hi⟩ := immOps_form e he d a i n
  exact .of_immOp fun s => (congrFun hr.alone s).trans (hi ..)

theorem madd_isLaneInstr (p : AluCtor) (hp : p ∈ maddOps.map Prod.fst) (d a b : BitVec 7) (w : BitVec 2)
    (n : Bool) : IsLaneInstr (p d a b w n) (d.toNat, 2 ^ w.toNat)
      [(a.toNat, 2 ^ w.toNat), (b.toNat, 2 ^ w.toNat), (d.toNat, 2 ^ w.toNat)] := by
  obtain ⟨e, he, rfl⟩ := List.mem_map.mp hp
  obtain ⟨run, hr, hi⟩ := maddOps_form e he d a b w n
  exact .of_alu3 fun s => (congrFun hr.alone s).trans (hi ..)

theorem compact_isLaneInstr (p : BitVec 6 → BitVec 5 → Instr) (hp : p ∈ compactOps.map Prod.fst) (d : BitVec 6) (a : BitVec 5) :
    IsLaneInstr (p d a) (d.toNat, 1) [(d.toNat, 1), (compactReg a, 1)] := by
  rw [← compactCode_eq, ← Nat.pow_zero 2]
  simp only [compactOps, List.map_cons, List.map_nil, List.mem_cons, List.not_mem_nil, or_false] at hp
  rcases hp with rfl | rfl | rfl | rfl | rfl | rfl | rfl | rfl | rfl | rfl | rfl | rfl | rfl
  all_goals
    apply IsLaneInstr.of_alu2
    intro s
    dsimp only [exec]
    rfl

/-- A type code names a pair where its elements have 64 bits (R54). -/
theorem typeUnit_eq (t : BitVec 4) (h : t.toNat ≤ 11) : typeUnit t = if isWide t then 2 else 1 := by
  revert h; revert t; decide

/-- Every form that names lane registers is a `laneInstr` with these registers. -/
theorem NamesRegs.isLaneInstr {i : Instr} {d : Nat × Nat} {rs : List (Nat × Nat)} (h : NamesRegs i d rs) : IsLaneInstr i d rs := by
  cases h with
  | two p hp d a b w n => exact two_isLaneInstr p hp d a b w n
  | two64 p hp d a b w n => exact two64_isLaneInstr p hp d a b w n
  | shift64 p hp d a b w n => exact shift64_isLaneInstr p hp d a b w n
  | madd p hp d a b w n => exact madd_isLaneInstr p hp d a b w n
  | madd64 d a b w n => exact .of_alu64x3 fun s => congrFun (fmaF64_form d a b w n).alone s
  | division p hp d a b w n => exact division_isLaneInstr p hp d a b w n
  | imm p hp d a i n => exact imm_isLaneInstr p hp d a i n
  | set c hc d i n =>
    obtain ⟨run, hr, hi⟩ := setOps_form c hc d i n
    exact .of_immOp_unread fun s => (congrFun hr.alone s).trans (hi ..)
  | unary p hp d a w n => exact unary_isLaneInstr p hp d a w n
  | unary64 p hp d a w n => exact unary64_isLaneInstr p hp d a w n
  | compact p hp d a => exact compact_isLaneInstr p hp d a
  | movCompact d a =>
    rw [← compactCode_eq]
    apply IsLaneInstr.of_unary (w := 0)
    intro s
    dsimp only [exec]
    rfl
  | addiCompact d i =>
    have hd : d.toNat = (d.setWidth 7).toNat := by simp; omega
    rw [hd]
    exact .of_immOp (imm := i.signExtend 32) (op := fun x y => plain (x + y)) fun _ => rfl
  | fsrGet | pack | unpack | sel =>
    apply IsLaneInstr.of_laneOp_one
    intro s
    dsimp only [exec]
    rfl
  | fsrClr | vote =>
    apply IsLaneInstr.of_laneInstr
    intro s
    dsimp only [exec]
    rfl
  | cvt d a w y z n hy hz =>
    rw [← typeUnit_eq y hy, ← typeUnit_eq z hz]
    apply IsLaneInstr.of_laneOp
    intro s
    dsimp only [exec]
    rfl
  | cmp k a b c t =>
    have ht : (t == 3) = (t.toNat == 3) := by revert t; decide
    rw [ht]
    apply IsLaneInstr.of_laneInstr
    intro s
    dsimp only [exec, execCmp]
  | exchange p hp d a b => exact exchange_isLaneInstr p hp d a b
  | reduce p hp d a => exact reduce_isLaneInstr p hp d a

/-- Settles O15: the checks of `laneInstr` come before its body. -/
theorem laneTraps : Obligations.LaneTraps := by
  intro i d rs hi s g x h hv
  obtain ⟨len, e, f, he, hf⟩ := hi.isLaneInstr
  have hd : ∀ r ∈ e, declared (blockOf s g).regs r = true := fun r hr => by
    obtain rfl := List.mem_singleton.mp (he hr)
    rfl
  have legal : (∀ r ∈ d :: rs ++ e, declared (blockOf s g).regs r = true) ↔
      ∀ r ∈ d :: rs, declared (blockOf s g).regs r = true := by
    rw [List.forall_mem_append]
    exact and_iff_left hd
  refine ⟨fun hr => ?_, fun hr ⟨c, hc, hl⟩ hx => ?_⟩
  · obtain ⟨y, ho, hy⟩ := raise_enters h.2 hv 0 0 0 0
    exact ⟨y, ⟨_, (hf s).trans (laneInstr_undeclared h { len := len, dst := d, srcs := rs ++ e } (mt legal.mp hr) f), ho⟩, hy⟩
  · obtain ⟨y, ho, hy⟩ := raise_enters h.2 hv 1 0 0 0
    have full := laneInstr_chainFull h { len := len, dst := d, srcs := rs ++ e } (legal.mpr hr) ⟨c, List.mem_append_left e hc, hl⟩ hx f
    exact ⟨y, ⟨_, (hf s).trans full, ho⟩, hy⟩

end Sys2Proof.Machine
end

section
/-! Branches and calls (R87, R88): what one does where its condition holds and its target is one that a jump may take, where the
target is not, and where the condition fails. -/

namespace Sys2Proof.Machine

/-! ## Targets -/

theorem displaced_eq (x : Group) (d : BitVec 19) : displaced x.pc d = branchTarget x d := by
  have h : d.signExtend 64 * 2 = BitVec.ofInt 64 (2 * d.toInt) := by
    rw [BitVec.ofInt_mul, BitVec.signExtend, mul_comm]; rfl
  rw [displaced, branchTarget, h]

/-- The check of a target. -/
theorem jumpOk_iff (t : DWord) : JumpOk t ↔ (bitAt t.toNat 0 || decide (2 ^ 56 ≤ t.toNat)) = false := by
  rw [Bool.or_eq_false_iff, decide_eq_false_iff_not, not_le, bitAt, Nat.pow_zero, Nat.div_one, beq_eq_false_iff_ne,
    Nat.mod_two_ne_one, JumpOk]

/-! ## Branches -/

section
variable {s : State} {g : Nat} {x : Group} {d : BitVec 19} {cond : Group → Bool}

/-- A branch whose condition fails goes on behind it. -/
theorem branch_passed (h : Issues s g x) (hc : cond x = false) :
    ∃ t, branch s d cond = .next t ∧ OnlyGroup s t g { x with pc := x.pc + 4, latch := {} } := by
  have ho := (OnlyGroup.refl h.2).modGroup fun y => { y with latch := {}, pc := if cond y then displaced x.pc d else y.pc + 4 }
  simp only [hc, Bool.false_eq_true, if_false] at ho
  refine ⟨_, ?_, ho⟩
  unfold branch
  rw [withGroup_issues h, h.getGroup]
  simp [hc]

/-- A branch whose condition holds goes to its target. -/
theorem branch_taken (h : Issues s g x) (hc : cond x = true) (ht : JumpOk (branchTarget x d)) :
    ∃ t, branch s d cond = .next t ∧ OnlyGroup s t g { x with pc := branchTarget x d, latch := {} } := by
  have ho := (OnlyGroup.refl h.2).modGroup fun y => { y with latch := {}, pc := if cond y then displaced x.pc d else y.pc + 4 }
  simp only [hc, if_true, displaced_eq] at ho
  refine ⟨_, ?_, ho⟩
  unfold branch
  rw [withGroup_issues h, h.getGroup]
  simp only [displaced_eq, hc, Bool.true_and, (jumpOk_iff _).mp ht, Bool.false_eq_true, if_false]

/-- A taken target that no jump may take is trap 2. -/
theorem branch_refused (h : Issues s g x) (hc : cond x = true) (ht : ¬ JumpOk (branchTarget x d)) :
    branch s d cond = .next (raise s g 2 (branchTarget x d).toNat) := by
  rw [jumpOk_iff, Bool.not_eq_false] at ht
  unfold branch
  rw [withGroup_issues h, h.getGroup]
  simp only [displaced_eq, hc, Bool.true_and, ht, if_true]

/-- A call goes to its target with its return address written. -/
theorem execCall_taken (h : Issues s g x) (k : BitVec 3) (ht : JumpOk (branchTarget x d)) :
    ∃ t, execCall d k s = .next t ∧
      OnlyGroup s t g { x.setS (56 + k.toNat) (x.pc + 4) with latch := {}, pc := branchTarget x d } := by
  have ho := (OnlyGroup.refl h.2).modGroup fun y =>
    { y.setS (56 + k.toNat) (y.pc + 4) with latch := {}, pc := branchTarget x d }
  refine ⟨_, ?_, ho⟩
  unfold execCall
  rw [withGroup_issues h, h.getGroup]
  simp only [displaced_eq, (jumpOk_iff _).mp ht, Bool.false_eq_true, if_false]

theorem execCall_refused (h : Issues s g x) (k : BitVec 3) (ht : ¬ JumpOk (branchTarget x d)) :
    execCall d k s = .next (raise s g 2 (branchTarget x d).toNat) := by
  rw [jumpOk_iff, Bool.not_eq_false] at ht
  unfold execCall
  rw [withGroup_issues h, h.getGroup]
  simp only [displaced_eq, ht, if_true]

/-- An instruction that raises an exception with em cleared for a target. -/
theorem traps_of_raise (h : Issues s g x) (hv : vectorOf s g ≠ 0) {i : Instr} {num : Nat} {va : DWord} (h2 : 2 ≤ num ∧ num ≤ 6)
    (hi : exec i s = .next (raise s g num va.toNat)) : Traps i s g x num va 0 0 := by
  obtain ⟨y, ho, he⟩ := raise_reference h.2 hv h2 va.toNat
  rw [BitVec.ofNat_toNat, BitVec.setWidth_eq] at he
  exact ⟨y, ⟨_, hi, ho⟩, he⟩

end

/-! ## Conditions -/

/-- A branch of format C tests its condition on the group. -/
theorem branchOps_cond : ∀ p ∈ branchOps, ∀ (k : BitVec 3), ∃ cond : Group → Bool,
    (∀ d s, exec (p.1 d k) s = branch s d cond) ∧ ∀ x, cond x = true ↔ p.2 x k.toNat := by
  have bits : ∀ v w : Word, v = w ↔ ∀ l < 32, v.getLsbD l = w.getLsbD l := fun v w => BitVec.eq_of_getLsbD_eq_iff
  have zero : ∀ v : Word, v ≠ 0 ↔ ∃ l < 32, v.getLsbD l = true := fun v => by simp [bits]
  simp only [branchOps, List.forall_mem_cons]
  refine ⟨fun k => ⟨fun g => g.kreg k.toNat &&& g.em != 0, fun _ _ => rfl, fun x => ?_⟩,
    fun k => ⟨fun g => g.kreg k.toNat &&& g.em == g.em, fun _ _ => rfl, fun x => ?_⟩,
    fun k => ⟨fun g => g.kreg k.toNat &&& g.em == 0, fun _ _ => rfl, fun x => ?_⟩,
    fun k => ⟨fun g => g.sreg k.toNat == 0, fun _ _ => rfl, fun x => beq_iff_eq⟩,
    fun k => ⟨fun g => g.sreg k.toNat != 0, fun _ _ => rfl, fun x => bne_iff_ne⟩, fun _ h => absurd h List.not_mem_nil⟩
  · rw [bne_iff_ne, zero]
    simp [Group.active, and_comm]
  · simp [bits, Group.active]
  · rw [beq_iff_eq, bits]
    simp [Group.active, or_comm, imp_iff_not_or]

/-- Settles O18: the condition, then the target, then the write. -/
theorem branches : Obligations.Branches := by
  intro s g x h
  refine ⟨fun d ht => branch_taken (cond := fun _ => true) h rfl ht, fun p hp d k => ?_, fun d k ht => ?_, fun d ht hv => ?_⟩
  · obtain ⟨cond, he, hc⟩ := branchOps_cond p hp k
    rw [← hc x]
    refine ⟨fun c ht => ?_, fun c ht hv => ?_, fun c => ?_⟩
    · rw [Leaves, LeavesFrom, he]
      exact branch_taken h c ht
    · exact traps_of_raise h hv (by decide) ((he d s).trans (branch_refused h c ht))
    · rw [Leaves, LeavesFrom, he]
      exact branch_passed h (Bool.not_eq_true _ ▸ c)
  · refine ⟨_, execCall_taken h k ht, rfl, ?_, fun r hr => ?_⟩
    · exact (Group.sreg_setS ..).trans (if_pos rfl)
    · exact (Group.sreg_setS ..).trans (if_neg hr)
  · exact ⟨traps_of_raise h hv (by decide) (branch_refused (cond := fun _ => true) h rfl ht),
      fun k => traps_of_raise h hv (by decide) (execCall_refused h k ht)⟩

end Sys2Proof.Machine
end

section
/-! Privileged instructions in user mode (R39): one check before every effect. -/

namespace Sys2Proof.Machine

/-- What changes a group's record alone, twice. -/
theorem OnlyGroup.trans {s t u : State} {g : Nat} {y z : Group} (h : OnlyGroup s t g y) (k : OnlyGroup t u g z) : OnlyGroup s u g z where
  group := k.group
  others j hj := (k.others j hj).trans (h.others j hj)
  bytes p := (k.bytes p).trans (h.bytes p)
  rest := by rw [k.rest, h.rest]

theorem endChain_onlyGroup {s : State} {g : Nat} {x : Group} (h : kfind s.groups g = some x) :
    OnlyGroup s (endChain s g) g { x with latch := {} } := (OnlyGroup.refl h).modGroup _

/-- An exception behind the end of the chain, which its entry ends anyway, is one of the state before. -/
theorem raise_endChain {s : State} {g : Nat} {x : Group} (h : kfind s.groups g = some x) (hv : vectorOf s g ≠ 0) (num va : Nat)
    (lanes : Word) (code : Nat) :
    ∃ y, OnlyGroup s (raise (endChain s g) g num va lanes code) g y ∧
      Entered s g x y num code x.pc x.pc (BitVec.ofNat 64 va) lanes (if (2 ≤ num && num ≤ 6) = true then lanes else x.em) := by
  have hc := endChain_onlyGroup h
  have hvec : vectorOf (endChain s g) g = vectorOf s g := hc.vectorOf h rfl
  obtain ⟨y, ho, he⟩ := raise_enters hc.group (hvec ▸ hv) num va lanes code
  obtain ⟨target, saved, mask, mode, chain, ready, rest⟩ := he.congr hvec rfl
  exact ⟨y, hc.trans ho, target, saved, mask, mode, chain, ready, rest⟩

/-- In user mode the one check of privileged instructions is trap 5. -/
theorem privileged_user {s : State} {g : Nat} {x : Group} (h : Issues s g x) (hu : x.sup = false) (f : Nat → State → State) :
    privileged s f = .next (raise (endChain s g) g 5) := by
  have hg : getGroup (endChain s g) g = { x with latch := {} } := getGroup_modGroup _ h.2
  unfold privileged
  rw [withGroup_issues h]
  simp [hg, hu]

/-- Every privileged instruction is `privileged`. -/
theorem IsPrivileged.exec_eq {i : Instr} (h : IsPrivileged i) (s : State) : ∃ f, exec i s = privileged s f := by
  cases h with
  | dieCtl _ d a h =>
    have hd : exec i s = Machine.dieCtl s d a := by cases h <;> rfl
    exact ⟨_, hd⟩
  | _ =>
    constructor
    dsimp only [exec]
    rfl

/-- Settles O41: the check of the mode comes before every effect. -/
theorem userModeTraps : Obligations.UserModeTraps := by
  intro i hi s g x h hu hv
  obtain ⟨f, hf⟩ := hi.exec_eq s
  obtain ⟨y, ho, he⟩ := raise_endChain h.2 hv 5 0 0 0
  exact ⟨y, ⟨_, hf.trans (privileged_user h hu f), ho⟩, he⟩

end Sys2Proof.Machine
end

section
/-! The checks of a global access (R22, R109, R330): what `laneTrap` reports of the failing elements, what `checked` does at each of
its checks, and the shape that every global load and store has. -/

namespace Sys2Proof.Machine

/-! ## The lowest of some elements -/

/-- The order in which failing elements are reported: by lane, then by address (R330). -/
def before (e f : Elem) : Bool := decide (e.lane < f.lane) || (e.lane == f.lane && decide (e.va < f.va))

theorem before_false_iff (e f : Elem) : before e f = false ↔ f.lane < e.lane ∨ f.lane = e.lane ∧ f.va ≤ e.va := by
  rw [before, Bool.or_eq_false_iff, Bool.and_eq_false_iff, decide_eq_false_iff_not, beq_eq_false_iff_ne, decide_eq_false_iff_not]
  omega

/-- The first of the lowest, by one pass. -/
def lowestBy {α : Type} (key : α → Elem) (a : α) (l : List α) : α := l.foldl (fun m f => if before (key f) (key m) then f else m) a

theorem lowestBy_spec {α : Type} (key : α → Elem) (l : List α) (a : α) :
    lowestBy key a l ∈ a :: l ∧ ∀ f ∈ a :: l, before (key f) (key (lowestBy key a l)) = false := by
  induction l generalizing a with
  | nil => simp [lowestBy, before]
  | cons b l ih =>
    obtain ⟨hm, hl⟩ := ih (if before (key b) (key a) then b else a)
    change lowestBy key a (b :: l) ∈ _ at hm
    change ∀ f ∈ _, before (key f) (key (lowestBy key a (b :: l))) = false at hl
    rw [List.forall_mem_cons] at hl
    simp only [List.forall_mem_cons]
    simp only [before_false_iff] at hl ⊢
    by_cases hb : before (key b) (key a) = true
    · rw [if_pos hb] at hm hl
      rw [before] at hb
      refine ⟨List.mem_cons_of_mem _ hm, ?_, hl.1, hl.2⟩
      simp only [Bool.or_eq_true, decide_eq_true_eq, Bool.and_eq_true, beq_iff_eq] at hb
      omega
    · rw [if_neg hb] at hm hl
      rw [Bool.not_eq_true, before_false_iff] at hb
      refine ⟨?_, hl.1, ?_, hl.2⟩
      · rcases List.mem_cons.mp hm with h | h
        · rw [h]; exact List.mem_cons_self
        · exact List.mem_cons_of_mem _ (List.mem_cons_of_mem _ h)
      · omega

theorem lowestBy_self {α : Type} (key : α → Elem) (l : List α) (a : α) : lowestBy key a (a :: l) = lowestBy key a l := by
  rw [lowestBy, List.foldl_cons, ite_self]
  rfl

theorem lowest_lowestBy {α : Type} (key : α → Elem) (l : List α) (a : α) : Lowest ((a :: l).map key) (key (lowestBy key a l)) := by
  obtain ⟨hm, hl⟩ := lowestBy_spec key l a
  refine ⟨List.mem_map_of_mem hm, fun f hf => ?_⟩
  obtain ⟨r, hr, rfl⟩ := List.mem_map.mp hf
  exact (before_false_iff ..).mp (hl r hr)

theorem exists_lowest {bad : List Elem} (h : bad ≠ []) : ∃ e, Lowest bad e := by
  obtain ⟨a, l, rfl⟩ := List.exists_cons_of_ne_nil h
  exact ⟨lowestBy id a l, by simpa using lowest_lowestBy id l a⟩

/-- Lowest elements stand in one lane at one address. -/
theorem Lowest.unique {bad : List Elem} {e f : Elem} (he : Lowest bad e) (hf : Lowest bad f) : e.va = f.va := by
  have h1 := he.2 f hf.1
  have h2 := hf.2 e he.1
  omega

/-! ## The trap of a check -/

/-- The mask of the lanes of some elements. -/
def lanesMask (bad : List Elem) : Word := maskOf fun l => bad.any fun e => e.lane == l

theorem lanesOf_lanesMask (bad : List Elem) : LanesOf bad (lanesMask bad) := fun l hl => by
  rw [lanesMask, getLsbD_maskOf _ hl, List.any_eq_true]
  simp

/-- The lower of the elements met and one more. -/
def lowerOf (m : Option Elem) (e : Elem) : Option Elem := match m with
  | some f => if before e f then some e else some f
  | none => some e

theorem laneTrap_foldl (s : State) (g num code : Nat) (bad : List Elem) :
    laneTrap s g num code bad = raise s g num (((bad.foldl lowerOf none).map (·.va)).getD 0) (lanesMask bad) code := by
  rfl

theorem foldl_lowerOf (l : List Elem) (a : Elem) : l.foldl lowerOf (some a) = some (lowestBy id a l) := by
  induction l generalizing a with
  | nil => rfl
  | cons b l ih =>
    rw [List.foldl_cons, lowerOf, ← apply_ite some, ih]
    rfl

/-- A failed check raises its trap with the lanes and the lowest address of the failing elements. -/
theorem laneTrap_eq {bad : List Elem} {e : Elem} (he : Lowest bad e) (s : State) (g num code : Nat) :
    laneTrap s g num code bad = raise s g num e.va (lanesMask bad) code := by
  obtain ⟨a, l, rfl⟩ := List.exists_cons_of_ne_nil (List.ne_nil_of_mem he.1)
  have low : Lowest (a :: l) (lowestBy id a l) := by simpa using lowest_lowestBy id l a
  rw [laneTrap_foldl, List.foldl_cons, lowerOf, foldl_lowerOf, Option.map_some, Option.getD_some, he.unique low]

/-- The trap of a check in a state behind the translations. -/
theorem trapsBehind {i : Instr} {s s1 : State} {g : Nat} {x1 : Group} (hx : kfind s1.groups g = some x1) (hv : vectorOf s1 g ≠ 0)
    {num code : Nat} (hn : 2 ≤ num ∧ num ≤ 6) {bad : List Elem} {e : Elem} (he : Lowest bad e)
    (hi : exec i s = .next (laneTrap s1 g num code bad)) : TrapsBehind i s s1 g x1 num code bad e := by
  rw [laneTrap_eq he] at hi
  obtain ⟨y, hy, hent⟩ := raise_enters hx hv num e.va (lanesMask bad) code
  rw [if_pos (by simpa using hn)] at hent
  exact ⟨_, he, lanesOf_lanesMask bad, y, ⟨_, hi, hy⟩, hent⟩

/-- The same where the translation registers were put back. -/
theorem trapsBehind_unlearnt {i : Instr} {s s1 t : State} {g : Nat} {x1 x2 : Group} (hx1 : kfind s1.groups g = some x1)
    (hx2 : OnlyGroup s1 t g x2) (hb : x2.block = x1.block) (hv : vectorOf s1 g ≠ 0) {num code : Nat} (hn : 2 ≤ num ∧ num ≤ 6)
    {bad : List Elem} {e : Elem} (he : Lowest bad e) (hi : exec i s = .next (laneTrap t g num code bad)) :
    TrapsBehind i s s1 g x2 num code bad e := by
  have hvec : vectorOf t g = vectorOf s1 g := hx2.vectorOf hx1 hb
  obtain ⟨lanes, hl, hm, y, ⟨u, hu, ho⟩, hent⟩ := trapsBehind hx2.group (hvec ▸ hv) hn he hi
  exact ⟨lanes, hl, hm, y, ⟨u, hu, hx2.trans ho⟩, hent.congr hvec hx2.cycle⟩

/-- The trap of a check before them. -/
theorem trapsFor {i : Instr} {s : State} {g : Nat} {x : Group} (h : Issues s g x) (hv : vectorOf s g ≠ 0)
    {num : Nat} (hn : 2 ≤ num ∧ num ≤ 6) {bad : List Elem} (hb : bad ≠ [])
    (hi : exec i s = .next (laneTrap (endChain s g) g num 0 bad)) : TrapsFor i s g x num bad := by
  obtain ⟨e, he⟩ := exists_lowest hb
  rw [laneTrap_eq he] at hi
  obtain ⟨y, hy, hent⟩ := raise_endChain h.2 hv num e.va (lanesMask bad) 0
  rw [if_pos (by simpa using hn)] at hent
  exact ⟨e, _, he, lanesOf_lanesMask bad, y, ⟨_, hi, hy⟩, hent⟩

/-! ## The checks in their order -/

/-- An element that met a page fault, with its code; one that was refused otherwise. -/
def faultOf (r : Elem × Except (Nat × Nat) Phys) : Option (Elem × Nat) := match r.2 with
  | .error (4, c) => some (r.1, c)
  | _ => none
def deniedOf (allowed : Phys → Bool) (r : Elem × Except (Nat × Nat) Phys) : Option Elem := match r.2 with
  | .ok p => if allowed p then none else some r.1
  | .error (4, _) => none
  | .error _ => some r.1

def placeOf (r : Elem × Except (Nat × Nat) Phys) : Option (Elem × Phys) := match r.2 with
  | .ok p => some (r.1, p)
  | .error _ => none

/-- The last checks: `stopped` is the state of a trap, `s1` that of the access. -/
def afterLocating (stopped s1 : State) (g : Nat) (allowed : Phys → Bool) (k : State → List (Elem × Phys) → State)
    (rs : List (Elem × Except (Nat × Nat) Phys)) : State :=
  match rs.filterMap faultOf with
  | (e, c) :: _ => laneTrap stopped g 4 (lowestBy Prod.fst (e, c) (rs.filterMap faultOf)).2 ((rs.filterMap faultOf).map Prod.fst)
  | [] =>
    if !(rs.filterMap (deniedOf allowed)).isEmpty then laneTrap stopped g 5 0 (rs.filterMap (deniedOf allowed))
    else k s1 (rs.filterMap placeOf)

section
variable {s s1 : State} {g xr size : Nat} {acc : Access} {allowed : Phys → Bool} {es : List Elem}
  {k : State → List (Elem × Phys) → State} {rs : List (Elem × Except (Nat × Nat) Phys)}

/-- The group's translation registers as they were before the access. -/
def unlearnt (s s1 : State) (g : Nat) : State := modGroup s1 g fun q => { q with x := (getGroup s g).x }

theorem checked_misaligned (h : (es.filter fun e => e.va % size != 0) ≠ []) :
    checked s g xr size acc allowed es k = laneTrap s g 2 0 (es.filter fun e => e.va % size != 0) := by
  unfold checked
  simp only
  rw [if_pos (by simpa using h)]

variable (ho : (es.filter fun e => e.va % size != 0) = [])
include ho

theorem checked_beyond (h : (es.filter fun e => decide (2 ^ 56 ≤ e.va + size - 1)) ≠ []) :
    checked s g xr size acc allowed es k = laneTrap s g 5 0 (es.filter fun e => decide (2 ^ 56 ≤ e.va + size - 1)) := by
  unfold checked
  simp only [ho, List.isEmpty_nil, Bool.not_true, Bool.false_eq_true, if_false]
  rw [if_pos (by simpa using h)]

/-- What follows the translations: a page fault comes before a refusal, a refusal before the access. -/
theorem checked_located (hb : (es.filter fun e => decide (2 ^ 56 ≤ e.va + size - 1)) = [])
    (hl : locateAll s g xr size acc es = (s1, rs)) :
    checked s g xr size acc allowed es k = afterLocating (unlearnt s s1 g) s1 g allowed k rs := by
  unfold checked
  simp only [ho, hb, hl, List.isEmpty_nil, Bool.not_true, Bool.false_eq_true, if_false]
  rfl

end

theorem faultOf_error (e : Elem) (n c : Nat) : faultOf (e, .error (n, c)) = if n = 4 then some (e, c) else none := by
  unfold faultOf
  split <;> simp_all

theorem deniedOf_error (allowed : Phys → Bool) (e : Elem) (n c : Nat) :
    deniedOf allowed (e, .error (n, c)) = if n = 4 then none else some e := by
  obtain rfl | hn := eq_or_ne n 4
  · rfl
  · unfold deniedOf
    split <;> simp_all

section
variable (rs : List (Elem × Except (Nat × Nat) Phys))

theorem faults_map : (rs.filterMap faultOf).map Prod.fst = (rs.filter fun r => (failedWith r).map (·.1) == some 4).map (·.1) := by
  induction rs with
  | nil => rfl
  | cons r rs ih =>
    obtain ⟨e, ⟨n, c⟩ | p⟩ := r
    · by_cases hn : n = 4 <;> simp [faultOf_error, failedWith, hn, ih]
    · simpa [List.filterMap_cons, faultOf, List.filter_cons, failedWith] using ih

theorem failedWith_of_mem_faults {f : Elem × Nat} (h : f ∈ rs.filterMap faultOf) :
    ∃ r ∈ rs.filter fun r => (failedWith r).map (·.1) == some 4, failedWith r = some (4, f.2) ∧ r.1 = f.1 := by
  obtain ⟨⟨e, ⟨n, c⟩ | p⟩, hr, hf⟩ := List.mem_filterMap.mp h
  · rw [faultOf_error] at hf
    split at hf
    · next hn =>
      subst hn
      cases hf
      exact ⟨_, List.mem_filter.mpr ⟨hr, rfl⟩, rfl, rfl⟩
    · cases hf
  · cases hf

theorem denied_map (h : rs.filterMap faultOf = []) :
    rs.filterMap (deniedOf fun _ => true) = (rs.filter fun r => (failedWith r).isSome).map (·.1) := by
  induction rs with
  | nil => rfl
  | cons r rs ih =>
    obtain ⟨e, ⟨n, c⟩ | p⟩ := r
    · by_cases hn : n = 4
      · simp [faultOf_error, hn] at h
      · rw [List.filterMap_cons, faultOf_error, if_neg hn] at h
        simp [deniedOf_error, failedWith, hn, ih h]
    · simpa [List.filterMap_cons, deniedOf, List.filter_cons, failedWith] using ih (by simpa [faultOf] using h)

/-- The places of elements that were all located. -/
theorem located_places (les : List (Elem × Phys)) : (les.map fun e => (e.1, Except.ok e.2)).filterMap faultOf = [] ∧
    (les.map fun e => (e.1, Except.ok e.2)).filterMap (deniedOf fun _ => true) = [] ∧
    (les.map fun e => (e.1, Except.ok e.2)).filterMap placeOf = les := by
  induction les with
  | nil => exact ⟨rfl, rfl, rfl⟩
  | cons e les ih => simpa [List.filterMap_cons, faultOf, deniedOf, placeOf] using ih

variable {rs} {stopped s1 : State} {g : Nat} {k : State → List (Elem × Phys) → State}

/-- A page fault is reported with the code of the lowest. -/
theorem afterLocating_fault (h : (rs.filter fun r => (failedWith r).map (·.1) == some 4) ≠ []) (allowed : Phys → Bool) :
    let faults := rs.filter fun r => (failedWith r).map (·.1) == some 4
    ∃ r ∈ faults, ∃ code, failedWith r = some (4, code) ∧ Lowest (faults.map (·.1)) r.1 ∧
      afterLocating stopped s1 g allowed k rs = laneTrap stopped g 4 code (faults.map (·.1)) := by
  obtain ⟨f, fs, hf⟩ : ∃ f fs, rs.filterMap faultOf = f :: fs := by
    apply List.exists_cons_of_ne_nil
    intro h0
    have := faults_map rs
    rw [h0] at this
    exact h (List.map_eq_nil_iff.mp this.symm)
  obtain ⟨hm, -⟩ := lowestBy_spec Prod.fst fs f
  obtain ⟨r, hr, hc, he⟩ := failedWith_of_mem_faults rs (hf ▸ hm)
  refine ⟨r, hr, _, hc, ?_, ?_⟩
  · rw [← faults_map, hf, he]
    exact lowest_lowestBy Prod.fst fs f
  · rw [← faults_map]
    unfold afterLocating
    rw [hf]
    dsimp only
    rw [lowestBy_self]

/-- Where no page faults a refusal is reported. -/
theorem afterLocating_denied (h : (rs.filter fun r => (failedWith r).map (·.1) == some 4) = [])
    (hd : (rs.filter fun r => (failedWith r).isSome) ≠ []) :
    afterLocating stopped s1 g (fun _ => true) k rs = laneTrap stopped g 5 0 ((rs.filter fun r => (failedWith r).isSome).map (·.1)) := by
  have hf : rs.filterMap faultOf = [] := List.map_eq_nil_iff.mp ((faults_map rs).trans (by rw [h, List.map_nil]))
  unfold afterLocating
  rw [hf]
  dsimp only
  rw [denied_map rs hf, if_pos (by simpa using hd)]

/-- Where every element is located the access follows. -/
theorem afterLocating_located (les : List (Elem × Phys)) :
    afterLocating stopped s1 g (fun _ => true) k (les.map fun e => (e.1, Except.ok e.2)) = k s1 les := by
  obtain ⟨hf, hd, hp⟩ := located_places les
  unfold afterLocating
  rw [hf]
  dsimp only
  rw [hd, hp]
  rfl

end

/-! ## The shape of a global access -/

/-- Every global load and store checks its registers, then its elements, a load also its values; what follows is in `k`. -/
structure IsGlobal (i : Instr) (d a : BitVec 7) (xr sz : BitVec 3) (w : BitVec 2) (acc : Access)
    (k : Nat → State → List (Elem × Phys) → State) : Prop where
  shape : ∀ s, exec i s = memInstr s [(d.toNat, Legal.elemUnit sz * 2 ^ w.toNat), (a.toNat, 1)] fun g s =>
    checked s g xr.toNat (Legal.elemSize sz) acc (fun _ => true)
      (elements (getGroup s g) xr.toNat a.toNat (2 ^ w.toNat) (Legal.elemSize sz)) (k g)
  load : acc = .read → ∀ g s les, ∃ q, k g s les = loadChecked s g (Legal.elemSize sz) les q

section
variable (d a : BitVec 7) (xr sz : BitVec 3) (w : BitVec 2)

/-- ld, ld.acq, ldnc. -/
theorem isGlobal_load {i : Instr} {acq : Bool} (h : ∀ s, exec i s = loadInstr s d a xr sz w acq) :
    IsGlobal i d a xr sz w .read fun g s les =>
      loadElems s g d.toNat (Legal.elemUnit sz) (Legal.elemSize sz) (sz == 1 || sz == 3) acq les :=
  ⟨h, fun _ _ _ _ => ⟨_, rfl⟩⟩

/-- The forms of ldv, which load words. -/
theorem isGlobal_ldv {i : Instr} {acq : Bool} (h : ∀ s, exec i s = ldvInstr s d a xr w acq) :
    IsGlobal i d a xr 4 w .read fun g s les => ldvElems s g d.toNat acq les where
  shape s := by
    have hu : Legal.elemUnit 4 * 2 ^ w.toNat = 2 ^ w.toNat := Nat.one_mul _
    rw [h, hu]
    rfl
  load _ _ _ _ := ⟨_, rfl⟩

/-- What a store does with its located elements. -/
def storeLocated (nc rel : Bool) (g : Nat) (s : State) (les : List (Elem × Phys)) : State :=
  let data := les.map fun e =>
    (e.1.va, e.2, storeData (getGroup s g) d.toNat (Legal.elemUnit sz) (Legal.elemSize sz) e.1.idx e.1.lane)
  if rel then release s g fun s => storeElems s g false true data else storeElems s g nc false data

/-- The stores. -/
theorem isGlobal_store {i : Instr} {nc rel : Bool} (h : ∀ s, exec i s = storeInstr s d a xr sz w nc rel) :
    IsGlobal i d a xr sz w .write (storeLocated d sz nc rel) where
  shape := h
  load := nofun

theorem globalForms_isGlobal : ∀ c ∈ globalForms, (c.2.2 = true → sz = 4) → ∃ k, IsGlobal (c.1 d a xr sz w) d a xr sz w c.2.1 k := by
  simp only [globalForms, loadForms, List.map_cons, List.map_nil, List.cons_append, List.nil_append, List.forall_mem_cons]
  refine ⟨fun _ => ⟨_, isGlobal_load d a xr sz w fun _ => rfl⟩, fun _ => ⟨_, isGlobal_load d a xr sz w fun _ => rfl⟩,
    fun _ => ⟨_, isGlobal_load d a xr sz w fun _ => rfl⟩, fun h => ?_, fun h => ?_,
    fun _ => ⟨_, isGlobal_store d a xr sz w fun _ => rfl⟩, fun _ => ⟨_, isGlobal_store d a xr sz w fun _ => rfl⟩,
    fun _ => ⟨_, isGlobal_store d a xr sz w fun _ => rfl⟩, fun _ h => absurd h List.not_mem_nil⟩
  all_goals
    obtain rfl := h trivial
    exact ⟨_, isGlobal_ldv d a xr w fun _ => rfl⟩

end

/-! ## Registers and elements -/

section
variable {s : State} {g : Nat} {x : Group} (h : Issues s g x)
include h

theorem memInstr_undeclared {runs : List (Nat × Nat)} (hr : ¬ MemFits s g runs) (f : Nat → State → State) :
    memInstr s runs f = .next (raise s g 0) := by
  have : runs.all (declared (blockOf s g).regs) = false := by
    rw [← Bool.not_eq_true, List.all_eq_true]; exact hr
  rw [memInstr, withGroup_issues h, this]
  rfl

theorem memInstr_declared {runs : List (Nat × Nat)} (hr : MemFits s g runs) (f : Nat → State → State) :
    memInstr s runs f = .next (f g (endChain s g)) := by
  have : runs.all (declared (blockOf s g).regs) = true := List.all_eq_true.mpr hr
  rw [memInstr, withGroup_issues h, this]
  rfl

/-- An operand that offsets are taken from reads no latch. -/
theorem elements_endChain {a : BitVec 7} (ha : Legal.offsetOk a = true) (xr cnt size : Nat) :
    elements (getGroup (endChain s g) g) xr a.toNat cnt size = globalRun x xr a.toNat cnt size := by
  have hsrc : ∀ l, src { x with latch := {} } 0 a.toNat 0 l = src x 0 a.toNat 0 l := by
    intro l
    simp only [Legal.offsetOk, Bool.or_eq_true, decide_eq_true_eq, beq_iff_eq] at ha
    obtain ha | ha := ha
    · simp only [src, ha, if_true]; rfl
    · simp [src, ha]
  rw [getGroup_of (endChain_onlyGroup h.2).group, elements, globalRun]
  simp only [hsrc, elemOffset]
  rfl

end

/-- Poison among the elements of a load stops it. -/
theorem loadChecked_poisoned {s s2 : State} {g size : Nat} {les : List (Elem × Phys)} (hs : metPoison s size (les.map (·.2)) = s2)
    (hb : (les.filter fun e => readsPoison s2 g size e.2).map (·.1) ≠ []) (k : State → State) :
    loadChecked s g size les k = laneTrap s2 g 6 0 ((les.filter fun e => readsPoison s2 g size e.2).map (·.1)) := by
  rw [metPoison, List.foldl_map] at hs
  unfold loadChecked
  simp only [hs]
  rw [if_pos (by simpa using hb)]

theorem elemSize_pos {sz : BitVec 3} (h : sz.toNat ≤ 6) : 0 < Legal.elemSize sz := by
  revert h; revert sz; decide

/-- Settles O29: each check in its order, with `laneTrap` for the elements that fail it. -/
theorem globalTraps : Obligations.GlobalTraps := by
  intro c hc d a xr sz w s g x h hv size cnt es i odd beyond hsz hl
  obtain ⟨k, shape, load⟩ := globalForms_isGlobal d a xr sz w c hc hsz
  obtain ⟨h6, ha⟩ : sz.toNat ≤ 6 ∧ Legal.offsetOk a = true := by
    simp only [Legal.loadOk, Legal.memRun, Bool.and_eq_true, decide_eq_true_eq] at hl
    exact ⟨hl.1, hl.2.1.1⟩
  have hbeyond : (es.filter fun e => decide (2 ^ 56 ≤ e.va + size - 1)) = beyond := List.filter_congr fun e _ => by
    have := elemSize_pos h6
    rw [decide_eq_decide]
    omega
  refine ⟨fun hr => ?_, fun hr => ?_⟩
  · obtain ⟨y, hy, he⟩ := raise_enters h.2 hv 0 0 0 0
    exact ⟨y, ⟨_, (shape s).trans (memInstr_undeclared h hr _), hy⟩, he⟩
  have run : exec i s = .next (checked (endChain s g) g xr.toNat size c.2.1 (fun _ => true) es (k g)) := by
    rw [shape, memInstr_declared h hr, elements_endChain h ha]
  refine ⟨fun ho => ?_, fun ho hb => ?_, fun ho hb s1 rs x1 hloc hx1 => ?_⟩
  · exact trapsFor h hv (by decide) ho (run.trans (congrArg _ (checked_misaligned ho)))
  · refine trapsFor h hv (by decide) hb (run.trans (congrArg _ ?_))
    rw [checked_beyond ho (by rwa [hbeyond]), hbeyond]
  rw [checked_located ho (hbeyond.trans hb) hloc] at run
  intro faults denied x2 hv1
  have hx2 : OnlyGroup s1 (unlearnt (endChain s g) s1 g) g x2 := by
    have := (OnlyGroup.refl hx1).modGroup fun q => { q with x := x.x }
    rwa [unlearnt, getGroup_of (endChain_onlyGroup h.2).group]
  have stop : ∀ {num code : Nat} {bad : List Elem} {e : Elem}, 2 ≤ num ∧ num ≤ 6 → Lowest bad e →
      exec i s = .next (laneTrap (unlearnt (endChain s g) s1 g) g num code bad) → TrapsBehind i s s1 g x2 num code bad e :=
    fun hn he hi => trapsBehind_unlearnt hx1 hx2 rfl hv1 hn he hi
  refine ⟨fun hf => ?_, fun hf hd => ?_, fun s2 x3 les hrs hacc hs2 hx3 hv2 => ?_⟩
  · obtain ⟨r, hr, code, hc, low, he⟩ := afterLocating_fault hf fun _ => true
    exact ⟨r, code, hr, hc, stop (by decide) low (run.trans (congrArg _ he))⟩
  · obtain ⟨e, he⟩ := exists_lowest (bad := denied.map (·.1)) (by simpa using hd)
    obtain ⟨r, hr, rfl⟩ := List.mem_map.mp he.1
    exact ⟨r, hr, stop (by decide) he (run.trans (congrArg _ (afterLocating_denied hf hd)))⟩
  · intro bad hbad
    obtain ⟨e, he⟩ := exists_lowest hbad
    obtain ⟨q, hq⟩ := load hacc g s1 les
    refine ⟨e, he.1, trapsBehind hx3 hv2 (by decide) he (run.trans (congrArg _ ?_))⟩
    rw [hrs, afterLocating_located, hq, loadChecked_poisoned hs2 hbad]

end Sys2Proof.Machine
end

section
/-! The issue of a ferry command (R123, R124, R149, R154, R155, R161 to R163): the new operation, the command as it is queued, and the
order of checks, waits and traps. -/

namespace Sys2Proof.Machine

/-! ## A new operation (R124) -/

theorem OnlyOps.blockOf {s t : State} {g : Nat} {x y : Group} (h : OnlyOps s t g y) (hx : kfind s.groups g = some x)
    (hb : y.block = x.block) : blockOf t g = blockOf s g :=
  blockOf_congr (by rw [h.rest]) (by rw [getGroup_of h.group, getGroup_of hx, hb])

/-- What a new operation shows of the state does not depend on the group's other operations. -/
theorem NewOp.congr {s t : State} {g : Nat} {x : Group} {o : Op} {cls : Nat} {st : OpState} (h : NewOp t g x o cls st)
    (ht : OnlyOps s t g x) (hx : kfind s.groups g = some x) : NewOp s g x o cls st := by
  obtain ⟨cls, ⟨group, block, part, issued⟩, state, ⟨ctx, gen, table, since⟩, open_⟩ := h
  have hp : partOf t g = partOf s g := by rw [partOf, partOf, ht.blockOf hx rfl]
  rw [ht.ctxOf hx rfl] at ctx gen table
  rw [ht.cycle] at issued since
  exact ⟨cls, ⟨group, block, part.trans hp, issued⟩, state, ⟨ctx, gen, table, since⟩, open_⟩

/-- The operation that `issueOp` adds. -/
def issuedOp (s : State) (g cls : Nat) (st : OpState) (body : OpBody) : Op := {
  cls := cls, group := g, block := (getGroup s g).block, part := partOf s g, issued := s.cycle, since := s.cycle, state := st, body := body
  ctx := (ctxOf s g).id, gen := (ctxOf s g).gen, table := (ctxOf s g).table }

/-- The state that it leaves. -/
def withOp (s : State) (g cls : Nat) (st : OpState) (body : OpBody) : State :=
  { s with nextId := s.nextId + 1, ops := kput s.ops s.nextId (issuedOp s g cls st body) }

theorem issueOp_eq (s : State) (g cls : Nat) (st : OpState) (body : OpBody) :
    issueOp s g cls st body = (s.nextId, withOp s g cls st body) := rfl

section
variable {s : State} {g : Nat} {x : Group} (hx : kfind s.groups g = some x) (cls : Nat) (st : OpState) (body : OpBody)
include hx

theorem issuedOp_newOp : NewOp s g x (issuedOp s g cls st body) cls st :=
  ⟨rfl, ⟨rfl, by rw [issuedOp, getGroup_of hx], rfl, rfl⟩, rfl, ⟨rfl, rfl, rfl, rfl⟩, rfl, rfl, rfl, rfl, rfl, rfl, rfl, rfl⟩

theorem withOp_onlyOps : OnlyOps s (withOp s g cls st body) g x := ⟨hx, fun _ _ => rfl, rfl⟩

end

theorem withOp_addsOp (s : State) (g cls : Nat) (st : OpState) (body : OpBody) :
    AddsOp s (withOp s g cls st body) s.nextId (issuedOp s g cls st body) :=
  ⟨kfind_kput_same .., fun _ hj => kfind_kput_other _ _ hj⟩

/-! ## The queued command -/

/-- The generation of one gate of a command, where the gate is there. -/
def tagGate (s : State) (m : KMap Nat) (e : Nat × DWord × Except Nat (List Loc)) : KMap Nat := match e.2.2 with
  | .ok p => kput m e.1 (readGate s p).gen
  | .error _ => m

/-- A checked command as it is queued in a block. -/
def queuedFerry (s : State) (b : Nat) (f : FerryOp) (captured : Option Nat) : FerryOp :=
  { f with
    tags := (f.gates s b).foldl (tagGate s) [], accepted := if f.kind = .mcast && f.gate.isNone then f.ranks else []
    captured := captured }

theorem queuedFerry_queued (s : State) (b : Nat) (f : FerryOp) (captured : Option Nat) :
    FerryQueued s b f (queuedFerry s b f captured) captured where
  rest := rfl
  accepted := by
    show (if (decide (f.kind = .mcast) && f.gate.isNone) = true then _ else _) = _
    simp only [Bool.and_eq_true, decide_eq_true_eq, Option.isNone_iff_eq_none]
  tag hk r hr p hp := by
    have hg : f.gates s b = [(0, r, .ok p)] := by
      rw [FerryOp.gates, hr]
      exact (if_neg hk).trans (by rw [hp])
    show kfind ((f.gates s b).foldl (tagGate s) []) 0 = _
    rw [hg]
    exact kfind_kput_same ..
  ungated hr := by
    have hg : f.gates s b = [] := by rw [FerryOp.gates, hr]
    show (f.gates s b).foldl (tagGate s) [] = []
    rw [hg]
    rfl

/-- The record of a group that has issued a ferry command under key `k` with the promised cycle `n`. -/
def countFerry (promise : Option Nat) (k n : Nat) (x : Group) : Group :=
  let x := { x with ferryCount := x.ferryCount + 1 }
  match promise with
  | some d => { x.setS d (BitVec.ofNat 64 n) with promise := some { op := k, cycle := n } }
  | none => x

theorem ferryIssue_alone (s : State) (g : Nat) (f : FerryOp) (promise : Option Nat) :
    ferryIssue s g f promise none =
      modGroup (withOp s g 0 .queued (.ferry (queuedFerry s (getGroup s g).block f none))) g
        (countFerry promise s.nextId (promisedAt s g f)) := rfl

/-- Behind the capture of a matrix command that left `t` with its key `k`. -/
theorem ferryIssue_pair (s : State) (g : Nat) (f : FerryOp) (m : MatrixOp) :
    ferryIssue s g f none (some m) =
      modGroup (withOp (mxIssue s g m true).2 g 0 .queued
        (.ferry (queuedFerry s (getGroup s g).block f (some (mxIssue s g m true).1)))) g
        (countFerry none (mxIssue s g m true).2.nextId (promisedAt s g f)) := rfl

/-! ## The meanings of the ferry commands -/

section
variable (a b : BitVec 6) (v : BitVec 7) (s : State)

/-- The register of the promise (R163). -/
def promiseReg (b : BitVec 6) (p : Bool) : Option Nat := if p then some (b.toNat + 1) else none

/-- The commands without capture. -/
theorem exec_ferryForms : ∀ c ∈ ferryForms, exec (c.1 a b v) s = ferryInstr s c.2.1 a.toNat b.toNat v.toNat (c.2.2 b) := by
  simp only [ferryForms, List.forall_mem_cons]
  exact ⟨rfl, rfl, rfl, rfl, rfl, fun _ h => absurd h List.not_mem_nil⟩

variable {s} {g : Nat} {x : Group} (h : Issues s g x)
include h

/-- With em zero a copy leaves its successor alone (R149, log entry 34). -/
theorem exec_fyCopy_idle (he : x.em = 0) (f p : Bool) :
    exec (.fyCopy a b v f p) s = ferryInstr s .copy a.toNat b.toNat v.toNat (promiseReg b p) := by
  show execFyCopy a b v f p s = _
  unfold execFyCopy
  simp only [h.1, h.getGroup, he, beq_self_eq_true, Bool.not_true, Bool.and_false, Bool.false_eq_true, if_false]
  rfl

theorem exec_fyCopy_pair (he : x.em ≠ 0) (p : Bool) :
    exec (.fyCopy a b v true p) s = ferryPair s a.toNat b.toNat v.toNat (promiseReg b p) := by
  show execFyCopy a b v true p s = _
  unfold execFyCopy
  simp only [h.1, h.getGroup, beq_eq_false_iff_ne.mpr he, Bool.not_false, Bool.and_true, if_true]
  rfl

/-- Any command with em zero. -/
theorem exec_ferry_idle (he : x.em = 0) {i : Instr}
    (hi : (∃ f p, i = Instr.fyCopy a b v f p) ∨ i ∈ [Instr.fyMcast a b v, .fyGather a b v, .fyFill a b v]) :
    ∃ kind promise, exec i s = ferryInstr s kind a.toNat b.toNat v.toNat promise := by
  simp only [List.mem_cons, List.not_mem_nil, or_false] at hi
  obtain ⟨f, p, rfl⟩ | rfl | rfl | rfl := hi
  · exact ⟨_, _, exec_fyCopy_idle a b v h he f p⟩
  all_goals exact ⟨_, _, rfl⟩

/-- One without a promise. -/
theorem exec_ferry_unpromised (he : x.em = 0) : ∀ i ∈ [Instr.fyCopy a b v false false, .fyCopy a b v true false, .fyMcast a b v,
    .fyGather a b v, .fyFill a b v], ∃ kind, exec i s = ferryInstr s kind a.toNat b.toNat v.toNat none := by
  simp only [List.forall_mem_cons]
  exact ⟨⟨_, exec_fyCopy_idle a b v h he false false⟩, ⟨_, exec_fyCopy_idle a b v h he true false⟩, ⟨_, rfl⟩, ⟨_, rfl⟩, ⟨_, rfl⟩,
    fun _ h => absurd h List.not_mem_nil⟩

end

/-! ## With em zero (R149) -/

section
variable {s : State} {g : Nat} {x : Group} (h : Issues s g x)
include h

/-- With em zero a ferry command does nothing. -/
theorem ferryInstr_idle (he : x.em = 0) (kind : FerryKind) (a b : Nat) {v : Nat} (hv : v < (blockOf s g).regs) :
    ferryInstr s kind a b v none = .next (advance (endChain s g) g 4) := by
  have hb : blockOf (endChain s g) g = blockOf s g := (endChain_onlyGroup h.2).blockOf h.2 rfl
  rw [ferryInstr, withGroup_issues h, h.getGroup, if_pos he]
  dsimp only
  rw [hb, if_neg (Nat.not_le.mpr hv)]

/-- But it writes its promise. -/
theorem ferryInstr_idle_promise (he : x.em = 0) (kind : FerryKind) (a b : Nat) {v : Nat} (hv : v < (blockOf s g).regs) (d : Nat) :
    ferryInstr s kind a b v (some d) =
      .next (advance (modGroup (endChain s g) g fun x => x.setS d (BitVec.ofNat 64 s.cycle)) g 4) := by
  have hb : blockOf (endChain s g) g = blockOf s g := (endChain_onlyGroup h.2).blockOf h.2 rfl
  rw [ferryInstr, withGroup_issues h, h.getGroup, if_pos he]
  dsimp only
  rw [hb, if_neg (Nat.not_le.mpr hv)]
  rfl

/-- A register beyond the declared count is trap 0. -/
theorem ferryInstr_undeclared (he : x.em = 0) (kind : FerryKind) (a b : Nat) {v : Nat} (hv : (blockOf s g).regs ≤ v)
    (promise : Option Nat) : ferryInstr s kind a b v promise = .next (raise (endChain s g) g 0) := by
  have hb : blockOf (endChain s g) g = blockOf s g := (endChain_onlyGroup h.2).blockOf h.2 rfl
  rw [ferryInstr, withGroup_issues h, h.getGroup, if_pos he]
  dsimp only
  rw [hb, if_pos hv]

/-- With a lane active the command is checked, then issued. -/
theorem ferryInstr_active (he : x.em ≠ 0) (kind : FerryKind) (a b v : Nat) (promise : Option Nat) :
    ferryInstr s kind a b v promise = .next (issueCommand s g 0 (ferryCheck · g kind a b v)
      fun s f => advance (ferryIssue s g f promise none) g 4) := by
  rw [ferryInstr, withGroup_issues h, h.getGroup, if_neg he]

end

/-! ## The issue of a checked command (R123, R124) -/

theorem not_mayIssue_iff (s : State) (g cls : Nat) : ¬ MayIssue s g cls ↔ (63 ≤ ocOf s g cls || outstanding s g) = true := by
  rw [MayIssue, Bool.or_eq_true, decide_eq_true_eq, not_and_or, Bool.not_eq_false, not_lt, or_comm]

section
variable {α : Type} {s s2 : State} {g cls : Nat} {check : State → State × Checked α} {issue : State → α → State}

theorem issueCommand_issues {c : α} (hc : check (performAll (endChain s g) g) = (s2, .ok c)) (hm : MayIssue s2 g cls) :
    issueCommand s g cls check issue = issue s2 c := by
  rw [issueCommand, hc]
  exact if_neg (mt (not_mayIssue_iff ..).mpr (not_not.mpr hm))

theorem issueCommand_waits {c : α} (hc : check (performAll (endChain s g) g) = (s2, .ok c)) (hm : ¬ MayIssue s2 g cls) :
    issueCommand s g cls check issue = waitHere s2 g := by
  rw [issueCommand, hc]
  exact if_pos ((not_mayIssue_iff ..).mp hm)

theorem issueCommand_traps {num code va : Nat} (hc : check (performAll (endChain s g) g) = (s2, .trap num code va)) :
    issueCommand s g cls check issue = raise s2 g num va 0 code := by
  rw [issueCommand, hc]
  rfl

end

theorem waitHere_onlyGroup {s : State} {g : Nat} {x : Group} (hx : kfind s.groups g = some x) : OnlyGroup s (waitHere s g) g (Stalled x) :=
  (OnlyGroup.refl hx).modGroup _

/-- What the issue of a checked command without capture leaves. -/
theorem ferryIssue_leaves {s : State} {g : Nat} {x : Group} (hx : kfind s.groups g = some x) (f : FerryOp) (promise : Option Nat) :
    let t := advance (ferryIssue s g f promise none) g 4
    ∃ o q, OnlyOps s t g (Past s (countFerry promise s.nextId (promisedAt s g f) x) 4) ∧ AddsOp s t s.nextId o ∧
      NewOp s g x o 0 .queued ∧ o.body = .ferry q ∧ FerryQueued s x.block f q none := by
  intro t
  have only := ((withOp_onlyOps hx 0 .queued (.ferry (queuedFerry s (getGroup s g).block f none))).modGroup
    (countFerry promise s.nextId (promisedAt s g f))).past 4
  rw [← ferryIssue_alone] at only
  refine ⟨_, _, only, withOp_addsOp s g 0 .queued _, issuedOp_newOp hx 0 .queued _, rfl, ?_⟩
  rw [getGroup_of hx]
  exact queuedFerry_queued s x.block f none

theorem countFerry_promised (s : State) (x : Group) (d k n : Nat) : Promised (Past s x 4) (Past s (countFerry (some d) k n x) 4) d k n :=
  ⟨rfl, (Group.sreg_setS ..).trans (if_pos rfl), fun _ hr => (Group.sreg_setS ..).trans (if_neg hr)⟩

/-! ## A copy with its captured successor (R154, R162) -/

/-- A check that does not fail goes on. -/
theorem ok_of_else {ε α : Type} {p : Prop} [Decidable p] {e : ε} {r : Except ε α} {m : α} (h : (if p then .error e else r) = .ok m) :
    r = .ok m := by
  by_cases hp : p
  · rw [if_pos hp] at h; cases h
  · rwa [if_neg hp] at h

/-- A checked matrix command is the one that was asked for. -/
theorem mxCheck_cmd {s : State} {g cmd a b : Nat} {m : MatrixOp} (h : mxCheck s g cmd a b = .ok m) : m.cmd = cmd := by
  unfold mxCheck at h
  extract_lets x blk c fmt m0 at h
  have hm0 : m0.cmd = cmd := rfl
  iterate 7 replace h := ok_of_else h
  cases hr : mxReference s (getGroup s g).block m0 with
  | error e => rw [hr] at h; cases h
  | ok u =>
    rw [hr] at h
    cases h
    exact hm0

/-- The check of a matrix command changes nothing. -/
theorem mxChecked_ok {s t : State} {g cmd a b : Nat} {m : MatrixOp} (h : mxChecked s g cmd a b = (t, .ok m)) :
    t = s ∧ mxCheck s g cmd a b = .ok m := by
  unfold mxChecked at h
  split at h
  · cases h
  · next hc =>
    split at h
    · cases h
    · cases h
      exact ⟨rfl, hc⟩

/-- The capture of a matrix command that records no modes. -/
theorem mxIssue_captured (s : State) (g : Nat) {m : MatrixOp} (hm : m.cmd ≠ 5) :
    ∃ n, mxIssue s g m true = (s.nextId, withOp s g 1 .captured (.matrix { m with tag := n })) := by
  refine ⟨(m.gate.map (gateGen s (getGroup s g).block)).getD 0, ?_⟩
  unfold mxIssue
  dsimp only
  rw [if_neg (by simpa using hm)]
  rfl

section
variable {s s2 s3 s4 : State} {g : Nat} {f : FerryOp} {m : MatrixOp} {cmd ma mb : Nat}

/-- The checks of a pair, one command after the other. -/
theorem pairCheck_ok {a b v : Nat} (hf : ferryCheck s2 g .copy a b v = (s3, .ok f)) (hm : mxChecked s3 g cmd ma mb = (s4, .ok m))
    (hoc : ocOf s4 g 1 < 63) : pairCheck s2 g a b v (some (cmd, ma, mb)) = (s4, .ok (f, .ok m)) := by
  simp only [pairCheck, hf, hm, if_neg (Nat.not_le.mpr hoc)]

/-- A pair whose checks hold issues as one unit (R162). -/
theorem ferryPair_issues {x : Group} (h : Issues s g x) {a b v : Nat} {i : Instr} {promise : Option Nat}
    (hi : fetchAt (performAll (endChain s g) g) g ((getGroup (performAll (endChain s g) g) g).pc + 4).toNat = (s2, .instr i))
    (hx : mxFields i = some (cmd, ma, mb)) (hc : pairCheck s2 g a b v (some (cmd, ma, mb)) = (s4, .ok (f, .ok m)))
    (hm : MayIssue s4 g 0) : ferryPair s a b v promise = .next (advance (ferryIssue s4 g f promise (some m)) g 8) := by
  have hw := Bool.not_eq_true _ ▸ mt (not_mayIssue_iff s4 g 0).mpr (not_not.mpr hm)
  rw [ferryPair, withGroup_issues h]
  simp only [hi, hx, hc, settleCheck, hw, Bool.false_eq_true, if_false]

/-- What the issue of a pair leaves: the matrix command, captured, and behind it the copy. -/
theorem ferryIssue_pair_leaves {x : Group} (hx : kfind s.groups g = some x) (f : FerryOp) (hm : m.cmd ≠ 5) :
    let t := advance (ferryIssue s g f none (some m)) g 8
    ∃ o q om, OnlyOps s t g { Past s x 8 with ferryCount := x.ferryCount + 1 } ∧
      kfind t.ops (s.nextId + 1) = some o ∧ NewOp s g x o 0 .queued ∧ o.body = .ferry q ∧
      FerryQueued s x.block f q (some s.nextId) ∧
      kfind t.ops s.nextId = some om ∧ NewOp s g x om 1 .captured ∧ (∃ n, om.body = .matrix { m with tag := n }) ∧
      ∀ j, j ≠ s.nextId → j ≠ s.nextId + 1 → kfind t.ops j = kfind s.ops j := by
  intro t
  obtain ⟨n, hn⟩ := mxIssue_captured s g hm
  let u := withOp s g 1 .captured (.matrix { m with tag := n })
  let q := queuedFerry s (getGroup s g).block f (some s.nextId)
  have hu : OnlyOps s u g x := withOp_onlyOps hx ..
  have ht : t = advance (modGroup (withOp u g 0 .queued (.ferry q)) g (countFerry none u.nextId (promisedAt s g f))) g 8 := by
    show advance (ferryIssue s g f none (some m)) g 8 = _
    rw [ferryIssue_pair, hn]
  have hw : OnlyOps s (withOp u g 0 .queued (.ferry q)) g x := by
    have k := withOp_onlyOps hu.group 0 .queued (.ferry q)
    exact ⟨k.group, fun j hj => (k.others j hj).trans (hu.others j hj), by rw [k.rest, hu.rest]⟩
  obtain ⟨hm0, hmj⟩ := withOp_addsOp s g 1 .captured (.matrix { m with tag := n })
  obtain ⟨hf0, hfj⟩ := withOp_addsOp u g 0 .queued (.ferry q)
  refine ⟨_, q, _, ht ▸ (hw.modGroup _).past 8, ht ▸ hf0, (issuedOp_newOp hu.group 0 .queued _).congr hu hx, rfl, ?_,
    ht ▸ (hfj _ (Nat.succ_ne_self _).symm).trans hm0, issuedOp_newOp hx 1 .captured _, ⟨n, rfl⟩, fun j h1 h2 => ?_⟩
  · rw [← getGroup_of hx]
    exact queuedFerry_queued s _ f _
  · exact ht ▸ (hfj j h2).trans (hmj j h1)

end

end Sys2Proof.Machine

namespace Sys2Proof

open Machine

/-- Settles O36: with em zero by the command's own branch, else by the issue of a command, alone or as a pair. -/
theorem ferryIssue : Obligations.FerryIssue := by
  intro s g x a b v h s1
  refine ⟨fun i hi he hv => ?_, fun f he hv => ?_, fun i hi he hv hvec => ?_,
    fun c hc he => ⟨fun s2 f x2 hck hx2 => ⟨fun hm => ?_, fun hm => ?_⟩, fun s2 x2 num code va hck hx2 hvec hn => ?_⟩, ?_,
    h.sets_uniform (fun y => y.ferryStatus) (withGroup_issues h _)⟩
  · obtain ⟨kind, hk⟩ := exec_ferry_unpromised a b v h he i hi
    exact ⟨_, hk.trans (ferryInstr_idle h he kind _ _ hv), (endChain_onlyGroup h.2).advance 4⟩
  · exact h.sets_uniform (fun _ => BitVec.ofNat 64 s.cycle)
      ((exec_fyCopy_idle a b v h he f true).trans (ferryInstr_idle_promise h he .copy _ _ hv _))
  · obtain ⟨kind, promise, hk⟩ := exec_ferry_idle a b v h he hi
    obtain ⟨y, hy, hent⟩ := raise_endChain h.2 hvec 0 0 0 0
    exact ⟨y, ⟨_, hk.trans (ferryInstr_undeclared h he _ _ _ hv _), hy⟩, hent⟩
  · obtain ⟨o, q, only, adds, new, body, queued⟩ := ferryIssue_leaves hx2 f (c.2.2 b)
    refine ⟨_, _, o, q, ?_, only, adds, new, body, queued, fun hp => ?_, fun d hp => ?_⟩
    · rw [exec_ferryForms a b v s c hc, ferryInstr_active h he]
      exact congrArg _ (issueCommand_issues hck hm)
    · rw [hp]; rfl
    · rw [hp]; exact countFerry_promised ..
  · refine ⟨_, ?_, waitHere_onlyGroup hx2⟩
    rw [exec_ferryForms a b v s c hc, ferryInstr_active h he]
    exact congrArg _ (issueCommand_waits hck hm)
  · obtain ⟨y, hy, hent⟩ := raise_enters hx2 hvec num va 0 code
    refine ⟨y, ⟨_, ?_, hy⟩, ?_⟩
    · rw [exec_ferryForms a b v s c hc, ferryInstr_active h he]
      exact congrArg _ (issueCommand_traps hck)
    · simpa [hn] using hent
  · intro s2 i cmd ma mb s3 f s4 m x4 he hfetch hfields hck hmx hx4 hm hoc hcmd
    obtain ⟨rfl, hmc⟩ := mxChecked_ok hmx
    obtain ⟨o, q, om, leaves⟩ := ferryIssue_pair_leaves hx4 f (mxCheck_cmd hmc ▸ hcmd)
    refine ⟨_, o, q, om, ?_, leaves⟩
    rw [exec_fyCopy_pair a b v h he]
    exact ferryPair_issues h hfetch hfields (pairCheck_ok hck hmx hoc) hm

end Sys2Proof
end

section
/-! What a lane instruction leaves whose body changes its group's record alone: that record, behind the instruction (R57). -/

namespace Sys2Proof.Machine

/-- A form whose body changes the group's record alone leaves that record behind it. -/
theorem laneInstr_onlyGroup {s : State} {g : Nat} {x : Group} (h : Issues s g x) (fm : LaneForm)
    (hd : declared (blockOf s g).regs fm.dst = true) (hs : ∀ r ∈ fm.srcs, declared (blockOf s g).regs r = true)
    (hc : (fm.srcs.any fun c => isLatchCode c.1) = true → x.latch.readers ≠ 32) (f : Nat → Bool → Group → Group) :
    ∃ t, laneInstr s fm (fun g fr s reader => modGroup s g (f fr reader)) = .next t ∧
      OnlyGroup s t g (Past s (f s.fresh (fm.srcs.any fun c => isLatchCode c.1) x) fm.len) := by
  have h0 : OnlyGroup s (if (fm.srcs.any fun c => isLatchCode c.1) = true then { s with fresh := s.fresh + 1 } else s) g x := by
    split
    · exact (OnlyGroup.refl h.2).fresh _
    · exact OnlyGroup.refl h.2
  exact ⟨_, laneInstr_fits h fm hd hs hc _, (h0.modGroup _).past fm.len⟩

/-- The record that a `laneOp` leaves has the effect of R57. -/
theorem laneEffect_past {s : State} {g : Nat} {x : Group} (h : Issues s g x) (L : LaneSpec) (hu : L.unit = 1 ∨ L.unit = 2)
    (hf : L.Fits s g x) :
    LaneEffect s L x (Past s (laneEffect x L.reads L.d L.unit L.cnt L.n (L.result x s.fresh)) L.len) := by
  obtain ⟨t, y, ht, ho, he⟩ := laneOp_runs h L hu hf
  obtain ⟨hd, hs, hc⟩ := hf
  obtain ⟨t', ht', ho'⟩ := laneInstr_onlyGroup h { len := L.len, dst := (L.d, L.unit * L.cnt), srcs := L.srcs } hd hs hc
    fun fr reader z => laneEffect z reader L.d L.unit L.cnt L.n (L.result z fr)
  obtain rfl : t = t' := Host.Outcome.next.inj (ht.symm.trans ht')
  exact Option.some.inj (ho.group.symm.trans ho'.group) ▸ he

end Sys2Proof.Machine
end

section
/-! Flag reads and clears, narrow packing, conversion, select and exchange (R54, R71, R72, R75, R76): all but fsr.clr are a `laneOp`
by definition, and that one is the `laneOp` of fsr.get with a clear of the flags beside it. -/

namespace Sys2Proof.Machine

/-! ## Setting the flags of some lanes -/

/-- Flags that are set in some lanes, each from its number alone. -/
theorem foldl_setFlags_flags (c : Nat → BitVec 5) (ls : List Nat) (x : Group) (l' : Nat) :
    (ls.foldl (fun x l => x.setFlags l (c l)) x).flags l' = if l' ∈ ls then c l' else x.flags l' := by
  induction ls generalizing x with
  | nil => rfl
  | cons a r ih =>
    rw [List.foldl_cons, ih, Group.flags_setFlags]
    by_cases hr : l' ∈ r
    · simp [hr]
    · by_cases ha : l' = a
      · simp [ha]
      · simp [hr, ha]

/-- The clear of fsr.clr (R71): in the active lanes of `g` the record `x` takes the flags of `g` without those of `c`. -/
def clearFlags (g : Group) (c : Nat → BitVec 5) (x : Group) : Group :=
  g.lanes.foldl (fun x l => x.setFlags l (g.flags l &&& ~~~c l)) x

theorem clearFlags_rest (g : Group) (c : Nat → BitVec 5) (x : Group) : clearFlags g c x = { x with fsr := (clearFlags g c x).fsr } :=
  foldl_setFlags_rest (fun _ l => g.flags l &&& ~~~c l) g.lanes x

theorem clearFlags_flags (g : Group) (c : Nat → BitVec 5) (x : Group) {l : Nat} (hl : l < 32) :
    (clearFlags g c x).flags l = if g.active l then g.flags l &&& ~~~c l else x.flags l := by
  rw [clearFlags, foldl_setFlags_flags]
  simp only [Group.mem_lanes, hl, true_and]

/-- A read of the flags raises none. -/
theorem laneFlags_plain (cnt : Nat) (f : Nat → Nat → Word) (l : Nat) : laneFlags cnt (fun i l => plain (f i l)) l = 0 := by
  refine BitVec.eq_of_getLsbD_eq fun b _ => ?_
  rw [← Bool.coe_iff_coe, laneFlags_bit]
  simp [plain]

/-! ## The forms -/

theorem cvt_runs (d a : BitVec 7) (w : BitVec 2) (y z : BitVec 4) (n : Bool) (hy : y.toNat ≤ 11) (hz : z.toNat ≤ 11) :
    LaneRuns (.cvt d a w y z n) (cvtSpec d a w y z n) := by
  refine laneRuns_of_laneOp _ ?_ fun s => ?_
  · show (if isWide y then 2 else 1) = 1 ∨ (if isWide y then 2 else 1) = 2
    cases isWide y <;> simp
  · show execCvt d a w y z n s = _
    rw [execCvt, typeUnit_eq _ hy, typeUnit_eq _ hz]
    cases hw : isWide z <;> simp [cvtSpec, hw]

/-- An exchange by an optional source lane is one by a source and its range. -/
theorem shuffle_runs {i : Instr} {d a b : BitVec 7} {source : Nat → Nat → Nat} {inRange : Nat → Nat → Bool}
    (hi : ∀ s, exec i s = shuffle s d a b fun l n => if inRange l n then some (source l n) else none) :
    LaneRuns i (exchangeSpec d a b source inRange) := by
  refine laneRuns_of_laneOp _ (.inl rfl) fun s => (hi s).trans ?_
  have hget : ∀ l n, (if inRange l n then some (source l n) else none).getD l = if inRange l n then source l n else l := by
    intro l n
    cases inRange l n <;> rfl
  simp only [shuffle, hget]
  rfl

theorem exchanges_run : ∀ p ∈ exchangeOps, ∀ d a b, LaneRuns (p.1 d a b) (exchangeSpec d a b p.2.1 p.2.2) := by
  simp only [exchangeOps, List.forall_mem_cons]
  refine ⟨fun d a b => shuffle_runs fun s => ?idx, fun d a b => shuffle_runs fun s => ?up, fun d a b => shuffle_runs fun s => ?down,
    fun d a b => shuffle_runs fun s => ?xor, fun d a b => shuffle_runs fun s => ?bcast, fun _ h => absurd h List.not_mem_nil⟩
  case idx => show execShfIdx d a b s = _; simp [execShfIdx, laneIn]
  case up => show execShfUp d a b s = _; simp only [execShfUp, decide_eq_true_eq, ← Nat.not_lt, ite_not]
  case down => show execShfDown d a b s = _; simp [execShfDown, laneIn]
  case xor => show execShfXor d a b s = _; simp only [execShfXor, decide_eq_true_eq, ← Nat.not_lt, ite_not]
  case bcast => show execBcast d a b s = _; simp [execBcast, laneIn]

/-- fsr.clr is fsr.get beside its clear, which reads the flags before either. -/
theorem fsrClr_leaves {s : State} {g : Nat} {x : Group} (h : Issues s g x) (d a : BitVec 7) (n : Bool)
    (hf : ({ fsrGetSpec d n with srcs := [(a.toNat, 1)] } : LaneSpec).Fits s g x) :
    Leaves (.fsrClr d a n) s g (Past s (clearFlags x (fun l => (src x s.fresh a.toNat 0 l).setWidth 5)
      (laneEffect x (isLatchCode a.toNat) d.toNat 1 1 n fun _ l => plain ((x.flags l).setWidth 32))) 4) := by
  obtain ⟨hd, hs, hc⟩ := hf
  obtain ⟨t, ht, ho⟩ := laneInstr_onlyGroup h { len := 4, dst := (d.toNat, 1), srcs := [(a.toNat, 1)] } hd hs hc fun fr reader z =>
    clearFlags z (fun l => (src z fr a.toNat 0 l).setWidth 5)
      (laneEffect z reader d.toNat 1 1 n fun _ l => plain ((z.flags l).setWidth 32))
  exact ⟨t, ht, by simpa only [List.any_cons, List.any_nil, Bool.or_false] using ho⟩

/-- Settles O8: each form but fsr.clr runs as its `laneOp`; fsr.clr leaves the record of fsr.get but for the flags that it clears. -/
theorem movesAndConversions : Obligations.MovesAndConversions := by
  refine ⟨fun _ _ => laneRuns_of_laneOp _ (.inl rfl) fun _ => rfl, fun _ _ _ _ => laneRuns_of_laneOp _ (.inl rfl) fun _ => rfl,
    fun _ _ _ _ => laneRuns_of_laneOp _ (.inl rfl) fun _ => rfl, cvt_runs, fun _ _ _ _ => laneRuns_of_laneOp _ (.inl rfl) fun _ => rfl,
    exchanges_run, ?_⟩
  intro d a n s g x h L hf
  refine ⟨_, _, fsrClr_leaves h d a n hf, laneEffect_past h L (.inl rfl) hf, ?_, fun l hl => ?_⟩
  · rw [clearFlags_rest]
    simp [L, LaneSpec.reads, fsrGetSpec, Past, word, plain]
  · show (clearFlags x _ _).flags l = _
    rw [clearFlags_flags _ _ _ hl, laneEffect_flags _ _ _ _ _ _ _ _ hl, laneFlags_plain]
    cases x.active l <;> simp

end Sys2Proof.Machine
end

section
/-! The reductions (R56, R78): the levels of the fixed tree, and the statement about them. -/

namespace Sys2Proof.Machine

/-! ## Nodes of the tree, with the flags below them -/

abbrev TreeNode := Option Word × Fp.Flags

/-- A node over two others: an absent one passes its sibling through. -/
def joinNodes (op : Word → Word → Res) (a b : TreeNode) : TreeNode :=
  match a.1, b.1 with
  | some x, some y => (some ((op x y).1.setWidth 32), a.2 ||| b.2 ||| (op x y).2)
  | some x, none => (some x, a.2 ||| b.2)
  | none, r => (r, a.2 ||| b.2)

theorem laneTree_succ (op : Word → Word → Res) (leaf : Nat → Option Word) (h lo : Nat) :
    laneTree op leaf (h + 1) lo = joinNodes op (laneTree op leaf h lo) (laneTree op leaf h (lo + 2 ^ h)) := rfl

/-- The level above some nodes: each two of them joined. -/
def joinPairs (op : Word → Word → Res) : List TreeNode → List TreeNode
  | a :: b :: r => joinNodes op a b :: joinPairs op r
  | r => r

/-- The flags of all nodes of a level. -/
def flagsOf (ns : List TreeNode) : Fp.Flags := ns.foldr (fun n fl => n.2 ||| fl) 0

@[simp] theorem flagsOf_nil : flagsOf [] = 0 := rfl
@[simp] theorem flagsOf_cons (n : TreeNode) (ns : List TreeNode) : flagsOf (n :: ns) = n.2 ||| flagsOf ns := rfl

theorem flagsOf_eq_zero {ns : List TreeNode} (h : ∀ n ∈ ns, n.2 = 0) : flagsOf ns = 0 := by
  induction ns with
  | nil => rfl
  | cons n ns ih =>
    obtain ⟨hn, hns⟩ := List.forall_mem_cons.mp h
    rw [flagsOf_cons, hn, ih hns]
    rfl

/-- `pairUp` forms the values of the level above, and the flags that this level adds. -/
theorem pairUp_nodes (op : Word → Word → Res) (ns : List TreeNode) :
    (pairUp op (ns.map Prod.fst)).1 = (joinPairs op ns).map Prod.fst ∧
      flagsOf ns ||| (pairUp op (ns.map Prod.fst)).2 = flagsOf (joinPairs op ns) := by
  induction ns using joinPairs.induct with
  | case1 a b r ih =>
    obtain ⟨hv, hf⟩ := ih
    obtain ⟨va, fa⟩ := a
    obtain ⟨vb, fb⟩ := b
    rw [joinPairs, flagsOf_cons, flagsOf_cons, flagsOf_cons, ← hf, List.map_cons, List.map_cons, List.map_cons, ← hv]
    have hor : fa ||| (fb ||| flagsOf r) ||| (pairUp op (r.map Prod.fst)).2 =
        fa ||| fb ||| (flagsOf r ||| (pairUp op (r.map Prod.fst)).2) := by ac_rfl
    cases va with
    | none => exact ⟨rfl, hor⟩
    | some u =>
      cases vb with
      | none => exact ⟨rfl, hor⟩
      | some v => exact ⟨rfl, by simp only [pairUp, joinNodes]; ac_rfl⟩
  | case2 r hr =>
    match r, hr with
    | [], _ => simp [joinPairs, pairUp]
    | [n], _ => simp [joinPairs, pairUp]
    | a :: b :: r, hr => exact absurd rfl (hr a b r)

/-! ## Levels of the tree -/

/-- The `n` nodes at height `h` from lane `lo` on. -/
def levelNodes (op : Word → Word → Res) (leaf : Nat → Option Word) (h lo n : Nat) : List TreeNode :=
  (List.range' lo n (2 ^ h)).map (laneTree op leaf h)

theorem levelNodes_succ (op : Word → Word → Res) (leaf : Nat → Option Word) (h lo n : Nat) :
    levelNodes op leaf h lo (n + 1) = laneTree op leaf h lo :: levelNodes op leaf h (lo + 2 ^ h) n := by
  rw [levelNodes, List.range'_succ, List.map_cons, levelNodes]

theorem joinPairs_levelNodes (op : Word → Word → Res) (leaf : Nat → Option Word) (h lo n : Nat) :
    joinPairs op (levelNodes op leaf h lo (2 * n)) = levelNodes op leaf (h + 1) lo n := by
  induction n generalizing lo with
  | zero => rfl
  | succ n ih =>
    have hlo : lo + 2 ^ h + 2 ^ h = lo + 2 ^ (h + 1) := by omega
    rw [Nat.mul_succ, levelNodes_succ, levelNodes_succ, levelNodes_succ, joinPairs, hlo, ih, laneTree_succ]

/-- A level as `reduceTree` carries it: its values, and the flags of every combination so far. -/
def levelState (op : Word → Word → Res) (leaf : Nat → Option Word) (h n : Nat) : List (Option Word) × Fp.Flags :=
  ((levelNodes op leaf h 0 n).map Prod.fst, flagsOf (levelNodes op leaf h 0 n))

/-- One level of `reduceTree`. -/
def treeStep (op : Word → Word → Res) (x : List (Option Word) × Fp.Flags) : List (Option Word) × Fp.Flags :=
  ((pairUp op x.1).1, x.2 ||| (pairUp op x.1).2)

theorem reduceTree_eq (op : Word → Word → Res) (leaves : List (Option Word)) :
    reduceTree op leaves =
      (let r := treeStep op (treeStep op (treeStep op (treeStep op (treeStep op (leaves, 0)))))
       (r.1.headD none, r.2)) := rfl

theorem treeStep_levelState (op : Word → Word → Res) (leaf : Nat → Option Word) (h n : Nat) :
    treeStep op (levelState op leaf h (2 * n)) = levelState op leaf (h + 1) n := by
  obtain ⟨hv, hf⟩ := pairUp_nodes op (levelNodes op leaf h 0 (2 * n))
  rw [joinPairs_levelNodes] at hv hf
  exact Prod.ext hv hf

theorem levelState_leaves (op : Word → Word → Res) (leaf : Nat → Option Word) (n : Nat) :
    levelState op leaf 0 n = ((List.range n).map leaf, 0) := by
  refine Prod.ext ?_ (flagsOf_eq_zero fun m hm => ?_)
  · simp only [levelState, levelNodes, List.map_map, List.range_eq_range']
    rfl
  · obtain ⟨l, _, rfl⟩ := List.mem_map.mp hm
    rfl

/-- Five levels over 32 lanes are the tree of R56. -/
theorem reduceTree_eq_laneTree (op : Word → Word → Res) (leaf : Nat → Option Word) :
    reduceTree op ((List.range 32).map leaf) = laneTree op leaf 5 0 := by
  rw [reduceTree_eq, ← levelState_leaves op, treeStep_levelState op leaf 0 16, treeStep_levelState op leaf 1 8,
    treeStep_levelState op leaf 2 4, treeStep_levelState op leaf 3 2, treeStep_levelState op leaf 4 1]
  simp [levelState, levelNodes]

/-! ## The record behind a reduction -/

/-- The root in a uniform register, its flags in every active lane, and no push. -/
def reduced (x : Group) (reader : Bool) (d : Nat) (empty : Word) (r : TreeNode) : Group :=
  let y := x.setS d ((r.1.getD empty).setWidth 64)
  { x.lanes.foldl (fun y l => y.setFlags l (y.flags l ||| r.2)) y with latch := pushLatch x reader none }

section
variable (x : Group) (reader : Bool) (d : Nat) (empty : Word) (r : TreeNode)

theorem reduced_rest : reduced x reader d empty r =
    { x with s := (x.setS d ((r.1.getD empty).setWidth 64)).s, fsr := (reduced x reader d empty r).fsr
             latch := pushLatch x reader none } := by
  have h := foldl_setFlags_rest (fun y l => y.flags l ||| r.2) x.lanes (x.setS d ((r.1.getD empty).setWidth 64))
  exact congrArg (fun y : Group => { y with latch := pushLatch x reader none }) h

theorem reduced_sreg (j : Nat) : (reduced x reader d empty r).sreg j = if j = d then (r.1.getD empty).setWidth 64 else x.sreg j := by
  rw [reduced_rest]
  exact Group.sreg_setS x d j _

theorem reduced_flags {l : Nat} (hl : l < 32) :
    (reduced x reader d empty r).flags l = if x.active l then x.flags l ||| r.2 else x.flags l := by
  have h := foldl_or_flags (fun _ => r.2) x.lanes x.lanes_nodup (x.setS d ((r.1.getD empty).setWidth 64)) l
  simp only [Group.mem_lanes, hl, true_and] at h
  exact h

end

/-- Without a push the chain goes on at a reader, and ends elsewhere (R25, R27). -/
theorem pushLatch_none (x : Group) (reader : Bool) :
    pushLatch x reader none = if reader then { x.latch with readers := x.latch.readers + 1 } else {} := by
  cases reader <;> rfl

/-! ## The statement -/

theorem reduceOps_exec : ∀ p ∈ reduceOps, ∀ d a s, exec (p.1 d a) s = reduce s d a p.2.2 p.2.1 := by
  simp only [reduceOps, List.forall_mem_cons, ← plain_min, ← plain_max]
  exact ⟨fun _ _ _ => rfl, fun _ _ _ => rfl, fun _ _ _ => rfl, fun _ _ _ => rfl, fun _ _ _ => rfl, fun _ _ _ => rfl,
    fun _ h => absurd h List.not_mem_nil⟩

/-- A reduction leaves the record with the root of its lanes' tree. -/
theorem reduce_onlyGroup {s : State} {g : Nat} {x : Group} (h : Issues s g x) (d : BitVec 6) {a : BitVec 7} (empty : Word)
    (op : Word → Word → Res) (ha : declared (blockOf s g).regs (a.toNat, 1) = true)
    (hc : isLatchCode a.toNat = true → x.latch.readers ≠ 32) :
    ∃ t, reduce s d a empty op = .next t ∧ OnlyGroup s t g (Past s (reduced x (isLatchCode a.toNat) d.toNat empty
      (laneTree op (fun l => if x.active l then some (src x s.fresh a.toNat 0 l) else none) 5 0)) 4) := by
  obtain ⟨t, ht, ho⟩ := laneInstr_onlyGroup h { len := 4, dst := (124, 1), srcs := [(a.toNat, 1)] } rfl (by simpa using ha)
    (by simpa using hc) fun fr reader z => reduced z reader d.toNat empty
      (reduceTree op ((List.range 32).map fun l => if z.active l then some (src z fr a.toNat 0 l) else none))
  rw [reduceTree_eq_laneTree] at ho
  exact ⟨t, ht, by simpa only [List.any_cons, List.any_nil, Bool.or_false] using ho⟩

/-- Settles O12: the five levels that `reduceTree` forms one after the other have the root and the flags of the recursive tree. -/
theorem reductions : Obligations.Reductions := by
  intro p hp d a s g x h ha hc r
  obtain ⟨t, ht, ho⟩ := reduce_onlyGroup h d p.2.2 p.2.1 ha hc
  refine ⟨_, ⟨t, (reduceOps_exec p hp d a s).trans ht, ho⟩, ?_, fun j hj => ?_, fun l hl => ?_, ?_⟩
  · exact (reduced_sreg x (isLatchCode a.toNat) d.toNat p.2.2 r d.toNat).trans (if_pos rfl)
  · exact (reduced_sreg x (isLatchCode a.toNat) d.toNat p.2.2 r j).trans (if_neg hj)
  · exact reduced_flags x (isLatchCode a.toNat) d.toNat p.2.2 r hl
  · rw [reduced_rest, pushLatch_none]
    rfl

end Sys2Proof.Machine
end

section
/-! Uniform arithmetic, moves and compares (R81): each is one write of a uniform register behind the end of the chain. -/

namespace Sys2Proof.Machine

/-- The write of the operation's result, the one effect of a `uniform2`. -/
theorem uniform2_sets {s : State} {g : Nat} {x : Group} (h : Issues s g x) {i : Instr} {d a b : BitVec 6} {im : Bool}
    {op : DWord → DWord → DWord} (hi : exec i s = uniform2 s d a b im op) :
    ∃ y, Leaves i s g y ∧ SetsUniform s x y 4 d.toNat (op (x.sreg a.toNat) (secondOf x b im)) :=
  h.sets_uniform (fun y => op (y.sreg a.toNat) (uniformB y b im)) (hi.trans (withGroup_issues h _))

/-- Every uniform operation of the table is a `uniform2` of its function: the model's product and compares are those of the numbers. -/
theorem uniformOps_exec : ∀ p ∈ uniformOps, ∀ d a b i s, exec (p.1 d a b i) s = uniform2 s d a b i p.2 := by
  have mul : (fun x y : DWord => x * y) = fun x y => BitVec.ofNat 64 (x.toNat * y.toNat) :=
    funext₂ fun x y => BitVec.eq_of_toNat_eq (by rw [BitVec.toNat_mul, BitVec.toNat_ofNat])
  have eq : (fun x y : DWord => if x == y then (1 : DWord) else 0) = fun x y => if x = y then 1 else 0 := by simp only [beq_iff_eq]
  have ne : (fun x y : DWord => if x != y then (1 : DWord) else 0) = fun x y => if x = y then 0 else 1 := by
    simp only [bne_iff_ne, ite_not]
  have lt : (fun x y : DWord => if x.slt y then (1 : DWord) else 0) = fun x y => if x.toInt < y.toInt then 1 else 0 := by simp [BitVec.slt]
  have le : (fun x y : DWord => if x.sle y then (1 : DWord) else 0) = fun x y => if x.toInt ≤ y.toInt then 1 else 0 := by simp [BitVec.sle]
  have gt : (fun x y : DWord => if y.slt x then (1 : DWord) else 0) = fun x y => if y.toInt < x.toInt then 1 else 0 := by simp [BitVec.slt]
  have ge : (fun x y : DWord => if y.sle x then (1 : DWord) else 0) = fun x y => if y.toInt ≤ x.toInt then 1 else 0 := by simp [BitVec.sle]
  have ltu : (fun x y : DWord => if x.ult y then (1 : DWord) else 0) = fun x y => if x.toNat < y.toNat then 1 else 0 := by simp [BitVec.ult]
  have leu : (fun x y : DWord => if x.ule y then (1 : DWord) else 0) = fun x y => if x.toNat ≤ y.toNat then 1 else 0 := by simp [BitVec.ule]
  have gtu : (fun x y : DWord => if y.ult x then (1 : DWord) else 0) = fun x y => if y.toNat < x.toNat then 1 else 0 := by simp [BitVec.ult]
  have geu : (fun x y : DWord => if y.ule x then (1 : DWord) else 0) = fun x y => if y.toNat ≤ x.toNat then 1 else 0 := by simp [BitVec.ule]
  simp only [uniformOps, List.forall_mem_cons, ← mul, ← eq, ← ne, ← lt, ← le, ← gt, ← ge, ← ltu, ← leu, ← gtu, ← geu]
  exact ⟨fun _ _ _ _ _ => rfl, fun _ _ _ _ _ => rfl, fun _ _ _ _ _ => rfl, fun _ _ _ _ _ => rfl, fun _ _ _ _ _ => rfl,
    fun _ _ _ _ _ => rfl, fun _ _ _ _ _ => rfl, fun _ _ _ _ _ => rfl, fun _ _ _ _ _ => rfl, fun _ _ _ _ _ => rfl,
    fun _ _ _ _ _ => rfl, fun _ _ _ _ _ => rfl, fun _ _ _ _ _ => rfl, fun _ _ _ _ _ => rfl, fun _ _ _ _ _ => rfl,
    fun _ _ _ _ _ => rfl, fun _ _ _ _ _ => rfl, fun _ _ _ _ _ => rfl, fun _ h => absurd h List.not_mem_nil⟩

/-- Settles O16: every form, smov among them, is a `uniform2`. -/
theorem uniformOperations : Obligations.UniformOperations :=
  ⟨fun p hp d a b i _ _ _ h => uniform2_sets h (uniformOps_exec p hp d a b i _),
    fun d b i _ _ _ h => uniform2_sets h (i := .smov d b i) (a := 0) (op := fun _ y => y) rfl⟩

end Sys2Proof.Machine
end

section
/-! Jumps to a register's target (R87, R88), user traps and breakpoints (R91). -/

namespace Sys2Proof.Machine

theorem displaced_ofInt (a : DWord) (d : BitVec 19) : displaced a d = a + BitVec.ofInt 64 (2 * d.toInt) := by
  rw [displaced, BitVec.ofInt_mul, BitVec.signExtend, mul_comm]
  rfl

/-- Every jump of the table is a `jump` to its target. -/
theorem jumpOps_exec : ∀ p ∈ jumpOps, ∀ d (k : BitVec 3) s, exec (p.1 d k) s = jump s (fun x => p.2.1 x d k.toNat) p.2.2 := by
  simp only [jumpOps, List.forall_mem_cons, ← displaced_ofInt]
  exact ⟨fun _ _ _ => rfl, fun _ _ _ => rfl, fun _ _ _ => rfl, fun _ h => absurd h List.not_mem_nil⟩

/-- The registers behind a jump: s63 takes the return address where the jump links. -/
def linked (link : Bool) (x : Group) : Group := if link then x.setS 63 (x.pc + 4) else x

theorem linked_rest (link : Bool) (x : Group) : linked link x = { x with s := (linked link x).s } := by cases link <;> rfl

theorem linked_sreg (link : Bool) (x : Group) (r : Nat) : (linked link x).sreg r = if link = true ∧ r = 63 then x.pc + 4 else x.sreg r := by
  cases link with
  | false => simp [linked]
  | true => simp [linked, Group.sreg_setS]

section
variable {s : State} {g : Nat} {x : Group} {t : Group → DWord} {link : Bool}

theorem jump_taken (h : Issues s g x) (ht : JumpOk (t x)) :
    ∃ u, jump s t link = .next u ∧ OnlyGroup s u g { linked link x with latch := {}, pc := t x } := by
  refine ⟨_, ?_, (OnlyGroup.refl h.2).modGroup fun y => { linked link y with latch := {}, pc := t y }⟩
  unfold jump
  rw [withGroup_issues h, h.getGroup]
  simp only [(jumpOk_iff _).mp ht, Bool.false_eq_true, if_false, linked]

theorem jump_refused (h : Issues s g x) (ht : ¬ JumpOk (t x)) : jump s t link = .next (raise s g 2 (t x).toNat) := by
  rw [jumpOk_iff, Bool.not_eq_false] at ht
  unfold jump
  rw [withGroup_issues h, h.getGroup]
  simp only [ht, if_true]

end

/-- Settles O19: the check of the target comes before the write. -/
theorem jumps : Obligations.Jumps := by
  intro p hp d k s g x h t
  refine ⟨fun ht => ?_, fun ht hv => traps_of_raise h hv (by decide) ((jumpOps_exec p hp d k s).trans (jump_refused h ht))⟩
  obtain ⟨u, hu, ho⟩ := jump_taken (link := p.2.2) (t := fun y => p.2.1 y d k.toNat) h ht
  refine ⟨_, ⟨u, (jumpOps_exec p hp d k s).trans hu, ho⟩, ?_, fun hl => ?_, fun r hr => ?_⟩
  · rw [linked_rest]
  · exact (linked_sreg ..).trans (if_pos ⟨hl, rfl⟩)
  · exact (linked_sreg ..).trans (if_neg fun hl => hr hl.1 hl.2)

/-- Settles O20: both raise their exception behind themselves. -/
theorem userTraps : Obligations.UserTraps := by
  intro s g x h hv
  refine ⟨fun n => ?_, ?_⟩
  · obtain ⟨y, ho, he⟩ := raiseAfter_enters h.2 hv (num := 13) n.toNat (by decide)
    exact ⟨y, ⟨_, withGroup_issues h _, ho⟩, he⟩
  · obtain ⟨y, ho, he⟩ := raiseAfter_enters h.2 hv (num := 12) 0 (by decide)
    exact ⟨y, ⟨_, withGroup_issues h _, ho⟩, he⟩

end Sys2Proof.Machine
end

section
/-! The counter waits in both forms (R129): what they cover, the status word, trap 10. -/

namespace Sys2Proof.Machine

/-! ## Covered operations -/

/-- A wait has covered some operations for the group with record `x`, now `y`: they are gone, and their flags are merged (R53, R129). -/
def Covers (s t : State) (g : Nat) (x y : Group) (covered : KMap Op) : Prop :=
  OnlyOps s t g y ∧ FlagsOf x y covered ∧ ∀ k, kfind t.ops k = if (kfind covered k).isSome then none else kfind s.ops k

theorem contains_kkeys {α : Type} (m : KMap α) (k : Nat) : (kkeys m).contains k = (kfind m k).isSome := by
  rw [Bool.eq_iff_iff, kfind_isSome_iff, List.contains_iff_mem, kkeys, List.mem_map]

theorem kfind_coverOps (s : State) (g : Nat) (covered : KMap Op) (k : Nat) :
    kfind (coverOps s g covered).ops k = if (kfind covered k).isSome then none else kfind s.ops k := by
  refine (kfind_filter s.ops (fun k => !(kkeys covered).contains k) k).trans ?_
  rw [contains_kkeys]
  cases (kfind covered k).isSome <;> rfl

theorem Covers.modGroup {s t : State} {g : Nat} {x y : Group} {covered : KMap Op} (h : Covers s t g x y covered) (f : Group → Group)
    (hf : (f y).fsr = y.fsr) : Covers s (modGroup t g f) g x (f y) covered :=
  ⟨h.1.modGroup f, fun l hl b => by rw [Group.flags, hf]; exact h.2.1 l hl b, h.2.2⟩

theorem Covers.past {s t : State} {g : Nat} {x y : Group} {covered : KMap Op} (h : Covers s t g x y covered) :
    Covers s (advance t g 4) g x (Past s y 4) covered := ⟨h.1.past 4, h.2⟩

/-! ## The status word -/

/-- The record of a group that has read the status of a class whose count is `oc` into register `d` and cleared it. -/
def Group.readStatus (x : Group) (oc cls d : Nat) : Group :=
  { x.setS d (BitVec.ofNat 64 (oc + 256 * bit (x.err.getLsbD cls) + 512 * bit (x.tmo.getLsbD cls))) with
    err := x.err &&& ~~~(BitVec.ofNat 4 (2 ^ cls)), tmo := x.tmo &&& ~~~(BitVec.ofNat 4 (2 ^ cls)) }

theorem bit_eq_toNat (b : Bool) : bit b = b.toNat := by cases b <;> rfl

theorem Group.sreg_readStatus (x : Group) (oc cls d r : Nat) : (x.readStatus oc cls d).sreg r =
    if r = d then BitVec.ofNat 64 (oc + 256 * (x.err.getLsbD cls).toNat + 512 * (x.tmo.getLsbD cls).toNat) else x.sreg r := by
  rw [← bit_eq_toNat, ← bit_eq_toNat]
  exact Group.sreg_setS ..

/-- Clearing a sticky bit leaves the others. -/
theorem getLsbD_clearBit (e : BitVec 4) {c k : Nat} (hk : k < 4) :
    (e &&& ~~~(BitVec.ofNat 4 (2 ^ c))).getLsbD k = (e.getLsbD k && k != c) := by
  rw [BitVec.getLsbD_and, BitVec.getLsbD_not, BitVec.getLsbD_ofNat, Nat.testBit_two_pow, decide_eq_true hk, Bool.true_and, Bool.true_and,
    bne_comm, bne, beq_eq_decide]

/-! ## The end of a wait -/

/-- The end of a counter wait of a class, behind its coverage in `v`. -/
def endOc (v : State) (g cls : Nat) (failed : Bool) : State :=
  if cls == 3 && failed && bitAt (ctxOf v g).trapEn 10 then raiseAfter v g 10 3 else advance v g 4

section
variable {s v : State} {g cls : Nat} {x z : Group} {failed : Bool} (hx : kfind s.groups g = some x) (h : OnlyOps s v g z)
  (hb : z.block = x.block)
include hx h hb

theorem endOc_goesOn (hq : cls = 3 → failed = false ∨ bitAt (ctxOf s g).trapEn 10 = false) : endOc v g cls failed = advance v g 4 := by
  refine if_neg ?_
  rw [h.ctxOf hx hb]
  by_cases hc : cls = 3
  · rcases hq hc with hf | hf <;> simp [hf]
  · simp [hc]

theorem endOc_traps (hc : cls = 3) (hf : failed = true) (h10 : bitAt (ctxOf s g).trapEn 10 = true) (hv : vectorOf s g ≠ 0) :
    ∃ f, endOc v g cls failed = modGroup v g f ∧ Entered s g z (f z) 10 3 (z.pc + 4) z.pc 0 0 z.em := by
  have hctx : ctxOf v g = ctxOf s g := h.ctxOf hx hb
  have hvec : vectorOf v g = vectorOf s g := by rw [vectorOf, vectorOf, hctx]
  obtain ⟨f, he, hent⟩ := raiseAfter_modGroup h.group (hvec ▸ hv) 3 (num := 10) (by decide)
  refine ⟨f, ?_, hent.congr hvec h.cycle⟩
  rw [endOc, hctx, hc, hf, h10, if_pos (by decide), he]

end

/-- The chain that an exception ends does not show in the record behind it. -/
theorem Entered.chainBefore {s : State} {g : Nat} {x y : Group} {num code : Nat} {pc addr vaddr : DWord} {lanes em : Word}
    (h : Entered s g x y num code pc addr vaddr lanes em) (l : Latches) :
    Entered s g { x with latch := l } y num code pc addr vaddr lanes em :=
  ⟨h.target, h.saved, h.mask, h.mode, h.chain, h.ready, h.rest⟩

/-! ## The instructions -/

/-- The threshold of a counter wait. -/
def ocThreshold (x : Group) (b : BitVec 6) (i : Bool) : Nat := if i then b.toNat else min (x.sreg b.toNat).toNat 63

section
variable {s : State} {g : Nat} {x : Group} (h : Issues s g x)
include h

theorem waitOcInstr_eq (b : BitVec 6) (i : Bool) (c : BitVec 2) (dst : Option Nat) : waitOcInstr s b i c dst = .next
    (if ocOf s g c.toNat ≤ ocThreshold x b i then completeOc (endChain s g) g c.toNat (ocThreshold x b i) dst
     else block (endChain s g) g (.oc c.toNat (ocThreshold x b i) dst)) := by
  rw [waitOcInstr, withGroup_issues h]
  dsimp only
  rw [getGroup_endChain h]
  rfl

/-- Coverage behind the end of the group's chain. -/
theorem covers_endChain (covered : KMap Op) : ∃ z, Covers s (coverOps (endChain s g) g covered) g x z covered ∧
    z = { x with latch := {}, fsr := z.fsr, ferryStatus := z.ferryStatus } := by
  obtain ⟨z, hz, hfl, hrest⟩ := coverOps_only (endChain_onlyGroup h.2) covered
  exact ⟨z, ⟨hz, hfl, kfind_coverOps (endChain s g) g covered⟩, hrest⟩

theorem waitOc_blocks {b : BitVec 6} {i : Bool} {c : BitVec 2} {dst : Option Nat} (hn : ocThreshold x b i < ocOf s g c.toNat) :
    ∃ t, waitOcInstr s b i c dst = .next t ∧
      OnlyGroup s t g { x with latch := {}, status := .blocked (.oc c.toNat (ocThreshold x b i) dst) } := by
  have hexec := waitOcInstr_eq h b i c dst
  rw [if_neg (Nat.not_le.2 hn)] at hexec
  exact ⟨_, hexec, (endChain_onlyGroup h.2).modGroup _⟩

variable {b : BitVec 6} {i : Bool} {c : BitVec 2} {covered : KMap Op} (hcov : coveredOps s g c.toNat (ocThreshold x b i) = covered)
  (hn : ocOf s g c.toNat ≤ ocThreshold x b i)
include hcov hn

theorem waitOcInstr_none : waitOcInstr s b i c none = .next (endOc (coverOps (endChain s g) g covered) g c.toNat (anyFailed covered)) := by
  rw [waitOcInstr_eq h, if_pos hn, ← hcov]
  rfl

theorem waitOcInstr_some (d : Nat) : waitOcInstr s b i c (some d) =
    .next (endOc (modGroup (coverOps (endChain s g) g covered) g fun y => y.readStatus (ocOf s g c.toNat) c.toNat d) g c.toNat
      (anyFailed covered)) := by
  rw [waitOcInstr_eq h, if_pos hn, ← hcov]
  rfl

theorem waitOc_completes (hq : c.toNat = 3 → anyFailed covered = false ∨ bitAt (ctxOf s g).trapEn 10 = false) :
    ∃ t y, exec (.waitOc b i c) s = .next t ∧ Covers s t g x y covered ∧
      y = { Behind s x 4 with fsr := y.fsr, ferryStatus := y.ferryStatus } := by
  obtain ⟨z, hz, hrest⟩ := covers_endChain h covered
  have hexec := waitOcInstr_none h hcov hn
  rw [endOc_goesOn h.2 hz.1 (by rw [hrest]) hq] at hexec
  exact ⟨_, Past s z 4, hexec, hz.past, congrArg (Past s · 4) hrest⟩

theorem waitOcSt_completes (d : BitVec 6) (hq : c.toNat = 3 → anyFailed covered = false ∨ bitAt (ctxOf s g).trapEn 10 = false) :
    ∃ t y, exec (.waitOcSt d b i c) s = .next t ∧ Covers s t g x y covered ∧
      y = { Behind s x 4 with fsr := y.fsr, ferryStatus := y.ferryStatus, s := y.s, err := y.err, tmo := y.tmo } ∧
      y.sreg d.toNat =
        BitVec.ofNat 64 (ocOf s g c.toNat + 256 * (x.err.getLsbD c.toNat).toNat + 512 * (x.tmo.getLsbD c.toNat).toNat) ∧
      (∀ r, r ≠ d.toNat → y.sreg r = x.sreg r) ∧
      ∀ k < 4, y.err.getLsbD k = (x.err.getLsbD k && k != c.toNat) ∧ y.tmo.getLsbD k = (x.tmo.getLsbD k && k != c.toNat) := by
  obtain ⟨z, hz, hrest⟩ := covers_endChain h covered
  have hread := hz.modGroup (fun y => y.readStatus (ocOf s g c.toNat) c.toNat d.toNat) rfl
  have hexec := waitOcInstr_some h hcov hn d.toNat
  rw [endOc_goesOn h.2 hread.1 (by rw [hrest]; rfl) hq] at hexec
  refine ⟨_, _, hexec, hread.past, ?_, ?_, fun r hr => ?_, fun k hk => ⟨?_, ?_⟩⟩
  · rw [hrest]; rfl
  · exact (z.sreg_readStatus ..).trans ((if_pos rfl).trans (by rw [hrest]))
  · exact (z.sreg_readStatus ..).trans ((if_neg hr).trans (by rw [hrest]; rfl))
  · rw [hrest]; exact getLsbD_clearBit x.err hk
  · rw [hrest]; exact getLsbD_clearBit x.tmo hk

theorem waitOc_traps (hc : c = 3) (hf : anyFailed covered = true) (h10 : bitAt (ctxOf s g).trapEn 10 = true) (hv : vectorOf s g ≠ 0) :
    ∃ t y z, exec (.waitOc b i c) s = .next t ∧ Covers s t g x y covered ∧ FlagsOf x z covered ∧
      z = { x with fsr := z.fsr, ferryStatus := z.ferryStatus } ∧ Entered s g z y 10 3 (x.pc + 4) x.pc 0 0 x.em := by
  obtain ⟨z, hz, hrest⟩ := covers_endChain h covered
  obtain ⟨f, he, hent⟩ := endOc_traps (cls := c.toNat) h.2 hz.1 (by rw [hrest]) (by rw [hc]; rfl) hf h10 hv
  have hexec := waitOcInstr_none h hcov hn
  rw [he] at hexec
  refine ⟨_, f z, { z with latch := x.latch }, hexec, hz.modGroup f (by rw [hent.rest]), hz.2.1, by rw [hrest], ?_⟩
  have hpc : z.pc = x.pc := by rw [hrest]
  have hem : z.em = x.em := by rw [hrest]
  rw [hpc, hem] at hent
  exact hent.chainBefore _

end

end Sys2Proof.Machine
end

section
/-! Batches, sleeps, promises and fences (R93, R128, R130, R131, R164), and the statement about waits. -/

namespace Sys2Proof.Machine

/-! ## Batches -/

/-- An operation of a group behind the close of its open batch as number `n` (R130). -/
def Op.closed (g n : Nat) (o : Op) : Op := if o.group = g ∧ o.cls = 1 ∧ o.batch = 0 then { o with batch := n } else o

theorem map_closed (ops : KMap Op) (g n : Nat) :
    (ops.map fun e => if e.2.group == g && e.2.cls == 1 && e.2.batch == 0 then (e.1, { e.2 with batch := n }) else e) =
      ops.map fun e => (e.1, e.2.closed g n) := by
  refine List.map_congr_left fun e _ => ?_
  unfold Op.closed
  by_cases hc : e.2.group = g ∧ e.2.cls = 1 ∧ e.2.batch = 0
  · simp [hc]
  · rw [if_neg hc, if_neg (by simpa [and_assoc] using hc)]

/-- An operation belongs to the batches 1 to `n` of a group. -/
def Op.InBatches (g n : Nat) (o : Op) : Prop := o.group = g ∧ o.cls = 1 ∧ 1 ≤ o.batch ∧ o.batch ≤ n

theorem mem_batchOps {s : State} {g n : Nat} {e : Nat × Op} : e ∈ batchOps s g n ↔ e ∈ s.ops ∧ e.2.InBatches g n := by
  simp only [batchOps, opsOf, Op.InBatches, List.mem_filter, Bool.and_eq_true, beq_iff_eq, decide_eq_true_eq, and_assoc]

theorem batchDone_iff {s : State} {g n : Nat} : batchDone s g n = true ↔ ∀ e ∈ s.ops, e.2.InBatches g n → e.2.done ≠ none := by
  simp [batchDone, mem_batchOps, Option.isSome_iff_ne_none]

/-- Coverage removes the covered operations and none of another key. -/
theorem mem_ops_coverOps {s : State} {g : Nat} {covered : KMap Op} {e : Nat × Op} :
    e ∈ (coverOps s g covered).ops ↔ e ∈ s.ops ∧ ∀ f ∈ covered, f.1 ≠ e.1 := by
  rw [show (coverOps s g covered).ops = s.ops.filter fun e => !(kkeys covered).contains e.1 from rfl]
  rw [List.mem_filter, Bool.not_eq_true', ← Bool.not_eq_true, List.contains_iff_mem, kkeys, List.mem_map, not_exists]
  simp only [not_and, ne_eq]

section
variable {s : State} {g : Nat} {x : Group} (h : Issues s g x)
include h

theorem batch_closes (d : BitVec 6) : ∃ t y, exec (.batch d) s = .next t ∧ OnlyOps s t g y ∧
    y = { Behind s x 4 with s := y.s, lastBatch := x.lastBatch + 1 } ∧ y.sreg d.toNat = BitVec.ofNat 64 (x.lastBatch + 1) ∧
    (∀ r, r ≠ d.toNat → y.sreg r = x.sreg r) ∧ ∀ k, kfind t.ops k = (kfind s.ops k).map (Op.closed g (x.lastBatch + 1)) := by
  have hexec : exec (.batch d) s = .next (advance (modGroup
      { endChain s g with ops := s.ops.map fun e => (e.1, e.2.closed g (x.lastBatch + 1)) } g
      fun y => { y.setS d.toNat (BitVec.ofNat 64 (x.lastBatch + 1)) with lastBatch := x.lastBatch + 1 }) g 4) := by
    rw [← map_closed]
    show execBatch d s = _
    rw [execBatch, withGroup_issues h]
    dsimp only
    rw [getGroup_endChain h]
    rfl
  refine ⟨_, _, hexec, (((endChain_onlyGroup h.2).onlyOps.withOps _).modGroup _).past 4, rfl, ?_, fun r hr => ?_, fun k => ?_⟩
  · exact (Group.sreg_setS ..).trans (if_pos rfl)
  · exact (Group.sreg_setS ..).trans (if_neg hr)
  · exact kfind_map_vals s.ops (fun _ o => o.closed g (x.lastBatch + 1)) k

theorem execWaitBatch_eq (a : BitVec 6) : exec (.waitBatch a) s = .next
    (let n := min (x.sreg a.toNat).toNat x.lastBatch
     if batchDone s g n then advance (coverOps (endChain s g) g (batchOps s g n)) g 4 else block (endChain s g) g (.batch n)) := by
  show execWaitBatch a s = _
  rw [execWaitBatch, withGroup_issues h]
  dsimp only
  rw [getGroup_endChain h]
  rfl

theorem waitBatch_completes {a : BitVec 6} {n : Nat} (hn : min (x.sreg a.toNat).toNat x.lastBatch = n)
    (hd : ∀ e ∈ s.ops, e.2.InBatches g n → e.2.done ≠ none) : ∃ t y, exec (.waitBatch a) s = .next t ∧ OnlyOps s t g y ∧
    y = { Behind s x 4 with fsr := y.fsr, ferryStatus := y.ferryStatus } ∧ FlagsOf x y (batchOps s g n) ∧
    (∀ e ∈ t.ops, e ∈ s.ops ∧ ¬ e.2.InBatches g n) ∧ ∀ e ∈ s.ops, e ∈ t.ops ∨ ∃ f ∈ s.ops, f.1 = e.1 ∧ f.2.InBatches g n := by
  obtain ⟨z, hz, hrest⟩ := covers_endChain h (batchOps s g n)
  have hexec := execWaitBatch_eq h a
  dsimp only at hexec
  rw [hn, if_pos (batchDone_iff.2 hd)] at hexec
  have hops : ∀ e, e ∈ (advance (coverOps (endChain s g) g (batchOps s g n)) g 4).ops ↔
      e ∈ s.ops ∧ ∀ f ∈ batchOps s g n, f.1 ≠ e.1 := fun _ => mem_ops_coverOps (s := endChain s g) (g := g)
  refine ⟨_, Past s z 4, hexec, hz.past.1, congrArg (Past s · 4) hrest, hz.past.2.1, fun e he => ?_, fun e he => ?_⟩
  · obtain ⟨hs, hf⟩ := (hops e).1 he
    exact ⟨hs, fun hm => hf e (mem_batchOps.2 ⟨hs, hm⟩) rfl⟩
  · by_cases hf : ∃ f ∈ batchOps s g n, f.1 = e.1
    · obtain ⟨f, hf, hk⟩ := hf
      exact .inr ⟨f, (mem_batchOps.1 hf).1, hk, (mem_batchOps.1 hf).2⟩
    · exact .inl ((hops e).2 ⟨he, fun f hm hk => hf ⟨f, hm, hk⟩⟩)

theorem waitBatch_blocks {a : BitVec 6} {n : Nat} (hn : min (x.sreg a.toNat).toNat x.lastBatch = n)
    (hd : ∃ e ∈ s.ops, e.2.InBatches g n ∧ e.2.done = none) :
    Leaves (.waitBatch a) s g { x with latch := {}, status := .blocked (.batch n) } := by
  obtain ⟨e, he, hm, hnone⟩ := hd
  have hexec := execWaitBatch_eq h a
  dsimp only at hexec
  rw [hn, if_neg fun hall => batchDone_iff.1 hall e he hm hnone] at hexec
  exact ⟨_, hexec, (endChain_onlyGroup h.2).modGroup _⟩

/-! ## Sleeps -/

theorem endChain_past (len : Nat) : OnlyGroup s (advance (endChain s g) g len) g (Behind s x len) := (endChain_onlyGroup h.2).past len

theorem execSleep_eq (b : BitVec 6) (i : Bool) : exec (.sleep b i) s = .next
    (let due := min (s.cycle + (if i then 16 * b.toNat else (x.sreg b.toNat).toNat)) (2 ^ 64 - 1)
     if due ≤ s.cycle then advance (endChain s g) g 4 else block (endChain s g) g (.sleep due)) := by
  show execSleep b i s = _
  rw [execSleep, withGroup_issues h]
  dsimp only
  rw [getGroup_endChain h]
  rfl

theorem sleep_ends {b : BitVec 6} {i : Bool} (hk : (if i then 16 * b.toNat else (x.sreg b.toNat).toNat) = 0) :
    Leaves (.sleep b i) s g (Behind s x 4) := by
  have hexec := execSleep_eq h b i
  dsimp only at hexec
  rw [hk, Nat.add_zero, if_pos (Nat.min_le_left ..)] at hexec
  exact ⟨_, hexec, endChain_past h 4⟩

theorem sleep_blocks {b : BitVec 6} {i : Bool} {due : Nat}
    (hdue : min (s.cycle + (if i then 16 * b.toNat else (x.sreg b.toNat).toNat)) (2 ^ 64 - 1) = due) (hd : s.cycle < due) :
    Leaves (.sleep b i) s g { x with latch := {}, status := .blocked (.sleep due) } := by
  have hexec := execSleep_eq h b i
  dsimp only at hexec
  rw [hdue, if_neg (Nat.not_le.2 hd)] at hexec
  exact ⟨_, hexec, (endChain_onlyGroup h.2).modGroup _⟩

theorem execSleepUntil_eq (a : BitVec 6) : exec (.sleepUntil a) s = .next
    (if (x.sreg a.toNat).toNat ≤ s.cycle then completeSleepUntil (endChain s g) g (x.sreg a.toNat).toNat
     else block (endChain s g) g (.sleepUntil (x.sreg a.toNat).toNat)) := by
  show execSleepUntil a s = _
  rw [execSleepUntil, withGroup_issues h]
  dsimp only
  rw [getGroup_endChain h]
  rfl

theorem sleepUntil_blocks {a : BitVec 6} (hd : s.cycle < (x.sreg a.toNat).toNat) :
    Leaves (.sleepUntil a) s g { x with latch := {}, status := .blocked (.sleepUntil (x.sreg a.toNat).toNat) } := by
  have hexec := execSleepUntil_eq h a
  rw [if_neg (Nat.not_le.2 hd)] at hexec
  exact ⟨_, hexec, (endChain_onlyGroup h.2).modGroup _⟩

theorem sleepUntil_unpromised {a : BitVec 6} (hd : (x.sreg a.toNat).toNat ≤ s.cycle)
    (hq : ∀ q, x.promise = some q → (x.sreg a.toNat).toNat < q.cycle) : Leaves (.sleepUntil a) s g (Behind s x 4) := by
  have hexec := execSleepUntil_eq h a
  rw [if_pos hd, completeSleepUntil_later (endChain_onlyGroup h.2).group hq] at hexec
  exact ⟨_, hexec, endChain_past h 4⟩

/-- A promise that is due is cleared, and trap 9 follows where its operation has not landed. -/
theorem sleepUntil_promised {a : BitVec 6} (hd : (x.sreg a.toNat).toNat ≤ s.cycle) {q : Promise} (hq : x.promise = some q)
    (hc : q.cycle ≤ (x.sreg a.toNat).toNat) :
    (landed s q.op = true → Leaves (.sleepUntil a) s g { Behind s x 4 with promise := none }) ∧
    (landed s q.op = false → vectorOf s g ≠ 0 → ∃ y, Leaves (.sleepUntil a) s g y ∧
      Entered s g { x with promise := none } y 9 0 (x.pc + 4) x.pc 0 0 x.em) := by
  have hclear := (endChain_onlyGroup h.2).modGroup fun y => { y with promise := none }
  have hvec := hclear.vectorOf h.2 rfl
  have hexec := execSleepUntil_eq h a
  rw [if_pos hd, completeSleepUntil_due (endChain_onlyGroup h.2).group hq hc, show landed (endChain s g) q.op = landed s q.op from rfl]
    at hexec
  refine ⟨fun hl => ?_, fun hl hv => ?_⟩
  · rw [if_pos hl] at hexec
    exact ⟨_, hexec, hclear.past 4⟩
  · obtain ⟨y, hy, hent⟩ := raiseAfter_enters hclear.group (hvec ▸ hv) 0 (num := 9) (by decide)
    rw [if_neg (Bool.eq_false_iff.1 hl)] at hexec
    exact ⟨y, ⟨_, hexec, hclear.trans hy⟩, (hent.congr hvec hclear.cycle).chainBefore x.latch⟩

/-! ## Fences -/

omit h in
theorem startFence_still (s : State) (g : Nat) : Still s (startFence s g) := (fixLoads_still s g).trans (drainLines_still ..)

/-- The first step of a fence leaves the end of the chain in the group's record. -/
theorem startFence_latch {s1 : State} {x1 : Group} (hs : startFence (endChain s g) g = s1) (hx : kfind s1.groups g = some x1) :
    x1.latch = {} := by
  have hrec := (startFence_still (endChain s g) g).group (endChain_onlyGroup h.2).group (hs.symm ▸ hx)
  exact (congrArg Group.latch hrec :)

theorem fence_leaves {s1 : State} {x1 : Group} (hs : startFence (endChain s g) g = s1) (hx : kfind s1.groups g = some x1) :
    s1.mem = s.mem ∧
    (outstanding s1 g = false → ∃ t, exec .fence s = .next t ∧ OnlyGroup s1 t g { Behind s1 x1 4 with reach := 0 }) ∧
    (outstanding s1 g = true → ∃ t, exec .fence s = .next t ∧ OnlyGroup s1 t g { x1 with status := .blocked .fence }) := by
  have hexec : exec .fence s = .next (if outstanding s1 g then block s1 g .fence else advance (resetReach s1 g) g 4) := by
    show execFence s = _
    rw [execFence, withGroup_issues h]
    dsimp only
    rw [hs]
  refine ⟨?_, fun ho => ?_, fun ho => ?_⟩
  · rw [← hs]
    exact drainLines_mem ..
  · rw [if_neg (Bool.eq_false_iff.1 ho)] at hexec
    refine ⟨_, hexec, ?_⟩
    have hpast := ((OnlyGroup.refl hx).modGroup fun y => { y with reach := 0 }).past 4
    rwa [show Past s1 { x1 with reach := 0 } 4 = { Behind s1 x1 4 with reach := 0 } by
      rw [Behind, ← startFence_latch h hs hx]; rfl] at hpast
  · rw [if_pos ho] at hexec
    exact ⟨_, hexec, (OnlyGroup.refl hx).modGroup _⟩

end

/-! ## The statement -/

theorem FlagsOf.of_mem {x y : Group} {ops ops' : KMap Op} (h : FlagsOf x y ops) (he : ∀ e, e ∈ ops' ↔ e ∈ ops) :
    FlagsOf x y ops' := fun l hl b => by
  simpa only [he] using h l hl b

/-- Settles O33: each instruction is its own equation behind the end of its chain; what a wait covers is gone from the operations. -/
theorem waits : Obligations.Waits := by
  unfold Obligations.Waits
  intro s g x h
  refine ⟨fun d b i c => ?_, fun d => ?_, fun a => ?_, fun b i => ?_, fun a => ?_, fun s1 x1 => fence_leaves h⟩
  · intro n cov oc Covers
    refine ⟨fun hn hq => ?_, fun hn hc hf h10 hv => ?_, fun hn => ⟨waitOc_blocks h hn, waitOc_blocks h hn⟩⟩
    · have hq' : c.toNat = 3 → _ := fun hc => hq (BitVec.eq_of_toNat_eq hc)
      exact ⟨waitOc_completes h rfl hn hq', waitOcSt_completes h rfl hn d hq'⟩
    · exact waitOc_traps h rfl hn hc hf h10 hv
  · exact batch_closes h d
  · intro n mine
    refine ⟨fun hd => ?_, waitBatch_blocks h rfl⟩
    obtain ⟨t, y, hexec, ho, hy, hfl, hops⟩ := waitBatch_completes h (a := a) rfl hd
    refine ⟨t, y, hexec, ho, hy, hfl.of_mem fun e => ?_, hops⟩
    rw [mem_batchOps, List.mem_filter]
    simp only [Op.InBatches, Bool.and_eq_true, beq_iff_eq, decide_eq_true_eq, and_assoc]
    rfl
  · exact ⟨fun hk _ => sleep_ends h hk, sleep_blocks h rfl⟩
  · exact ⟨sleepUntil_blocks h, sleepUntil_unpromised h, fun hd q => sleepUntil_promised h hd⟩

end Sys2Proof.Machine
end

section
/-! Critical sections and exit (R92, R148, R258, R325): the arrival of an enlisted gate, the block that a supervisor's exit ends. -/

namespace Sys2Proof.Machine

/-! ## The arrival of an enlisted gate -/

theorem applyArrival_uncounted {s : State} {p : List Loc} (h : (readGate s p).exitcnt = false) (b c n : Nat) (tag : Option Nat) :
    applyArrival s b p c n tag true = (s, false) := by
  rw [applyArrival, h]
  rfl

/-- An arrival of exit at a gate that counts exits and has kept its generation is as one of gate.arrive (R136). -/
theorem applyArrival_counted {s : State} {p : List Loc} {m : Nat} (h : (readGate s p).exitcnt = true) (hg : (readGate s p).gen = m)
    (b c n : Nat) : applyArrival s b p c n (some m) true = applyArrival s b p c n none false := by
  simp [applyArrival, h, hg]

theorem exitArrival_eq {s1 : State} {g : Nat} {x1 : Group} {r : DWord} {p : List Loc} (hx : kfind s1.groups g = some x1)
    (hg : GateAt s1 g x1 r p) (n : Byte) : exitArrival g s1 (r, n) =
      if !arrivalWaits s1 g p then (applyArrival s1 x1.block p 1 0 (some n.toNat) true).1
      else if (readGate s1 p).exitcnt then keepArrival s1 g { ref := r, c := 1, n := 0, exits := some n.toNat }
      else s1 := by
  rw [exitArrival, getGroup_of hx]
  dsimp only
  rw [hg.gatePlaces]

/-! ## Open packets -/

theorem discardPacketsOf_none {s : State} {g : Nat} (h : ∀ q ∈ s.openPackets, q.owner ≠ .group g) : discardPacketsOf s g = s := by
  have hgone : s.openPackets.filter (fun q => q.owner == .group g) = [] := by simpa using h
  have hkept : s.openPackets.filter (fun q => !(q.owner == .group g)) = s.openPackets := by simpa using h
  rw [discardPacketsOf, discardPackets, hgone, hkept]
  rfl

/-! ## The end of a block -/

/-- A halt request leaves a group that has exited. -/
theorem askHalt_exited {s : State} {g : Nat} {y : Group} (hy : kfind s.groups g = some y) (he : y.status = .exited) (l : List Nat) :
    kfind (l.foldl askHalt s).groups g = some y := by
  induction l generalizing s with
  | nil => exact hy
  | cons j l ih =>
    refine ih ?_
    rw [askHalt, kfind_modGroup]
    split
    · next hj => rw [← hj, hy, Option.map_some, he]
    · exact hy

theorem askHalts_keep (l : List Nat) (s : State) : (l.foldl askHalt s).blocks = s.blocks ∧ (l.foldl askHalt s).mem = s.mem := by
  induction l generalizing s with
  | nil => exact ⟨rfl, rfl⟩
  | cons j l ih => exact ih (askHalt s j)

/-- A block that is not yet being ended is, behind it; a group that has exited stays as it is, and so does memory. -/
theorem endBlock_begins {s : State} {b : Nat} {how : BlockEnd} (hb : (kfind s.blocks b).isSome = true) (he : (getBlock s b).ending = none) :
    (getBlock (endBlock s b how) b).ending = some how ∧ (endBlock s b how).mem = s.mem ∧
    ∀ g y, kfind s.groups g = some y → y.status = .exited → kfind (endBlock s b how).groups g = some y := by
  obtain ⟨blk, hblk⟩ := Option.isSome_iff_exists.1 hb
  let u := dropOps s b fun g => (getGroup s g).still
  obtain ⟨hblocks, hmem⟩ := askHalts_keep (groupsOf u b) u
  rw [endBlock, he, if_neg (by decide)]
  refine ⟨?_, hmem, fun g y hy hx => askHalt_exited (s := u) hy hx (groupsOf u b)⟩
  have hfind : kfind u.blocks b = some blk := hblk
  show (getBlock (modBlock ((groupsOf u b).foldl askHalt u) b _) b).ending = some how
  rw [getBlock, kgetD, modBlock, kfind_kmodify, if_pos rfl, hblocks, hfind]
  rfl

/-! ## exit -/

/-- The record of a group that has exited (R92). -/
def Group.leave (x : Group) : Group :=
  { x with status := .exited, critical := false, haltAsked := none, pending := [], inFlight := [], enlist := [], hostWait := none }

section
variable {s : State} {g : Nat} {x : Group} (h : Issues s g x)
include h

theorem execExit_eq : exec .exit s = .next
    (let u := if x.enlist.isEmpty then endChain s g else (kvals x.enlist).foldl (exitArrival g) (performAll (endChain s g) g)
     let v := modGroup (discardPacketsOf u g) g Group.leave
     if x.sup then endBlock v x.block .failed else v) := by
  show execExit s = _
  rw [execExit, withGroup_issues h]
  dsimp only
  rw [getGroup_endChain h]
  rfl

/-- A group with no enlisted gates and no open packets. -/
theorem execExit_alone (hp : ∀ q ∈ s.openPackets, q.owner ≠ .group g) (he : x.enlist = []) : exec .exit s = .next
    (if x.sup then endBlock (modGroup (endChain s g) g Group.leave) x.block .failed else modGroup (endChain s g) g Group.leave) := by
  rw [execExit_eq h, he, List.isEmpty_nil, if_pos rfl]
  dsimp only
  rw [discardPacketsOf_none (s := endChain s g) hp]

theorem exit_leaves (hp : ∀ q ∈ s.openPackets, q.owner ≠ .group g) (he : x.enlist = []) (hs : x.sup = false) :
    Leaves .exit s g { x with latch := {} }.leave := by
  have hexec := execExit_alone h hp he
  rw [hs, if_neg Bool.false_ne_true] at hexec
  exact ⟨_, hexec, (endChain_onlyGroup h.2).modGroup _⟩

theorem exit_supervisor (hp : ∀ q ∈ s.openPackets, q.owner ≠ .group g) (he : x.enlist = []) (hs : x.sup = true)
    (hend : (getBlock s x.block).ending = none) (hb : (kfind s.blocks x.block).isSome = true) :
    ∃ t y, exec .exit s = .next t ∧ kfind t.groups g = some y ∧ y.status = .exited ∧ t.mem = s.mem ∧
      (getBlock t x.block).ending = some .failed := by
  have hexec := execExit_alone h hp he
  rw [hs, if_pos rfl] at hexec
  have hleave := (endChain_onlyGroup h.2).modGroup Group.leave
  obtain ⟨hending, hmem, hkept⟩ := endBlock_begins (s := modGroup (endChain s g) g Group.leave) (how := .failed) hb hend
  exact ⟨_, _, hexec, hkept g _ hleave.group rfl, rfl, hmem, hending⟩

variable {e : Nat} {r : DWord} {n : Byte} {s1 : State} {x1 : Group} {p : List Loc}

theorem execExit_enlisted (he : x.enlist = [(e, (r, n))]) (hs : x.sup = false) (h1 : performAll (endChain s g) g = s1) :
    exec .exit s = .next (modGroup (discardPacketsOf (exitArrival g s1 (r, n)) g) g Group.leave) := by
  rw [execExit_eq h, he, hs, h1]
  rfl

end

section
variable {g : Nat} {r : DWord} {n : Byte} {s1 : State} {x1 : Group} {p : List Loc}
  (hx : kfind s1.groups g = some x1) (hg : GateAt s1 g x1 r p) (hp : ∀ q ∈ s1.openPackets, q.owner ≠ .group g)
include hx hg hp

/-- The arrival is applied: the gate takes exit arrivals and has kept its generation. -/
theorem exitArrival_applied (hw : arrivalWaits s1 g p = false) (hc : (readGate s1 p).exitcnt = true) (hn : (readGate s1 p).gen = n.toNat) :
    GateBecomes s1 (modGroup (discardPacketsOf (exitArrival g s1 (r, n)) g) g Group.leave) g x1.leave p (arrivedGate (readGate s1 p) 1 0) := by
  have hwrite : GateBecomes s1 (writeGate s1 p (arrivedGate (readGate s1 p) 1 0)) g x1 p (arrivedGate (readGate s1 p) 1 0) :=
    GateBecomes.write (OnlyBytes.refl hx) (fun _ => rfl) hg.places_here (arrivedGate_fits (readGate_fits s1 p) 1 0)
  have hopen : (writeGate s1 p (arrivedGate (readGate s1 p) 1 0)).openPackets = s1.openPackets := by rw [hwrite.only.rest]
  rw [exitArrival_eq hx hg, hw, if_pos (by decide), applyArrival_counted hc hn, applyArrival_untagged,
    discardPacketsOf_none (by rw [hopen]; exact hp)]
  exact hwrite.modGroup _

/-- The arrival is kept behind what holds it. -/
theorem exitArrival_kept (hw : arrivalWaits s1 g p = true) (hc : (readGate s1 p).exitcnt = true) :
    kfind (modGroup (discardPacketsOf (exitArrival g s1 (r, n)) g) g Group.leave).groups g = some x1.leave ∧
    ∃ k, ArrivalKept s1 (modGroup (discardPacketsOf (exitArrival g s1 (r, n)) g) g Group.leave) g x1 r 1 0 (some n.toNat) k := by
  rw [exitArrival_eq hx hg, hw, if_neg (by decide), if_pos hc, discardPacketsOf_none (by exact hp)]
  obtain ⟨k, hk, -⟩ := keepArrival_kept hx { ref := r, c := 1, n := 0, exits := some n.toNat } (modGroup s1 g Group.leave).groups
  exact ⟨((OnlyGroup.refl hx).modGroup _).group, k, hk⟩

/-- A gate that takes no exit arrivals stays as it is. -/
theorem exitArrival_refused (hc : (readGate s1 p).exitcnt = false) :
    OnlyGroup s1 (modGroup (discardPacketsOf (exitArrival g s1 (r, n)) g) g Group.leave) g x1.leave := by
  have hstay : exitArrival g s1 (r, n) = s1 := by
    rw [exitArrival_eq hx hg, applyArrival_uncounted hc, hc]
    cases arrivalWaits s1 g p <;> rfl
  rw [hstay, discardPacketsOf_none hp]
  exact (OnlyGroup.refl hx).modGroup _

end

/-- Settles O35: exit is one equation, in which the arrival of the one enlisted gate is applied, kept or refused. -/
theorem criticalAndExit : Obligations.CriticalAndExit := by
  unfold Obligations.CriticalAndExit
  intro s g x h
  have hmark : ∀ b i, exec i s = .next (advance (modGroup (endChain s g) g fun y => { y with critical := b }) g 4) →
      Leaves i s g { Behind s x 4 with critical := b } := fun b i hi => h.leaves_scalar _ hi (fun _ => rfl) (fun _ => rfl) fun _ => rfl
  refine ⟨hmark true _ (withGroup_issues h _), hmark false _ (withGroup_issues h _), ?_⟩
  intro hp Gone
  refine ⟨fun he hs => ⟨_, exit_leaves h hp he hs, rfl⟩, exit_supervisor h hp, ?_⟩
  intro e r n s1 x1 p he hs h1 hx hg hb hs1 hp1 gt held
  exact ⟨_, x1.leave, execExit_enlisted h he hs h1, rfl, exitArrival_applied hx hg hp1, exitArrival_kept hx hg hp1,
    exitArrival_refused hx hg hp1⟩

end Sys2Proof.Machine
end

section
/-! Loads: what each of their steps leaves of the machine (R83, R103, R117, R118, R195). -/

namespace Sys2Proof.Machine

theorem touchScope_rest (s : State) (part ctx scope core : Nat) (p : Phys) :
    touchScope s part ctx scope core p = { s with scopes := (touchScope s part ctx scope core p).scopes } := by
  unfold touchScope
  split <;> rfl

/-- A mark that shows nothing of itself. -/
theorem map_marked {α β : Type} (b : α → β) (p : α → Bool) {f : α → α} (hf : ∀ a, b (f a) = b a) (l : List α) :
    (l.map fun a => if p a then f a else a).map b = l.map b := by
  rw [List.map_map]
  refine List.map_congr_left fun a _ => ?_
  rw [Function.comp_apply]
  split
  · exact hf a
  · rfl

theorem observe_stores_bare (s : State) (g : Nat) (ps : List Loc) : (observe s g ps).stores.map Store.bare = s.stores.map Store.bare := by
  rw [observe_stores]
  split
  · exact map_marked (f := Store.mark g) Store.bare _ (fun _ => rfl) _
  · rfl

theorem observe_cores_bare (s : State) (g : Nat) (ps : List Loc) (c : Nat) :
    (getCore (observe s g ps) c).bare = (getCore s c).bare := by
  rw [observe_eq]
  split
  · rw [getCore_modCore, observeStores_core, observeStores_core]
    split
    · next hc =>
      subst hc
      exact congrArg (fun w => ({ getCore s (coreOf s g) with wcb := w } : CoreSt)) (map_marked (f := WcbLine.mark g) WcbLine.bare _ (fun _ => rfl) _)
    · rfl
  · rw [observeStores_core]

theorem observe_rest (s : State) (g : Nat) (ps : List Loc) :
    observe s g ps = { s with stores := (observe s g ps).stores, cores := (observe s g ps).cores } := by
  rw [observe_eq, observeStores]
  split_ifs <;> rfl

section
variable {s t : State} {g : Nat} {x y : Group} {sent : List Entry}

theorem OnlyLoads.refl (h : kfind s.groups g = some x) : OnlyLoads s s g x [] :=
  ⟨h, fun _ _ => rfl, (List.append_nil _).symm, rfl, fun _ => rfl, rfl⟩

variable (h : OnlyLoads s t g y sent)
include h

theorem OnlyLoads.cycle : t.cycle = s.cycle := by rw [h.rest]
theorem OnlyLoads.blocks : t.blocks = s.blocks := by rw [h.rest]
theorem OnlyLoads.parts : t.parts = s.parts := by rw [h.rest]
theorem OnlyLoads.mem : t.mem = s.mem := by rw [h.rest]

section
variable (hx : kfind s.groups g = some x) (hb : y.block = x.block)
include hx hb

theorem OnlyLoads.sameBlock : (getGroup t g).block = (getGroup s g).block := by rw [getGroup_of h.group, getGroup_of hx, hb]
theorem OnlyLoads.blockOf : blockOf t g = blockOf s g := blockOf_congr h.blocks (h.sameBlock hx hb)
theorem OnlyLoads.coreOf : coreOf t g = coreOf s g := congrArg Block.core (h.blockOf hx hb)
theorem OnlyLoads.partOf : partOf t g = partOf s g := congrArg Block.part (h.blockOf hx hb)
theorem OnlyLoads.ctxOf : ctxOf t g = ctxOf s g := ctxOf_congr h.blocks h.parts (h.sameBlock hx hb)

end

theorem OnlyLoads.modGroup (f : Group → Group) : OnlyLoads s (Machine.modGroup t g f) g (f y) sent where
  group := by simp [kfind_modGroup, h.group]
  others j hj := by rw [kfind_modGroup, if_neg hj, h.others j hj]
  sends := h.sends
  stores := h.stores
  cores := h.cores
  rest := by rw [Machine.modGroup]; rw [h.rest]

theorem OnlyLoads.past (len : Nat) : OnlyLoads s (advance t g len) g (Past s y len) sent := by
  have := h.modGroup fun x => Past t x len
  rwa [show Past t y len = Past s y len by rw [Past, Past, h.cycle]] at this

theorem OnlyLoads.counters (n m : Nat) (ms : List ScopeMark) : OnlyLoads s { t with fresh := n, nextId := m, scopes := ms } g y sent where
  group := h.group
  others := h.others
  sends := h.sends
  stores := h.stores
  cores := h.cores
  rest := by rw [h.rest]

theorem OnlyLoads.touchPage (p : Phys) : OnlyLoads s (Machine.touchPage t g p) g (y.widen (attrScope p.attr)) sent := by
  rw [Machine.touchPage, touchScope_rest]
  exact (h.counters _ _ _).modGroup _

theorem OnlyLoads.sendEntry (e : Entry) : OnlyLoads s (Machine.sendEntry t e) g y (sent ++ [{ e with since := s.cycle }]) where
  group := h.group
  others := h.others
  sends := by rw [Machine.sendEntry, h.cycle, ← List.append_assoc, ← h.sends]
  stores := h.stores
  cores := h.cores
  rest := by rw [Machine.sendEntry]; rw [h.rest]

theorem OnlyLoads.observe (ps : List Loc) : OnlyLoads s (Machine.observe t g ps) g y sent where
  group := by rw [observe_groups]; exact h.group
  others j hj := by rw [observe_groups]; exact h.others j hj
  sends := by rw [observe_rest]; exact h.sends
  stores := (observe_stores_bare ..).trans h.stores
  cores c := (observe_cores_bare ..).trans (h.cores c)
  rest := by rw [observe_rest]; rw [h.rest]

end

end Sys2Proof.Machine
end

section
/-! sld whose checks have passed: the result in flight, and how it gets its value (R83, R103, R117, R195). -/

namespace Sys2Proof.Machine

/-! ## What depends on memory and the page tables alone -/

theorem readWord64_congr {s t : State} (hm : t.mem = s.mem) (pa : Nat) : readWord64 t pa = readWord64 s pa := by
  simp only [readWord64, readLE, Loc.run, List.map_map, Function.comp_def, Loc.add, readByte, hm]

theorem walkFrom_congr {s t : State} (hm : t.mem = s.mem) (va fuel level root : Nat) :
    walkFrom t va fuel level root = walkFrom s va fuel level root := by
  induction fuel generalizing level root with
  | zero => rfl
  | succ fuel ih => simp only [walkFrom, readWord64_congr hm, ih]

theorem renamedPage_congr {s t : State} (hp : t.parts = s.parts) (part launch page : Nat) :
    renamedPage t part launch page = renamedPage s part launch page := by
  rw [renamedPage, renamedPage, getPart, getPart, hp]

theorem mixed_congr {s t : State} (hm : t.mem = s.mem) (hp : t.parts = s.parts) (hs : t.scopes = s.scopes) (pa : Nat) :
    mixed t pa = mixed s pa := by
  have hlive : ∀ m : ScopeMark, m.live t = m.live s := by
    intro m
    have hpart : getPart t = getPart s := funext fun p => by rw [getPart, getPart, hp]
    have hwalk : walkRoot t = walkRoot s := by
      funext root va
      rw [walkRoot, walkRoot, walkFrom_congr hm]
    rw [ScopeMark.live, ScopeMark.live, hpart, hwalk, funext fun q => funext fun l => funext fun n => renamedPage_congr hp q l n]
  simp only [mixed, hs, hlive]

theorem readByte_congr {s t : State} (hm : t.mem = s.mem) (hb : t.blocks = s.blocks) (p : Loc) : readByte t p = readByte s p := by
  cases p <;> simp only [readByte, hm, hb]

theorem seenByte_congr {s t : State} {g : Nat} (hc : coreOf t g = coreOf s g) (hw : ∀ c, getCore t c = getCore s c)
    (hs : t.stores = s.stores) (hm : t.mem = s.mem) (hb : t.blocks = s.blocks) (p : Loc) : seenByte t g p = seenByte s g p := by
  simp only [seenByte, hc, hw, hs, readByte_congr hm hb]

/-- The value that an element of an unmixed page gives. -/
theorem seenValue_unmixed {s : State} (g : Nat) {size : Nat} (hsize : 0 < size) {p : Phys} (h : mixed s p.pa = false) :
    seenValue s g (p.places size) = loadedValue s g size p := by
  obtain ⟨n, rfl⟩ := Nat.exists_eq_add_of_lt hsize
  have hhead : ((p.places (0 + n + 1)).head?.bind Loc.pa) = some p.pa := by
    simp [Phys.places, Loc.run, Loc.add, Loc.pa, List.range_succ_eq_map]
  rw [seenValue, loadedValue, hhead]
  simp only [Option.any_some, h, Bool.false_eq_true, if_false]
  simp only [Phys.places, Loc.run, Loc.add, List.map_map, Function.comp_def]

/-! ## The result in flight -/

/-- The state in which an access to a page reads: its bytes' earlier results are fixed, its page is touched. -/
def sldTouched (s : State) (g : Nat) (p : Phys) : State := touchPage (fixOverlap s g (p.places 8)) g p

/-- The result that an sld opens. -/
def sldResult (s : State) (g : Nat) (d : BitVec 6) (p : Phys) : InFlight := {
  s := if viaLanding p then none else some (d.toNat, BitVec.ofNat 64 (seenValue s g (p.places 8)))
  sdst := some d.toNat
  awaiting := if viaLanding p then 1 else 0
  elems := if viaLanding p || inEndpoints p.pa || mixed s p.pa then [] else
    [{ lane := 32, reg := d.toNat, places := p.places 8, sgn := false }] }

/-- A record with a new result in flight. -/
def Group.opens (k : Nat) (r : InFlight) (x : Group) : Group := { x with inFlight := kput x.inFlight k { r with addr := x.pc } }

/-- A state with a new result in flight. -/
def opened (s : State) (g : Nat) (r : InFlight) : State :=
  modGroup { s with fresh := s.fresh + 1, nextId := s.nextId + 1 } g (Group.opens s.nextId r)

/-- An sld that nothing holds, behind the touch of its page: its value, or the entry that brings it. -/
def sldReads (s : State) (g : Nat) (d : BitVec 6) (p : Phys) : State :=
  let ps := p.places 8
  let alg := viaLanding p
  let (k, s) := openResult { s with fresh := s.fresh + 1 } g false {
    s := if alg then none else some (d.toNat, BitVec.ofNat 64 (seenValue s g ps)), sdst := some d.toNat, awaiting := if alg then 1 else 0
    elems := if alg || inEndpoints p.pa || mixed s p.pa then [] else [{ lane := 32, reg := d.toNat, places := ps, sgn := false }] }
  let s := if alg then sendEntry s (loadEntry s g p 8 [.uniform g k d.toNat]) else observe s g ps
  advance s g 4

theorem sldReads_plain {p : Phys} (hp : toLanding p = false) (s : State) (g : Nat) (d : BitVec 6) :
    sldReads s g d p = advance (observe (opened s g (sldResult s g d p)) g (p.places 8)) g 4 := by
  have hp : viaLanding p = false := hp
  rw [sldReads, sldResult, hp]
  rfl

theorem sldReads_landed {p : Phys} (hp : toLanding p = true) (s : State) (g : Nat) (d : BitVec 6) : sldReads s g d p =
    advance (sendEntry (opened s g (sldResult s g d p))
      (loadEntry (opened s g (sldResult s g d p)) g p 8 [.uniform g s.nextId d.toNat])) g 4 := by
  have hp : viaLanding p = true := hp
  rw [sldReads, sldResult, hp]
  rfl

theorem sldTouched_rest (s : State) (g : Nat) (p : Phys) : sldTouched s g p =
    { s with groups := (sldTouched s g p).groups, scopes := (sldTouched s g p).scopes } := by
  unfold sldTouched touchPage
  rw [touchScope_rest]
  rfl

/-- A result with the elements that read some bytes fixed (R115). -/
def InFlight.fixed (ls : List Loc) (e : InFlight) : InFlight := { e with elems := e.elems.filter fun l => !l.places.any ls.contains }

/-- A record whose results of some bytes are fixed. -/
def Group.fixed (ls : List Loc) (x : Group) : Group := { x with inFlight := x.inFlight.map fun e => (e.1, e.2.fixed ls) }

theorem Group.kfind_fixed (ls : List Loc) (x : Group) (k : Nat) :
    kfind (x.fixed ls).inFlight k = (kfind x.inFlight k).map (InFlight.fixed ls) :=
  kfind_map_vals x.inFlight (fun _ e => e.fixed ls) k

theorem Group.fixed_sameFlights (ls : List Loc) (x : Group) : SameFlights x (x.fixed ls) none := by
  intro k _
  rw [Group.kfind_fixed, Option.map_map]
  rfl

section
variable {s : State} {g : Nat} {d : BitVec 6} {x : Group} {p : Phys} (hx : kfind s.groups g = some x)
include hx

theorem sldTouched_onlyLoads : OnlyLoads s (sldTouched s g p) g ((x.fixed (p.places 8)).widen (attrScope p.attr)) [] :=
  ((OnlyLoads.refl hx).modGroup (Group.fixed (p.places 8))).touchPage p

theorem sldTouched_loaded (hmix : mixed (sldTouched s g p) p.pa = false) :
    seenValue (sldTouched s g p) g (p.places 8) = loadedValue s g 8 p := by
  rw [seenValue_unmixed g (by decide) hmix, loadedValue, loadedValue]
  have hseen : ∀ l, seenByte (sldTouched s g p) g l = seenByte s g l := fun l => by
    refine seenByte_congr ((sldTouched_onlyLoads hx).coreOf hx rfl) (fun c => ?_) ?_ ?_ ?_ l <;> rw [sldTouched_rest]
    rfl
  simp only [hseen]

/-- The record behind an sld. -/
def Group.sldRecord (s : State) (r : InFlight) (p : Phys) (x : Group) : Group :=
  Past s (((x.fixed (p.places 8)).widen (attrScope p.attr)).opens s.nextId r) 4

omit hx in
theorem Group.sldRecord_sameFlights (r : InFlight) : SameFlights x (x.sldRecord s r p) (some s.nextId) := by
  intro k hk
  have hother : kfind (x.sldRecord s r p).inFlight k = kfind (x.fixed (p.places 8)).inFlight k :=
    kfind_kput_other _ _ fun h => hk (congrArg some h)
  rw [hother]
  exact x.fixed_sameFlights (p.places 8) k nofun

omit hx in
theorem Group.kfind_sldRecord (r : InFlight) : kfind (x.sldRecord s r p).inFlight s.nextId = some { r with addr := x.pc } :=
  kfind_kput_same ..

theorem opened_onlyLoads (r : InFlight) : OnlyLoads s (opened (sldTouched s g p) g r) g
    (((x.fixed (p.places 8)).widen (attrScope p.attr)).opens s.nextId r) [] := by
  have hid : (sldTouched s g p).nextId = s.nextId := by rw [sldTouched_rest]
  have := ((sldTouched_onlyLoads (p := p) hx).counters ((sldTouched s g p).fresh + 1) ((sldTouched s g p).nextId + 1)
    (sldTouched s g p).scopes).modGroup (Group.opens (sldTouched s g p).nextId r)
  rw [hid] at this
  rw [opened, hid]
  exact this

theorem sldReads_loads (hp : toLanding p = false) :
    let t := sldReads (sldTouched s g p) g d p
    let r := sldResult (sldTouched s g p) g d p
    OnlyLoads s t g (x.sldRecord s r p) [] ∧ r.awaiting = 0 ∧ HasSeen t g (p.places 8) ∧
      (mixed t p.pa = false → r.s = some (d.toNat, BitVec.ofNat 64 (loadedValue s g 8 p))) := by
  have hvia : viaLanding p = false := hp
  dsimp only
  rw [sldReads_plain hp]
  set r := sldResult (sldTouched s g p) g d p with hr
  have ho := opened_onlyLoads (p := p) hx r
  have hgroup := (ho.observe (p.places 8)).past 4
  refine ⟨hgroup, by rw [hr, sldResult, hvia]; rfl, hasSeen_observe (s := opened (sldTouched s g p) g r) _ ?_ rfl rfl, fun hmix => ?_⟩
  · rw [hgroup.coreOf hx rfl, ho.coreOf hx rfl]
  · have htouch := sldTouched_onlyLoads (p := p) hx
    have hmix : mixed (sldTouched s g p) p.pa = false := by
      rw [← hmix, eq_comm]
      refine mixed_congr ?_ ?_ ?_ _
      · rw [hgroup.mem, htouch.mem]
      · rw [hgroup.parts, htouch.parts]
      · show (observe (opened (sldTouched s g p) g r) g (p.places 8)).scopes = _
        rw [observe_rest]
        rfl
    rw [hr, sldResult, hvia, sldTouched_loaded hx hmix]
    rfl

theorem sldReads_sends (hp : toLanding p = true) :
    let r := sldResult (sldTouched s g p) g d p
    ∃ n, OnlyLoads s (sldReads (sldTouched s g p) g d p) g (x.sldRecord s r p) [n] ∧ r.awaiting = 1 ∧ r.s = none ∧ IsEntry s g p 8 16 n ∧
      n.ret = [.uniform g s.nextId d.toNat] := by
  have hvia : viaLanding p = true := hp
  have hid : (sldTouched s g p).nextId = s.nextId := by rw [sldTouched_rest]
  dsimp only
  rw [sldReads_landed hp, hid]
  set r := sldResult (sldTouched s g p) g d p with hr
  have ho := opened_onlyLoads (p := p) hx r
  have hctx := ho.ctxOf hx rfl
  refine ⟨_, (ho.sendEntry _).past 4, by rw [hr, sldResult, hvia]; rfl, by rw [hr, sldResult, hvia]; rfl, ?_, rfl⟩
  exact ⟨⟨rfl, rfl⟩, rfl, ⟨ho.partOf hx rfl, congrArg Ctx.id hctx, congrArg Ctx.gen hctx, congrArg Ctx.table hctx⟩,
    ⟨rfl, ho.coreOf hx rfl, rfl, rfl⟩, rfl⟩

/-- What an sld that nothing holds leaves. -/
theorem sldReads_leaves : let t := sldReads (sldTouched s g p) g d p
    ∃ y sent f, OnlyLoads s t g y sent ∧ SameFlights x y (some s.nextId) ∧ kfind y.inFlight s.nextId = some f ∧
      y = { Past s x 4 with inFlight := y.inFlight, reach := reachOver x.reach [p] } ∧
      f.sdst = some d.toNat ∧ f.v = [] ∧ f.addr = x.pc ∧ f.due = 0 ∧
      (toLanding p = false → sent = [] ∧ f.awaiting = 0 ∧ HasSeen t g (p.places 8) ∧
        (mixed t p.pa = false → f.s = some (d.toNat, BitVec.ofNat 64 (loadedValue s g 8 p)))) ∧
      (toLanding p = true → f.awaiting = 1 ∧ f.s = none ∧ ∃ n, sent = [n] ∧ IsEntry s g p 8 16 n ∧ n.ret = [.uniform g s.nextId d.toNat]) := by
  have hflights := Group.sldRecord_sameFlights (s := s) (x := x) (p := p) (sldResult (sldTouched s g p) g d p)
  have hfind := Group.kfind_sldRecord (s := s) (x := x) (p := p) (sldResult (sldTouched s g p) g d p)
  cases hp : toLanding p with
  | false =>
    obtain ⟨ho, hawait, hseen, hvalue⟩ := sldReads_loads (d := d) hx hp
    exact ⟨_, _, _, ho, hflights, hfind, rfl, rfl, rfl, rfl, rfl, fun _ => ⟨rfl, hawait, hseen, hvalue⟩, nofun⟩
  | true =>
    obtain ⟨n, ho, hawait, hnone, hn, hret⟩ := sldReads_sends (d := d) hx hp
    exact ⟨_, _, _, ho, hflights, hfind, rfl, rfl, rfl, rfl, rfl, nofun, fun _ => ⟨hawait, hnone, n, rfl, hn, hret⟩⟩

end

end Sys2Proof.Machine
end

section
/-! The checks of sld and sst, in their order (R83, R109). -/

namespace Sys2Proof.Machine

/-! ## Translation faults -/

theorem refused_of_ite {s t : State} {q : Phys} {num code : Nat} {c : Prop} [Decidable c]
    (h : (if c then (t, Except.error (5, 0)) else (t, Except.ok q)) = (s, Except.error (num, code))) : num = 5 ∧ code = 0 := by
  split at h <;> cases h
  exact ⟨rfl, rfl⟩

/-- A translation fails with trap 4 and a kind, or with trap 5. -/
theorem translate_error {s s1 : State} {sp : Space} {va n num code : Nat} {acc : Access}
    (h : translate s sp va acc n = (s1, .error (num, code))) : num = 4 ∨ num = 5 ∧ code = 0 := by
  unfold translate at h
  split at h
  · cases h; exact .inr ⟨rfl, rfl⟩
  · split at h
    · cases h; exact .inl rfl
    · extract_lets allowed at h
      split at h
      · cases h; exact .inr ⟨rfl, rfl⟩
      · rename_i r _
        clear_value r
        obtain ⟨t, kind | e⟩ := r
        · cases h; exact .inl rfl
        · dsimp only at h
          exact .inr (refused_of_ite h)

/-! ## The access -/

section
variable {s s1 : State} {g : Nat} {va : DWord} {acc : Access} (k : State → Phys → State)

theorem uniformAccess_misaligned (h : va.toNat % 8 ≠ 0) : uniformAccess s g va acc k = raise s g 2 va.toNat := by
  rw [uniformAccess, if_pos (by simpa using h)]

variable (ha : va.toNat % 8 = 0)
include ha

theorem uniformAccess_beyond (h : 2 ^ 56 ≤ va.toNat) : uniformAccess s g va acc k = raise s g 5 va.toNat := by
  rw [uniformAccess, if_neg (by simpa using ha), if_pos h]

theorem uniformAccess_fault (h : va.toNat < 2 ^ 56) {num code : Nat}
    (ht : translate s (spaceOf s g) va.toNat acc 8 = (s1, .error (num, code))) :
    uniformAccess s g va acc k = raise s1 g num va.toNat 0 code := by
  rw [uniformAccess, if_neg (by simpa using ha), if_neg (Nat.not_le.2 h), ht]

theorem uniformAccess_located (h : va.toNat < 2 ^ 56) {p : Phys} (ht : translate s (spaceOf s g) va.toNat acc 8 = (s1, .ok p)) :
    uniformAccess s g va acc k = k s1 p := by
  rw [uniformAccess, if_neg (by simpa using ha), if_neg (Nat.not_le.2 h), ht]

end

/-! ## The instructions -/

/-- The address of sld and sst (R83). -/
def accessAddr (x : Group) (a b : BitVec 6) (i : Bool) : DWord := x.sreg a.toNat + (if i then b.signExtend 64 * 8 else x.sreg b.toNat)

/-- An sld at a located doubleword. -/
def sldAt (g : Nat) (va : DWord) (d : BitVec 6) (s : State) (p : Phys) : State :=
  let s := if attrAE p.attr then meetPoison s p.pa 8 else s
  if readsPoison s g 8 p then raise s g 6 va.toNat
  else if heldBack s g [p] then waitHere s g
  else if inApertures p.pa && !s.linkUp then waitHost s g 0 va.toNat
  else
    let ps := p.places 8
    let alg := viaLanding p
    let s := if alg then reachLanding s g ps else settleEntries s g ps
    if behindOwn s g (if alg then [] else ps) (if alg then ps else []) then waitHere s g
    else sldReads (sldTouched s g p) g d p

/-- An sst at a located doubleword. -/
def sstAt (g : Nat) (va : DWord) (d : Nat) (s : State) (p : Phys) : State :=
  storeElems s g false false [(va.toNat, p, leBytes 8 ((getGroup s g).sreg d).toNat)]

section
variable {s : State} {g : Nat} {x : Group} (h : Issues s g x) (d a b : BitVec 6) (i : Bool)
include h

theorem exec_sld : exec (.sld d a b i) s =
    .next (uniformAccess (endChain s g) g (accessAddr x a b i) .read (sldAt g (accessAddr x a b i) d)) := by
  have hg := getGroup_endChain h
  show withGroup s _ = _
  rw [withGroup_issues h]
  dsimp only
  rw [hg]
  rfl

theorem exec_sst : exec (.sst d a b i) s =
    .next (uniformAccess (endChain s g) g (accessAddr x a b i) .write (sstAt g (accessAddr x a b i) d.toNat)) := by
  have hg := getGroup_endChain h
  show withGroup s _ = _
  rw [withGroup_issues h]
  dsimp only
  rw [hg]
  rfl

/-- Either instruction is its access. -/
theorem exec_access : ∀ c ∈ [(Instr.sld, Access.read), (Instr.sst, Access.write)], ∃ k,
    exec (c.1 d a b i) s = .next (uniformAccess (endChain s g) g (accessAddr x a b i) c.2 k) := by
  simp only [List.forall_mem_cons]
  exact ⟨⟨_, exec_sld h d a b i⟩, ⟨_, exec_sst h d a b i⟩, fun _ hc => absurd hc List.not_mem_nil⟩

/-- An exception of such an access. -/
theorem traps_access {j : Instr} {num : Nat} {va : DWord} (hv : vectorOf s g ≠ 0) (hn : 2 ≤ num ∧ num ≤ 6)
    (hj : exec j s = .next (raise (endChain s g) g num va.toNat)) : Traps j s g x num va 0 0 := by
  obtain ⟨y, ho, he⟩ := raise_endChain h.2 hv num va.toNat 0 0
  rw [BitVec.ofNat_toNat, BitVec.setWidth_eq, if_pos (by simpa using hn)] at he
  exact ⟨y, ⟨_, hj, ho⟩, he⟩

end

/-- An exception of such an access behind its translation. -/
theorem trapsFrom_access {j : Instr} {s s1 : State} {g num code : Nat} {x1 : Group} {va : DWord} (hx : kfind s1.groups g = some x1)
    (hv : vectorOf s1 g ≠ 0) (hn : 2 ≤ num ∧ num ≤ 6) (hj : exec j s = .next (raise s1 g num va.toNat 0 code)) :
    TrapsFrom j s s1 g x1 num code va 0 0 := by
  obtain ⟨y, ho, he⟩ := raise_enters hx hv num va.toNat 0 code
  rw [BitVec.ofNat_toNat, BitVec.setWidth_eq, if_pos (by simpa using hn)] at he
  exact ⟨y, ⟨_, hj, ho⟩, he⟩

/-! ## A load that nothing stops -/

section
variable {s : State} {g : Nat} {p : Phys}

/-- A located doubleword that holds poison. -/
theorem sldAt_poisoned {s1 : State} {va : DWord} {d : BitVec 6} (hm : metPoison s 8 [p] = s1) (hp : readsPoison s1 g 8 p = true) :
    sldAt g va d s p = raise s1 g 6 va.toNat := by
  have hm : (if attrAE p.attr then meetPoison s p.pa 8 else s) = s1 := hm
  unfold sldAt
  rw [hm]
  exact if_pos hp

/-- A located doubleword whose home answers and that holds no poison. -/
theorem sldAt_answered {s1 : State} {va : DWord} {d : BitVec 6} (hm : metPoison s 8 [p] = s1) (ha : Answered s1 g [p]) (hc : Clean s1 g 8 [p])
    {s2 : State} (h2 : (if toLanding p then reachLanding s1 g (p.places 8) else settleEntries s1 g (p.places 8)) = s2) :
    sldAt g va d s p = if behindOwn s2 g (if toLanding p then [] else p.places 8) (if toLanding p then p.places 8 else []) then waitHere s2 g
      else sldReads (sldTouched s2 g p) g d p := by
  obtain ⟨hserved, hlink⟩ := ha p List.mem_cons_self
  have hclean := hc p List.mem_cons_self
  have hpoison : readsPoison s1 g 8 p = false := by
    cases he : inEndpoints p.pa with
    | true => simp [readsPoison, he]
    | false => simp [readsPoison, hserved, show poisonSeen s1 g (.mem p.pa) = false from hclean he 0 (by decide), hclean he 7 (by decide)]
  have hheld : heldBack s1 g [p] = false := by simp [heldBack, hserved]
  have hhost : (inApertures p.pa && !s1.linkUp) = false := by
    cases hap : inApertures p.pa with
    | true => simp [hlink hap]
    | false => rfl
  have hm : (if attrAE p.attr then meetPoison s p.pa 8 else s) = s1 := hm
  unfold sldAt
  rw [hm]
  dsimp only
  rw [hpoison, hheld, hhost, if_neg Bool.false_ne_true, if_neg Bool.false_ne_true, if_neg Bool.false_ne_true]
  have h2 : (if viaLanding p then reachLanding s1 g (p.places 8) else settleEntries s1 g (p.places 8)) = s2 := h2
  rw [h2]
  rfl

end

end Sys2Proof.Machine
end

section
/-! What draining lines of a core's buffer leaves: every byte that its groups see, and every entry that is on its way (R98, R103). -/

namespace Sys2Proof.Machine

/-! ## The bytes of a buffer -/

/-- The byte that a line holds for a place. -/
def WcbLine.byteAt (l : WcbLine) (p : Loc) : Option Byte := p.pa.bind (kfind l.bytes)

/-- The latest byte that a buffer holds for a place. -/
def bufferedByte (w : List WcbLine) (p : Loc) : Option Byte := w.reverse.findSome? fun l => l.byteAt p

/-- The latest byte that a store on its way, which a group sees, writes at a place. -/
def travellingByte (s : State) (core g : Nat) (p : Loc) : Option Byte :=
  s.stores.reverse.findSome? fun t => if t.seenBy core g then t.byteAt p else none

theorem seenByte_eq (s : State) (g : Nat) (p : Loc) : seenByte s g p =
    ((bufferedByte (getCore s (coreOf s g)).wcb p).or (travellingByte s (coreOf s g) g p)).getD (readByte s p) := by
  rw [seenByte]
  change (match bufferedByte (getCore s (coreOf s g)).wcb p with
    | some b => b
    | none => match travellingByte s (coreOf s g) g p with
      | some b => b
      | none => readByte s p) = _
  cases bufferedByte (getCore s (coreOf s g)).wcb p
  · cases travellingByte s (coreOf s g) g p <;> rfl
  · rfl

theorem kfind_key {α : Type} {m : KMap α} {k : Nat} {v : α} {P : Nat → Prop} (hm : ∀ e ∈ m, P e.1) (h : kfind m k = some v) : P k :=
  hm _ (kfind_mem h)

theorem WcbLine.byteAt_line {l : WcbLine} (h : LineOk l) {p : Loc} {b : Byte} (hb : l.byteAt p = some b) :
    ∃ a, p = .mem a ∧ l.line = lineOf a := by
  cases p with
  | mem a => exact ⟨a, rfl, (kfind_key (P := fun k => lineOf k = l.line) h.1 hb).symm⟩
  | pad _ _ => cases hb
  | slice _ _ => cases hb

/-- Two lines of a buffer that hold a byte are of one number. -/
theorem byteAt_same_line {l k : WcbLine} (hl : LineOk l) (hk : LineOk k) {p : Loc} {b c : Byte} (hb : l.byteAt p = some b)
    (hc : k.byteAt p = some c) : l.line = k.line := by
  obtain ⟨a, rfl, ha⟩ := WcbLine.byteAt_line hl hb
  obtain ⟨a', h, ha'⟩ := WcbLine.byteAt_line hk hc
  cases h
  rw [ha, ha']

/-- The one line of a buffer that holds a byte gives it. -/
theorem bufferedByte_of_mem {w : List WcbLine} (h : LinesOk w) {l : WcbLine} (hl : l ∈ w) {p : Loc} {b : Byte} (hb : l.byteAt p = some b) :
    bufferedByte w p = some b := by
  have hsome : (bufferedByte w p).isSome = true := by
    rw [bufferedByte, List.findSome?_isSome_iff]
    exact ⟨l, List.mem_reverse.2 hl, by rw [hb]; rfl⟩
  obtain ⟨c, hc⟩ := Option.isSome_iff_exists.1 hsome
  obtain ⟨k, hk, hkc⟩ := List.exists_of_findSome?_eq_some hc
  have hk := List.mem_reverse.1 hk
  have hkl : k = l := List.inj_on_of_nodup_map h.1 hk hl (byteAt_same_line (h.2 k hk) (h.2 l hl) hkc hb)
  rw [hc, ← hkc, hkl, hb]

theorem bufferedByte_eq_none {w : List WcbLine} {p : Loc} : bufferedByte w p = none ↔ ∀ l ∈ w, l.byteAt p = none := by
  rw [bufferedByte, List.findSome?_eq_none_iff]
  simp only [List.mem_reverse]

theorem perm_eraseIdx {α : Type} {w : List α} {i : Nat} {l : α} (h : w[i]? = some l) : (l :: w.eraseIdx i).Perm w := by
  obtain ⟨hi, rfl⟩ := List.getElem?_eq_some_iff.1 h
  exact List.getElem_cons_eraseIdx_perm hi

/-- A line that leaves a buffer takes its bytes along. -/
theorem bufferedByte_eraseIdx {w : List WcbLine} (h : LinesOk w) {i : Nat} {l : WcbLine} (hi : w[i]? = some l) (p : Loc) :
    (bufferedByte (w.eraseIdx i) p).or (l.byteAt p) = bufferedByte w p := by
  have hperm := perm_eraseIdx hi
  have hl : l ∈ w := hperm.subset List.mem_cons_self
  cases hb : l.byteAt p with
  | some b =>
    have hrest : bufferedByte (w.eraseIdx i) p = none := by
      rw [bufferedByte_eq_none]
      intro k hk
      by_contra hc
      obtain ⟨c, hc⟩ := Option.ne_none_iff_exists'.1 hc
      have hline := byteAt_same_line (h.2 l hl) (h.2 k (List.mem_of_mem_eraseIdx hk)) hb hc
      have hnodup := (hperm.map (·.line)).nodup_iff.2 h.1
      rw [List.map_cons, List.nodup_cons] at hnodup
      exact hnodup.1 (hline ▸ List.mem_map_of_mem hk)
    rw [hrest, bufferedByte_of_mem h hl hb]
    rfl
  | none =>
    rw [Option.or_none]
    cases hr : bufferedByte (w.eraseIdx i) p with
    | some b =>
      obtain ⟨k, hk, hkb⟩ := List.exists_of_findSome?_eq_some hr
      exact (bufferedByte_of_mem h (List.mem_of_mem_eraseIdx (List.mem_reverse.1 hk)) hkb).symm
    | none =>
      rw [eq_comm, bufferedByte_eq_none]
      intro k hk
      obtain rfl | hk := List.mem_cons.1 (hperm.symm.subset hk)
      · exact hb
      · exact bufferedByte_eq_none.1 hr k hk

/-! ## Draining -/

/-- `u` is `s` but for lines of a core's buffer that have left it. -/
structure Drained (s u : State) (core : Nat) : Prop where
  ok : WcbOk u
  others : ∀ c, { getCore u c with wcb := [] } = { getCore s c with wcb := [] } ∧ (c ≠ core → (getCore u c).wcb = (getCore s c).wcb)
  stores : ∃ more, u.stores = s.stores ++ more
  entries : (towardsLandings u core).Perm (towardsLandings s core)
  seen : ∀ g, coreOf s g = core → ∀ p, seenByte u g p = seenByte s g p
  rest : u = { s with cores := u.cores, stores := u.stores, sent := u.sent, fresh := u.fresh }

theorem Drained.refl {s : State} (h : WcbOk s) (core : Nat) : Drained s s core :=
  ⟨h, fun _ => ⟨rfl, fun _ => rfl⟩, ⟨[], (List.append_nil _).symm⟩, .refl _, fun _ _ _ => rfl, rfl⟩

theorem coreOf_congr {s u : State} (hg : u.groups = s.groups) (hb : u.blocks = s.blocks) (g : Nat) : coreOf u g = coreOf s g := by
  rw [coreOf, coreOf, blockOf_congr hb (by rw [getGroup, getGroup, hg])]

theorem Drained.coreOf {s u : State} {core : Nat} (h : Drained s u core) (g : Nat) : coreOf u g = coreOf s g :=
  coreOf_congr (by rw [h.rest]) (by rw [h.rest]) g

theorem Drained.trans {s u v : State} {core : Nat} (h : Drained s u core) (k : Drained u v core) : Drained s v core where
  ok := k.ok
  others c := ⟨(k.others c).1.trans (h.others c).1, fun hc => ((k.others c).2 hc).trans ((h.others c).2 hc)⟩
  stores := by
    obtain ⟨a, ha⟩ := h.stores
    obtain ⟨b, hb⟩ := k.stores
    exact ⟨a ++ b, by rw [hb, ha, List.append_assoc]⟩
  entries := k.entries.trans h.entries
  seen g hg p := (k.seen g ((h.coreOf g).trans hg) p).trans (h.seen g hg p)
  rest := by rw [k.rest, h.rest]

theorem Drained.freshen {s : State} (h : WcbOk s) (core n : Nat) : Drained s { s with fresh := n } core :=
  ⟨h.of_cores rfl, fun _ => ⟨rfl, fun _ => rfl⟩, ⟨[], (List.append_nil _).symm⟩, .refl _,
    fun _ _ p => seenByte_congr rfl (fun _ => rfl) rfl rfl rfl p, rfl⟩

/-- The store by which a line's bytes go home. -/
def lineStore (core part : Nat) (l : WcbLine) : Store :=
  { core := core, part := part, groups := l.groups, scope := l.scope, bytes := l.bytes, since := l.last, whole := l.whole }

theorem lineStore_byteAt (core part g : Nat) (l : WcbLine) (p : Loc) :
    (if (lineStore core part l).seenBy core g then (lineStore core part l).byteAt p else none) = l.byteAt p := by
  have hseen : (lineStore core part l).seenBy core g = true := by simp [Store.seenBy, lineStore]
  rw [if_pos hseen, Store.byteAt, WcbLine.byteAt]
  show (match p.pa.bind (kfind l.bytes) with
    | some b => some b
    | none => none) = _
  cases p.pa.bind (kfind l.bytes) <;> rfl

section
variable {s : State} {core i : Nat} {l : WcbLine} (hl : (getCore s core).wcb[i]? = some l)
include hl

/-- The state with a line out of its buffer. -/
theorem drainLine_eq : drainLine s core i =
    drainTo (modCore s core fun c => { c with wcb := c.wcb.eraseIdx i }) core (partOfGroups s l.groups) l := by
  rw [drainLine, hl]

theorem drainLine_stores : (drainLine s core i).stores =
    s.stores ++ if l.ae then [] else [lineStore core (partOfGroups s l.groups) l] := by
  rw [drainLine_eq hl, drainTo]
  cases l.ae
  · rfl
  · exact (List.append_nil _).symm

theorem drainLine_getCore (c : Nat) : getCore (drainLine s core i) c =
    if c = core then { getCore s core with wcb := (getCore s core).wcb.eraseIdx i } else getCore s c := by
  rw [drainLine_eq hl, getCore, drainTo_cores, ← getCore, getCore_modCore]

theorem drainLine_rest : drainLine s core i = { s with
    cores := (drainLine s core i).cores, stores := (drainLine s core i).stores, sent := (drainLine s core i).sent } := by
  rw [drainLine_eq hl, drainTo]
  cases l.ae <;> rfl

variable (h : WcbOk s)
include h

theorem drainLine_sent : (drainLine s core i).sent = s.sent ++ l.entries := by
  rw [drainLine_eq hl, drainTo]
  cases hae : l.ae
  · have hentries := ((h core).2 l (List.mem_of_getElem? hl)).2.2 hae
    rw [hentries]
    exact (List.append_nil _).symm
  · rfl

theorem drainLine_seen {g : Nat} (hg : coreOf s g = core) (p : Loc) : seenByte (drainLine s core i) g p = seenByte s g p := by
  have hrest := drainLine_rest hl
  have hcore : coreOf (drainLine s core i) g = core := by
    exact (coreOf_congr (by rw [hrest]) (by rw [hrest]) g).trans hg
  have hread : readByte (drainLine s core i) p = readByte s p := readByte_congr (by rw [hrest]) (by rw [hrest]) p
  have htravel : travellingByte (drainLine s core i) core g p = (l.byteAt p).or (travellingByte s core g p) := by
    rw [travellingByte, drainLine_stores hl]
    cases hae : l.ae
    · simp only [Bool.false_eq_true, if_false, List.reverse_append, List.reverse_singleton, List.singleton_append, List.findSome?_cons,
        lineStore_byteAt]
      cases l.byteAt p <;> rfl
    · have hbytes := ((h core).2 l (List.mem_of_getElem? hl)).2.1 hae
      have hnone : l.byteAt p = none := by
        rw [WcbLine.byteAt, hbytes]
        cases p.pa <;> rfl
      rw [hnone, if_pos rfl, List.append_nil]
      rfl
  rw [seenByte_eq, seenByte_eq, hcore, hg, hread, htravel, drainLine_getCore hl, if_pos rfl, ← Option.or_assoc,
    bufferedByte_eraseIdx (h core) hl]

theorem drainLine_entries : (towardsLandings (drainLine s core i) core).Perm (towardsLandings s core) := by
  refine List.Perm.map _ ?_
  rw [drainLine_sent hl h, drainLine_getCore hl, if_pos rfl]
  have hperm : (((getCore s core).wcb.eraseIdx i).flatMap (·.entries) ++ l.entries).Perm ((getCore s core).wcb.flatMap (·.entries)) :=
    List.perm_append_comm.trans ((perm_eraseIdx hl).flatMap_right _)
  rw [← List.append_assoc]
  refine .trans ?_ (hperm.append_right s.sent)
  rw [List.append_assoc, List.append_assoc]
  exact List.perm_append_comm.append_left _

theorem drainLine_drained : Drained s (drainLine s core i) core where
  ok := drainLine_wcb h core i
  others c := by
    rw [drainLine_getCore hl]
    split
    · next hc => exact ⟨by rw [hc], fun hne => absurd hc hne⟩
    · exact ⟨rfl, fun _ => rfl⟩
  stores := ⟨_, drainLine_stores hl⟩
  entries := drainLine_entries hl h
  seen _ hg p := drainLine_seen hl h hg p
  rest := by rw [drainLine_rest hl]

end

theorem drained_drainLine {s : State} (h : WcbOk s) (core i : Nat) : Drained s (drainLine s core i) core := by
  cases hl : (getCore s core).wcb[i]? with
  | some l => exact drainLine_drained hl h
  | none => rw [drainLine, hl]; exact .refl h core

theorem drained_drainOther {s : State} (h : WcbOk s) (core scope line : Nat) (ae : Bool) :
    Drained s (drainOther s core scope line ae) core := by
  unfold drainOther
  split
  · exact drained_drainLine h core _
  · exact .refl h core

theorem drained_makeRoom {s : State} (h : WcbOk s) (core : Nat) : Drained s (makeRoom s core) core := by
  unfold makeRoom
  split
  · exact (Drained.freshen h core _).trans (drained_drainLine (s := { s with fresh := s.fresh + 1 }) (h.of_cores rfl) core _)
  · exact .refl h core

end Sys2Proof.Machine
end

section
/-! A store that joins a core's buffer: the bytes that its group sees behind it, or the entry that is on its way (R98, R103). -/

namespace Sys2Proof.Machine

/-! ## Joining the buffer -/

/-- Whether a line is that of a store: its number, its scope, its kind of page. -/
def WcbLine.isFor (pa scope : Nat) (ae : Bool) (l : WcbLine) : Bool := l.line == lineOf pa && l.scope == scope && l.ae == ae

/-- A line with what a store adds to it. -/
def WcbLine.joined (g cycle page : Nat) (put : WcbLine → WcbLine) (l : WcbLine) : WcbLine :=
  { put l with groups := insertNat l.groups g, last := cycle, page := page }

/-- A new line of the buffer, before what its store adds. -/
def WcbLine.fresh (pa scope : Nat) (ae : Bool) : WcbLine :=
  { line := lineOf pa, bytes := [], groups := [], scope := scope, last := 0, page := 0, ae := ae }

/-- A buffer in which a store has joined the lines that are for it. -/
def joinedLines (f : WcbLine → WcbLine) (here : WcbLine → Bool) (w : List WcbLine) : List WcbLine := w.map fun l => if here l then f l else l

theorem joinLine_eq (s : State) (g core scope pa page : Nat) (ae : Bool) (put : WcbLine → WcbLine) :
    joinLine s g core scope pa page ae put =
      if (getCore (drainOther s core scope (lineOf pa) ae) core).wcb.any (WcbLine.isFor pa scope ae) then
        modCore (drainOther s core scope (lineOf pa) ae) core fun c =>
          { c with wcb := joinedLines (WcbLine.joined g s.cycle page put) (WcbLine.isFor pa scope ae) c.wcb }
      else modCore (makeRoom (drainOther s core scope (lineOf pa) ae) core) core fun c =>
        { c with wcb := c.wcb ++ [(WcbLine.fresh pa scope ae).joined g s.cycle page put] } := rfl

/-- A store joins its line, or a new one behind the others, where lines have left the buffer first. -/
theorem joinLine_cases {s : State} (h : WcbOk s) (g core scope pa page : Nat) (ae : Bool) (put : WcbLine → WcbLine) :
    ∃ u, Drained s u core ∧ let f := WcbLine.joined g s.cycle page put
      (((getCore u core).wcb.any (WcbLine.isFor pa scope ae) = true ∧ joinLine s g core scope pa page ae put =
          modCore u core fun c => { c with wcb := joinedLines f (WcbLine.isFor pa scope ae) c.wcb }) ∨
        joinLine s g core scope pa page ae put = modCore u core fun c => { c with wcb := c.wcb ++ [f (WcbLine.fresh pa scope ae)] }) := by
  have hd := drained_drainOther h core scope (lineOf pa) ae
  rw [joinLine_eq]
  split
  · next hany => exact ⟨_, hd, .inl ⟨hany, rfl⟩⟩
  · exact ⟨_, hd.trans (drained_makeRoom hd.ok core), .inr rfl⟩

/-! ## What a store's bytes leave to be seen -/

theorem kfind_foldl_kput {α : Type} (ws : List (Nat × α)) (m : KMap α) (k : Nat) :
    kfind (ws.foldl (fun m w => kput m w.1 w.2) m) k = (lastValue ws k).or (kfind m k) := by
  induction ws generalizing m with
  | nil => rfl
  | cons w ws ih =>
    rw [List.foldl_cons, ih, lastValue_cons, kfind_kput, Option.or_assoc]
    by_cases hk : k = w.1
    · rw [if_pos hk, if_pos hk.symm]
      rfl
    · rw [if_neg hk, if_neg (Ne.symm hk)]
      rfl

/-- The writes of a run of bytes. -/
def runWrites (pa : Nat) (bytes : List Byte) : List (Nat × Byte) := bytes.zipIdx.map fun b => (pa + b.2, b.1)

/-- What the bytes of a store add to a line. -/
def WcbLine.withBytes (pa : Nat) (bytes : List Byte) (whole : Option Nat) (l : WcbLine) : WcbLine :=
  { l with
    bytes := bytes.zipIdx.foldl (fun m b => kput m (pa + b.2) b.1) l.bytes
    whole := match whole with
      | some n => (l.whole ++ [(Loc.mem (pa / 64), n)]).eraseDups
      | none => l.whole }

theorem bufferLine_eq (s : State) (g core scope pa page : Nat) (bytes : List Byte) (whole : Option Nat) :
    bufferLine s g core scope pa page bytes whole = joinLine s g core scope pa page false (WcbLine.withBytes pa bytes whole) := rfl

/-- The byte that a run of bytes puts at a place. -/
def runByte (pa : Nat) (bytes : List Byte) (p : Loc) : Option Byte := p.pa.bind (lastValue (runWrites pa bytes))

theorem WcbLine.byteAt_joined {g cycle page pa : Nat} {bytes : List Byte} {whole : Option Nat} (l : WcbLine) (p : Loc) :
    (l.joined g cycle page (WcbLine.withBytes pa bytes whole)).byteAt p = (runByte pa bytes p).or (l.byteAt p) := by
  have hfold : bytes.zipIdx.foldl (fun m b => kput m (pa + b.2) b.1) l.bytes =
      (runWrites pa bytes).foldl (fun m w => kput m w.1 w.2) l.bytes := by
    rw [runWrites, List.foldl_map]
  cases p with
  | mem a => exact (congrArg (kfind · a) hfold).trans (kfind_foldl_kput ..)
  | pad _ _ => rfl
  | slice _ _ => rfl

/-- Behind a store that has joined its line. -/
theorem bufferedByte_joinedLines {w : List WcbLine} {f : WcbLine → WcbLine} {here : WcbLine → Bool} {o : Option Byte} {p : Loc}
    (hw : LinesOk (joinedLines f here w)) (hany : w.any here = true) (hf : ∀ l, (f l).byteAt p = o.or (l.byteAt p)) :
    bufferedByte (joinedLines f here w) p = o.or (bufferedByte w p) := by
  cases o with
  | some b =>
    obtain ⟨l, hl, hh⟩ := List.any_eq_true.1 hany
    exact bufferedByte_of_mem hw (l := f l) (List.mem_map.2 ⟨l, hl, by rw [if_pos hh]⟩) (hf l)
  | none =>
    have hsame : ∀ l, (if here l then f l else l).byteAt p = l.byteAt p := by
      intro l
      split
      · exact hf l
      · rfl
    rw [bufferedByte, joinedLines, ← List.map_reverse, List.findSome?_map]
    exact congrArg (List.findSome? · w.reverse) (funext hsame)

/-- Behind a store that has opened a line. -/
theorem bufferedByte_push (w : List WcbLine) (l : WcbLine) (p : Loc) :
    bufferedByte (w ++ [l]) p = (l.byteAt p).or (bufferedByte w p) := by
  rw [bufferedByte, List.reverse_append, List.reverse_singleton, List.singleton_append, List.findSome?_cons]
  cases l.byteAt p <;> rfl

/-- What a group sees behind a change of its core's buffer. -/
theorem seenByte_rebuffer {u : State} {g core : Nat} (hc : coreOf u g = core) (F : List WcbLine → List WcbLine) {o : Option Byte} {p : Loc}
    (h : bufferedByte (F (getCore u core).wcb) p = o.or (bufferedByte (getCore u core).wcb p)) :
    seenByte (modCore u core fun c => { c with wcb := F c.wcb }) g p = o.getD (seenByte u g p) := by
  have hcore : coreOf (modCore u core fun c => { c with wcb := F c.wcb }) g = core := hc
  rw [seenByte_eq, seenByte_eq, hcore, hc, getCore_modCore, if_pos rfl, h, Option.or_assoc,
    readByte_congr (s := u) (t := modCore u core fun c => { c with wcb := F c.wcb }) rfl rfl]
  cases o <;> rfl

/-- What a group sees behind a store that joins its core's buffer, `o` the byte that it adds to its line at a place. -/
theorem seenByte_joinLine {t : State} {g core scope pa page : Nat} {ae : Bool} {put : WcbLine → WcbLine} (h : WcbOk t)
    (hc : coreOf t g = core) (hj : WcbOk (joinLine t g core scope pa page ae put)) {o : Option Byte} {p : Loc}
    (hf : ∀ l : WcbLine, (l.joined g t.cycle page put).byteAt p = o.or (l.byteAt p)) :
    seenByte (joinLine t g core scope pa page ae put) g p = o.getD (seenByte t g p) := by
  obtain ⟨u, hu, ⟨hany, heq⟩ | heq⟩ := joinLine_cases h g core scope pa page ae put
  · rw [heq, ← hu.seen g hc p]
    refine seenByte_rebuffer ((hu.coreOf g).trans hc) _ (bufferedByte_joinedLines ?_ hany hf)
    have hlines := hj core
    rw [heq, getCore_modCore, if_pos rfl] at hlines
    exact hlines
  · rw [heq, ← hu.seen g hc p]
    refine seenByte_rebuffer ((hu.coreOf g).trans hc) (· ++ [(WcbLine.fresh pa scope ae).joined g t.cycle page put]) ?_
    have hfresh : (WcbLine.fresh pa scope ae).byteAt p = none := by cases p <;> rfl
    rw [bufferedByte_push, hf, hfresh, Option.or_none]

/-! ## The entries of a buffer -/

theorem entries_joinedLines {w : List WcbLine} {f : WcbLine → WcbLine} {here : WcbLine → Bool} {line : Nat} {more : List Entry}
    (hw : (w.map (·.line)).Nodup) (hh : ∀ l, here l = true → l.line = line) (hany : w.any here = true)
    (hf : ∀ l, (f l).entries = l.entries ++ more) :
    ((joinedLines f here w).flatMap (·.entries)).Perm (w.flatMap (·.entries) ++ more) := by
  induction w with
  | nil => cases hany
  | cons l w ih =>
    rw [List.map_cons, List.nodup_cons] at hw
    obtain ⟨hl, hw⟩ := hw
    rw [joinedLines, List.map_cons, List.flatMap_cons, List.flatMap_cons, List.append_assoc]
    by_cases hhere : here l = true
    · have hrest : (w.map fun k => if here k then f k else k) = w := by
        have hkeep : ∀ k ∈ w, (if here k then f k else k) = k := fun k hk => if_neg fun hk' =>
          hl (by rw [hh l hhere, ← hh k hk']; exact List.mem_map_of_mem hk)
        exact (List.map_congr_left hkeep).trans (List.map_id' w)
      rw [hrest, if_pos hhere, hf, List.append_assoc]
      exact List.perm_append_comm.append_left _
    · rw [List.any_cons, Bool.eq_false_iff.2 hhere, Bool.false_or] at hany
      rw [if_neg hhere]
      exact (ih hw hany).append_left _

/-- An entry without the cycle in which it left. -/
def Entry.timeless (e : Entry) : Entry := { e with since := 0 }

section
variable {s t u : State} {g : Nat} {x y : Group} {new : List Entry}

theorem OnlyStores.refl (h : kfind s.groups g = some x) : OnlyStores s s g x [] :=
  ⟨h, fun _ _ => rfl, by rw [List.append_nil], fun _ => ⟨rfl, fun _ => rfl⟩, ⟨[], (List.append_nil _).symm⟩, rfl⟩

variable (h : OnlyStores s t g y new)
include h

theorem OnlyStores.cycle : t.cycle = s.cycle := by rw [h.rest]
theorem OnlyStores.blocks : t.blocks = s.blocks := by rw [h.rest]
theorem OnlyStores.parts : t.parts = s.parts := by rw [h.rest]

theorem OnlyStores.modGroup (f : Group → Group) : OnlyStores s (Machine.modGroup t g f) g (f y) new where
  group := by simp [kfind_modGroup, h.group]
  others j hj := by rw [kfind_modGroup, if_neg hj, h.others j hj]
  entries := h.entries
  cores := h.cores
  stores := h.stores
  rest := by rw [Machine.modGroup]; rw [h.rest]

theorem OnlyStores.past (len : Nat) : OnlyStores s (advance t g len) g (Past s y len) new := by
  have := h.modGroup fun x => Past t x len
  rwa [show Past t y len = Past s y len by rw [Past, Past, h.cycle]] at this

theorem OnlyStores.scoped (ms : List ScopeMark) : OnlyStores s { t with scopes := ms } g y new where
  group := h.group
  others := h.others
  entries := h.entries
  cores := h.cores
  stores := h.stores
  rest := by rw [h.rest]

theorem OnlyStores.touchPage (p : Phys) : OnlyStores s (Machine.touchPage t g p) g (y.widen (attrScope p.attr)) new := by
  rw [Machine.touchPage, touchScope_rest]
  exact (h.scoped _).modGroup _

/-- Lines leave the buffer of the group's core. -/
theorem OnlyStores.drained (hd : Drained t u (coreOf s g)) : OnlyStores s u g y new where
  group := by rw [hd.rest]; exact h.group
  others j hj := by rw [hd.rest]; exact h.others j hj
  entries := hd.entries.trans h.entries
  cores c := ⟨(hd.others c).1.trans (h.cores c).1, fun hc => ((hd.others c).2 hc).trans ((h.cores c).2 hc)⟩
  stores := by
    obtain ⟨a, ha⟩ := h.stores
    obtain ⟨b, hb⟩ := hd.stores
    exact ⟨a ++ b, by rw [hb, ha, List.append_assoc]⟩
  rest := by rw [hd.rest, h.rest]

/-- The buffer of the group's core takes up some entries, or none. -/
theorem OnlyStores.rebuffer (F : List WcbLine → List WcbLine) {more : List Entry}
    (hp : ((F (getCore t (coreOf s g)).wcb).flatMap (·.entries)).Perm ((getCore t (coreOf s g)).wcb.flatMap (·.entries) ++ more)) :
    OnlyStores s (modCore t (coreOf s g) fun c => { c with wcb := F c.wcb }) g y (new ++ more.map Entry.timeless) where
  group := h.group
  others := h.others
  entries := by
    have hfront : (towardsLandings (modCore t (coreOf s g) fun c => { c with wcb := F c.wcb }) (coreOf s g)).Perm
        (towardsLandings t (coreOf s g) ++ more.map Entry.timeless) := by
      rw [towardsLandings, towardsLandings, getCore_modCore, if_pos rfl]
      refine .trans ((hp.append_right _).map _) ?_
      rw [show more.map Entry.timeless = more.map fun e => { e with since := 0 } from rfl, ← List.map_append]
      refine .map _ ?_
      rw [List.append_assoc, List.append_assoc]
      exact List.perm_append_comm.append_left _
    rw [← List.append_assoc]
    exact hfront.trans (h.entries.append_right _)
  cores c := by
    rw [getCore_modCore]
    split
    · next hc => exact ⟨hc ▸ (h.cores c).1, fun hne => absurd hc hne⟩
    · exact h.cores c
  stores := h.stores
  rest := by rw [modCore]; rw [h.rest]

/-- A store joins the buffer of the group's core with some entries, or none. -/
theorem OnlyStores.joinLine (hok : WcbOk t) (scope pa page : Nat) (ae : Bool) {put : WcbLine → WcbLine} {more : List Entry}
    (hput : ∀ l, (put l).entries = l.entries ++ more) :
    OnlyStores s (Machine.joinLine t g (coreOf s g) scope pa page ae put) g y (new ++ more.map Entry.timeless) := by
  obtain ⟨u, hu, ⟨hany, heq⟩ | heq⟩ := joinLine_cases hok g (coreOf s g) scope pa page ae put
  · rw [heq]
    refine (h.drained hu).rebuffer _ (entries_joinedLines (line := lineOf pa) (hu.ok _).1 (fun l hl => ?_) hany hput)
    simp only [WcbLine.isFor, Bool.and_eq_true, beq_iff_eq] at hl
    exact hl.1.1
  · rw [heq]
    refine (h.drained hu).rebuffer (· ++ [(WcbLine.fresh pa scope ae).joined g t.cycle page put]) ?_
    rw [List.flatMap_append, List.flatMap_singleton]
    exact .of_eq (congrArg _ (hput _))

section
variable (hx : kfind s.groups g = some x) (hb : y.block = x.block)
include hx hb

theorem OnlyStores.sameBlock : (getGroup t g).block = (getGroup s g).block := by rw [getGroup_of h.group, getGroup_of hx, hb]
theorem OnlyStores.blockOf : blockOf t g = blockOf s g := blockOf_congr h.blocks (h.sameBlock hx hb)
theorem OnlyStores.coreOf : coreOf t g = coreOf s g := congrArg Block.core (h.blockOf hx hb)
theorem OnlyStores.partOf : partOf t g = partOf s g := congrArg Block.part (h.blockOf hx hb)
theorem OnlyStores.ctxOf : ctxOf t g = ctxOf s g := ctxOf_congr h.blocks h.parts (h.sameBlock hx hb)

end

end

end Sys2Proof.Machine
end

section
/-! What settling leaves alone where nothing of the group is outstanding (R116). -/

namespace Sys2Proof.Machine

/-- A state with a core's record written again. -/
def rewritten (s : State) (core : Nat) : State := modCore s core fun c => c

theorem getCore_rewritten (s : State) (core c : Nat) : getCore (rewritten s core) c = getCore s c := by
  rw [rewritten, getCore_modCore]
  split
  · next h => rw [h]
  · rfl

theorem mem_entriesUnderWay_rewritten {s : State} {core : Nat} {e : Entry} (h : e ∈ entriesUnderWay (rewritten s core)) :
    e ∈ entriesUnderWay s := by
  have hcores : e ∈ (rewritten s core).cores.flatMap (fun c => c.2.wcb.flatMap (·.entries)) →
      e ∈ s.cores.flatMap (fun c => c.2.wcb.flatMap (·.entries)) := by
    rw [List.mem_flatMap, List.mem_flatMap]
    rintro ⟨c, hc, he⟩
    rcases mem_kput hc with rfl | hc
    · cases hk : kfind s.cores core with
      | some k => exact ⟨(core, k), kfind_mem hk, by rwa [getCore, kgetD, hk] at he⟩
      | none => rw [getCore, kgetD, hk] at he; cases he
    · exact ⟨c, hc, he⟩
  simp only [entriesUnderWay, List.mem_append] at h ⊢
  exact h.imp_left (.imp_left (.imp_left (.imp_left hcores)))

theorem drainLines_none {s : State} {core : Nat} {p : WcbLine → Bool} (h : ∀ l ∈ (getCore s core).wcb, p l = false) :
    drainLines s core p = rewritten s core := by
  have hmine : (getCore s core).wcb.filter p = [] := List.filter_eq_nil_iff.2 fun l hl => by rw [h l hl]; exact Bool.false_ne_true
  have hrest : (getCore s core).wcb.filter (fun l => !p l) = (getCore s core).wcb :=
    List.filter_eq_self.2 fun l hl => by rw [h l hl]; rfl
  rw [drainLines, hmine, List.foldl_nil, modCore, hrest]
  rfl

theorem closedUnder_none {α : Type} (before : α → α → Bool) {p : α → Bool} {ts : List α} (h : ∀ t ∈ ts, p t = false) :
    closedUnder before p ts = [] := by
  induction ts with
  | nil => rfl
  | cons t ts ih =>
    rw [closedUnder, ih fun u hu => h u (List.mem_cons_of_mem _ hu), h t List.mem_cons_self]
    rfl

theorem applyStores_none {s : State} {p : Store → Bool} (h : ∀ t ∈ s.stores, p t = false) : applyStores s p = s := by
  rw [applyStores, closedUnder_none mustPrecede h]
  rfl

section
variable {s : State} {g : Nat} {ps : List Loc}

theorem settleStores_idle (h : NothingStored s g ps) : settleStores s g ps = rewritten s (coreOf s g) := by
  obtain ⟨hlines, hstores⟩ := h
  have hdrain : drainLines s (coreOf s g) (fun l => !l.ae && l.of g && ps.any l.holds) = rewritten s (coreOf s g) := by
    refine drainLines_none fun l hl => ?_
    cases hae : l.ae
    · cases hg : l.of g
      · rfl
      · exact List.any_eq_false.2 fun p hp => by rw [hlines l hl hae hg p hp]; exact Bool.false_ne_true
    · rfl
  rw [settleStores, hdrain]
  refine applyStores_none fun t ht => ?_
  by_cases hg : g ∈ t.groups
  · have hnone : t.places.any ps.contains = false := List.any_eq_false.2 fun p hp hps =>
      hstores t ht hg p (List.contains_iff_mem.1 hps) hp
    rw [hnone, Bool.and_false]
  · rw [Bool.eq_false_iff.2 fun hc => hg (List.contains_iff_mem.1 hc), Bool.false_and]

theorem any_sent_idle (h : NothingSent s g ps) : ((entriesUnderWay s).any fun e => e.of g && ps.any e.covers) = false := by
  refine List.any_eq_false.2 fun e he hc => ?_
  obtain ⟨hg, hps⟩ := Bool.and_eq_true_iff.1 hc
  obtain ⟨p, hp, hcov⟩ := List.any_eq_true.1 hps
  rw [h e he hg p hp] at hcov
  cases hcov

theorem settleEntries_idle (h : NothingSent s g ps) : settleEntries s g ps = s := by
  rw [settleEntries]
  dsimp only
  rw [any_sent_idle h]
  rfl

theorem NothingSent.mono {t : State} (h : NothingSent s g ps) (ht : ∀ e ∈ entriesUnderWay t, e ∈ entriesUnderWay s) : NothingSent t g ps :=
  fun e he => h e (ht e he)

theorem NothingStored.congr {t : State} (h : NothingStored s g ps) (hc : coreOf t g = coreOf s g) (hw : ∀ c, getCore t c = getCore s c)
    (hs : t.stores = s.stores) : NothingStored t g ps := by
  rw [NothingStored, hc, hw, hs]
  exact h

/-- Nothing that the group has outstanding holds the access. -/
theorem behindOwn_apart {plain landed : List Loc} (h : Apart s g plain landed) :
    behindOwn (rewritten s (coreOf s g)) g plain landed = false := by
  have hstores : (s.stores.any fun t => t.groups.contains g && t.places.any landed.contains) = false := by
    refine List.any_eq_false.2 fun t ht hc => ?_
    obtain ⟨hg, hps⟩ := Bool.and_eq_true_iff.1 hc
    obtain ⟨p, hp, hl⟩ := List.any_eq_true.1 hps
    exact h.stored.2 t ht (List.contains_iff_mem.1 hg) p (List.contains_iff_mem.1 hl) hp
  have harrivals : arrivalAt (rewritten s (coreOf s g)) g (plain ++ landed) = false := h.arrivals
  rw [behindOwn, any_sent_idle (h.sent.mono fun e => mem_entriesUnderWay_rewritten), harrivals]
  rw [show (rewritten s (coreOf s g)).stores = s.stores from rfl, hstores]
  rfl

end

end Sys2Proof.Machine
end

section
/-! An sst: its one element, and what it leaves (R83, R98, R103, R195). -/

namespace Sys2Proof.Machine

/-! ## Its bytes -/

theorem leBytes_eq (n w : Nat) : leBytes n w = (List.range n).map fun k => BitVec.ofNat 8 (w / 256 ^ k) := by
  induction n generalizing w with
  | zero => rfl
  | succ n ih =>
    rw [leBytes, ih, List.range_succ_eq_map, List.map_cons, List.map_map, Nat.pow_zero, Nat.div_one]
    refine congrArg _ (List.map_congr_left fun k _ => ?_)
    rw [Function.comp_apply, Nat.div_div_eq_div_mul, Nat.succ_eq_add_one, Nat.pow_succ']

theorem leBytes_dword (w : DWord) : leBytes 8 w.toNat = (List.range 8).map fun k => w.extractLsb' (8 * k) 8 := by
  rw [leBytes_eq]
  refine List.map_congr_left fun k _ => BitVec.eq_of_toNat_eq ?_
  rw [BitVec.toNat_ofNat, BitVec.extractLsb'_toNat, Nat.shiftRight_eq_div_pow, Nat.pow_mul]

theorem zip_run (pa : Nat) (bytes : List Byte) :
    ((Loc.mem pa).run bytes.length).zip bytes = (runWrites pa bytes).map fun w => (Loc.mem w.1, w.2) := by
  refine List.ext_getElem (by simp [Loc.run, runWrites]) fun i h1 h2 => ?_
  simp [Loc.run, runWrites, Loc.add]

/-- What a run of bytes leaves to be read. -/
theorem lastWrite_run (pa : Nat) (bytes : List Byte) (old : Loc → Byte) (q : Loc) :
    lastWrite (((Loc.mem pa).run bytes.length).zip bytes) old q = (runByte pa bytes q).getD (old q) := by
  have hfind : ∀ ws : List (Nat × Byte), (((ws.map fun w => (Loc.mem w.1, w.2)).find? fun w => w.1 = q).map (·.2)) =
      q.pa.bind fun a => (ws.find? fun w => w.1 = a).map (·.2) := by
    intro ws
    rw [List.find?_map]
    cases q with
    | mem a => simp [Loc.pa, Function.comp_def, Option.map_map]
    | pad _ _ => simp [Loc.pa, Function.comp_def]
    | slice _ _ => simp [Loc.pa, Function.comp_def]
  rw [lastWrite, zip_run, ← List.map_reverse, hfind]
  rfl

/-! ## Its element -/

theorem wholeGranules_one {va : Nat} {p : Phys} {bytes : List Byte} (h : bytes.length = 8) : wholeGranules [(va, p, bytes)] = [] := by
  rw [wholeGranules, List.filter_eq_nil_iff]
  intro k _ hall
  rw [List.all_eq_true] at hall
  have h0 := hall 0 (by simp)
  have h63 := hall 63 (by simp)
  simp [h] at h0 h63
  omega

theorem storeElems_one {s : State} {g va : Nat} {p : Phys} {bytes : List Byte} (he : inEndpoints p.pa = false) (hb : bytes.length = 8)
    {s2 : State} (h2 : settleEntries (settleStores s g (if toLanding p then p.places 8 else [])) g
      (if toLanding p then [] else p.places 8) = s2) :
    storeElems s g false false [(va, p, bytes)] =
      if behindOwn s2 g (if toLanding p then [] else p.places 8) (if toLanding p then p.places 8 else []) then waitHere s2 g
      else advance (storeOne (touchPage s2 g p) g va p bytes none) g 4 := by
  have hl : toLanding p = attrAE p.attr := by rw [toLanding, he]; exact Bool.and_true _
  have hwin : [(va, p, bytes)].filter (fun e => inEndpoints e.2.1.pa) = [] := by simp [he]
  have hothers : [(va, p, bytes)].filter (fun e => !inEndpoints e.2.1.pa) = [(va, p, bytes)] := by simp [he]
  have hat : ∀ ae : Bool, ([(va, p, bytes)].filter fun e => attrAE e.2.1.attr == ae).flatMap (fun e => e.2.1.places e.2.2.length) =
      if attrAE p.attr == ae then p.places 8 else [] := by
    intro ae
    cases hae : attrAE p.attr == ae <;> simp [hae, hb]
  have hfalse : (if attrAE p.attr == false then p.places 8 else []) = if attrAE p.attr then [] else p.places 8 := by
    cases attrAE p.attr <;> rfl
  have htrue : (if attrAE p.attr == true then p.places 8 else []) = if attrAE p.attr then p.places 8 else [] := by
    cases attrAE p.attr <;> rfl
  rw [hl] at h2 ⊢
  unfold storeElems
  simp only [hwin, hothers, hat, hfalse, htrue, h2, wholeGranules_one hb]
  rfl

/-- The state in which an sst buffers: its page is touched, its bytes' earlier results are fixed. -/
def sstTouched (s : State) (g : Nat) (p : Phys) : State := fixOverlap (touchPage s g p) g (p.places 8)

theorem sstTouched_rest (s : State) (g : Nat) (p : Phys) : sstTouched s g p =
    { s with groups := (sstTouched s g p).groups, scopes := (sstTouched s g p).scopes } := by
  unfold sstTouched touchPage
  rw [touchScope_rest]
  rfl

/-- The entry of an sst. -/
def sstEntry (s : State) (g : Nat) (p : Phys) (bytes : List Byte) : Entry := { entryOf s g p 8 17 with bytes := bytes, whole := none }

theorem storeOne_plain {s : State} {g va : Nat} {p : Phys} {bytes : List Byte} (hae : attrAE p.attr = false) (hb : bytes.length = 8)
    (ha : p.pa % 8 = 0) (hsent : NothingSent (sstTouched s g p) g (p.places 8)) :
    storeOne (touchPage s g p) g va p bytes none = joinLine (sstTouched s g p) g (coreOf (sstTouched s g p) g) (attrScope p.attr) p.pa
      (va / 65536) false (WcbLine.withBytes p.pa bytes none) := by
  have hline : p.pa % 128 + bytes.length ≤ 128 := by omega
  rw [storeOne, if_neg (by rw [hae]; exact Bool.false_ne_true), hb]
  change bufferStore (settleEntries (sstTouched s g p) g (p.places 8)) g (coreOf (sstTouched s g p) g) _ _ _ _ _ = _
  rw [settleEntries_idle hsent, bufferStore, if_pos hline, bufferLine_eq]

theorem storeOne_landed {s : State} {g va : Nat} {p : Phys} {bytes : List Byte} (hae : attrAE p.attr = true) (hb : bytes.length = 8)
    (hstored : NothingStored (sstTouched s g p) g (p.places 8)) :
    storeOne (touchPage s g p) g va p bytes none =
      joinLine (rewritten (sstTouched s g p) (coreOf (sstTouched s g p) g)) g (coreOf (sstTouched s g p) g) (attrScope p.attr) p.pa
        (va / 65536) true fun l => { l with entries := l.entries ++ [{ sstEntry (sstTouched s g p) g p bytes with since := s.cycle }] } := by
  rw [storeOne, if_pos hae]
  dsimp only
  rw [hb]
  change bufferEntry (settleStores (sstTouched s g p) g (p.places 8)) g (va / 65536) (sstEntry (sstTouched s g p) g p bytes) = _
  have hcycle : (rewritten (sstTouched s g p) (coreOf (sstTouched s g p) g)).cycle = s.cycle := by
    show (sstTouched s g p).cycle = _
    rw [sstTouched_rest]
  rw [settleStores_idle hstored, bufferEntry, hcycle]
  rfl

theorem drained_rewritten {s : State} (h : WcbOk s) (core c : Nat) : Drained s (rewritten s c) core where
  ok := h.modCore c _ (h c)
  others d := by rw [getCore_rewritten]; exact ⟨rfl, fun _ => rfl⟩
  stores := ⟨[], (List.append_nil _).symm⟩
  entries := by rw [towardsLandings, getCore_rewritten]; exact .refl _
  seen _ _ p := seenByte_congr (t := rewritten s c) (s := s) rfl (getCore_rewritten s c) rfl rfl rfl p
  rest := rfl

section
variable {s : State} {g : Nat} {x : Group} {p : Phys} (hx : kfind s.groups g = some x) (hok : WcbOk s)
include hx hok

theorem sstTouched_onlyStores : OnlyStores s (sstTouched (rewritten s (coreOf s g)) g p) g
    ((x.widen (attrScope p.attr)).fixed (p.places 8)) [] :=
  (((OnlyStores.refl hx).drained (drained_rewritten hok _ _)).touchPage p).modGroup (Group.fixed (p.places 8))

theorem sstTouched_core : coreOf (sstTouched (rewritten s (coreOf s g)) g p) g = coreOf s g :=
  (sstTouched_onlyStores hx hok).coreOf hx rfl

omit hx hok in
theorem sstTouched_getCore (c : Nat) : getCore (sstTouched (rewritten s (coreOf s g)) g p) c = getCore s c := by
  rw [sstTouched_rest]
  exact getCore_rewritten ..

omit hx in
theorem sstTouched_wcbOk : WcbOk (sstTouched (rewritten s (coreOf s g)) g p) := by
  intro c
  rw [sstTouched_getCore]
  exact hok c

theorem sstTouched_seen (q : Loc) : seenByte (sstTouched (rewritten s (coreOf s g)) g p) g q = seenByte s g q := by
  refine seenByte_congr (sstTouched_core hx hok) sstTouched_getCore ?_ ?_ ?_ q <;> rw [sstTouched_rest] <;> rfl

omit hx hok in
/-- The state behind an sst that nothing holds. -/
theorem sst_runs {va : Nat} {bytes : List Byte} (he : inEndpoints p.pa = false) (hb : bytes.length = 8)
    (hap : Apart s g (if toLanding p then [] else p.places 8) (if toLanding p then p.places 8 else [])) :
    storeElems s g false false [(va, p, bytes)] =
      advance (storeOne (touchPage (rewritten s (coreOf s g)) g p) g va p bytes none) g 4 := by
  rw [storeElems_one he hb (s2 := rewritten s (coreOf s g)), behindOwn_apart hap]
  · rfl
  · rw [settleStores_idle hap.stored, settleEntries_idle (hap.sent.mono fun e => mem_entriesUnderWay_rewritten)]

/-- An sst to a page that is not algebra-enabled. -/
theorem sst_plain {va : Nat} {bytes : List Byte} (he : inEndpoints p.pa = false) (hb : bytes.length = 8) (ha : p.pa % 8 = 0)
    (hp : toLanding p = false) (hap : Apart s g (p.places 8) []) :
    let t := storeElems s g false false [(va, p, bytes)]
    OnlyStores s t g (Past s ((x.widen (attrScope p.attr)).fixed (p.places 8)) 4) [] ∧
      ∀ q, seenByte t g q = lastWrite ((p.places 8).zip bytes) (seenByte s g) q := by
  have hae : attrAE p.attr = false := by rwa [toLanding, he, Bool.not_false, Bool.and_true] at hp
  have hline : p.pa % 128 + bytes.length ≤ 128 := by omega
  have hw := sstTouched_wcbOk (g := g) (p := p) hok
  have ho := sstTouched_onlyStores (p := p) hx hok
  have hc := sstTouched_core (p := p) hx hok
  have hsent : NothingSent (sstTouched (rewritten s (coreOf s g)) g p) g (p.places 8) :=
    hap.sent.mono fun e h => mem_entriesUnderWay_rewritten (core := coreOf s g) (by rwa [sstTouched_rest] at h)
  dsimp only
  rw [sst_runs he hb (by rw [hp]; exact hap), storeOne_plain hae hb ha hsent, hc]
  have hj := ho.joinLine hw (attrScope p.attr) p.pa (va / 65536) false (put := WcbLine.withBytes p.pa bytes none) (more := [])
    fun _ => (List.append_nil _).symm
  refine ⟨hj.past 4, fun q => ?_⟩
  have hlast := lastWrite_run p.pa bytes (seenByte s g) q
  rw [hb] at hlast
  have hjok := bufferLine_wcb hw g (coreOf s g) (attrScope p.attr) p.pa (va / 65536) bytes none hline
  rw [bufferLine_eq] at hjok
  rw [show p.places 8 = (Loc.mem p.pa).run 8 from rfl, hlast, ← sstTouched_seen (p := p) hx hok q,
    ← seenByte_joinLine hw hc hjok fun l => WcbLine.byteAt_joined l q]
  exact seenByte_modGroup hj.group rfl q

/-- An sst to an algebra-enabled page. -/
theorem sst_landed {va : Nat} {bytes : List Byte} (he : inEndpoints p.pa = false) (hb : bytes.length = 8) (hp : toLanding p = true)
    (hap : Apart s g [] (p.places 8)) :
    let t := storeElems s g false false [(va, p, bytes)]
    ∃ n, OnlyStores s t g (Past s ((x.widen (attrScope p.attr)).fixed (p.places 8)) 4) [n] ∧ (∀ q, seenByte t g q = seenByte s g q) ∧
      IsEntry s g p 8 17 n ∧ n.bytes = bytes := by
  have hae : attrAE p.attr = true := by rwa [toLanding, he, Bool.not_false, Bool.and_true] at hp
  have hw := sstTouched_wcbOk (g := g) (p := p) hok
  have ho := sstTouched_onlyStores (p := p) hx hok
  have hc := sstTouched_core (p := p) hx hok
  have hstored : NothingStored (sstTouched (rewritten s (coreOf s g)) g p) g (p.places 8) :=
    hap.stored.congr hc sstTouched_getCore (by rw [sstTouched_rest]; rfl)
  dsimp only
  rw [sst_runs he hb (by rw [hp]; exact hap), storeOne_landed hae hb hstored, hc]
  set w := sstTouched (rewritten s (coreOf s g)) g p with hwdef
  set e : Entry := { sstEntry w g p bytes with since := (rewritten s (coreOf s g)).cycle } with hedef
  have hd := drained_rewritten hw (coreOf s g) (coreOf s g)
  have hj := (ho.drained hd).joinLine hd.ok (attrScope p.attr) p.pa (va / 65536) true
    (put := fun l => { l with entries := l.entries ++ [e] }) (more := [e]) fun _ => rfl
  have hctx := ho.ctxOf hx rfl
  refine ⟨e.timeless, hj.past 4, fun q => ?_, ⟨⟨rfl, rfl⟩, rfl, ⟨ho.partOf hx rfl, congrArg Ctx.id hctx, congrArg Ctx.gen hctx,
    congrArg Ctx.table hctx⟩, ⟨rfl, hc, rfl, rfl⟩, rfl⟩, rfl⟩
  have hjok : WcbOk (joinLine (rewritten w (coreOf s g)) g (coreOf s g) (attrScope p.attr) p.pa (va / 65536) true
      fun l => { l with entries := l.entries ++ [e] }) :=
    joinLine_wcb hd.ok _ _ _ _ _ _ _ (fun _ => rfl) fun l _ hl hlok => ⟨hlok.1, hlok.2.1, fun hf => by
      rw [show l.ae = false from hf] at hl; cases hl⟩
  have hsame := seenByte_joinLine (o := none) (p := q) hd.ok ((hd.coreOf g).trans hc) hjok fun _ => rfl
  rw [← sstTouched_seen (p := p) hx hok q, ← hd.seen g hc q]
  exact (seenByte_modGroup hj.group rfl q).trans hsame

end

/-- What an sst that nothing holds leaves. -/
theorem sst_stores {s : State} {g : Nat} {x : Group} {p : Phys} (hx : kfind s.groups g = some x) (hok : WcbOk s) {va : Nat} {bytes : List Byte}
    (he : inEndpoints p.pa = false) (hb : bytes.length = 8) (ha : p.pa % 8 = 0)
    (hap : Apart s g (if toLanding p then [] else p.places 8) (if toLanding p then p.places 8 else [])) :
    let t := storeElems s g false false [(va, p, bytes)]
    ∃ new, OnlyStores s t g (Past s ((x.widen (attrScope p.attr)).fixed (p.places 8)) 4) new ∧
      (toLanding p = false → new = [] ∧ ∀ q, seenByte t g q = lastWrite ((p.places 8).zip bytes) (seenByte s g) q) ∧
      (toLanding p = true → (∀ q, seenByte t g q = seenByte s g q) ∧ ∃ n, new = [n] ∧ IsEntry s g p 8 17 n ∧ n.bytes = bytes) := by
  cases hp : toLanding p with
  | false =>
    rw [hp] at hap
    obtain ⟨ho, hseen⟩ := sst_plain hx hok he hb ha hp hap (va := va)
    exact ⟨[], ho, fun _ => ⟨rfl, hseen⟩, nofun⟩
  | true =>
    rw [hp] at hap
    obtain ⟨n, ho, hseen, hn, hbytes⟩ := sst_landed hx hok he hb hp hap (va := va)
    exact ⟨[n], ho, nofun, fun _ => ⟨hseen, n, rfl, hn, hbytes⟩⟩

end Sys2Proof.Machine
end

section
/-! The statement about sld, sst and pref. -/

namespace Sys2Proof

open Machine

section
variable {s : State} {g : Nat} {x : Group} (h : Issues s g x)
include h

theorem spaceOf_endChain : spaceOf (endChain s g) g = spaceOf s g := by
  have hblock : blockOf (endChain s g) g = blockOf s g := (endChain_onlyGroup h.2).blockOf h.2 rfl
  rw [spaceOf, spaceOf, hblock]
  rfl

variable (d a b : BitVec 6) (i : Bool)

/-- The checks that sld and sst share. -/
theorem access_checks (c : (BitVec 6 → BitVec 6 → BitVec 6 → Bool → Instr) × Access) (hc : c ∈ [(Instr.sld, Access.read), (Instr.sst, Access.write)]) :
    let va := accessAddr x a b i
    (vectorOf s g ≠ 0 → va.toNat % 8 ≠ 0 → Traps (c.1 d a b i) s g x 2 va 0 0) ∧
      (vectorOf s g ≠ 0 → va.toNat % 8 = 0 → 2 ^ 56 ≤ va.toNat → Traps (c.1 d a b i) s g x 5 va 0 0) ∧
      (va.toNat % 8 = 0 → va.toNat < 2 ^ 56 → ∀ s1 x1 num code,
        translate (endChain s g) (spaceOf s g) va.toNat c.2 8 = (s1, .error (num, code)) → kfind s1.groups g = some x1 →
          (num = 4 ∨ (num = 5 ∧ code = 0)) ∧ (vectorOf s1 g ≠ 0 → TrapsFrom (c.1 d a b i) s s1 g x1 num code va 0 0)) := by
  obtain ⟨k, hk⟩ := exec_access h d a b i c hc
  refine ⟨fun hv ha => ?_, fun hv ha hb => ?_, fun ha hb s1 x1 num code ht hx1 => ?_⟩
  · exact traps_access h hv (by decide) (hk.trans (congrArg _ (uniformAccess_misaligned k ha)))
  · exact traps_access h hv (by decide) (hk.trans (congrArg _ (uniformAccess_beyond k ha hb)))
  · have hnum := translate_error ht
    rw [← spaceOf_endChain h] at ht
    exact ⟨hnum, fun hv => trapsFrom_access hx1 hv (by omega) (hk.trans (congrArg _ (uniformAccess_fault k ha hb ht)))⟩

section
variable (ha : (accessAddr x a b i).toNat % 8 = 0) (hb : (accessAddr x a b i).toNat < 2 ^ 56) {p : Phys}
include ha hb

/-- A located doubleword is read. -/
theorem exec_sld_located {s0 : State} (ht : translate (endChain s g) (spaceOf s g) (accessAddr x a b i).toNat .read 8 = (s0, .ok p)) :
    exec (.sld d a b i) s = .next (sldAt g (accessAddr x a b i) d s0 p) := by
  rw [← spaceOf_endChain h] at ht
  rw [exec_sld h, uniformAccess_located _ ha hb ht]

/-- A located doubleword is written. -/
theorem exec_sst_located {s1 : State} (ht : translate (endChain s g) (spaceOf s g) (accessAddr x a b i).toNat .write 8 = (s1, .ok p)) :
    exec (.sst d a b i) s = .next (sstAt g (accessAddr x a b i) d.toNat s1 p) := by
  rw [← spaceOf_endChain h] at ht
  rw [exec_sst h, uniformAccess_located _ ha hb ht]

end

end

/-- Settles O28: the checks, then the load's result in flight or the store's place in the buffer. -/
theorem uniformAccess : Obligations.UniformAccess := by
  intro d a b i s g x h va
  refine ⟨fun c hc => access_checks h d a b i c hc, fun ha hb p => ⟨?_, ?_⟩, fun a xr sz hr => ?_⟩
  · intro s0 s1 x1 ht hm hx1
    have hrun := exec_sld_located h d a b i ha hb ht
    refine ⟨fun hpoison hv => ?_, fun hans hclean s2 x2 h2 hx2 => ?_⟩
    · exact trapsFrom_access hx1 hv (by decide) (hrun.trans (congrArg _ (sldAt_poisoned hm hpoison)))
    rw [sldAt_answered hm hans hclean h2] at hrun
    refine ⟨fun hbehind => ?_, fun hbehind => ?_⟩
    · exact ⟨_, hrun.trans (congrArg Host.Outcome.next (if_pos hbehind)), waitHere_onlyGroup hx2⟩
    · obtain ⟨y, sent, f, ho, hrest⟩ := sldReads_leaves (d := d) (p := p) hx2
      exact ⟨_, y, sent, f, hrun.trans (congrArg Host.Outcome.next (if_neg (ne_true_of_eq_false hbehind))), ho, hrest⟩
  · intro s1 x1 ht hx1 he ha8
    have hrun := exec_sst_located h d a b i ha hb ht
    rw [sstAt, getGroup_of hx1] at hrun
    have hlen := leBytes_length 8 (x1.sreg d.toNat).toNat
    refine ⟨fun s2 x2 h2 hx2 hbehind => ?_, fun hok hap => ?_⟩
    · rw [storeElems_one he hlen h2] at hrun
      exact ⟨_, hrun.trans (congrArg Host.Outcome.next (if_pos hbehind)), waitHere_onlyGroup hx2⟩
    · obtain ⟨new, ho, hplain, hlanded⟩ := sst_stores hx1 hok (va := va.toNat) he hlen ha8 hap
      rw [← leBytes_dword]
      exact ⟨_, _, new, hrun, ho, (x1.widen (attrScope p.attr)).fixed_sameFlights _, rfl, hplain, hlanded⟩
  · have hrun : exec (.pref a xr sz) s = .next (advance (endChain s g) g 4) := memInstr_declared h hr fun g s => advance s g 4
    exact ⟨_, hrun, (endChain_onlyGroup h.2).past 4⟩

end Sys2Proof
end
